-- ==== Sys2Proof/Word.lean ====
section
/-! DEFINITION. The machine's word types: bytes, 16-, 32- and 64-bit words, and the plainest helpers over them. -/

namespace Sys2Proof

/-- One byte of local memory. -/
abbrev Byte := BitVec 8
/-- A 16-bit field: a tag, a format code, an error code. -/
abbrev Half := BitVec 16
/-- One register of the register window, one word of a tile register. -/
abbrev Word := BitVec 32
/-- A control-core register, a PARAM register, a counter. -/
abbrev DWord := BitVec 64

end Sys2Proof
end

