-- ==== Sys2Proof/Syntax/Types.lean ====
section
/-! DEFINITION. The operands of the commands: tile registers as captured, engine operations, local-program
instructions, macro-commands, flits and the readings that the world outside the core supplies with an event. The binary
encodings of macro-commands, local instructions and engine commands are private (R211), so these carry the decoded
content (log entry 3). -/

namespace Sys2Proof

/-- The threads and contexts of the control core (R203, R227). -/
inductive Ctx where
  | acc
  | e0
  | e1
  deriving DecidableEq, Repr

/-- The two threads that dispatch macro-commands (R217). -/
inductive Thread where
  | acc
  | exe
  deriving DecidableEq, Repr

/-- The thread a context belongs to. -/
def Ctx.thread : Ctx → Thread
  | .acc => .acc
  | .e0 => .exe
  | .e1 => .exe

/-- The straps (R3). -/
structure Straps where
  coreInst : Byte
  feedDomain : Byte
  leader : Bool
  portGen : Bool
  tier : Bool
  deriving DecidableEq, Repr, Inhabited

/-- What memory BIST found (R461, R462): whether a memory tier answered its presence probe, and whether a fault
remains that repair cannot cover. -/
structure BistResult where
  tierAnswers : Bool
  unrepairable : Bool
  deriving DecidableEq, Repr

/-- A value operand: an immediate plus optionally an X register and a PARAM register (R295). Capture at enqueue folds
both into `imm` (R211); a PARAM index above 63 stays and is rejected at issue (R249). -/
structure Opd where
  imm : DWord
  x : Option (BitVec 5) := none
  p : Option (BitVec 8) := none
  deriving DecidableEq, Repr

/-- The content of a tile register (R236); `resv` says that one of words 9–15 is not zero. -/
structure Tile where
  base : Word
  extent : Word
  rows : Word
  cols : Word
  stride : Word
  format : Word
  scaleBase : Word
  zpBase : Word
  csBase : Word
  resv : Bool
  deriving DecidableEq, Repr

/-- The tile register of all zeros. -/
def Tile.zero : Tile := ⟨0, 0, 0, 0, 0, 0, 0, 0, 0, false⟩

/-- A tile-register operand: its index, and its content once captured at enqueue (R211). -/
structure TRef where
  idx : BitVec 8
  t : Tile := Tile.zero
  deriving DecidableEq, Repr

/-- Targets of a fill (R66). -/
inductive Target where
  | joint
  | pairA
  | pairB
  deriving DecidableEq, Repr

/-- The parameters of a fill (R66). -/
structure FillOp where
  target : Target
  stat : TRef
  strm : TRef
  m : Opd
  k : Opd
  n : Opd
  c0 : Opd
  overwrite : Bool
  neg : Bool
  keep : Bool
  fanout : Bool
  tag : Option Half
  deriving DecidableEq, Repr

/-- The special functions (R155). -/
inductive Sfu where
  | exp2 | log2 | rcp | rsqrt | tanh | sigmoid | geluTanh | geluErf | silu | sin | cos
  deriving DecidableEq, Repr

/-- The functions with a derivative stage (R185). -/
inductive Deriv where
  | relu | sigmoid | tanh | geluTanh | geluErf | silu
  deriving DecidableEq, Repr

/-- A source of a vector operation (R148): a register, a broadcast FP32 value, or the column broadcast of R151: one element
of row 0 of a tile for each column of 32 lanes, from column `c0` on. -/
inductive VSrc where
  | reg (r : BitVec 5)
  | bcast (v : Opd)
  | cols (t : TRef) (c0 : Opd)
  deriving DecidableEq, Repr

/-- Vector operations (R147). -/
inductive VFun where
  | add | sub | mul | fma | neg | abs | max | min
  | eq | lt | le | isnf | sel
  | sfu (f : Sfu)
  deriving DecidableEq, Repr

/-- The packed 16-bit formats (R144). -/
inductive Packed where
  | bf16
  | fp16
  deriving DecidableEq, Repr

/-- A reduction attached to a vector operation or drain (R158); `late` selects the value after D6 at a drain. -/
structure RedAtt where
  kind : BitVec 3
  reg : BitVec 4
  init : Bool
  late : Bool
  deriving DecidableEq, Repr

structure VOp where
  f : VFun
  packed : Option Packed
  dst : BitVec 5
  a : VSrc
  b : VSrc
  c : VSrc
  reds : List RedAtt
  deriving DecidableEq, Repr

/-- A vector load or store (R148); `spec`, `layer`, `base` and `pitch` serve stores. -/
structure VMem where
  tile : TRef
  first : Opd
  reg : BitVec 5
  packed : Option Packed
  spec : Half
  layer : Opd
  base : Opd
  pitch : Opd
  deriving DecidableEq, Repr

/-- The activation of drain stage D4a (R152). -/
inductive Act where
  | relu
  | sfu (f : Sfu)
  deriving DecidableEq, Repr

/-- The keep scale of a dropout: one FP32 value (R200), or a value per column from row 0 of a tile (R151). -/
inductive Keep where
  | one (v : Word)
  | cols (t : TRef)
  deriving DecidableEq, Repr

/-- A drain (R151, R152). `drop` is the dropout's THRESH and keep scale, `group` names a packed group by its tag (R101). -/
structure DrainOp where
  stills : List Nat
  group : Option Half
  c0 : Opd
  cols : Opd
  accInt : Bool
  decA : Option (BitVec 10)
  decB : Option (BitVec 10)
  bias : Option TRef
  act : Option Act
  deriv : Option (Deriv × TRef)
  drop : Option (Word × Keep)
  resid : Option TRef
  reds : List RedAtt
  dst : TRef
  spec : Half
  aux : Option (TRef × Half)
  layer : Opd
  base : Opd
  pitch : Opd
  auxOff : Opd
  deriving DecidableEq, Repr

/-- The row-engine operations in the order of R163. -/
inductive RowKind where
  | lnFwd | rmsFwd | softmaxFwd | lnBwd | rmsBwd | softmaxBwd | merge | finalise
  deriving DecidableEq, Repr

/-- A row-engine operation (R163). `x` is the first input (x, y or O1), `y2` the second (dy or O2); `haveY` says that
SOFTMAX_BWD is supplied with y. `fac` is ε, α or β. -/
structure RowOp where
  kind : RowKind
  rows : Opd
  n : Opd
  x : TRef
  x2 : Option TRef
  haveY : Bool
  gamma : Option TRef
  beta : Option TRef
  dgamma : Option TRef
  dbeta : Option TRef
  stat : Option TRef
  stat2 : Option TRef
  statOut : Option TRef
  fac : Opd
  fac2 : Opd
  out : TRef
  spec : Half
  layer : Opd
  base : Opd
  pitch : Opd
  deriving DecidableEq, Repr

/-- The optimisers of APPLY (R324, R326). -/
inductive Optim where
  | adamw | adam | sgdm | trustLocal | trustSums | trustGiven
  deriving DecidableEq, Repr

/-- An APPLY (R323). Hyperparameters are FP32 values taken from PARAM bits [31:0] at enqueue. -/
structure ApplyOp where
  opt : Optim
  p : TRef
  pr : Option TRef
  m : Option TRef
  v : Option TRef
  g : TRef
  pOut : TRef
  prOut : Option TRef
  mOut : Option TRef
  vOut : Option TRef
  lr : Opd
  b1 : Opd
  b2 : Opd
  eps : Opd
  wd : Opd
  mu : Opd
  rho : Opd
  sumP : BitVec 4
  sumD : BitVec 4
  skipOnNf : Bool
  deriving DecidableEq, Repr

/-- Comparisons of PRED_COPY (R162). -/
inductive Cmp where
  | lt | le | gt | ge | eq | ne | unord
  deriving DecidableEq, Repr

/-- Where a sync word lies (R292). -/
inductive Form where
  | loc
  | peer
  | fabric
  deriving DecidableEq, Repr

/-- An engine operation (R248), as it waits in an engine command queue. `bank` of a DMA command holds the tile registers
of the access bank once captured at enqueue (R211, R235). -/
inductive EngOp where
  | fill (f : FillOp)
  | packed (fs : List (FillOp × Half))
  | pairing (split : Bool)
  | packFlush
  | klutLoad (t : BitVec 8) (addr : Opd)
  | dwMask (mask : Word) (row0 col0 : Opd) (table : Option TRef)
  | vsetlen (n : Opd) (x : BitVec 5)
  | vop (o : VOp)
  | vsplit (src d0 d1 d2 : BitVec 5)
  | vload (o : VMem)
  | vstore (o : VMem)
  | drain (o : DrainOp)
  | row (o : RowOp)
  | apply (o : ApplyOp)
  | record (sum : BitVec 4) (addr : Opd)
  | reduce (base count maxNorm : Opd) (pred : Option (BitVec 3))
  | endStep (slot : Option (BitVec 10))
  | bktAccount (b : BitVec 8) (n : Opd)
  | bktFlush (b : BitVec 8)
  | bktReset (b : BitVec 8)
  | mode (eval : Bool)
  | scaleCommit (slot : BitVec 10)
  | scaleSet (slot : BitVec 10) (dec : Bool) (v : Opd)
  | promotePred (slot : BitVec 10) (p : BitVec 3)
  | promoteClear (slot : BitVec 10)
  | flagClear (engine : Nat) (mask : BitVec 4)
  | flagRead (engine : Nat) (x : BitVec 5)
  | sumRead (i : BitVec 4) (x : BitVec 5)
  | sumIndexRead (i : BitVec 4) (x : BitVec 5)
  | sumClear (i : BitVec 4)
  | predCopy (i : BitVec 4) (c : Cmp) (v : Opd) (p : BitVec 3)
  | predSet (p : BitVec 3) (v : Opd)
  | genStep (v : Opd)
  | dma (ch : BitVec 6) (desc : Opd) (param : Option Opd) (bank : List Tile)
  | tqPush (tq : BitVec 4) (v : Opd)
  | addrPush (ch : BitVec 6) (a : Opd)
  | wait (addr target : Opd) (partner : Bool)
  | take (addr n : Opd) (partner : Bool)
  | signal (form : Form) (addr v : Opd) (hostsig : Option (BitVec 5))
  | dec (form : Form) (addr v : Opd)
  | arrive (b : BitVec 4)
  deriving DecidableEq, Repr

/-- Two-operand scalar operations (R228). -/
inductive Alu where
  | add | sub | mul | and | or | xor | sll | srl | sra | eq | ne | lt | ltu | le | leu
  deriving DecidableEq, Repr

/-- Scalar instructions (R228); `fin` ends the handler. -/
inductive ScalarOp where
  | alu (f : Alu) (d a : BitVec 5) (b : Opd)
  | param (d : BitVec 5) (p : BitVec 8)
  | iter (d : BitVec 5) (u : BitVec 2)
  | setCount (u : BitVec 2) (a : BitVec 5)
  | barGen (d : BitVec 5) (b : BitVec 4)
  | fin
  deriving DecidableEq, Repr

/-- Branch conditions (R228). -/
inductive BrCond where
  | zero (a : BitVec 5) (neg : Bool)
  | cmp (f : Alu) (a b : BitVec 5)
  | pred (p : BitVec 3) (neg : Bool)
  deriving DecidableEq, Repr

/-- A predicate selector (R221). -/
inductive PredSel where
  | always
  | pl (n : BitVec 3)
  | notPl (n : BitVec 3)
  deriving DecidableEq, Repr

/-- The kinds of macro-command (R212). A CONFIG word is an index, an immediate and optionally a PARAM (R213). -/
inductive MacroKind where
  | config (walk : Bool) (idx : BitVec 8) (words : List (Nat × Word × Option (BitVec 8)))
  | start (handler : Nat)
  | patch (ps : List (BitVec 8 × DWord))
  | replay (idx : BitVec 10)
  | barrier (b : BitVec 4)
  | latch
  | swap
  | powerHint (cls : Byte)
  | traceHint (mark : Word)
  deriving DecidableEq, Repr

/-- A decoded macro-command: tag, predicate selector, execute context and kind (R212); the context operand has two bits, of
which the core takes the values 0 and 1 (R249). -/
structure Macro where
  tag : Half
  pred : PredSel
  ctx : BitVec 2
  kind : MacroKind
  deriving DecidableEq, Repr

/-- A flit as a lane receives it (R382): link word, header, payload, parity bits, and what the payload's SEC-DED
check found (groups corrected, and whether one is uncorrectable). -/
structure Flit where
  link : BitVec 96
  hdr : BitVec 128
  pay : List Byte
  hpar : BitVec 4
  lpar : BitVec 3
  corr : Nat
  bad : Bool
  deriving DecidableEq, Repr

/-- Bytes of remote memory as a whole-step Flacon operation sees them: at group-table entry `gt` (8,192 stands for
fabric memory), from `addr` on; `ok` false is an error response, `poison` a poisoned one. -/
structure Span where
  gt : Nat
  addr : DWord
  data : List Byte
  ok : Bool
  poison : Bool
  deriving DecidableEq, Repr

/-- The remote memory a Flacon operation meets: the spans its reads return, and whether its writes are acknowledged. -/
structure Remote where
  spans : List Span
  deriving DecidableEq, Repr

end Sys2Proof
end

