-- ==== Sys2Proof/Syntax.lean ====
section
/-! DEFINITION. The commands of the block: one constructor per row of the opcode table, in the table's order. An operand
is what the world outside gives with the event; what the core already holds (the head of an engine queue, the packet the
controller has taken) is no operand (log entries 1 and 2). -/

namespace Sys2Proof

inductive Instr where
  /-- R405. Power-on reset asserts or deasserts; every part returns to its power-on state and the straps are sampled at deassertion. -/
  | poresetN (level : Bool) (straps : Straps)
  /-- R405. Core reset pin asserted; blocks return to reset values as each chapter states, keeping fence, straps, fuses, supplies and PLL. -/
  | coreResetN (level : Bool)
  /-- R26. The root synthesiser reports lock; MCLK switches to RCLK/32 and ACLK, VCLK and SCLK start. -/
  | synthLock
  /-- R462. No lock within 1 ms of PORESET_N deasserting; start-up fails and the core enters BOOT_FAILED. -/
  | pllLockTimeout
  /-- R417. The synthesiser loses lock in service; fast clocks stop, MCLK falls back to REFCLK and PLL_UNLOCK is logged. -/
  | pllUnlock
  /-- R408. Fuse words are loaded into the shadow and checked, fencing the core on CRC or FMT_VER failure. -/
  | startupFuseLoad
  /-- R461. Memory BIST and repair of the tiers and small arrays run, leaving every array at zero. -/
  | startupBist (r : BistResult)
  /-- R462. The memory tier identity and bond-continuity check runs, failing start-up or falling back to the near tier. -/
  | tierCheck (ok : Bool)
  /-- R461. Start-up ends; CORE_STATE becomes MGMT_READY, MBOX_STATUS.READY is set and IRQ_MGMT raised, fenced if the fuse says so. -/
  | mgmtReady
  /-- R28. A registered change of N takes effect at the next 40-RCLK boundary without stopping the stills. -/
  | aclkPointChange
  /-- R424. Every 1 µs the power controller evaluates the caps, updates n_budget and sets N to the lowest cap. -/
  | operatingPointEval (p pLeak : Nat)
  /-- R427. Every 1 ms the thermal sensors are read and n_therm, trip skipping and the gradient check are updated. -/
  | thermalSensorRead (temps : List Half)
  /-- R416. Every 1 ms the rail monitors measure the four rails and log SUPPLY_RANGE on an excursion. -/
  | railMonitorSample (core sram port vdda : Half)
  /-- R422. Every 10 minutes of operation the smallest canary margin raises AGE_OFFSET or lowers AGE_NMAX. -/
  | ageingMeasurement (margins : List Byte)
  /-- R430. A droop detector or DROOP_IN crosses a threshold and pulse skipping starts at that level. -/
  | droopDetect (det : Nat) (v : Half)
  /-- R430. DROOP_HOLD ACLK after the detectors clear, s falls by one at each window boundary. -/
  | droopHoldExpire (det : Nat) (v : Half)
  /-- R431. The SKIP_REQ input changes and the new minimum skip count is applied. -/
  | skipReqChange (v : BitVec 4)
  /-- R426. A change of PWR_BUDGET_TGL takes the new budget value. -/
  | pwrBudgetToggle (b : BitVec 12)
  /-- R433. The core waits at a barrier with no fill pending; Sillage engages with P_ref and starts filler. -/
  | sillageEngage (slices : Nat)
  /-- R434. After FILL_HOLD, each µs the filler level falls by FILL_SLOPE. -/
  | sillageLevelStep (slices : Nat)
  /-- R433. The barrier wait ends or a fill appears; Sillage disengages and the release ramp may begin. -/
  | sillageDisengage
  /-- R436. Each µs of the release ramp, L_r rises by FILL_SLOPE and sets the skip count. -/
  | releaseRampStep
  /-- R404. Every 1 µs an eight-word telemetry frame is sent; `slack` is the barrier slack, a time that the model does not
  count. -/
  | telemetryFrame (slack : Word)
  /-- R420. A write to VF_USER_p sets a point's user offset if it is in range and recomputes the VF table. -/
  | vfUserWrite (p : BitVec 4) (v : Word)
  /-- R423. A write to AGE_OFFSET or AGE_NMAX is accepted only in the permitted direction and range. -/
  | ageRegisterWrite (nmax : Bool) (v : Word)
  /-- R428. A write to PWR_MODE sets the power mode, applied at the next evaluation, and invalid values are ignored. -/
  | pwrModeWrite (v : Word)
  /-- R216. A macro-command is accepted from the broadcast port into the run-ahead queue; it is discarded if no entry is free, in host-stream mode or when fenced. -/
  | bcastCommandAccept (w : BitVec 256) (par : Byte)
  /-- R399. BC_OUT_CRGRAY advances and grants the leader a broadcast credit. -/
  | bcastCreditGrant
  /-- R215. The Atomiser takes a command-ring entry into run-ahead, forwarding it on a leader in gang service. -/
  | atomiserRingTake
  /-- R217. A thread dispatches its next run-ahead entry; the entry is skipped by predicate, and freed with its credit returned once both threads dispatch it. -/
  | macroDispatch (t : Thread)
  /-- R213. Writes selected words of a tile register or walk into the dispatching thread's bank, adding PARAM offsets. -/
  | config (t : Thread)
  /-- R212. Runs the local-program handler for an index on the thread, or on E1 with the context bit. -/
  | start (t : Thread)
  /-- R225. Writes up to three PARAM registers into the dispatching thread's bank. -/
  | patch (t : Thread)
  /-- R223. Dispatches a replay-table body from the replay store in place of the REPLAY. -/
  | replay (t : Thread)
  /-- R311. Both threads stop, every earlier engine command completes, the core arrives and resumes after release. -/
  | syncBarrier
  /-- R220. After both threads dispatch it and earlier predicate writes take effect, P0–P7 are copied to PL0–PL7. -/
  | syncLatch
  /-- R242. After the execute queues drain, the instruction-memory bank in service flips, or the SWAP is rejected with SWAP_NO_IMAGE. -/
  | syncSwap
  /-- R437. A HINT dispatched to the execute thread sets PWR_HINT to its class. -/
  | powerHint (src : Option (Ctx × Byte))
  /-- R212. A TRACE hint macro-command writes a TRACE record to Blotter. -/
  | traceHint (t : Thread)
  /-- R248. A thread writes a 32-bit TRACE mark to Blotter. -/
  | traceMark (c : Ctx) (mark : Word)
  /-- R228. The control core executes a scalar arithmetic, logic, compare or move instruction on X registers. -/
  | scalarInstruction (c : Ctx) (op : ScalarOp)
  /-- R228. A branch tests an X register or a live predicate and redirects the program counter. -/
  | branch (c : Ctx) (b : BrCond) (target : Word)
  /-- R229. A hardware loop is entered with a latched 32-bit count. -/
  | loop (c : Ctx) (u : BitVec 2) (count : Opd) (endPc : Word)
  /-- R219. Writes live predicates P0–P7 when the operation issues. -/
  | predSet (q : Nat)
  /-- R225. Writes a PARAM register of the issuing thread's bank. -/
  | paramSet (c : Ctx) (p : BitVec 8) (v : Opd)
  /-- R235. Writes a tile register of the issuing thread's bank. -/
  | tileSet (c : Ctx) (t : BitVec 8) (words : List (Nat × Word))
  /-- R231. A thread places an engine command in its queue, stalling while the queue is full; tile, walk and PARAM values are captured. -/
  | engineCommandEnqueue (c : Ctx) (q : Nat) (op : EngOp)
  /-- R204. E1 has waited STARVE SCLK and takes the next engine-command issue. -/
  | e1StarveIssue
  /-- R233. Reserves a tile-queue token position, stalling the access thread when the queue is full. -/
  | tqPush (tq : BitVec 4) (v : Opd) (q : Nat)
  /-- R233. A token becomes visible once every earlier command of its engine queue has completed. -/
  | tqTokenVisible (q : Nat)
  /-- R233. Removes the head visible token into an X register, stalling until one is visible. -/
  | tqPop (c : Ctx) (tq : BitVec 4) (x : BitVec 5)
  /-- R263. Appends a 64-bit address to a channel's address FIFO, stalling when the FIFO is full. -/
  | addrPush
  /-- R67. A fill issues, loads or keeps the stationary tile, and streams N columns into the accumulators. -/
  | fill (b : Bool)
  /-- R89. The fill's last slice write completes 24 ACLK after entry, releasing interlocks. -/
  | fillComplete (b : Bool)
  /-- R239. Enqueues one fill per index vector of a walk. -/
  | fillWalk (c : Ctx) (f : FillOp) (w : BitVec 6)
  /-- R100. The oldest pending thin request has waited PACK_HOLD SCLK and the pending set issues as a packed fill. -/
  | packHoldExpire
  /-- R100. Issues the pending thin set as a packed fill. -/
  | packFlush
  /-- R86. Sets JOINT or SPLIT mode after earlier fills write, invalidating every tile. -/
  | pairing
  /-- R44. Loads a KLUT4 table from local memory in execute-thread order. -/
  | klutLoad
  /-- R188. Sets the dW row mask, its origins and an optional block-mask table. -/
  | dwMask
  /-- R100. A write to STILL_ARRAY_CFG changes PACK_HOLD, PACK_EN or GATE_EN, and issues the pending set if packing is disabled. -/
  | stillArrayCfgWrite (v : Word)
  /-- R112. Writing CNT_CTRL.CLEAR sets every counter of the block to 0. -/
  | cntCtrlClear (off : BitVec 20)
  /-- R113. A read of a 64-bit counter's low word latches its high word. -/
  | counterLowRead (off : BitVec 20)
  /-- R121. Commits a scale slot in execute-thread order: history, policy and format watch. -/
  | scaleCommit
  /-- R122. Writing SLOT_CTRL.COMMIT commits the slot at once, unordered. -/
  | slotCommit (n : Byte)
  /-- R127. Writing SLOT_CTRL.CLEAR_COUNTS zeroes the slot counts and restarts the watch interval. -/
  | clearCounts (n : Byte)
  /-- R127. Writing SLOT_CTRL.RESET_HIST clears the history and MAX_CUR. -/
  | resetHist (n : Byte)
  /-- R125. Sets a slot's ENC or DEC in execute-thread order if the value is a positive normal. -/
  | scaleSet
  /-- R125. A register write of ENC or DEC is accepted only for a positive normal FP32 value. -/
  | scaleRegisterWrite (n : Byte) (dec : Bool) (v : Word)
  /-- R130. Clears a slot's promote bits in execute-thread order. -/
  | promoteClear
  /-- R131. Copies the OR of a slot's promote bits into a live predicate. -/
  | promotePred
  /-- R134. Clears masked sticky flags of an engine after earlier commands complete. -/
  | flagClear
  /-- R135. Returns an engine's flags to an X register after earlier commands complete. -/
  | flagRead
  /-- R145. Sets VLEN to min(n, 512) and returns it. -/
  | vsetlen
  /-- R148. A vector arithmetic, compare or select operation with up to two reductions. -/
  | vop
  /-- R105. Splits FP32 lanes into three packed BF16 parts. -/
  | vsplit
  /-- R148. Loads tile elements into a vector register. -/
  | vload
  /-- R148. Stores a vector register through a tile register with conversion. -/
  | vstore
  /-- R151. Issues a drain of an accumulator range through stages D1–D8. -/
  | drain
  /-- R152. Once the half's interlock releases, one 512-word beat is drained through the stages and stored. -/
  | drainBeat
  /-- R162. Returns a summary register's value after earlier reductions absorb. -/
  | sumRead
  /-- R162. Returns a summary register's ARGMAX index. -/
  | sumIndexRead
  /-- R161. Clears SUM[15] after earlier drains complete. -/
  | sumClear
  /-- R162. Sets a predicate from comparing a summary with a PARAM. -/
  | predCopy
  /-- R166. Layer-normalises rows and writes statistics. -/
  | lnFwd
  /-- R166. RMS-normalises rows and writes statistics. -/
  | rmsFwd
  /-- R167. Computes a row softmax and writes {m, l}. -/
  | softmaxFwd
  /-- R168. Layer-norm backward from the stored statistics. -/
  | lnBwd
  /-- R168. RMS-norm backward from the stored statistics. -/
  | rmsBwd
  /-- R168. Softmax backward. -/
  | softmaxBwd
  /-- R169. Merges two partial attention rows. -/
  | merge
  /-- R167. Normalises O by the stored l. -/
  | finalise
  /-- R201. Sets GEN_STEP in thread order. -/
  | genStep (q : Nat)
  /-- R324. Runs the optimiser step over a tensor range, or skips it on NONFINITE_GLOBAL. -/
  | updateApply
  /-- R329. Writes this core's step summary record. -/
  | updateRecord
  /-- R330. Reduces the step records to NONFINITE_GLOBAL, G, CLIP and K. -/
  | updateReduce
  /-- R332. Closes the step: step counter, loss scale, LIVE toggle and snapshot trigger. -/
  | updateEnd
  /-- R334. Adds bytes to a bucket and launches it on filling. -/
  | bucketAccount
  /-- R334. Launches a bucket unless it is already launched. -/
  | bucketFlush
  /-- R334. Zeroes FILLED and LAUNCHED. -/
  | bucketReset
  /-- R338. Sets EVAL or TRAIN mode once earlier commands complete. -/
  | mode
  /-- R247. Discards the access thread's halted commands and resumes it. -/
  | ccSkipAcc
  /-- R247. Discards the execute thread's halted commands and resumes it. -/
  | ccSkipExe
  /-- R225. A register-port write of a PARAM takes effect when its high word is written. -/
  | paramRegisterWrite (exe : Bool) (p : BitVec 6) (hi : Bool) (v : Word)
  /-- R234. A write to TQ_STAT.CTX rebinds an empty tile queue, and is ignored otherwise. -/
  | tqBindWrite (tq : BitVec 3) (v : Word)
  /-- R215. Clearing ATOM_STATUS.RING_ERR rereads the ring header and restarts taking. -/
  | ringErrClear
  /-- R257. A DMA command issues: its descriptor is read and checked, and the transfer starts. -/
  | dma (ch : BitVec 4)
  /-- R268. The issue stage places requests when window, quota, translation and credits allow. -/
  | dmaRequestPlace (ch : BitVec 4)
  /-- R272. A RESP slot arrives and its data is written or its write acknowledged at the echoed address, decrementing OUTSTANDING. -/
  | dmaResponse (lane : BitVec 3)
  /-- R269. A transfer completes, runs its version check and guard record, and fires its signal. -/
  | dmaComplete (ch : BitVec 4)
  /-- R274. A stream has had no response for the timeout period and ends TIMED_OUT. -/
  | dmaTimeout (stream : Nat)
  /-- R274. A timed-out entry is freed after a further timeout period, releasing window and quota. -/
  | streamQuarantineExpire (stream : Nat)
  /-- R279. A faulted chunk's outstanding requests reach 0 and the fault record is written and logged. -/
  | pageFault (stream : Nat)
  /-- R280. A fault waiting for ring space writes its record once space frees. -/
  | faultRecordWrite
  /-- R282. STREAM_CTRL RESUME restarts a faulted transfer at its next chunk. -/
  | streamResume (stream : BitVec 20)
  /-- R282. STREAM_CTRL ABORT ends a faulted transfer without its signal and halts its queue. -/
  | streamAbort (stream : BitVec 20)
  /-- R278. Invalidates every translation-cache entry. -/
  | atcInvAll
  /-- R392. A translation reply fills the cache or faults the waiting chunk. -/
  | xrespReceive (lane : BitVec 3)
  /-- R392. An unanswered XREQ ends the waiting transfers with TIMEOUT. -/
  | xreqTimeout (xid : BitVec 6)
  /-- R392. An invalidation removes cache entries and is answered by XDONE. -/
  | xinvReceive (lane : BitVec 3)
  /-- R256. The patrol scrubber reads and corrects one line per interval. -/
  | scrubRead
  /-- R386. An inbound read request to the window is served and answered with RESP. -/
  | rdReqReceive (lane : BitVec 3)
  /-- R386. An inbound remote write is written to local memory, updating its ledger. -/
  | rwrReceive (lane : BitVec 3)
  /-- R306. A signal packet arrives and is applied, or deferred until the ledger is complete. -/
  | sigxReceive (lane : BitVec 3)
  /-- R306. The ledger reaches the carried count; the signal is applied, the entry freed and the acknowledgement sent. -/
  | ledgerSignalApply (stream : Nat)
  /-- R307. An inbound entry idle for the timeout is freed without its signal and logged. -/
  | ledgerAbandoned (stream : Nat)
  /-- R391. An inbound SYNC operation is applied to a local word and answered. -/
  | syncFlitReceive (lane : BitVec 3)
  /-- R310. A BAR flit delivers release(GEN) to a barrier context. -/
  | barFlitReceive (lane : BitVec 3)
  /-- R296. Holds its queue head until a word's condition holds. -/
  | wait (q : Nat)
  /-- R296. Waits until a semaphore holds n, then subtracts n. -/
  | take (q : Nat)
  /-- R296. Applies ADD to a local, peer or fabric word, optionally setting a HOSTSIG bit. -/
  | signal (q : Nat)
  /-- R296. Applies DEC to a semaphore. -/
  | dec (q : Nat)
  /-- R311. Arrives at a barrier without waiting. -/
  | arrive (q : Nat)
  /-- R301. A write to a watched word causes re-reading and re-evaluation of the waits on it. -/
  | watchWake (n : Byte)
  /-- R302. A polling wait re-reads its word every 64 SCLK. -/
  | waitPoll (party : Nat)
  /-- R303. WATCH_ARM_CTL.GO arms a host watch, or sets FULL. -/
  | watchArm
  /-- R303. Writing WATCH_CTL_n.VALID cancels an armed watch. -/
  | watchCancel (n : Byte)
  /-- R401. A barrier-line arrival handshake phase completes. -/
  | barArriveAck (lvl : Bool)
  /-- R401. A release toggle on the barrier lines applies release(GEN). -/
  | barRelTgl (gen : Word)
  /-- R317. The deadlock condition has held for the window; the snapshot freezes and the event is logged. -/
  | deadlock
  /-- R317. DL_CTRL.REARM unfreezes the snapshot and re-arms the detector. -/
  | dlRearm
  /-- R318. A partner wait exceeds its timeout and is logged once. -/
  | partnerTimeout (party : Nat)
  /-- R342. Opcode begins a fence: dispatch stops and the queues are discarded. -/
  | fence
  /-- R342. Outstanding requests drain or time out, ACLK stops and the core is FENCED. -/
  | fenceComplete (timedOut : Bool)
  /-- R345. Returns a cause-1 fenced core to service in host-stream mode. -/
  | unfence
  /-- R348. Opcode starts a snapshot at once. -/
  | snapshotBegin
  /-- R351. Flacon reads one chunk, digests it and writes its replica or parity. -/
  | flaconChunkDrain (r : Remote)
  /-- R357. Flacon polls a member's publication word every POLL_US. -/
  | parityPubPoll (r : Remote) (timedOut : Bool)
  /-- R349. The drain ends; the done word advances and BUSY clears. -/
  | snapshotComplete
  /-- R364. Checks chunk digests and repairs mismatches. -/
  | restoreVerify (r : Remote)
  /-- R364. Rebuilds every chunk from the replica or parity. -/
  | restoreRebuild (r : Remote)
  /-- R364. Restores the core-state record into the registers. -/
  | restoreState (r : Remote)
  /-- R448. A restore ends and its completion reply is sent. -/
  | restoreComplete
  /-- R355. REG_WIN_CTRL.WRITE writes a registry entry if it passes the checks. -/
  | registryWrite
  /-- R377. REG_WIN_CTRL.READ loads an entry into REG_WIN. -/
  | registryRead
  /-- R366. GT_WIN_CTRL.WRITE writes a group-table entry or refuses it. -/
  | gtWrite
  /-- R377. GT_WIN_CTRL.READ loads an entry into GT_WIN. -/
  | gtRead
  /-- R373. CVU_CFG.EN rising sets VALUE to INIT in PLAIN mode. -/
  | cvuEnable (c : BitVec 4) (cfg : Word)
  /-- R371. The CVU absorbs 64 B for one context per VCLK. -/
  | cvuAbsorb (c : BitVec 4)
  /-- R393. A NAK causes the sender to replay from ACKSEQ + 1. -/
  | linkNakReceive (lane : BitVec 3) (ackSeq : Byte)
  /-- R393. With ACKSEQ still after 256 VCLK, the unacknowledged flits are resent. -/
  | linkAckTimeout (lane : BitVec 3)
  /-- R393. A lane receives a flit, checks it, and takes its ACK and credits. -/
  | linkFlitReceive (lane : BitVec 3) (f : Flit)
  /-- R397. PORT_CTRL.EN checks the lane split and FCLK, locks the RWL fields and starts training. -/
  | portEnable
  /-- R397. A lane is UP after 32 good flits each way; the initial credits are returned. -/
  | laneTrained (inbound : Bool) (lane : BitVec 3)
  /-- R397. A lane is not UP within 2^16 VCLK and goes DOWN. -/
  | laneTrainFailed (inbound : Bool) (lane : BitVec 3)
  /-- R395. Every 1 ms FCLK is measured and an out-of-range value is logged. -/
  | fclkMeasure (mhz : BitVec 12)
  /-- R409. The wrapper selects the one-bit bypass. -/
  | wsBypass
  /-- R409. Boundary cells drive and capture the ports. -/
  | wsExtest
  /-- R409. Boundary cells isolate the macro. -/
  | wsIntest
  /-- R410. Internal scan through the parallel port. -/
  | wsScan
  /-- R409. Runs the memory BIST. -/
  | wsMbist (r : BistResult)
  /-- R409. Shifts out the fuse words. -/
  | wsFuseRead
  /-- R409. Blows the addressed fuse bits unless FUSE_LOCK is set. -/
  | wsFuseProg (word : BitVec 7) (bits : Word)
  /-- R410. Performs one register-window access per UpdateWR unless debug is locked. -/
  | wsFuncAccess (dr : BitVec 53)
  /-- R450. Appends a word to the mailbox request buffer, or sets OVERRUN. -/
  | mboxReqWrite (v : Word)
  /-- R450. Hands the request buffer over as one packet. -/
  | mboxSubmit
  /-- R450. Empties the request buffer. -/
  | mboxDiscard
  /-- R450. Returns and removes the next reply word. -/
  | mboxRspRead
  /-- R452. The controller takes a fabric-mailbox request slot. -/
  | mringRequestTake
  /-- R452. MRING_CFG.EN rising reads the ring headers and starts service. -/
  | mringCfgWrite (v : Word)
  /-- R452. Clearing MRING_STATUS.ERR rereads the headers and resumes taking. -/
  | mringErrClear
  /-- R450. A held reply is placed once reply-queue or ring space frees. -/
  | mgmtReplyPlace
  /-- R453. Returns identity, capability and state words. -/
  | getInfo
  /-- R457. Opcode applies the CORE_RESET_N effects, keeping the fence. -/
  | reset
  /-- R455. Checks an image header and starts copying the image into the standby bank or patch area. -/
  | loadImage
  /-- R455. The copy ends and the CRC sets VALID or fails. -/
  | loadImageComplete
  /-- R458. Opcode flips the bank in service when the core is idle. -/
  | swapBank
  /-- R453. Returns fuse shadow words. -/
  | readFuse
  /-- R420. Writes the VF user offsets. -/
  | setVfOffsets
  /-- R453. Returns temperatures, rails and power status. All of it is held in State, so the operand is empty. -/
  | readSensors (p : Unit)
  /-- R428. Writes PWR_MODE. -/
  | setPowerMode
  /-- R458. Configures the ring and enters host-stream mode. -/
  | hoststreamStart
  /-- R458. Ends host-stream mode and joins the gang. -/
  | hoststreamStop
  /-- R463. Configures a breakpoint unit. -/
  | debugBreakSet
  /-- R459. Reads a debug space. -/
  | debugRead
  /-- R459. Writes a debug space. -/
  | debugWrite
  /-- R453. Starts BIST on the selected arrays. -/
  | bistRun
  /-- R453. BIST ends and its fault counts are reported. -/
  | bistRunComplete (results : List (Word × Word × Word))
  /-- R453. Writes group-table entries. -/
  | groupTableWrite
  /-- R453. Removes the oldest error-log entries. -/
  | clearErrors
  /-- R453. Returns the ageing history. -/
  | ageingReport
  /-- R460. Blows DEBUG_LOCK and closes debug access. -/
  | lockDebug (readback : Bool)
  /-- R464. Restarts the stopped access thread. -/
  | dbgResumeAcc
  /-- R464. Restarts the stopped execute thread. -/
  | dbgResumeExe
  /-- R466. Empties the Blotter. -/
  | blotClear
  /-- R468. Removes the oldest error-log entry. -/
  | errlogPop
  /-- R468. Removes every error-log entry. -/
  | errlogClear
  /-- R17. A register write with no behaviour of its own follows its access code. -/
  | registerWrite (off : BitVec 20) (v : Word)
  /-- R165. A row-engine operation writes its last row, its last statistics entry and dγ/dβ update, clears ROW_STATUS.BUSY and releases the R150 extent interlocks and completion waits behind it. -/
  | rowOperationComplete
  /-- R328. An UPDATE APPLY writes its last destination element, freeing the R150 interlocks and the waits of END, MODE and SYNC BARRIER that stand behind it. -/
  | updateApplyComplete
  deriving DecidableEq, Repr

end Sys2Proof
end

