-- ==== Sys2Proof/Decode.lean ====
section
/-! DEFINITION. The command a table word spells. The opcode table gives no row any bits: the block's commands are
events, and the encodings of macro-commands, local instructions and engine commands are private (R211), so no word
spells a command (log entry 3). -/

namespace Sys2Proof

/-- The command spelled by a word of `nbits` bits, numbered as the opcode table numbers them: none. -/
def decodeTableWord (_nbits _w : Nat) : Option Instr := none

end Sys2Proof
end

