-- ==== Sys2Proof/Config.lean ====
section
/-! DEFINITION. What one implementation fixes, and the values the spec leaves open. An opaque constant here has no
body: nothing proves a value of it, so a statement holds for every value (log entries 3, 4, 5, 6 and 7). -/

namespace Sys2Proof.Config

/-- The decoder of the private macro-command encoding: none is a macro-command that the core cannot decode
(COMMAND_INVALID). The encoding is private (R211). Log entry 3. -/
opaque decodeMacro : BitVec 256 → Option Macro
/-- The handler table of an image, a private encoding: the program counter of a handler index, given the bank's bytes
as a list of (offset, byte) cells, or none where the bank does not define the index. Log entry 3. -/
opaque handlerEntry : List (Nat × Byte) → Nat → Option Word
/-- The program counter after a local-program instruction at a program counter (private encoding). Log entry 3. -/
opaque nextPc : Word → Word
/-- Special-function results (R155): fixed functions of the input bits (R157), not specified bit for bit but within their
maximum errors, which Special.lean holds them to. Log entry 4. -/
opaque sfu : Sfu → Word → Word
/-- Whether a special-function result differs from the exact value, for INEXACT (R149). Log entry 4. -/
opaque sfuInexact : Sfu → Word → Bool
/-- Derivative results (R185), fixed functions of the bits of z, not specified bit for bit. Log entry 4. -/
opaque deriv : Deriv → Word → Word
/-- Which of several lanes with credit a packet takes (R277: any lane that has credit), from a plain counter.
Log entry 5. -/
opaque laneChoice : Nat → Nat
/-- The result of a scalar shift by 64 or more, for which the spec states no result (R228). Log entry 6. -/
opaque shiftBeyond : Alu → DWord → DWord → DWord
/-- The ROM version of the management firmware, FW_VERSION[31:16] (R469 gives the reset value as ROM). Log entry 7. -/
opaque romVersion : Half
/-- The bytes that stand where a read of Flacon ended in an error, by a plain counter and a place: the spec gives the
chunk's digest and parity no other value (R352). Log entry 13. -/
opaque lostByte : Nat → Nat → Byte
/-- How many of the bytes of a generation-2 write packet, whose first source line is the even one of its block, belong to
that line, less one and before it is bounded by the packet's length: the packet names its first line and its length
only (R386). Arguments: a plain counter and the length. Log entry 5. -/
opaque ackSplit : Nat → Nat → Nat
/-- The SEC-DED check bits of 8 bytes of payload: the spec gives their number and not their code (R382). Log entry 75. -/
opaque secded : BitVec 64 → Byte
/-- Whether 2^20 VCLK have passed since a lane's last FLIT_INVALID entry (R389), by a plain counter. Log entry 75. -/
opaque flitWindow : Nat → Bool
/-- The voltage of an operating point above N = 22, which R426 names when N is 22 and the table does not hold. Log entry 14. -/
opaque voltAbove : Nat
/-- The parity byte that a leader finds with a command of its ring (R400), by a plain counter and the command: the ring's
entries in memory hold none. Log entry 73. -/
opaque ringParity : Nat → BitVec 256 → Byte

/-- The fault counts that a BIST_RUN has reached when a FENCE or a core reset ends it (R446, R448): a time-dependent value,
by a plain counter and a place. Log entry 14. -/
opaque bistSoFar : Nat → Nat → Word
/-- The 64-bit result of WS_MBIST, whose format the spec does not give (R409), by a plain counter. Log entry 14. -/
opaque mbistResult : Nat → BitVec 64
/-- What the wrapper's bypass register captures, which the spec does not give (R409), by a plain counter. Log entry 14. -/
opaque bypassBit : Nat → Bool

end Sys2Proof.Config
end

