-- ==== Sys2Proof/Machine/Num.lean ====
section
/-! DEFINITION. Exact arithmetic on values ±(num/den)·2^exp, with NaN and the infinities beside them, and the
roundings of the spec: nearest even (R52), truncation (R78), stochastic (R53). Every rounding of the core is one of
these applied once to an exact value. -/

namespace Sys2Proof.Machine

/-- The finite value (−1)^neg · num/den · 2^exp; `den` is never 0. A zero keeps its sign. -/
structure Ex where
  neg : Bool
  num : Nat
  den : Nat
  exp : Int
  deriving DecidableEq, Repr

/-- A value of the core: a NaN (payloads are not kept, R59), an infinity, or a finite value. -/
inductive XVal where
  | nan
  | inf (neg : Bool)
  | fin (v : Ex)
  deriving DecidableEq, Repr

/-- The zero of a sign. -/
def Ex.zero (neg : Bool) : Ex := ⟨neg, 0, 1, 0⟩
/-- The signed integer multiple `i · 2^e`; an exact zero is +0. -/
def Ex.ofInt (i : Int) (e : Int) : Ex := ⟨decide (i < 0), i.natAbs, 1, e⟩
/-- The power of two 2^e. -/
def Ex.pow2 (e : Int) : Ex := ⟨false, 1, 1, e⟩

/-- The magnitude |x| / 2^q as a fraction. -/
def Ex.ratio (x : Ex) (q : Int) : Nat × Nat :=
  (x.num * 2 ^ (x.exp - q).toNat, x.den * 2 ^ (q - x.exp).toNat)

/-- floor(log2 |x|) of a nonzero x. -/
def Ex.log2 (x : Ex) : Int :=
  let k : Int := (Nat.log2 x.num : Int) - (Nat.log2 x.den : Int)
  if x.den * 2 ^ k.toNat ≤ x.num * 2 ^ (-k).toNat then k + x.exp else k - 1 + x.exp

/-- The roundings: nearest even, toward zero, away from zero, and stochastic with generator word `r` (R53). -/
inductive Rnd where
  | rne
  | trunc
  | up
  | sr (r : Word)
  deriving DecidableEq, Repr

/-- Round the fraction n/d to an integer. -/
def roundFrac (m : Rnd) (n d : Nat) : Nat :=
  let f := n / d
  let rem := n % d
  match m with
  | .rne => if 2 * rem > d ∨ (2 * rem = d ∧ f % 2 = 1) then f + 1 else f
  | .trunc => f
  | .up => if rem = 0 then f else f + 1
  | .sr r => if r.toNat < 2 ^ 32 * rem / d then f + 1 else f

/-- |x| rounded to a multiple of 2^q: the multiple, and whether |x| was that multiple. -/
def Ex.roundAt (m : Rnd) (x : Ex) (q : Int) : Nat × Bool :=
  let r := x.ratio q
  (roundFrac m r.1 r.2, decide (r.1 % r.2 = 0))

/-- Comparison of magnitudes, |x| < |y|. -/
def Ex.magLt (x y : Ex) : Bool :=
  let q := min x.exp y.exp
  decide (x.num * 2 ^ (x.exp - q).toNat * y.den < y.num * 2 ^ (y.exp - q).toNat * x.den)

/-- Numeric order of finite values (−0 equals +0). -/
def Ex.lt (x y : Ex) : Bool :=
  if x.num = 0 then (!y.neg && decide (y.num ≠ 0))
  else if x.neg then (if y.neg then (decide (y.num ≠ 0) && y.magLt x) else true) || decide (y.num = 0)
  else (!y.neg && x.magLt y)

/-- Numeric order of values; a NaN is below and above nothing. -/
def XVal.lt : XVal → XVal → Bool
  | .nan, _ => false
  | _, .nan => false
  | .inf n, .inf m => n && !m
  | .inf n, .fin _ => n
  | .fin _, .inf m => !m
  | .fin x, .fin y => x.lt y

def XVal.isNan : XVal → Bool
  | .nan => true
  | _ => false
def XVal.isInf : XVal → Bool
  | .inf _ => true
  | _ => false
/-- NaN or infinite. -/
def XVal.nonfinite (x : XVal) : Bool := x.isNan || x.isInf
def XVal.sign : XVal → Bool
  | .nan => false
  | .inf n => n
  | .fin v => v.neg
def XVal.isZero : XVal → Bool
  | .fin v => decide (v.num = 0)
  | _ => false
/-- Numeric equality (−0 equals +0, a NaN equals nothing). -/
def XVal.eqv (x y : XVal) : Bool := !x.isNan && !y.isNan && !(x.lt y) && !(y.lt x)

/-- The total order of maximum and minimum: −0 below +0 (R60). -/
def XVal.ltz (x y : XVal) : Bool :=
  x.lt y || (x.isZero && y.isZero && x.sign && !y.sign)

/-- Maximum under R60: the other operand when exactly one is NaN. -/
def XVal.max (x y : XVal) : XVal :=
  if x.isNan then y else if y.isNan then x else if x.ltz y then y else x
/-- Minimum under R60. -/
def XVal.min (x y : XVal) : XVal :=
  if x.isNan then y else if y.isNan then x else if y.ltz x then y else x

def Ex.negate (x : Ex) : Ex := { x with neg := !x.neg }
def XVal.negate : XVal → XVal
  | .nan => .nan
  | .inf n => .inf (!n)
  | .fin v => .fin v.negate
def XVal.abs : XVal → XVal
  | .nan => .nan
  | .inf _ => .inf false
  | .fin v => .fin { v with neg := false }

/-- Exact product of finite values. -/
def Ex.mul (x y : Ex) : Ex := ⟨x.neg != y.neg, x.num * y.num, x.den * y.den, x.exp + y.exp⟩
/-- Exact quotient of finite values, the divisor nonzero. -/
def Ex.div (x y : Ex) : Ex := ⟨x.neg != y.neg, x.num * y.den, x.den * y.num, x.exp - y.exp⟩
/-- Exact sum of finite values; an exact zero is −0 only when both terms are negative zeros (R61). -/
def Ex.add (x y : Ex) : Ex :=
  let q := Min.min x.exp y.exp
  let a : Int := (x.num * 2 ^ (x.exp - q).toNat * y.den : Nat)
  let b : Int := (y.num * 2 ^ (y.exp - q).toNat * x.den : Nat)
  let s := (if x.neg then -a else a) + (if y.neg then -b else b)
  if s = 0 then Ex.zero (x.neg && y.neg) else ⟨decide (s < 0), s.natAbs, x.den * y.den, q⟩

/-- Product with the IEEE rules for specials: 0·∞ is NaN. -/
def XVal.mul (x y : XVal) : XVal :=
  match x, y with
  | .nan, _ => .nan
  | _, .nan => .nan
  | .inf n, .inf m => .inf (n != m)
  | .inf n, .fin v => if v.num = 0 then .nan else .inf (n != v.neg)
  | .fin v, .inf n => if v.num = 0 then .nan else .inf (n != v.neg)
  | .fin v, .fin w => .fin (v.mul w)

/-- Sum with the IEEE rules for specials: (+∞) + (−∞) is NaN. -/
def XVal.add (x y : XVal) : XVal :=
  match x, y with
  | .nan, _ => .nan
  | _, .nan => .nan
  | .inf n, .inf m => if n = m then .inf n else .nan
  | .inf n, .fin _ => .inf n
  | .fin _, .inf n => .inf n
  | .fin v, .fin w => .fin (v.add w)

def XVal.sub (x y : XVal) : XVal := x.add y.negate

/-- Quotient with the IEEE rules for specials: 0/0 and ∞/∞ are NaN, x/0 is an infinity. -/
def XVal.div (x y : XVal) : XVal :=
  match x, y with
  | .nan, _ => .nan
  | _, .nan => .nan
  | .inf _, .inf _ => .nan
  | .inf n, .fin v => .inf (n != v.neg)
  | .fin v, .inf n => .fin (Ex.zero (v.neg != n))
  | .fin v, .fin w =>
    if w.num = 0 then (if v.num = 0 then .nan else .inf (v.neg != w.neg)) else .fin (v.div w)

/-- The integer square root of n, bit by bit from bit i − 1 down. -/
def isqrtGo (n : Nat) : Nat → Nat → Nat
  | 0, r => r
  | i + 1, r => isqrtGo n i (if (r + 2 ^ i) * (r + 2 ^ i) ≤ n then r + 2 ^ i else r)
/-- floor(√n). -/
def isqrt (n : Nat) : Nat := isqrtGo n (Nat.log2 n / 2 + 1) 0

/-- A square root carried to 64 bits with a sticky bit below them: any rounding to 62 bits or fewer of this value is
the rounding of the exact root. -/
def Ex.sqrtSticky (x : Ex) : Ex :=
  if x.num = 0 then x else
  let e := x.log2
  let h : Int := e / 2 - 63
  let r := x.ratio (2 * h)
  let n := r.1 / r.2
  let s := isqrt n
  let exact := decide (r.1 % r.2 = 0) && decide (s * s = n)
  ⟨false, 2 * s + (if exact then 0 else 1), 1, h - 1⟩

/-- √x under IEEE: the root of −0 is −0, of a negative value NaN. -/
def XVal.sqrt : XVal → XVal
  | .nan => .nan
  | .inf n => if n then .nan else .inf false
  | .fin v => if v.num = 0 then .fin v else if v.neg then .nan else .fin v.sqrtSticky

/-- The four sticky flags in the layout of NUMFLAGS: [3] INVALID, [2] INEXACT, [1] UNDERFLOW, [0] OVERFLOW (R141). -/
abbrev Flags := BitVec 4
def fOvf : Flags := 1
def fUnd : Flags := 2
def fInx : Flags := 4
def fInv : Flags := 8

/-- One finite magnitude rounded to p significant bits, the exponent range unbounded (R52). -/
def Ex.roundP (m : Rnd) (p : Nat) (x : Ex) : Ex × Bool :=
  if x.num = 0 then (x, true) else
  let q := x.log2 - ((p : Int) - 1)
  let r := x.roundAt m q
  (⟨x.neg, r.1, 1, q⟩, r.2)

/-- The largest finite FP32 magnitude. -/
def fp32Max : Ex := ⟨false, 2 ^ 24 - 1, 1, 104⟩
/-- The smallest normal FP32 magnitude, 2^−126. -/
def fp32Min : Ex := Ex.pow2 (-126)

/-- rne32 (R51, R55): to FP32 at its full significand, an overflow to infinity, a result below 2^−126 to a zero of its
sign. A vector-unit result beyond FP32 range is an infinity (DEDUCED, log entry 12). -/
def rne32 (x : XVal) : XVal × Flags :=
  match x with
  | .nan => (.nan, 0)
  | .inf n => (.inf n, 0)
  | .fin v =>
    if v.num = 0 then (.fin (Ex.zero v.neg), 0) else
    let r := v.roundP .rne 24
    if fp32Max.magLt r.1 then (.inf v.neg, fOvf ||| fInx)
    else if r.1.magLt fp32Min then (.fin (Ex.zero v.neg), fUnd ||| fInx)
    else (.fin r.1, if r.2 then 0 else fInx)

/-- rne64: IEEE binary64 to nearest even, subnormals kept, overflow to infinity (R159, R166). -/
def rne64 (x : XVal) : XVal :=
  match x with
  | .fin v =>
    if v.num = 0 then .fin (Ex.zero v.neg) else
    let q := Max.max v.log2 (-1022) - 52
    let r := v.roundAt .rne q
    if (⟨false, 2 ^ 53 - 1, 1, 971⟩ : Ex).magLt ⟨v.neg, r.1, 1, q⟩ then .inf v.neg
    else .fin ⟨v.neg, r.1, 1, q⟩
  | y => y

/-- The bits of a binary64 value that is representable. -/
def bits64 (x : XVal) : DWord :=
  match x with
  | .nan => 0x7FF8000000000000
  | .inf n => if n then 0xFFF0000000000000 else 0x7FF0000000000000
  | .fin v =>
    let s : Nat := if v.neg then 2 ^ 63 else 0
    if v.num = 0 then BitVec.ofNat 64 s else
    let e := v.log2
    if e < -1022 then BitVec.ofNat 64 (s + (v.roundAt .trunc (-1074)).1)
    else BitVec.ofNat 64 (s + (e + 1022).toNat * 2 ^ 52 + (v.roundAt .trunc (e - 52)).1)

/-- The value of a binary64 pattern. -/
def val64 (b : DWord) : XVal :=
  let neg := b.getLsbD 63
  let e := (b.extractLsb' 52 11).toNat
  let m := (b.extractLsb' 0 52).toNat
  if e = 2047 then (if m = 0 then .inf neg else .nan)
  else if e = 0 then .fin ⟨neg, m, 1, -1074⟩
  else .fin ⟨neg, 2 ^ 52 + m, 1, (e : Int) - 1075⟩

end Sys2Proof.Machine
end

