-- ==== Sys2Proof/Machine/Formats.lean ====
section
/-! DEFINITION. The fifteen number formats (R33–R36): decoding a code to its exact value, encoding a value, the
storage layout (R37), and the conversions with their flags and slot classes (R50–R58). -/

namespace Sys2Proof.Machine

/-- The layout of a floating-point or scale format (R34). -/
structure FpFmt where
  /-- significand bits, the hidden one included -/
  p : Nat
  /-- exponent field bits -/
  eb : Nat
  bias : Nat
  /-- the largest finite magnitude -/
  max : Ex
  hasInf : Bool
  /-- the canonical NaN code, when the format has one -/
  nan : Option Nat
  signed : Bool
  deriving DecidableEq, Repr

/-- R34's table by format code; the integer formats and UE8M0 are not of this shape. -/
def fpFmt (c : Nat) : Option FpFmt :=
  match c with
  | 0 => some ⟨24, 8, 127, ⟨false, 2 ^ 24 - 1, 1, 104⟩, true, some 0x7FC00000, true⟩
  | 1 => some ⟨8, 8, 127, ⟨false, 255, 1, 120⟩, true, some 0x7FC0, true⟩
  | 2 => some ⟨11, 5, 15, ⟨false, 2047, 1, 5⟩, true, some 0x7E00, true⟩
  | 3 => some ⟨4, 4, 7, ⟨false, 14, 1, 5⟩, false, some 0x7F, true⟩
  | 4 => some ⟨3, 5, 15, ⟨false, 7, 1, 13⟩, true, some 0x7E, true⟩
  | 5 => some ⟨3, 3, 3, ⟨false, 7, 1, 2⟩, false, none, true⟩
  | 6 => some ⟨4, 2, 1, ⟨false, 15, 1, -1⟩, false, none, true⟩
  | 7 => some ⟨2, 2, 1, ⟨false, 3, 1, 1⟩, false, none, true⟩
  | 13 => some ⟨4, 5, 15, ⟨false, 14, 1, 13⟩, false, some 0xFF, false⟩
  | _ => none

/-- Bits per element of a format code (R33). -/
def fmtWidth (c : Nat) : Nat :=
  match c with
  | 0 => 32 | 1 => 16 | 2 => 16 | 3 => 8 | 4 => 8 | 5 => 6 | 6 => 6 | 7 => 4 | 8 => 8 | 9 => 4 | 10 => 2
  | 11 => 32 | 12 => 8 | 13 => 8 | 14 => 4 | _ => 8

/-- The exponent of the smallest normal number. -/
def FpFmt.emin (f : FpFmt) : Int := 1 - (f.bias : Int)

/-- Whether a format code is one of the integer formats (R36). -/
def fmtInt (c : Nat) : Bool := c == 8 || c == 9 || c == 10 || c == 11

/-- The two's-complement value of an n-bit field. -/
def signedOf (n b : Nat) : Int := if b % 2 ^ n < 2 ^ (n - 1) then (b % 2 ^ n : Nat) else (b % 2 ^ n : Nat) - (2 ^ n : Nat)

/-- The exact value of code `b` of a floating-point format (R34, R35). -/
def FpFmt.decode (f : FpFmt) (b : Nat) : XVal :=
  let mb := f.p - 1
  let m := b % 2 ^ mb
  let e := b / 2 ^ mb % 2 ^ f.eb
  let neg := f.signed && b / 2 ^ (mb + f.eb) % 2 == 1
  if f.hasInf && e == 2 ^ f.eb - 1 then (if m = 0 then .inf neg else .nan)
  else if f.nan.isSome && e == 2 ^ f.eb - 1 && m == 2 ^ mb - 1 then .nan
  else if e = 0 then .fin ⟨neg, m, 1, f.emin - mb⟩
  else .fin ⟨neg, 2 ^ mb + m, 1, (e : Int) - f.bias - mb⟩

/-- The exact value of element code `b` in format `c`. -/
def decodeElem (c b : Nat) : XVal :=
  match fpFmt c with
  | some f => f.decode b
  | none =>
    if fmtInt c then .fin (Ex.ofInt (signedOf (fmtWidth c) b) 0)
    else if c = 12 then (if b % 256 = 255 then .nan else .fin (Ex.pow2 ((b % 256 : Nat) - 127)))
    else .fin (Ex.ofInt (b % 16 : Nat) 0)

/-- An FP32 subnormal becomes a zero of its sign (R55); the Bool says whether one was flushed. -/
def flushIn (c : Nat) (x : XVal) : XVal × Bool :=
  match x with
  | .fin v => if c = 0 && v.num ≠ 0 && v.magLt fp32Min then (.fin (Ex.zero v.neg), true) else (x, false)
  | _ => (x, false)

/-- The code of a finite value that the format represents. -/
def FpFmt.encode (f : FpFmt) (v : Ex) : Nat :=
  let mb := f.p - 1
  let s := if f.signed && v.neg then 2 ^ (mb + f.eb) else 0
  if v.num = 0 then s else
  let e := v.log2
  if e < f.emin then s + (v.roundAt .trunc (f.emin - mb)).1
  else s + (e + f.bias).toNat * 2 ^ mb + ((v.roundAt .trunc (e - mb)).1 - 2 ^ mb)

/-- The code of an infinity. -/
def FpFmt.infCode (f : FpFmt) (neg : Bool) : Nat :=
  (if neg then 2 ^ (f.p - 1 + f.eb) else 0) + (2 ^ f.eb - 1) * 2 ^ (f.p - 1)

/-- The FP32 bits of a value that FP32 represents (zero and specials included). -/
def bits32 (x : XVal) : Word :=
  match fpFmt 0 with
  | none => 0
  | some f =>
    match x with
    | .nan => 0x7FC00000
    | .inf n => BitVec.ofNat 32 (f.infCode n)
    | .fin v => BitVec.ofNat 32 (f.encode v)

/-- The exact value of FP32 bits, subnormals kept. -/
def val32 (w : Word) : XVal := decodeElem 0 w.toNat
/-- The value the vector unit takes from FP32 bits: subnormals flushed. -/
def in32 (w : Word) : XVal × Bool := flushIn 0 (val32 w)
/-- rne32 to bits (R51). -/
def rne32b (x : XVal) : Word × Flags := let r := rne32 x; (bits32 r.1, r.2)

/-- The class a conversion gives an element for its scale slot (R58). -/
inductive SlotClass where
  | none
  | overflowed
  | vanished
  deriving DecidableEq, Repr

/-- One converted element: its code, the flags it sets and its slot class. -/
structure Conv where
  code : Nat
  flags : Flags
  cls : SlotClass
  deriving DecidableEq, Repr

/-- The range of an integer format. -/
def intMax (c : Nat) : Nat := 2 ^ (fmtWidth c - 1) - 1

/-- The code of the range limit of an integer format, by sign. -/
def intLimit (c : Nat) (neg : Bool) : Nat := if neg then intMax c + 1 else intMax c

/-- Convert a finite nonzero value into an integer format: the range limit on overflow (R54). -/
def convInt (c : Nat) (m : Rnd) (v : Ex) : Conv :=
  let r := v.roundAt m 0
  let lim := intMax c + (if v.neg then 1 else 0)
  if lim < r.1 then ⟨intLimit c v.neg, fOvf ||| fInx, .overflowed⟩
  else if r.1 = 0 then ⟨0, fUnd ||| fInx, .vanished⟩
  else ⟨(if v.neg then 2 ^ fmtWidth c - r.1 else r.1), if r.2 then 0 else fInx, .none⟩

/-- The result of an element that overflows a floating-point destination (R54): `ieee` is OVF = 1, `block` says the
element lies in a block container. -/
def overflowCode (c : Nat) (f : FpFmt) (ieee block neg : Bool) : Nat :=
  if ieee && !block && f.hasInf then f.infCode neg
  else if ieee && !block && c == 3 then 0x7F
  else f.encode { f.max with neg := neg }

/-- Convert a finite nonzero value into a floating-point format (R50 step 4, R52–R55). -/
def convFp (c : Nat) (f : FpFmt) (ieee block : Bool) (m : Rnd) (v : Ex) : Conv :=
  let q0 := v.log2 - ((f.p : Int) - 1)
  let q := if c = 0 then q0 else Max.max q0 (f.emin - (f.p - 1 : Nat))
  let r := v.roundAt m q
  let y : Ex := ⟨v.neg, r.1, 1, q⟩
  if f.max.magLt y then ⟨overflowCode c f ieee block v.neg, fOvf ||| fInx, .overflowed⟩
  else if r.1 = 0 then ⟨f.encode y, fUnd ||| fInx, .vanished⟩
  else if c = 0 && y.magLt fp32Min then ⟨f.encode (Ex.zero v.neg), fUnd ||| fInx, .vanished⟩
  else if r.2 then ⟨f.encode y, 0, .none⟩
  else if y.magLt (Ex.pow2 f.emin) then ⟨f.encode y, fUnd ||| fInx, .none⟩
  else ⟨f.encode y, fInx, .none⟩

/-- Convert one exact value to bare format `c`, or to an element of a block (R50, R54, R55, R58). `fl` says that the
input was an FP32 subnormal flushed to zero. -/
def convElem (c : Nat) (ieee block : Bool) (m : Rnd) (fl : Bool) (x : XVal) : Conv :=
  match x, fpFmt c with
  | .nan, some f => (match f.nan with | some n => ⟨n, 0, .none⟩ | none => ⟨0, fInv, .none⟩)
  | .nan, none => ⟨0, fInv, .none⟩
  | .inf n, some f => if f.hasInf && !block then ⟨f.infCode n, 0, .none⟩
      else ⟨overflowCode c f ieee block n, fOvf ||| fInx, .overflowed⟩
  | .inf n, none => ⟨intLimit c n, fInv, .overflowed⟩
  | .fin v, some f =>
      if v.num = 0 then ⟨f.encode (Ex.zero v.neg), if fl then fUnd ||| fInx else 0, if fl then .vanished else .none⟩
      else convFp c f ieee block m v
  | .fin v, none =>
      if v.num = 0 then ⟨0, if fl then fUnd ||| fInx else 0, if fl then .vanished else .none⟩ else convInt c m v

/-- The largest finite magnitude of an element format (FMAX of R56, fmax of R123). -/
def fmaxOf (c : Nat) : Ex :=
  match fpFmt c with
  | some f => f.max
  | none => Ex.ofInt (intMax c : Nat) 0

/-- The largest magnitude in a list of finite values. -/
def maxMag : List Ex → Ex
  | [] => Ex.zero false
  | v :: t => let m := maxMag t; if m.magLt v then { v with neg := false } else m

/-- The KPS fine scale code for a block maximum `a` (R56): the smallest UE5M3 value not below a / fmax. -/
def kpsScale (c : Nat) (a : Ex) : Nat :=
  if a.num = 0 then 0 else
  let t := a.div (fmaxOf c)
  match fpFmt 13 with
  | none => 0
  | some f =>
    if f.max.magLt t then 0xFE
    else
      let q := Max.max (t.log2 - 3) (-17)
      let r := t.roundAt .up q
      f.encode ⟨false, r.1, 1, q⟩

/-- emax of an MX element format (R57). -/
def mxEmax (c : Nat) : Int :=
  match c with | 3 => 8 | 4 => 15 | 5 => 4 | 6 => 2 | 7 => 2 | _ => 0

/-- The MX block scale code for a block maximum `a` (R57). -/
def mxScale (c : Nat) (a : Ex) : Nat :=
  if a.num = 0 then 0 else (Max.max (-127) (Min.min 127 (a.log2 - mxEmax c)) + 127).toNat

/-- The value of a block scale code: container 1 is UE8M0, 2 is UE5M3. -/
def scaleVal (container code : Nat) : XVal := decodeElem (if container = 1 then 12 else 13) code

/-- Elements per block of a container (R38). -/
def blockSize (container : Nat) : Nat := if container = 1 then 32 else if container = 2 then 16 else 1

/-- The value of a container element from its code and its block's scale code (R38, R40). -/
def containerElem (container c scale code : Nat) : XVal :=
  if container = 0 then decodeElem c code
  else if scale = 0xFF then .nan
  else
    let s := scaleVal container scale
    let x := (decodeElem c code).mul s
    if container = 1 && c = 8 then x.mul (.fin (Ex.pow2 (-6))) else x

/-- Convert one element of a block with scale code `s` (R56, R57). -/
def convBlockElem (container c s : Nat) (m : Rnd) (fl : Bool) (y : XVal) : Conv :=
  match y, scaleVal container s with
  | .fin v, .fin sv =>
    if v.num = 0 then convElem c false true m fl y
    else
      let d := v.div sv
      let d := if container = 1 && c = 8 then d.mul (Ex.pow2 6) else d
      convElem c false true m fl (.fin d)
  | _, _ => ⟨0, 0, .none⟩

/-- Convert a whole block: its scale code and its elements, with the rounding of each. `fl` marks flushed FP32
subnormals. A block with a NaN or an infinity becomes a NaN block (R55). -/
def convBlock (container c : Nat) (els : List (XVal × Bool × Rnd)) : Nat × List Conv :=
  if els.any (fun e => e.1.nonfinite) then
    (0xFF, els.map fun e =>
      match e.1 with
      | .nan => ⟨0, fInv, .none⟩
      | .inf _ => ⟨0, fOvf, .overflowed⟩
      | .fin _ => if e.2.1 then ⟨0, fUnd ||| fInx, .vanished⟩ else ⟨0, 0, .none⟩)
  else
    let a := maxMag (els.filterMap fun e => match e.1 with | .fin v => some v | _ => none)
    let s := if container = 1 then mxScale c a else kpsScale c a
    (s, els.map fun e => convBlockElem container c s e.2.2 e.2.1 e.1)

/-- Bytes that `n` packed elements of format `c` occupy (R37). -/
def packedBytes (c n : Nat) : Nat := (fmtWidth c * n + 7) / 8

/-- Whether a run of `n` elements fills whole bytes, or whole 3-byte groups for 6-bit formats (R37). -/
def fillsWhole (c n : Nat) : Bool := if fmtWidth c = 6 then n % 4 == 0 else fmtWidth c * n % 8 == 0

/-- The bit offset of element `i` in a packed run: every layout of R37 packs in ascending bit order, the 6-bit groups
of 24 bits included. -/
def elemBit (c i : Nat) : Nat := fmtWidth c * i

/-- Whether format code `c` in `container` is a valid conversion destination (R48). -/
def specValid (dst container : Nat) : Bool :=
  match container with
  | 0 => decide (dst ≤ 10)
  | 1 => decide (3 ≤ dst ∧ dst ≤ 8)
  | 2 => decide (5 ≤ dst ∧ dst ≤ 7)
  | _ => false

/-- The fields of a 16-bit conversion specifier (R47). -/
def specFmt (w : Half) : Nat := (w.extractLsb' 11 5).toNat
def specContainer (w : Half) : Nat := (w.extractLsb' 9 2).toNat
def specStochastic (w : Half) : Bool := w.getLsbD 8
def specIeee (w : Half) : Bool := w.getLsbD 7
/-- A specifier is valid for a source format and container (R48). -/
def specOk (src srcCont : Nat) (w : Half) : Bool :=
  w.extractLsb' 0 7 == 0#7 &&
  ((src == 14 && specFmt w == 14 && srcCont == 0 && specContainer w == 0) ||
   (decide (src ≤ 11) && specValid (specFmt w) (specContainer w)))

end Sys2Proof.Machine
end

