-- ==== Sys2Proof/Machine/State.lean ====
section
/-! DEFINITION. The machine's state as plain data, and the machine at power-on. INVENTORY.md's heading State lists every
piece with the rule that names it and its reset value. -/

namespace Sys2Proof.Machine

/-- Why the machine stops with a fault: it never does, since every command of the table has an effect in every state. -/
inductive Fault where
  deriving DecidableEq, Repr

/-- Why a command has no meaning. -/
inductive Refusal where
  /-- Raised by an arm of Dispatch.lean for a command without a meaning. Safe: the run stops. -/
  | notModelled (mnemonic : String)
  deriving DecidableEq, Repr

/-- CORE_STATE.STATE (R443). -/
inductive CoreState where
  | powerOn | boot | mgmtReady | hostStream | gang | bootFailed
  deriving DecidableEq, Repr, Inhabited

/-- The fence states (R341). -/
inductive FenceState where
  | inService | fencing | fenced
  deriving DecidableEq, Repr, Inhabited

/-- Resets, clocks, straps, fuses and start-up. -/
structure Sys where
  /-- PORESET_N is asserted (low) -/
  poreset : Bool
  /-- CORE_RESET_N is asserted (low) -/
  coreReset : Bool
  straps : Straps
  /-- the synthesiser is locked (R26) -/
  lock : Bool
  /-- the state of every block but the management controller is not defined after a loss of lock (R417) -/
  lost : Bool
  /-- all core state is lost after WS_SCAN (R409) -/
  scanned : Bool
  core : CoreState
  bootStage : Nat
  bootCause : Half
  /-- the fuse bank (R407) and the shadow loaded from it -/
  fuses : Tab Word
  shadow : Tab Word
  /-- the fuse load failed its check and counts as a whole-core fence record (R408) -/
  fuseBad : Bool
  /-- stage 4 found a memory tier answering its probe (R461) -/
  tierAnswers : Bool
  fence : FenceState
  fenceCause : Nat
  deriving DecidableEq, Repr, Inhabited

/-- One Sillage engagement (R433–R436). -/
structure Sillage where
  pRef : Nat
  /-- the level L in percent of P_ref -/
  level : Nat
  /-- µs since engagement -/
  us : Nat
  /-- filler slices per 16-ACLK window now driven -/
  slices : Nat
  deriving DecidableEq, Repr

/-- The power controller (chapter 13). -/
structure Pwr where
  n : Nat
  /-- a change of N registered, not yet in effect (R28) -/
  nNext : Option Nat
  nBudget : Nat
  nTherm : Nat
  /-- the last value taken from PWR_BUDGET -/
  budget : Option Nat
  /-- level (0–3) each of the eight detectors and DROOP_IN (8) reported last, and the level each holds (R430) -/
  reported : Tab Nat
  held : Tab Nat
  /-- the droop skip count s -/
  droop : Nat
  skipReq : Nat
  trip : Bool
  /-- the release ramp's level L_r, while it runs (R436) -/
  ramp : Option Nat
  sillage : Option Sillage
  /-- excursions in progress: SUPPLY_RANGE cases, gradient, BUDGET_UNMET (once per excursion) -/
  excSupply : BitVec 5
  excGradient : Bool
  excBudget : Bool
  /-- measurements of ageing, newest first, and minutes of operation (AGEING_REPORT) -/
  ageHist : List Word
  minutes : Nat
  /-- PWR_HINT pin -/
  hint : Byte
  /-- the telemetry frame last driven and its count (R404), and skip events since -/
  frame : List Word
  frames : Nat
  frameSkips : Nat
  /-- P, the power estimate of the last microsecond (R426) -/
  power : Nat
  /-- the mode and FIXED_N in force since the last evaluation (R428) -/
  mode : Nat
  fixedN : Nat
  /-- the voltage that each detector reads, and of DROOP_IN (8) its level (R430) -/
  readings : Tab (Option Half)
  deriving DecidableEq, Repr, Inhabited

/-- One error-log entry (R467). -/
structure ErrEntry where
  code : Half
  tag : Half
  unit : Nat
  index : Nat
  thread : Nat
  cond : Nat
  d0 : Word
  d1 : Word
  d2 : Word
  aclk : DWord
  seq : Word
  deriving DecidableEq, Repr

/-- One Blotter record (R465). -/
structure BlotRec where
  aclk : DWord
  type : Nat
  source : Nat
  tag : Half
  data : Word
  deriving DecidableEq, Repr

/-- Error log and Blotter, oldest first. -/
structure Logs where
  errs : List ErrEntry
  raised : Nat
  blot : List BlotRec
  deriving DecidableEq, Repr, Inhabited

/-- The two transports of command packets (R450, R451). -/
inductive Transport where
  | mailbox | ring
  deriving DecidableEq, Repr, Inhabited

/-- A command packet taken by the controller (R444). -/
structure Packet where
  src : Transport
  op : Nat
  ver : Nat
  seq : BitVec 12
  check : Bool
  irq : Bool
  pay : List Word
  deriving DecidableEq, Repr

/-- A reply, header fields and payload (R445). -/
structure Reply where
  dest : Transport
  op : Nat
  ver : Nat
  seq : BitVec 12
  status : Nat
  notice : Bool
  check : Bool
  /-- placing it sets INT_STATUS.MGMT -/
  irq : Bool
  pay : List Word
  deriving DecidableEq, Repr

/-- A deferred operation in progress (R448), by the packet that started it. -/
structure Deferred where
  pkt : Packet
  /-- LOAD_IMAGE: the target bank (2 for a patch), source and body length -/
  bank : Nat
  src : Nat
  bytes : Nat
  /-- LOAD_IMAGE: another requester wrote the bank during the copy (R455) -/
  disturbed : Bool
  /-- LOAD_IMAGE: BODY_CRC and PATCH_VER of the header read at acceptance (R455, R456) -/
  crc : Word
  patchVer : Half
  deriving DecidableEq, Repr

/-- The management controller (R442–R452). -/
structure Mgmt where
  /-- words written to MBOX_REQ -/
  req : List Word
  /-- a submitted packet not yet taken, and whether MBOX_STATUS.BUSY holds -/
  submitted : Option (List Word)
  busy : Bool
  overrun : Bool
  /-- the reply queue: words of each reply still to read -/
  replies : List (List Word)
  /-- replies not yet placed, oldest first -/
  out : List Reply
  /-- the packet whose opcode is to be performed -/
  cur : Option Packet
  deferred : Option Deferred
  ringErr : Bool
  /-- the ring headers were read and accepted -/
  ringOk : Bool
  patch : Tab Byte
  patchVer : Half
  /-- the gang join has been made since the last reset or UNFENCE (R458) -/
  joined : Bool
  /-- the transport a packet was last taken from (R449) -/
  last : Transport
  /-- the mode that begins at the next macro-command boundary (R243, R458) -/
  modeNext : Option CoreState
  deriving DecidableEq, Repr, Inhabited

/-- A macro-command in the run-ahead queue (R216): its decoding, its raw bits, whether its broadcast parity failed
(R400), and which threads have dispatched it. -/
structure RunEntry where
  raw : BitVec 256
  m : Option Macro
  parBad : Bool
  accDone : Bool
  exeDone : Bool
  deriving DecidableEq, Repr

/-- A replay body being dispatched by a thread (R223). -/
structure ReplayRun where
  idx : Nat
  off : Nat
  len : Nat
  pos : Nat
  deriving DecidableEq, Repr

/-- The dispatch stage of one thread. -/
structure Disp where
  /-- the macro-command being dispatched, and whether it came from a replay body -/
  cur : Option Macro
  inBody : Bool
  /-- a SYNC BARRIER that this dispatch stage waits at has been arrived for, with its context and generation -/
  arrived : Option (Nat × Word)
  replay : Option ReplayRun
  /-- stopped by a breakpoint (R463) -/
  stopped : Bool
  /-- stop before the next dispatch, at the handler's end (R463) -/
  stopNext : Bool
  /-- the next command is dispatched without matching (R464) -/
  skipBp : Bool
  /-- halted by a rejected macro-command (R246) -/
  halted : Bool
  deriving DecidableEq, Repr, Inhabited

/-- An idle dispatch stage. -/
def Disp.idle : Disp := ⟨none, false, none, none, false, false, false, false⟩

/-- A hardware loop in progress (R229). -/
structure LoopRec where
  unit : Nat
  count : Nat
  iter : Nat
  start : Word
  stop : Word
  deriving DecidableEq, Repr

/-- A FILL_WALK in progress: the template, the walk's words, the next index vector (innermost first). -/
structure WalkRun where
  f : FillOp
  w : Nat
  levels : List (Word × Word × Word)
  idx : List Nat
  deriving DecidableEq, Repr

/-- The control core's state of one thread or context (R227). -/
structure Ctxt where
  run : Bool
  tag : Half
  pc : Word
  x : Tab DWord
  loops : List LoopRec
  /-- the count registers of the loop units, and those written since their unit's last entry (R229) -/
  counts : Tab Word
  written : BitVec 4
  walk : Option WalkRun
  vlen : Nat
  /-- what its present instruction stalls on, as R315 numbers it (4 full tile queue, 5 empty tile queue, 6 full engine
  queue), and the queue -/
  stall : Option (Nat × Nat)
  deriving DecidableEq, Repr, Inhabited

/-- A context that has run nothing. -/
def Ctxt.idle : Ctxt := ⟨false, 0, 0, [], [], [], 0, none, 512, none⟩

/-- An engine command in its queue (R211). -/
structure EngCmd where
  op : EngOp
  tag : Half
  ctx : Ctx
  seq : Nat
  deriving DecidableEq, Repr

/-- How the wait at a queue head stands (R301, R302). -/
inductive WaitSt where
  | none
  | watched (n : Nat)
  | polling
  /-- a SYNC has been sent under a stream index, or its translation is awaited under an XID -/
  | sent (stream : Nat)
  | xlate (xid : Nat)
  deriving DecidableEq, Repr

/-- One engine command queue, the head first (R230). -/
structure Queue where
  items : List EngCmd
  halted : Bool
  wait : WaitSt
  deriving DecidableEq, Repr

/-- An empty queue. -/
def Queue.empty : Queue := ⟨[], false, .none⟩

/-- The control core, Atomiser, predicates and queues (chapter 07). -/
structure Cc where
  runahead : List RunEntry
  /-- the ring header has been read and accepted since taking began (R215) -/
  ringGo : Bool
  /-- the Atomiser has started: its RWL fields are locked (R458) -/
  atomStarted : Bool
  /-- the generator has been enabled since the last reset: GEN_SEED is locked (R210) -/
  seedLocked : Bool
  /-- BC_STATUS.OPEN, the leader's granted credits, credits this core has returned (BC_IN_CRGRAY steps), and those of
  them not yet used -/
  bcOpen : Bool
  granted : Nat
  returned : Nat
  credits : Nat
  /-- the command last driven on the broadcast port out, with its parity -/
  bcOut : Option (BitVec 256 × Byte)
  dispAcc : Disp
  dispExe : Disp
  acc : Ctxt
  e0 : Ctxt
  e1 : Ctxt
  /-- a rejection halted the thread (R245) -/
  haltAcc : Bool
  haltExe : Bool
  p : BitVec 8
  pl : BitVec 8
  queues : Tab Queue
  /-- tile queues: tokens with their command's sequence number and visibility, oldest first (R233) -/
  tqs : Tab (List (Nat × Bool × Word))
  /-- address FIFOs (R263) -/
  afifo : Tab (List DWord)
  /-- thin fills held by the packing stage, oldest first (R100) -/
  pack : List (FillOp × Half × Ctx × Nat)
  inService : Bool
  valid0 : Bool
  valid1 : Bool
  /-- E1 takes the next issue (R204) -/
  e1Next : Bool
  seq : Nat
  deriving DecidableEq, Repr, Inhabited

/-- A stationary tile in the latches of a target (R65, R73): the fields a KEEP must match, the exact operand rows
and the row mask latched with it (R188). -/
structure StatTile where
  rows : Word
  cols : Word
  fmt : Word
  m : Nat
  k : Nat
  mask : Word
  data : List (List XVal)
  deriving DecidableEq, Repr

/-- One packed group (R101): its request's tag, its still, its first accumulator row and its rows. -/
structure Group where
  tag : Half
  still : Nat
  row : Nat
  m : Nat
  deriving DecidableEq, Repr

/-- A fill issued and not yet complete (R22): the stills and halves it writes, and the groups that a packed fill's
completion token carries (R101). -/
structure FillRun where
  seq : Nat
  stills : List Nat
  halves : List Nat
  joint : Bool
  ctx : Ctx
  tag : Half
  groups : List Group
  deriving DecidableEq, Repr

/-- The stills (chapter 03). -/
structure StillArr where
  split : Bool
  /-- active and shadow tiles of the JOINT target or PAIR_A, and of PAIR_B -/
  actA : Option StatTile
  actB : Option StatTile
  shaA : Option StatTile
  shaB : Option StatTile
  /-- issued fills of FILL_A and FILL_B, oldest first -/
  runA : List FillRun
  runB : List FillRun
  /-- the packed-group directory (R101) -/
  groups : List Group
  mask : Word
  row0 : Nat
  col0 : Nat
  table : Option TRef
  /-- the completion token of the last fill to complete: its groups (R101) -/
  token : List Group
  /-- the order of enqueue of the last fill that left FILL_A and FILL_B (R85) -/
  lastA : Nat
  lastB : Nat
  deriving DecidableEq, Repr, Inhabited

/-- One scale slot (R115), the counts at the start of its watch interval beside it (R128). -/
structure Slot where
  cfg : Word
  held : Bool
  promVan : Bool
  promOvf : Bool
  ptr : Nat
  valid : Nat
  enc : Word
  dec : Word
  maxCur : Word
  ovfT : Word
  vanT : Word
  ovf : Nat
  van : Nat
  tot : Nat
  ovf0 : Nat
  van0 : Nat
  tot0 : Nat
  hist : Tab Word
  deriving DecidableEq, Repr

/-- A slot at reset (R140). -/
def Slot.reset : Slot :=
  ⟨0, false, false, false, 0, 0, 0x3F800000, 0x3F800000, 0, 0x1FFFFF, 0x1FFFFF, 0, 0, 0, 0, 0, 0, []⟩

/-- A summary register (R158, R171). -/
structure Sum where
  val : DWord
  idx : Word
  kind : BitVec 3
  empty : Bool
  cnt : Word
  deriving DecidableEq, Repr

/-- A summary register at reset (R171). -/
def Sum.reset : Sum := ⟨0, 0xFFFFFFFF, 0, false, 0⟩

/-- An element on its way into a tile: its stored place, the value its slot gathers, the exact value to round (after
ENC), whether an FP32 subnormal was flushed, and its rounding. -/
structure Elem where
  sr : Nat
  sc : Nat
  x : XVal
  y : XVal
  fl : Bool
  rnd : Rnd
  deriving DecidableEq, Repr

/-- A drain in progress, with the factors it read at issue (R120). -/
structure DrainRun where
  cmd : EngCmd
  op : DrainOp
  /-- beats still to run: still, first column, first accumulator row, rows, first destination row -/
  beats : List (Nat × Nat × Nat × Nat × Nat)
  gdec : Word
  enc : Word
  encAux : Word
  seed : DWord
  step : Word
  /-- elements of blocks that later beats complete (R151), of the store and of the auxiliary store -/
  held : List Elem
  heldAux : List Elem
  deriving DecidableEq, Repr

/-- The vector unit (chapter 05). -/
structure Vec where
  v : Tab Word
  sums : Tab Sum
  nonfinite : Bool
  drain : Option DrainRun
  deriving DecidableEq, Repr, Inhabited

/-- A row-engine operation in progress (R163): the first row not yet processed, what it read at issue, and the elements
of blocks that later rows complete. -/
structure RowRun where
  cmd : EngCmd
  op : RowOp
  next : Nat
  held : List Elem
  enc : Word
  seed : DWord
  step : Word
  deriving DecidableEq, Repr

/-- An APPLY in progress (R323): the first element not yet processed, the gradient factor, bias corrections and trust
ratio it formed at issue, and whether it skips (R331). -/
structure ApplyRun where
  cmd : EngCmd
  op : ApplyOp
  next : Nat
  k : Word
  c1 : Word
  c2 : Word
  rho : Word
  skip : Bool
  deriving DecidableEq, Repr

/-- A request in flight: the local address its response echoes, its interleave group, the run and the bytes of the
run it covers (source bytes of a read, destination bytes of a write), and what it is: 0 data, 1 a version word, 2 a
guard record. -/
structure Req where
  laddr : Nat
  group : Nat
  run : Nat
  off : Nat
  len : Nat
  what : Nat
  deriving DecidableEq, Repr

/-- A transfer of a DMA channel (R257–R269). -/
structure Xfer where
  cmd : EngCmd
  ch : Nat
  kind : Nat
  /-- the descriptor's 128 bytes as read at issue, one little-endian number -/
  desc : Nat
  src : Tile
  dst : Tile
  /-- the source and destination addresses of run 0 (R259) -/
  sAddr : Nat
  dAddr : Nat
  /-- scale factor and generator settings read at issue (R120, R201) -/
  enc : Word
  seed : DWord
  step : Word
  stream : Option Nat
  /-- the next request to place: its run, and the byte of the run it begins with -/
  run : Nat
  off : Nat
  /-- the remote address of the run being placed, taken from the address FIFO (R263) -/
  rAddr : Option DWord
  /-- the chunk whose translation is confirmed: its virtual and physical 4 KiB page (R279) -/
  chunk : Option (Nat × Nat)
  /-- the translation miss it waits on -/
  xwait : Option Nat
  outst : List Req
  /-- the straddle store (R474): run, element, source byte of the run, the byte and whether it is poisoned -/
  straddle : List (Nat × Nat × Nat × Byte × Bool)
  /-- destination bytes not yet absorbed by the CVU: ordinal, bits received, value -/
  cvuBuf : List (Nat × Nat × Nat)
  /-- destination bits done -/
  doneBits : Nat
  /-- version word before and after (R284) -/
  ver0 : Option DWord
  ver1 : Option DWord
  poisoned : Bool
  /-- POISON_RECEIVED has been logged for it (R286) -/
  poisonLogged : Bool
  /-- error response met: its status (R286) -/
  err : Option Nat
  timedOut : Bool
  /-- faulted (R279): whether permission was refused; and its record has been written -/
  fault : Option Bool
  recorded : Bool
  /-- the guard record (R374): 0 not yet, 1 its request placed, 2 done; 3 when the transfer is complete but for its
  signal; and the record received -/
  guard : Nat
  guardRec : List Byte
  /-- bytes absorbed by the CVU context -/
  absorbed : Nat
  deriving DecidableEq, Repr

/-- An open inbound ledger (R275, R306): sender endpoint and stream, the byte count carried, the bytes written, the
signal packet's operation, value and address once it has come, and the acknowledgement due. -/
structure Inbound where
  ep : Nat
  stream : Nat
  bytes : Nat
  ledger : Nat
  sig : Option (Nat × Word × Nat)
  ack : List (Nat × Nat)
  deriving DecidableEq, Repr

/-- A SYNC on a peer or fabric word (R391). `what`: 0 the SIGNAL or DEC at the head of queue q (arg the HOSTSIG bit, 32
for none), 1 an arrival
from queue q (27 for a SYNC BARRIER; arg is 16 times the generation plus the context), 2 the signal of a completed transfer of channel q. -/
structure SyncOp where
  what : Nat
  q : Nat
  arg : Nat
  cmd : Option EngCmd
  group : Nat
  timedOut : Bool
  /-- the tag of the SYNC BARRIER that the arrival belongs to -/
  tag : Half := 0
  deriving DecidableEq, Repr

/-- What a stream-table entry serves (R276). -/
inductive StreamUse where
  | free
  | xfer (ch : Nat)
  | inbound (i : Inbound)
  | sync (o : SyncOp)
  /-- Flacon's write packets (R360) -/
  | flacon
  deriving DecidableEq, Repr

/-- A translation-cache entry (R278): virtual page in 4 KiB units, size code, physical page, permissions, context. -/
structure AtcEnt where
  vpn : Nat
  size : Nat
  ppn : Nat
  rd : Bool
  wr : Bool
  ctxId : Half
  deriving DecidableEq, Repr

/-- An entry of the prefetch tracker (R287). -/
structure PfEnt where
  lo : Nat
  hi : Nat
  bytes : Nat
  used : Bool
  deriving DecidableEq, Repr

/-- The DMA block (chapter 08). -/
structure Dma where
  /-- transfers of each channel, oldest first -/
  xfers : Tab (List Xfer)
  streams : Tab StreamUse
  /-- requests in flight and their destination groups -/
  outstanding : Nat
  groups : Tab Nat
  atc : List AtcEnt
  /-- outstanding misses: XID and virtual page -/
  xids : List (Nat × Nat)
  /-- faulted streams whose record waits for ring space (R280) -/
  faults : List Nat
  pf : List PfEnt
  /-- scrubber (R256): next line of each tier, and whether the stacked tier takes the next grant -/
  scrubNear : Nat
  scrubStack : Nat
  scrubTurn : Bool
  deriving DecidableEq, Repr, Inhabited

/-- A watch-table entry (R301, R303). -/
structure Watch where
  owner : Nat
  party : Nat
  addr : Word
  target : Word
  sem : Bool
  hostsig : BitVec 5
  /-- the order in which the waits began (R297) -/
  since : Nat
  /-- a write has touched its ECC word since it was last evaluated -/
  dirty : Bool
  deriving DecidableEq, Repr

/-- A wait without a watch entry (R302). -/
structure Poll where
  party : Nat
  addr : Word
  target : Word
  sem : Bool
  since : Nat
  deriving DecidableEq, Repr

/-- The sync unit (chapter 09). -/
structure Sync where
  watch : Tab Watch
  polls : List Poll
  began : Nat
  /-- barrier contexts with an arrival outstanding, and the generation arrived for (R308) -/
  arrived : Tab (Option Word)
  /-- the translation miss that the arrival of a SYNC BARRIER waits on -/
  barWait : Option Nat
  /-- the barrier lines: REQ, GEN, ACK, and the arrivals waiting for ACK to fall, oldest first (R401) -/
  lineReq : Bool
  lineGen : Word
  lineAck : Bool
  lineNext : List Word
  /-- parties whose partner timeout has been logged for their present wait (R318) -/
  timedOut : List Nat
  deriving DecidableEq, Repr, Inhabited

/-- A write packet that Flacon has still to place (R360, R386): the chunk it belongs to, the memory it goes to (a group-table
entry, or 8192 for fabric memory) and the address there, the address of its first source byte, its bytes, and whether one of
them is poisoned. -/
structure FlWrite where
  chunk : Nat
  gt : Nat
  addr : Nat
  src : Nat
  bytes : List Byte
  poison : Bool
  deriving DecidableEq, Repr

/-- A snapshot in progress (R349): the entries still to drain, the current entry's next chunk, the records formed, and
whether any part is incomplete. -/
structure SnapRun where
  g : Word
  live : Bool
  step : DWord
  todo : List Nat
  chunk : Nat
  recs : List (DWord × Bool × Bool × Nat)
  entryBad : Bool
  bad : Bool
  /-- ranks of the current parity entry whose publication word has been seen, and those it was not seen of in time -/
  seen : List Nat
  late : List Nat
  byOp : Bool
  /-- the record of the chunk whose writes are not all acknowledged: digest, error, poison, length -/
  held : Option (DWord × Bool × Bool × Nat)
  /-- what of the entry's manifest has been written: 0 nothing, 1 its records, 2 its header too (R362) -/
  man : Nat
  deriving DecidableEq, Repr

/-- A restore in progress (R364). -/
structure RestRun where
  mode : Nat
  idx : Nat
  g : Word
  done : Bool
  checked : Nat
  repaired : Nat
  failed : Nat
  status : Nat
  code : Half
  /-- the repaired chunks went to remote memory: they count once their writes are acknowledged -/
  remote : Bool
  deriving DecidableEq, Repr

/-- Who holds a CVU context (R373). -/
inductive CvuHold where
  | free
  | xfer (ch seq : Nat)
  | flacon
  deriving DecidableEq, Repr

/-- Fencing, Flacon, the group table and the CVU (chapter 11). -/
structure Flacon where
  registry : Tab (BitVec 512)
  gt : Tab (BitVec 128)
  tol : Tab Word
  live : Bool
  snap : Option SnapRun
  rest : Option RestRun
  ends : Nat
  cvu : Tab CvuHold
  /-- write packets still to be placed; the requests in flight, `run` their chunk; their stream-table entry; the translation
  miss that the next packet waits on; whether the entry has timed out; and the chunks of which a write ended in error -/
  wr : List FlWrite
  wout : List Req
  wstream : Option Nat
  wxid : Option Nat
  wlate : Bool
  wbad : List Nat
  deriving DecidableEq, Repr, Inhabited

/-- A packet waiting for a lane: its class (0 write, 1 remote-outbound, 2 request/control), flits. -/
structure OutPkt where
  cls : Nat
  flits : List (BitVec 96 × BitVec 128 × List Byte)
  deriving DecidableEq, Repr

/-- A flit as a lane sends it (R382): link word, header, payload, the check bits HPAR, LPAR and SEC-DED (a byte for each 8 bytes
of payload), and how often it has been resent (R394). -/
structure SentFlit where
  link : BitVec 96
  hdr : BitVec 128
  pay : List Byte
  hpar : BitVec 4
  lpar : BitVec 3
  ecc : List Byte
  resent : Nat
  deriving DecidableEq, Repr

/-- An outbound lane (R388, R393). -/
structure OutLane where
  up : Bool
  down : Bool
  /-- credits held: request, response, remote-write, control/sync -/
  cr : Nat × Nat × Nat × Nat
  seq : Byte
  /-- unacknowledged flits, oldest first -/
  replay : List SentFlit
  /-- the link word of the IDLE flit it sent last -/
  idle : BitVec 96
  deriving DecidableEq, Repr

/-- An inbound lane: the SEQ expected, NAK state, received packets not yet consumed, credits due back (R388, R393). -/
structure InLane where
  up : Bool
  down : Bool
  expect : Byte
  dropping : Bool
  /-- NAKs sent since the last good flit, and one that the next link word of the paired lane will carry -/
  naks : Nat
  nak : Bool
  rx : List Flit
  /-- the last RWR received asked for a SIGX next (R387) -/
  cont : Bool
  /-- the RWR last consumed waits for its SIGX: sender, stream, byte count, acknowledgement slots -/
  held : Option (Nat × Nat × Nat × List (Nat × Nat))
  due : Nat × Nat × Nat × Nat
  logged : Bool
  deriving DecidableEq, Repr

/-- The fabric port (chapter 12). -/
structure Port where
  state : Nat
  fclk : Nat
  fclkOut : Bool
  outL : Tab OutLane
  inL : Tab InLane
  outQ : List OutPkt
  deriving DecidableEq, Repr, Inhabited

/-- A lane before training. -/
def OutLane.init : OutLane := ⟨false, false, (0, 0, 0, 0), 0, [], 0⟩
/-- A lane before training. -/
def InLane.init : InLane := ⟨false, false, 0, false, 0, false, [], false, none, (0, 0, 0, 0), false⟩

/-- What the wrapper's boundary cells do (R409): pass the macro's ports through, drive and capture them (EXTEST), or isolate
the macro, whose port stimuli come from the wrapper (INTEST). -/
inductive Cells where
  | through
  | drive
  | isolate
  deriving DecidableEq, Repr, Inhabited

/-- The IEEE 1500 wrapper (R409). -/
structure Wsp where
  wir : Byte
  /-- the boundary cells, and the one-bit bypass register -/
  cells : Cells
  bypass : Bool
  dr : BitVec 64
  /-- words shifted out by WS_FUSE_READ -/
  out : List Word
  deriving DecidableEq, Repr, Inhabited

/-- The whole machine. -/
structure State where
  sys : Sys
  pwr : Pwr
  logs : Logs
  mgmt : Mgmt
  /-- 32-bit registers of the register window by offset, those off their reset value; 64-bit registers and counters by
  the offset of their low word; high words latched by a low-word read (R113); low words held until their high word is
  written (R225, R373) -/
  regs : Tab Word
  ctrs : Tab DWord
  latch : Tab Word
  lowHeld : Tab Word
  /-- local memory, every space of R29 -/
  mem : Tab Byte
  /-- ECC words (by first address) that hold an uncorrectable, or a correctable, error (R253) -/
  eccBad : List Nat
  eccCorr : List Nat
  /-- accumulator words with bad parity (by address) and poisoned tiles (still, slice of 8 columns) (R94) -/
  parBad : List Nat
  poison : List (Nat × Nat)
  cc : Cc
  still : StillArr
  slots : Tab Slot
  vec : Vec
  /-- the row-engine operation and the APPLY in progress -/
  row : Option RowRun
  upd : Option ApplyRun
  dma : Dma
  sync : Sync
  flacon : Flacon
  port : Port
  wsp : Wsp
  /-- REG_RDATA of the register access port -/
  rdata : Word
  /-- the MODEL's own counter behind Config.laneChoice -/
  freeCtr : Nat
  /-- the commands that wait, first in, first out -/
  pending : List Instr
  deriving DecidableEq, Repr, Inhabited

def Sys.reset : Sys :=
  ⟨true, false, ⟨0, 0, false, false, false⟩, false, false, false, .powerOn, 0, 0, [], [], false, false, .inService, 0⟩
def Pwr.reset : Pwr :=
  ⟨7, none, 7, 22, none, [], [], 0, 0, false, none, none, 0, false, false, [], 0, 0, [], 0, 0, 0, 0, 20, []⟩
def Logs.reset : Logs := ⟨[], 0, []⟩
def Mgmt.reset : Mgmt :=
  ⟨[], none, false, false, [], [], none, none, false, false, [], 0, false, .ring, none⟩
def Cc.reset : Cc :=
  ⟨[], false, false, false, false, 0, 0, 0, none, Disp.idle, Disp.idle, Ctxt.idle, Ctxt.idle, Ctxt.idle, false, false, 0,
    0, [], [], [], [], false, false, false, false, 0⟩
def StillArr.reset : StillArr := ⟨false, none, none, none, none, [], [], [], 0xFFFFFFFF, 0, 0, none, [], 0, 0⟩
def Vec.reset : Vec := ⟨[], [], false, none⟩
def Dma.reset : Dma := ⟨[], [], 0, [], [], [], [], [], 0, 0, false⟩
def Sync.reset : Sync := ⟨[], [], 0, [], none, false, 0, false, [], []⟩
def Flacon.reset : Flacon := ⟨[], [], [], false, none, none, 0, [], [], [], none, none, false, []⟩
def Port.reset : Port := ⟨0, 0, false, [], [], []⟩
def Wsp.reset : Wsp := ⟨0, .through, false, 0, []⟩

/-- The machine at power-on, PORESET_N asserted: CORE_STATE 0 (R443), every register at its reset value, memory with
nothing listed, an unprogrammed fuse bank (log entries 8, 9 and 10). -/
def State.reset : State where
  sys := Sys.reset
  pwr := Pwr.reset
  logs := Logs.reset
  mgmt := Mgmt.reset
  regs := []
  ctrs := []
  latch := []
  lowHeld := []
  mem := []
  eccBad := []
  eccCorr := []
  parBad := []
  poison := []
  cc := Cc.reset
  still := StillArr.reset
  slots := []
  vec := Vec.reset
  row := none
  upd := none
  dma := Dma.reset
  sync := Sync.reset
  flacon := Flacon.reset
  port := Port.reset
  wsp := Wsp.reset
  rdata := 0
  freeCtr := 0
  pending := []

end Sys2Proof.Machine

namespace Sys2Proof.Config

/-- What stands in the blocks whose state is not defined after a loss of synthesiser lock (R417), or lost after a scan
(R409), by a plain counter. Log entry 15. -/
opaque lostState : Nat → Machine.State

end Sys2Proof.Config
end

