-- ==== Sys2Proof/Machine/Ops.lean ====
section
/-! DEFINITION. The named operations over the state that every family shares: bit fields, registers and counters, the
error log, the Blotter and interrupts, local memory with its ECC, fencing facts, and the clock guards. -/

namespace Sys2Proof.Machine

/-- The outcome of a step of this machine. -/
abbrev Out := Host.Outcome State Fault Refusal

/-! Bit fields -/

/-- Bits lo … lo + n − 1 of a word, as a number. -/
def fld (w : Word) (lo n : Nat) : Nat := w.toNat / 2 ^ lo % 2 ^ n
/-- The word with bits lo … lo + n − 1 replaced. -/
def setFld (w : Word) (lo n v : Nat) : Word :=
  BitVec.ofNat 32 (w.toNat - fld w lo n * 2 ^ lo + v % 2 ^ n * 2 ^ lo)
/-- Bits lo … lo + n − 1 of a double word. -/
def fld64 (w : DWord) (lo n : Nat) : Nat := w.toNat / 2 ^ lo % 2 ^ n
/-- A Bool as a bit. -/
def bit (b : Bool) : Nat := if b then 1 else 0
/-- A number as a word. -/
def w32 (n : Nat) : Word := BitVec.ofNat 32 n
def w64 (n : Nat) : DWord := BitVec.ofNat 64 n
/-- The low and the high word of a double word. -/
def lo32 (d : DWord) : Word := d.setWidth 32
def hi32 (d : DWord) : Word := (d >>> 32).setWidth 32
/-- Two words as a double word. -/
def mk64 (hi lo : Word) : DWord := hi ++ lo
/-- signed32 (R296). -/
def signed32 (w : Word) : Int := w.toInt

/-! Registers -/

/-- The reset value of the register at an offset (the Reset columns of the register tables); LANE_SPLIT takes that of
the sampled PORT_GEN (R289). -/
def regReset (portGen : Bool) (off : Nat) : Word :=
  match off with
  | 0x02000 => 0x00140000
  | 0x02008 => 0x0A000800
  | 0x02014 => 0x004B3219
  | 0x02018 => 256
  | 0x0201C => 0xC0460A02
  | 0x02020 => 0x00006E5F
  | 0x03084 => 0x00160000
  | 0x03088 => 4
  | 0x04004 => 7
  | 0x10000 => 1
  | 0x10020 => 4
  | 0x14000 => 0x04000000
  | 0x24000 => 0x01000003
  | 0x45000 => 0x07D01800
  | 0x45004 => 0x10
  | 0x45020 => 0x3F800000
  | 0x45024 => 0x3F800000
  | 0x50000 => 0x10001800
  | 0x50014 => 6
  | 0x50030 => 1
  | 0x50040 => 0x1000
  | 0x60000 => 30
  | 0x60008 => 0x10000
  | 0x80004 => 0x40040000
  | 0x90200 => 0x03FE
  | 0xA0008 => 8
  | 0xA0010 => if portGen then 0x00031121 else 0x00053332
  | 0xA0014 => 3
  | 0xA0018 => 12
  | n =>
    if 0x46000 ≤ n ∧ n < 0x46400 ∧ n % 16 = 0 then 32
    else if 0x70000 ≤ n ∧ n < 0x70400 ∧ n % 64 = 0 then 64
    else 0

/-- The stored value of a register. -/
def State.reg (s : State) (off : Nat) : Word := Tab.get (regReset s.sys.straps.portGen off) s.regs off
/-- Store a register. -/
def State.setReg (off : Nat) (v : Word) (s : State) : State :=
  { s with regs := Tab.set (regReset s.sys.straps.portGen off) s.regs off v }
/-- A field of a register. -/
def State.regFld (s : State) (off lo n : Nat) : Nat := fld (s.reg off) lo n
/-- Store a field of a register. -/
def State.setRegFld (off lo n v : Nat) (s : State) : State := s.setReg off (setFld (s.reg off) lo n v)
/-- One bit of a register. -/
def State.regBit (s : State) (off i : Nat) : Bool := (s.reg off).getLsbD i
/-- Set bits of a register. -/
def State.orReg (off : Nat) (m : Word) (s : State) : State := s.setReg off (s.reg off ||| m)
/-- Clear bits of a register. -/
def State.clrReg (off : Nat) (m : Word) (s : State) : State := s.setReg off (s.reg off &&& ~~~m)

/-! Counters -/

/-- A 64-bit register or counter by the offset of its low word. -/
def State.ctr (s : State) (off : Nat) : DWord := Tab.get 0 s.ctrs off
def State.setCtr (off : Nat) (v : DWord) (s : State) : State := { s with ctrs := Tab.set 0 s.ctrs off v }

/-- The counters of each block that has a CNT_CTRL, first offset, offset after the last, and its CNT_CTRL (R112, R171,
R210, R250, R288, R320, R339, R376, R377, R412, R440). -/
def cntBlocks : List (Nat × Nat × Nat) :=
  [(0x02100, 0x02148, 0x02060), (0x10100, 0x10168, 0x10060), (0x14010, 0x14028, 0x14060), (0x20010, 0x20050, 0x20060),
   (0x21010, 0x21050, 0x21060), (0x22010, 0x22050, 0x22060), (0x23010, 0x23050, 0x23060), (0x40010, 0x40038, 0x40060),
   (0x42010, 0x42030, 0x42060), (0x43010, 0x43018, 0x43060), (0x44010, 0x44038, 0x44060), (0x45030, 0x45058, 0x45060),
   (0x50200, 0x502B8, 0x50060), (0x60300, 0x60358, 0x60060), (0x70410, 0x70428, 0x70460), (0x80100, 0x80140, 0x80160),
   (0xA0100, 0xA0148, 0xA0060)]
/-- The CNT_CTRL register of a counter, for the blocks that have one. -/
def cntCtrlOf (off : Nat) : Option Nat :=
  (cntBlocks.find? fun b => decide (b.1 ≤ off ∧ off < b.2.1)).map fun b => b.2.2

/-- Whether a counter's block holds its counters frozen (CNT_CTRL.FREEZE). -/
def State.frozen (s : State) (off : Nat) : Bool :=
  match cntCtrlOf off with
  | some c => s.regBit c 0
  | none => false

/-- Advance a counter by n, unless its block is frozen. -/
def State.count (off n : Nat) (s : State) : State :=
  if s.frozen off then s else s.setCtr off (s.ctr off + BitVec.ofNat 64 n)

/-- CYCLE_ACLK (R469). -/
def State.aclk (s : State) : DWord := s.ctr 0x00010

/-- The bit that makes the parity of a 32-bit word even (R382, R398). -/
def parityOf (w : BitVec 32) : Bool := (List.range 32).foldl (fun b i => b != w.getLsbD i) false

/-! Blotter, interrupts, error log -/

/-- Write a Blotter record (R465, R466). -/
def State.blotter (type source : Nat) (tag : Half) (data : Word) (s : State) : State :=
  if s.regBit 0x90200 31 && s.regBit 0x90200 type then
    let r : BlotRec := ⟨s.aclk, type, source, tag, data⟩
    if s.logs.blot.length < 4096 then { s with logs := { s.logs with blot := s.logs.blot ++ [r] } }
    else if s.regBit 0x90200 30 then s.count 0x90220 1
    else { s with logs := { s.logs with blot := s.logs.blot.drop 1 ++ [r] } }
  else s

/-- Set bits of INT_STATUS: 1 ERR, 2 EVENT, 4 MGMT (R403). -/
def State.interrupt (m : Word) (s : State) : State := s.orReg 0x04000 m

/-- An error to log (R467): its code, raising unit, and the facts the raising rule lists. -/
structure Err where
  code : Half
  unit : Nat
  tag : Half := 0
  index : Nat := 0xFF
  thread : Nat := 15
  cond : Nat := 0
  d0 : Word := 0
  d1 : Word := 0
  d2 : Word := 0
  deriving DecidableEq, Repr

/-- The SOURCE of an ERROR record (R465): the thread, else the management controller or the sync unit. -/
def Err.source (e : Err) : Nat :=
  if e.thread < 3 then e.thread else if e.unit = 0 then 3 else if e.unit = 10 then 4 else 15

/-- Whether a code sets IRQ_EVENT rather than IRQ_ERR: PAGE_FAULT, DEADLOCK, PARTNER_TIMEOUT (R403). -/
def isEventCode (c : Half) : Bool := c == 0x1002 || c == 0x2002 || c == 0x2003

/-- Log an error (R467, R468): entered, or counted lost when 512 entries are held; INT_STATUS is set either way. -/
def State.raise (e : Err) (s : State) : State :=
  let n := s.logs.raised + 1
  let ent : ErrEntry := ⟨e.code, e.tag, e.unit, e.index, e.thread, e.cond, e.d0, e.d1, e.d2, s.aclk, w32 n⟩
  let s1 : State :=
    if s.logs.errs.length < 512 then { s with logs := { s.logs with errs := s.logs.errs ++ [ent], raised := n } }
    else State.count 0x04018 1 { s with logs := { s.logs with raised := n } }
  (s1.interrupt (if isEventCode e.code then 2 else 1)).blotter 3 e.source e.tag (e.code.setWidth 32)

/-- THREAD of an error-log entry. -/
def ctxNum : Ctx → Nat
  | .acc => 0
  | .e0 => 1
  | .e1 => 2

/-! Local memory -/

/-- The spaces of R29. -/
inductive Space where
  | near | stacked | acc (s : Nat) | stats | imem (b : Bool) | replay
  deriving DecidableEq, Repr

/-- Whether still s is fenced whole (R108, R408). -/
def State.cubeFence (s : State) (i : Nat) : Nat := fld (Tab.get 0 s.sys.shadow 81) (4 * i) 4
/-- The number of set bits among the low 4. -/
def popcount4 (n : Nat) : Nat := n % 2 + n / 2 % 2 + n / 4 % 2 + n / 8 % 2
def State.stillFenced (s : State) (i : Nat) : Bool :=
  fld (Tab.get 0 s.sys.shadow 81) (16 + i) 1 == 1 || decide (3 ≤ popcount4 (s.cubeFence i))
/-- M_EFF of a still (R108): 32, 24, 16, or 0 when fenced whole. -/
def State.mEff (s : State) (i : Nat) : Nat :=
  if s.stillFenced i then 0 else 32 - 8 * popcount4 (s.cubeFence i)
/-- The stills fenced whole. -/
def State.fencedStills (s : State) : List Nat := [0, 1, 2, 3].filter fun i => s.stillFenced i
/-- The usable stills. -/
def State.usable (s : State) : List Nat := [0, 1, 2, 3].filter fun i => !s.stillFenced i

/-- The space an address lies in; none is a hole (R29). The stacked tier is a hole when TIER_PRESENT is 0 (R4), a
fenced still's accumulators are one (R110). -/
def State.space (s : State) (a : Nat) : Option Space :=
  if a ≤ 0x00FFFFFF then some .near
  else if a ≤ 0x05FFFFFF then (if s.sys.straps.tier then some .stacked else none)
  else if 0x08000000 ≤ a ∧ a ≤ 0x081FFFFF then
    (if s.stillFenced ((a - 0x08000000) / 0x80000) then none else some (.acc ((a - 0x08000000) / 0x80000)))
  else if 0x09000000 ≤ a ∧ a ≤ 0x0903FFFF then some .stats
  else if 0x0A000000 ≤ a ∧ a ≤ 0x0A03FFFF then some (.imem false)
  else if 0x0A040000 ≤ a ∧ a ≤ 0x0A07FFFF then some (.imem true)
  else if 0x0B000000 ≤ a ∧ a ≤ 0x0B0FFFFF then some .replay
  else none

/-- The space that holds all of [a, a + n); none when the range touches a hole or crosses spaces (R31). -/
def State.spaceOf (s : State) (a n : Nat) : Option Space :=
  match s.space a, s.space (a + n - 1) with
  | some x, some y => if x = y then some x else none
  | _, _ => none

/-- The first address of the ECC word of an address: 32 bytes in the stacked tier, 8 elsewhere (R251). -/
def eccBase (a : Nat) : Nat := if 0x01000000 ≤ a ∧ a ≤ 0x05FFFFFF then a / 32 * 32 else a / 8 * 8
/-- The size of that ECC word. -/
def eccSize (a : Nat) : Nat := if 0x01000000 ≤ a ∧ a ≤ 0x05FFFFFF then 32 else 8

/-- What a byte nothing has written reads as: 0, as memory BIST leaves it (R461; log entry 9). -/
def memDefault : Byte := 0

/-- The stored byte at an address. -/
def State.byte (s : State) (a : Nat) : Byte := Tab.get memDefault s.mem a
/-- n stored bytes from an address. -/
def State.bytes (s : State) (a : Nat) : Nat → List Byte
  | 0 => []
  | n + 1 => s.byte a :: State.bytes s (a + 1) n
/-- Little-endian number of a list of bytes. -/
def leNat : List Byte → Nat
  | [] => 0
  | b :: t => b.toNat + 256 * leNat t
/-- n little-endian bytes of a number. -/
def leBytes : Nat → Nat → List Byte
  | 0, _ => []
  | n + 1, v => BitVec.ofNat 8 v :: leBytes n (v / 256)
/-- Bits lo … lo + n − 1 of the double word at byte offset o of a wide little-endian word. -/
def efld (e o lo n : Nat) : Nat := e / 2 ^ (8 * o + lo) % 2 ^ n
/-- The same of a list of bytes. -/
def bfld (bs : List Byte) (o lo n : Nat) : Nat := leNat ((bs.drop o).take 8) / 2 ^ lo % 2 ^ n
/-- The quotient rounded up. -/
def ceilDiv (a b : Nat) : Nat := (a + b - 1) / b
/-- A stored little-endian number of n bytes. -/
def State.le (s : State) (a n : Nat) : Nat := leNat (s.bytes a n)
def State.word (s : State) (a : Nat) : Word := w32 (s.le a 4)
def State.dword (s : State) (a : Nat) : DWord := w64 (s.le a 8)

/-- Memory in its canonical form. -/
abbrev Memory.wf (m : Tab Byte) : Bool := Tab.wf memDefault m

/-- Store bytes from an address on: the one place that writes local memory. -/
def putBytes : Tab Byte → Nat → List Byte → Tab Byte
  | m, _, [] => m
  | m, a, b :: t => putBytes (Tab.set memDefault m a b) (a + 1) t

/-- Whether a byte lies in an ECC word that reads as uncorrectable (R255). -/
def State.poisonedAt (s : State) (a : Nat) : Bool := s.eccBad.contains (eccBase a)
/-- Whether any of n bytes does. -/
def State.poisonedIn (s : State) (a n : Nat) : Bool :=
  s.eccBad.any fun e => decide (e < a + n) && decide (a < e + eccSize e) && decide (0 < n)

/-- Whether the ECC word at e overlaps [a, a + n). -/
def eccOverlap (e a n : Nat) : Bool := decide (e < a + n) && decide (a < e + eccSize e)
/-- Whether [a, a + n) covers the ECC word at e. -/
def eccCovers (e a n : Nat) : Bool := decide (a ≤ e) && decide (e + eccSize e ≤ a + n)

/-- Who reads or writes local memory: the requester's number (R253), and what the ECC_UNCORRECTABLE entry of its read
carries beside it: the tag, the queue or channel, the thread of R245 (R255), and a transfer's stream index (R290). -/
structure Reader where
  req : Nat
  tag : Half := 0
  index : Nat := 0xFF
  thread : Nat := 15
  d2 : Word := 0
  deriving DecidableEq, Repr

/-- Log one uncorrectable word for a reader (R253, R255, R290). -/
def State.eccLog (r : Reader) (e : Nat) (s : State) : State :=
  (s.raise { code := 0x5001, unit := 15, tag := r.tag, index := r.index, thread := r.thread, d0 := w32 e, d1 := w32 r.req, d2 := r.d2 }).count 0x50288 1
/-- The reader that the command at the head of queue q is (R255). -/
def EngCmd.reader (c : EngCmd) (req q : Nat) : Reader := { req := req, tag := c.tag, index := q, thread := ctxNum c.ctx }

/-- The counter of corrected words of the tier of an address; words of other spaces count with the near tier's code
(R251). -/
def eccCorrCtr (e : Nat) : Nat := if eccSize e = 32 then 0x50280 else 0x50278

/-- Prefetch accounting of a read by an engine or a DMA source (R287). -/
def State.pfRead (req a n : Nat) (s : State) : State :=
  if n = 0 ∨ ¬ (req ≤ 5 ∨ req = 7) then s else
  let hit : PfEnt → Bool := fun e => !e.used && decide (e.lo < a + n) && decide (a ≤ e.hi)
  let used : Nat := (s.dma.pf.filter hit).foldl (fun (k : Nat) (e : PfEnt) => k + e.bytes) 0
  let s := { s with dma := { s.dma with pf := s.dma.pf.map fun e => if hit e then { e with used := true } else e } }
  if used = 0 then s else s.count 0x50298 used

/-- Prefetch accounting of a write (R287). -/
def State.pfWrite (a n : Nat) (s : State) : State :=
  let hit : PfEnt → Bool := fun e => !e.used && decide (e.lo < a + n) && decide (a ≤ e.hi)
  let lost : Nat := (s.dma.pf.filter hit).foldl (fun (k : Nat) (e : PfEnt) => k + e.bytes) 0
  if lost = 0 then s else
  { s with dma := { s.dma with pf := s.dma.pf.map fun e => if hit e then { e with used := true } else e } }.count
    0x502A0 lost

/-! Accumulators -/

/-- The address of the accumulator word of still i, column c, row m (R92). -/
def accAddr (i c m : Nat) : Nat := 0x08000000 + i * 0x80000 + c / 2048 * 0x40000 + c % 2048 * 128 + 4 * m
/-- Whether an address lies in the accumulators, and its still, column and row. -/
def isAcc (a : Nat) : Bool := decide (0x08000000 ≤ a ∧ a < 0x08200000)
def accStill (a : Nat) : Nat := (a - 0x08000000) / 0x80000
def accCol (a : Nat) : Nat := (a - 0x08000000) % 0x80000 / 128
def accRow (a : Nat) : Nat := a % 128 / 4
/-- The 32-row by 8-column tile of an accumulator address, as poison names it (R94). -/
def accTile (a : Nat) : Nat × Nat := (accStill a, accCol a / 8)

/-- One accumulator word read with bad parity (R94): its tile is poisoned, and the error is logged and counted, each time
such a word is read. -/
def State.accPoison (a : Nat) (s : State) : State :=
  State.count (0x20048 + 0x1000 * accStill a) 1
    (State.raise { code := 0x4001, unit := 2, index := accStill a, d0 := w32 (accStill a), d1 := w32 (accRow a), d2 := w32 (accCol a) }
      { s with poison := if s.poison.contains (accTile a) then s.poison else s.poison ++ [accTile a] })

/-- The parity check of a read of [a, a + n) (R94). -/
def State.accCheck (a n : Nat) (s : State) : State :=
  (s.parBad.filter fun e => isAcc e && decide (e < a + n) && decide (a < e + 4)).foldl (fun s e => State.accPoison e s) s

/-- A byte as a reader sees it: every word of a poisoned accumulator tile is 0x7FC00000 (R94). -/
def State.seen (s : State) (a : Nat) : Byte :=
  if isAcc a && s.poison.contains (accTile a) then (if a % 4 = 2 then 0xC0 else if a % 4 = 3 then 0x7F else 0)
  else s.byte a
def State.seens (s : State) (a : Nat) : Nat → List Byte
  | 0 => []
  | n + 1 => s.seen a :: State.seens s (a + 1) n
/-- A little-endian number of n bytes as a reader sees it. -/
def State.seenLe (s : State) (a n : Nat) : Nat := leNat (s.seens a n)

/-- The ECC check of a read of [a, a + n) (R253): a corrected word is written back and counted, an uncorrectable one logged. -/
def State.eccCheck (r : Reader) (a n : Nat) (s : State) : State :=
  let corr := s.eccCorr.filter fun e => eccOverlap e a n
  let bad := s.eccBad.filter fun e => eccOverlap e a n
  let s := corr.foldl (fun s e => s.count (eccCorrCtr e) 1) { s with eccCorr := s.eccCorr.filter fun e => !eccOverlap e a n }
  bad.foldl (fun s e => s.eccLog r e) s
/-- What a read of [a, a + n) does beside returning the bytes (R94, R253, R287): its ECC words and its parity are checked,
prefetched bytes count as used. -/
def State.touchBy (r : Reader) (a n : Nat) (s : State) : State :=
  if n = 0 then s else ((s.eccCheck r a n).accCheck a n).pfRead r.req a n
/-- A read by a requester that no command stands behind. -/
def State.touch (req a n : Nat) (s : State) : State := s.touchBy { req := req } a n

/-- Mark the watch entries whose ECC word a write touches (R301). -/
def State.watchMark (a n : Nat) (s : State) : State :=
  let mark : Nat × Watch → Nat × Watch := fun p =>
    if eccOverlap (eccBase p.2.addr.toNat) a n then (p.1, { p.2 with dirty := true }) else p
  { s with sync := { s.sync with watch := s.sync.watch.map mark } }

/-- A write into an instruction-memory bank clears its VALID (R241); a copy in progress is disturbed (R455). -/
def State.imemMark (a n : Nat) (s : State) : State :=
  let hit := fun (lo hi : Nat) => decide (a < hi) && decide (lo < a + n)
  let h0 := hit 0x0A000000 0x0A040000
  let h1 := hit 0x0A040000 0x0A080000
  let mark : Deferred → Deferred := fun d =>
    if (h0 && d.bank == 0) || (h1 && d.bank == 1) then { d with disturbed := true } else d
  { s with
    cc := { s.cc with valid0 := s.cc.valid0 && !h0, valid1 := s.cc.valid1 && !h1 }
    mgmt := { s.mgmt with deferred := s.mgmt.deferred.map mark } }

/-- The read half of a write of [a, a + n) (R254): a word covered in part is read, so a correctable one is corrected and
counted and an uncorrectable one logged again. -/
def State.partCheck (req a n : Nat) (s : State) : State :=
  let part := fun (e : Nat) => eccOverlap e a n && !eccCovers e a n
  let s := (s.eccCorr.filter part).foldl (fun s e => s.count (eccCorrCtr e) 1) s
  (s.eccBad.filter part).foldl (fun s e => s.eccLog { req := req } e) s
/-- Write bytes at a local address on behalf of a requester (R253, R254, R301): a write that covers an ECC word wholly
makes it good, a partial write is a read-modify-write, which leaves an uncorrectable word so. -/
def State.write (req a : Nat) (bs : List Byte) (s : State) : State :=
  if bs = [] then s else
  let n := bs.length
  let s := s.partCheck req a n
  let s := { s with
    mem := putBytes s.mem a bs
    eccBad := s.eccBad.filter fun e => !eccCovers e a n
    eccCorr := s.eccCorr.filter fun e => !eccOverlap e a n }
  ((s.watchMark a n).imemMark a n).pfWrite a n

/-- Write the reserved poison check pattern into the ECC words that hold any of these bytes (R255). -/
def State.poisonBytes (as : List Nat) (s : State) : State :=
  { s with eccBad := as.foldl (fun l a => if l.contains (eccBase a) then l else l ++ [eccBase a]) s.eccBad }

/-- Write a little-endian double word. -/
def State.writeDword (req a : Nat) (v : DWord) (s : State) : State := s.write req a (leBytes 8 v.toNat)

/-! Rejection (R245) -/

/-- Why a command is rejected: the error code, the number of the failing condition, the block that raises it and the
facts it lists. -/
structure Rej where
  code : Half
  cond : Nat := 0
  unit : Nat := 1
  d0 : Word := 0
  d1 : Word := 0
  d2 : Word := 0
  /-- an ECC_UNCORRECTABLE entry already made for the read counts as the log entry (R255) -/
  logged : Bool := false
  deriving DecidableEq, Repr

/-- The error codes of rejected commands. -/
def descBounds (cond : Nat) (d0 d1 : Nat := 0) : Option Rej := some { code := 0x1001, cond := cond, d0 := w32 d0, d1 := w32 d1 }
def operandInvalid (cond : Nat) (d0 : Nat := 0) : Option Rej := some { code := 0x3005, cond := cond, d0 := w32 d0 }
def formatUnsupported (cond : Nat) (d0 : Nat := 0) : Option Rej := some { code := 0x3003, cond := cond, d0 := w32 d0 }
def shapeInvalid (cond : Nat) (still : Nat) : Option Rej := some { code := 0x4002, cond := cond, unit := 2, d0 := w32 still }

/-- The first failing check. -/
def firstRej : List (Option Rej) → Option Rej
  | [] => none
  | some r :: _ => some r
  | none :: t => firstRej t

/-- A check that fails when b holds. -/
def failIf (b : Bool) (r : Option Rej) : Option Rej := if b then r else none

/-! Engine command queues -/

/-- Engine command queue q. -/
def State.queue (s : State) (q : Nat) : Queue := Tab.get Queue.empty s.cc.queues q
def State.setQueue (q : Nat) (v : Queue) (s : State) : State :=
  { s with cc := { s.cc with queues := Tab.set Queue.empty s.cc.queues q v } }
/-- The command at the head of queue q, when the queue is not halted. -/
def State.headCmd (s : State) (q : Nat) : Option EngCmd :=
  if (s.queue q).halted then none else (s.queue q).items.head?
/-- Remove the head of queue q. -/
def State.popQueue (q : Nat) (s : State) : State :=
  s.setQueue q { (s.queue q) with items := (s.queue q).items.drop 1, wait := .none }
/-- Remove a command from the head of both fill queues (a JOINT fill heads both, R230), which record it (R85). -/
def State.popFill (seq : Nat) (s : State) : State :=
  let pop := fun (q : Nat) (s : State) =>
    match (s.queue q).items with
    | e :: _ =>
      if e.seq = seq then
        let s := s.popQueue q
        { s with still := if q = 17 then { s.still with lastA := seq } else { s.still with lastB := seq } }
      else s
    | [] => s
  pop 18 (pop 17 s)
/-- Remove the command with this sequence number from the head of queue q. -/
def State.done (q : Nat) (c : EngCmd) (s : State) : State :=
  if q = 17 ∨ q = 18 then s.popFill c.seq else s.popQueue q

/-- Halt queue q; a JOINT fill halts both fill queues. -/
def State.haltQueue (q : Nat) (c : EngCmd) (s : State) : State :=
  let halt := fun (q : Nat) (s : State) => s.setQueue q { (s.queue q) with halted := true, wait := .none }
  if q = 17 ∨ q = 18 then
    let one := fun (q : Nat) (s : State) =>
      match (s.queue q).items with
      | e :: _ => if e.seq = c.seq then halt q s else s
      | [] => s
    one 18 (one 17 s)
  else halt q s

/-- A thread that enqueues nothing further after a rejection (R245). -/
def State.haltThread (t : Thread) (s : State) : State :=
  match t with
  | .acc => { s with cc := { s.cc with haltAcc := true } }
  | .exe => { s with cc := { s.cc with haltExe := true } }

/-- The error-log entry, the count and the flag of a rejected engine command (R245). -/
def State.rejectNote (q : Nat) (c : EngCmd) (r : Rej) (s : State) : State :=
  let s := if r.logged then s else s.raise { code := r.code, unit := r.unit, tag := c.tag, index := q, thread := (ctxNum c.ctx), cond := r.cond, d0 := r.d0, d1 := r.d1, d2 := r.d2 }
  (s.count 0x10120 1).orReg 0x10004 0x100
/-- The rejection of the command at the head of queue q (R245). -/
def State.reject (q : Nat) (c : EngCmd) (r : Rej) (s : State) : State :=
  let s := s.rejectNote q c r
  if s.regBit 0x10000 0 then (s.haltQueue q c).haltThread c.ctx.thread else s.done q c

/-- The wait of a party ends or is discarded: its watch entry is freed (R301, R302). -/
def State.endWait (party : Nat) (s : State) : State :=
  { s with sync := { s.sync with
      watch := s.sync.watch.filter fun (p : Nat × Watch) => !(p.2.owner == 1 && p.2.party == party)
      polls := s.sync.polls.filter fun (p : Poll) => p.party != party
      timedOut := s.sync.timedOut.filter fun (p : Nat) => p != party } }

/-! Clock and reset guards -/

/-- Whether a register belongs to the management controller or the register access port, whose state a loss of lock leaves
defined (R417): identity, mailboxes, core state and interrupts, and the debug block. -/
def ctrlReg (off : Nat) : Bool :=
  decide (off < 0x02000) || decide (0x04000 ≤ off ∧ off < 0x05000) || decide (0x90000 ≤ off ∧ off < 0xA0000)

/-- The offsets of the other blocks' registers that hold a value as written, a table of first offset, offset after the last,
period and the offsets assigned within it. -/
def heldRegs : List (Nat × Nat × Nat × List Nat) :=
  [(0x02000, 0x02024, 0x24, [0x00, 0x04, 0x08, 0x0C, 0x14, 0x18, 0x1C, 0x20]), (0x02060, 0x02064, 4, [0]),
   (0x03040, 0x03080, 4, [0]), (0x03080, 0x0308C, 4, [0]), (0x10000, 0x10008, 4, [0]), (0x10020, 0x1002C, 4, [0]),
   (0x10060, 0x10064, 4, [0]), (0x10300, 0x10320, 4, [0]), (0x10400, 0x10800, 4, [0]),
   (0x11000, 0x13000, 0x40, [0, 4, 8, 12, 16, 20, 24, 28, 32]), (0x13800, 0x14000, 0x80, [0, 4, 8, 16, 20, 24, 32, 36, 40, 48, 52, 56, 64, 68, 72, 80, 84, 88]),
   (0x14000, 0x14004, 4, [0]), (0x14060, 0x14064, 4, [0]), (0x20000, 0x24000, 0x1000, [0x60, 0x80]), (0x24000, 0x24004, 4, [0]),
   (0x28000, 0x28400, 4, [0]), (0x38040, 0x38050, 4, [0]), (0x40004, 0x40008, 4, [0]), (0x40060, 0x40064, 4, [0]),
   (0x42060, 0x42064, 4, [0]), (0x43000, 0x43010, 4, [0]), (0x43060, 0x43064, 4, [0]), (0x44060, 0x44064, 4, [0]),
   (0x45000, 0x45008, 4, [0]), (0x45010, 0x45014, 4, [0]), (0x45020, 0x45028, 4, [0]), (0x45060, 0x45064, 4, [0]),
   (0x46000, 0x46400, 4, [0]), (0x50000, 0x50004, 4, [0]), (0x50010, 0x50018, 4, [0]), (0x50030, 0x50034, 4, [0]),
   (0x50040, 0x50044, 4, [0]), (0x50060, 0x50064, 4, [0]), (0x50080, 0x50084, 4, [0]), (0x50100, 0x50140, 4, [0]),
   (0x60000, 0x60004, 4, [0]), (0x60008, 0x6000C, 4, [0]), (0x60010, 0x60014, 4, [0]), (0x60020, 0x60028, 4, [0]),
   (0x60030, 0x6003C, 4, [0]), (0x60060, 0x60064, 4, [0]), (0x60100, 0x60300, 0x20, [0, 4, 8, 12, 16, 20]),
   (0x70000, 0x70400, 0x40, [0, 4, 0x38]), (0x70460, 0x70464, 4, [0]), (0x80004, 0x80028, 4, [0]), (0x80040, 0x80080, 4, [0]),
   (0x80080, 0x80084, 4, [0]), (0x80090, 0x800A4, 4, [0]), (0x80160, 0x80164, 4, [0]), (0xA0008, 0xA001C, 4, [0]), (0xA0060, 0xA0064, 4, [0])]
/-- Whether an offset is one of them. -/
def heldReg (off : Nat) : Bool :=
  heldRegs.any fun b => decide (b.1 ≤ off ∧ off < b.2.1) && b.2.2.2.contains ((off - b.1) % b.2.2.1)

/-- The entries of u that `take` names, and those of t at the controller's offsets. -/
def mergeTab {α : Type} (take : Nat → Bool) (t u : Tab α) : Tab α :=
  (u.filter fun p => take p.1 && !ctrlReg p.1).foldl (fun t p => Tab.insert t p.1 p.2) (t.filter fun p => ctrlReg p.1)

/-- The state s with every block but the management controller and the register access port as in u, a state of free values:
the straps, fuses, fence and resets of Sys, the pins, the log and the controller stay (R417). Only what u holds in canonical
form, and a point and a fill level that exist, are taken from it; an unassigned offset still reads 0 (R18). -/
def State.scramble (s u : State) : State :=
  { u with
    sys := s.sys, logs := s.logs, mgmt := s.mgmt, wsp := s.wsp, rdata := s.rdata, pending := s.pending
    regs := mergeTab heldReg s.regs u.regs
    ctrs := mergeTab (fun _ => true) s.ctrs u.ctrs
    latch := s.latch
    pwr := if (7 ≤ u.pwr.n ∧ u.pwr.n ≤ 22) ∧ u.pwr.nNext.all (fun n => decide (7 ≤ n ∧ n ≤ 22)) then u.pwr else s.pwr
    mem := if Memory.wf u.mem then u.mem else []
    cc := { u.cc with runahead := u.cc.runahead.take 512 }
    freeCtr := s.freeCtr + 1 }

/-- The state s with all core state as in u: only the pins, the fuse bank and what stands outside the core stay, and the
stores keep their lengths (R409). -/
def State.scrambleAll (s u : State) : State :=
  { s.scramble u with
    sys := { u.sys with poreset := s.sys.poreset, coreReset := s.sys.coreReset, lock := s.sys.lock, lost := s.sys.lost, scanned := true,
                        fuses := s.sys.fuses }
    logs := { u.logs with errs := u.logs.errs.take 512, blot := u.logs.blot.take 4096 }
    mgmt := { u.mgmt with req := u.mgmt.req.take 1027, replies := u.mgmt.replies.take 2 } }

/-- The state that a block still served meets: after a loss of synthesiser lock every other block's state is not defined
(R417), after a scan all core state is lost (R409); fresh free values each time (log entry 15). -/
def State.undef (s : State) : State :=
  if s.sys.scanned then s.scrambleAll (Config.lostState s.freeCtr)
  else if s.sys.lost then s.scramble (Config.lostState s.freeCtr)
  else s

/-- A step of a block in the ACLK, VCLK or SCLK domain: nothing while PORESET_N or CORE_RESET_N is asserted, before lock
and after a loss of lock, when those clocks are stopped (R26, R417), and nothing after a scan, until PORESET_N (R409). -/
def runFast (s : State) (f : State → State) : Out :=
  if s.sys.poreset || s.sys.lost || s.sys.scanned || !s.sys.lock || s.sys.coreReset then .next s else .next (f s)

/-- A step of the MCLK domain, and a register access, which never fails (R26, R402, R417): nothing while PORESET_N is
asserted. -/
def runSlow (s : State) (f : State → State) : Out := if s.sys.poreset then .next s else .next (f s.undef)

/-- A step in service: nothing while fenced or fencing. -/
def State.inService (s : State) : Bool := s.sys.fence == .inService

end Sys2Proof.Machine
end

