-- ==== Sys2Proof/Machine/Operands.lean ====
section
/-! DEFINITION. Tile registers as operands: their fields (R236), the checks of R237, the addresses of their elements,
and the reading and writing of elements through them (R37–R45, R175–R177, R255). -/

namespace Sys2Proof.Machine

/-! Fields -/

def tFmt (t : Tile) : Nat := fld t.format 27 5
def tCont (t : Tile) : Nat := fld t.format 25 2
def tSlotEn (t : Tile) : Bool := t.format.getLsbD 24
def tSlotNo (t : Tile) : Nat := fld t.format 14 10
/-- The scale slot a tile register names, if any. -/
def tSlot (t : Tile) : Option Nat := if tSlotEn t then some (tSlotNo t) else none
def tTrans (t : Tile) : Bool := t.format.getLsbD 13
def tMasked (t : Tile) : Bool := t.format.getLsbD 12
def tExpand (t : Tile) : Nat := fld t.format 10 2
def tKlut (t : Tile) : Nat := fld t.format 5 5
/-- Rows and columns of the stored tensor (R236). -/
def tSRows (t : Tile) : Nat := if tTrans t then t.cols.toNat else t.rows.toNat
def tSCols (t : Tile) : Nat := if tTrans t then t.rows.toNat else t.cols.toNat
/-- The extent of a tile register, first byte and first byte after (R150). -/
def tExtent (t : Tile) : Nat × Nat := (t.base.toNat, t.base.toNat + t.extent.toNat)

/-- The value of a captured operand (R211). -/
def oVal (o : Opd) : Nat := o.imm.toNat
/-- A captured operand as 32 bits. -/
def oWord (o : Opd) : Word := lo32 o.imm
/-- A PARAM index above 63 stays in a captured operand and is rejected at issue (R249). -/
def opdBad (o : Opd) : Bool := o.p.isSome

/-! Checks (R237) -/

/-- Stage 1: ranges, slot and reserved bits; a tile index above 63 fails first (R249). -/
def tStage1 (r : TRef) : Option Rej :=
  let t := r.t
  if 63 < r.idx.toNat then operandInvalid 1 r.idx.toNat
  else if 16777216 < t.rows.toNat || 65536 < t.cols.toNat then operandInvalid 1 t.rows.toNat
  else if 255 < tSlotNo t then operandInvalid 2 (tSlotNo t)
  else if fld t.format 0 5 ≠ 0 || t.resv then operandInvalid 3
  else none

/-- Element formats a container takes (R38). -/
def contOk (fmt cont : Nat) : Bool :=
  match cont with
  | 0 => true
  | 1 => decide (3 ≤ fmt ∧ fmt ≤ 8)
  | 2 => decide (5 ≤ fmt ∧ fmt ≤ 7)
  | _ => false

/-- The sources an expansion takes: KLUT4 or INT2 codes through a table (R43), narrow integers with zero point and
scale (R45). -/
def expandOk (fmt cont expand : Nat) : Bool :=
  match expand with
  | 0 => true
  | 1 => (fmt == 14 || fmt == 10) && cont == 0
  | 2 => decide (8 ≤ fmt ∧ fmt ≤ 10) && cont == 0
  | _ => false

/-- Stage 2: the description of the format (R33, R37, R38, R39, R43, R45, R177). -/
def tStage2 (r : TRef) : Option Rej :=
  let t := r.t
  if 14 < tFmt t then formatUnsupported 1 (tFmt t)
  else if tCont t = 3 then formatUnsupported 2
  else if tExpand t = 3 then formatUnsupported 3
  else if !contOk (tFmt t) (tCont t) then formatUnsupported 4 (tFmt t)
  else if !expandOk (tFmt t) (tCont t) (tExpand t) then formatUnsupported 5 (tFmt t)
  else if tSCols t % blockSize (tCont t) ≠ 0 then formatUnsupported 6 (tSCols t)
  else if !fillsWhole (tFmt t) (tSCols t) then formatUnsupported 7 (tSCols t)
  else none

/-- The requesters of R30. -/
inductive Who where
  | gen | vu | row | upd | dma
  deriving DecidableEq, Repr

/-- The table of R30; `back` is the instruction-memory bank in service. -/
def allowed (w : Who) (write : Bool) : Space → Bool
  | .near => true
  | .stacked => true
  | .acc _ => !write && (w == .vu || w == .dma)
  | .stats => w == .row || w == .dma
  | .imem _ => write && w == .dma
  | .replay => w == .dma

/-- The check of a range [lo, lo + n) against its space (R30, R31). -/
def spaceChk (s : State) (w : Who) (write : Bool) (lo n : Nat) (cond : Nat) : Option Rej :=
  if n = 0 then none else
  match s.spaceOf lo n with
  | none => descBounds cond lo n
  | some sp =>
    if !allowed w write sp then descBounds (cond + 1) lo n
    else if write && (sp == .imem s.cc.inService) then some { code := 0x3001, cond := cond + 1, d0 := w32 lo }
    else none

/-- A box of logical rows [r0, r1) and columns [c0, c1). -/
structure Box where
  r0 : Nat
  r1 : Nat
  c0 : Nat
  c1 : Nat
  deriving DecidableEq, Repr

/-- The whole of a tile. -/
def tBox (t : Tile) : Box := ⟨0, t.rows.toNat, 0, t.cols.toNat⟩
/-- The box in stored rows and columns. -/
def sBox (t : Tile) (b : Box) : Box := if tTrans t then ⟨b.c0, b.c1, b.r0, b.r1⟩ else b

/-- Byte offset of the first byte of stored column c, and of the byte after the last bit of column c − 1. -/
def colByte (t : Tile) (c : Nat) : Nat := fmtWidth (tFmt t) * c / 8
def colEnd (t : Tile) (c : Nat) : Nat := (fmtWidth (tFmt t) * c + 7) / 8

/-- Stage 3 over the code array, the block scales and, with expansion, the zero points and channel scales that a box
touches; the range [BASE, BASE + EXTENT) of the code array must lie in one space too (R237). -/
def tStage3 (s : State) (w : Who) (write : Bool) (r : TRef) (lb : Box) : Option Rej :=
  let t := r.t
  let b := sBox t lb
  if b.r1 ≤ b.r0 ∨ b.c1 ≤ b.c0 then none else
  let st := t.stride.toInt
  let lo : Int := t.base.toNat + min (b.r0 * st) ((b.r1 - 1 : Nat) * st) + colByte t b.c0
  let hi : Int := t.base.toNat + max (b.r0 * st) ((b.r1 - 1 : Nat) * st) + colEnd t b.c1
  let nb := tSCols t / blockSize (tCont t)
  let sLo := t.scaleBase.toNat + b.r0 * nb + b.c0 / blockSize (tCont t)
  let sHi := t.scaleBase.toNat + (b.r1 - 1) * nb + (b.c1 - 1) / blockSize (tCont t) + 1
  if lo < t.base.toNat ∨ (t.base.toNat + t.extent.toNat : Int) < hi then descBounds 1 lo.toNat hi.toNat
  else if (s.spaceOf t.base.toNat t.extent.toNat).isNone then descBounds 2 t.base.toNat t.extent.toNat
  else firstRej [
    spaceChk s w write lo.toNat (hi - lo).toNat 2,
    if tCont t = 0 then none else spaceChk s w write sLo (sHi - sLo) 4,
    if tExpand t = 2 then spaceChk s w false (t.zpBase.toNat + b.c0) (b.c1 - b.c0) 6 else none,
    if tExpand t = 2 then spaceChk s w false (t.csBase.toNat + 2 * b.c0) (2 * (b.c1 - b.c0)) 8 else none]

/-- The three stages of R237 over several operands in their listed order: each as a tile, whether it is written, and
the boxes the command touches; `fmtChk` is the command's own format rules, which end stage 2. -/
def tileChecks (s : State) (w : Who) (ops : List (TRef × Bool × List Box)) (fmtChk : Option Rej) : Option Rej :=
  firstRej [
    firstRej (ops.map fun o => tStage1 o.1),
    firstRej (ops.map fun o => tStage2 o.1),
    fmtChk,
    firstRej (ops.map fun o => firstRej (o.2.2.map fun b => tStage3 s w o.2.1 o.1 b))]

/-! Reading elements -/

/-- The address of the first byte of the code at stored row sr, column sc. -/
def codeAddr (t : Tile) (sr sc : Nat) : Nat := ((t.base.toNat : Int) + sr * t.stride.toInt + colByte t sc).toNat

/-- The code of the element at stored row sr, column sc (R37), and whether it lies in a poisoned word. -/
def readCode (s : State) (t : Tile) (sr sc : Nat) : Nat × Bool :=
  let w := fmtWidth (tFmt t)
  let a := codeAddr t sr sc
  let off := w * sc % 8
  let n := (off + w + 7) / 8
  (s.seenLe a n / 2 ^ off % 2 ^ w, s.poisonedIn a n)

/-- The address of the scale byte of a block, and the code as an engine takes it: 0xFF when poisoned (R255). -/
def scaleAddr (t : Tile) (sr sc : Nat) : Nat :=
  t.scaleBase.toNat + sr * (tSCols t / blockSize (tCont t)) + sc / blockSize (tCont t)
def readScale (s : State) (t : Tile) (sr sc : Nat) : Nat :=
  let a := scaleAddr t sr sc
  if s.poisonedAt a then 0xFF else (s.byte a).toNat

/-- The code an engine takes for a poisoned element: the canonical NaN of the format, or code 0 (R255). -/
def poisonCode (fmt : Nat) : Nat :=
  match fpFmt fmt with
  | some f => f.nan.getD 0
  | none => if fmt = 12 then 0xFF else 0

/-- The BF16 entry of a KLUT4 table (R43); a non-canonical NaN expands to the canonical one. -/
def klutEntry (s : State) (t i : Nat) : XVal :=
  let w := s.reg (0x28000 + 0x20 * t + 4 * (i / 2))
  decodeElem 1 (fld w (16 * (i % 2)) 16)

/-- Zero-point and scale expansion (R45). -/
def zpExpand (q z : Int) (sc : XVal) : XVal := (XVal.fin (Ex.ofInt (q - z) 0)).mul sc

/-- The exact value of the stored element (R40, R42, R43, R45, R175). -/
def readStored (s : State) (t : Tile) (sr sc : Nat) : XVal :=
  let c := readCode s t sr sc
  let code := if c.2 then poisonCode (tFmt t) else c.1
  if tExpand t = 1 then klutEntry s (tKlut t) (code % 16)
  else if tExpand t = 2 then
    zpExpand (signedOf (fmtWidth (tFmt t)) code)
      (if s.poisonedAt (t.zpBase.toNat + sc) then 0 else signedOf 8 (s.byte (t.zpBase.toNat + sc)).toNat)
      (if s.poisonedIn (t.csBase.toNat + 2 * sc) 2 then .nan else decodeElem 1 (s.le (t.csBase.toNat + 2 * sc) 2))
  else if tCont t = 0 then decodeElem (tFmt t) code
  else containerElem (tCont t) (tFmt t) (readScale s t sr sc) code

/-- The exact value of the logical element (r, c) (R236). -/
def readElem (s : State) (t : Tile) (r c : Nat) : XVal := if tTrans t then readStored s t c r else readStored s t r c

/-- What reading one stored run [c0, c1) of row sr does to the state. -/
def touchRun (req : Nat) (t : Tile) (sr c0 c1 : Nat) (s : State) : State :=
  if c1 ≤ c0 then s else
  let a := ((t.base.toNat : Int) + sr * t.stride.toInt).toNat
  let s := s.touch req (a + colByte t c0) (colEnd t c1 - colByte t c0)
  if tCont t = 0 then s else s.touch req (scaleAddr t sr c0) (scaleAddr t sr (c1 - 1) + 1 - scaleAddr t sr c0)

/-- What reading a box does to the state: ECC, parity and prefetch accounting over every byte it touches. -/
def touchBox (req : Nat) (t : Tile) (lb : Box) (s : State) : State :=
  let b := sBox t lb
  let s := (List.range (b.r1 - b.r0)).foldl (fun s i => touchRun req t (b.r0 + i) b.c0 b.c1 s) s
  if tExpand t = 2 && decide (b.r0 < b.r1 ∧ b.c0 < b.c1) then
    (s.touch req (t.zpBase.toNat + b.c0) (b.c1 - b.c0)).touch req (t.csBase.toNat + 2 * b.c0) (2 * (b.c1 - b.c0))
  else s

/-! Writing elements -/

/-- The little-endian number of a run of bytes with the codes of width w replacing the bits from bit `off` on. -/
def packRun (old off w : Nat) (codes : List Nat) : Nat :=
  let v := codes.foldr (fun c acc => c % 2 ^ w + 2 ^ w * acc) 0
  let n := w * codes.length
  old % 2 ^ off + 2 ^ off * v + 2 ^ (off + n) * (old / 2 ^ (off + n))

/-- Write a run of codes at stored row sr from column sc on (R37). -/
def writeRun (req : Nat) (t : Tile) (sr sc : Nat) (codes : List Nat) (s : State) : State :=
  if codes = [] then s else
  let w := fmtWidth (tFmt t)
  let a := codeAddr t sr sc
  let off := w * sc % 8
  let n := (off + w * codes.length + 7) / 8
  s.write req a (leBytes n (packRun (s.le a n) off w codes))

/-- Write the scale byte of a block. -/
def writeScale (req : Nat) (t : Tile) (sr sc code : Nat) (s : State) : State :=
  s.write req (scaleAddr t sr sc) [BitVec.ofNat 8 code]

/-- The consecutive elements e0 … e0 + n − 1 of a tile in row-major logical order, as boxes (R148). -/
def spanBoxes (t : Tile) (e0 n : Nat) : List Box :=
  let cols := t.cols.toNat
  if n = 0 ∨ cols = 0 then [] else
  let r0 := e0 / cols
  let r1 := (e0 + n - 1) / cols
  if r0 = r1 then [⟨r0, r0 + 1, e0 % cols, (e0 + n - 1) % cols + 1⟩]
  else [⟨r0, r0 + 1, e0 % cols, cols⟩, ⟨r0 + 1, r1, 0, cols⟩, ⟨r1, r1 + 1, 0, (e0 + n - 1) % cols + 1⟩]

/-! Descriptors (R258–R260, R265), as one little-endian number of 128 bytes -/

def dKind (d : Nat) : Nat := efld d 0 56 4
def dSig (d : Nat) : Bool := efld d 0 55 1 == 1
def dVer (d : Nat) : Bool := efld d 0 54 1 == 1
def dCvu (d : Nat) : Bool := efld d 0 53 1 == 1
def dShared (d : Nat) : Bool := efld d 0 52 1 == 1
def dTrans (d : Nat) : Bool := efld d 0 51 1 == 1
def dAddrStream (d : Nat) : Bool := efld d 0 50 1 == 1
def dSlot (d : Nat) : Option Nat := if efld d 0 49 1 = 1 then some (efld d 0 15 10) else none
def dConv (d : Nat) : Half := BitVec.ofNat 16 (efld d 0 32 16)
def dSrcFmt (d : Nat) : Nat := efld d 0 27 5
def dSrcCont (d : Nat) : Nat := efld d 0 25 2
def dCtx (d : Nat) : Nat := efld d 0 9 6
def dSrcTile (d : Nat) : Nat := efld d 8 56 8
def dDstTile (d : Nat) : Nat := efld d 8 48 8
def dPrefetch (d : Nat) : Bool := efld d 8 47 1 == 1
def dStaleHalt (d : Nat) : Bool := efld d 8 46 1 == 1
def dSigOp (d : Nat) : Nat := efld d 8 32 4
def dSigValue (d : Nat) : Nat := efld d 8 0 32
def dSrcAddr (d : Nat) : Nat := efld d 0x10 0 64
def dDstAddr (d : Nat) : Nat := efld d 0x18 0 64
def dSigAddr (d : Nat) : Nat := efld d 0x68 0 64
def dVerAddr (d : Nat) : Nat := efld d 0x70 0 64
def dGenBase (d : Nat) : DWord := w64 (efld d 0x78 0 64)
/-- COUNT and strides of level l. -/
def dCount (d l : Nat) : Nat := efld d (0x20 + 12 * l) 0 16
def dSrcStride (d l : Nat) : Int := signedOf 40 (efld d (0x20 + 12 * l) 16 40)
def dDstStride (d l : Nat) : Int := signedOf 40 (efld d (0x20 + 12 * l) 56 40)

/-- Whether each side is local, by KIND (R259). -/
def srcLocal (k : Nat) : Bool := k == 1 || k == 2 || k == 4
def dstLocal (k : Nat) : Bool := k == 0 || k == 2 || k == 3

/-- Counts of levels 1–5, and the number of level-0 runs. -/
def dCounts (d : Nat) : List Nat := [dCount d 1, dCount d 2, dCount d 3, dCount d 4, dCount d 5]
def dRuns (d : Nat) : Nat := (dCounts d).foldl (fun a c => a * c) 1
/-- The iteration indices of levels 1–5 of run r, level 1 first. -/
def runIdx : List Nat → Nat → List Nat
  | [], _ => []
  | c :: t, r => r % c :: runIdx t (r / c)
/-- The offset of run r at a side with the strides of levels 1–5. -/
def runOff (cs : List Nat) (ss : List Int) (r : Nat) : Int := (((runIdx cs r).zip ss).map fun p => (p.1 : Int) * p.2).sum
def dSrcStrides (d : Nat) : List Int := [dSrcStride d 1, dSrcStride d 2, dSrcStride d 3, dSrcStride d 4, dSrcStride d 5]
def dDstStrides (d : Nat) : List Int := [dDstStride d 1, dDstStride d 2, dDstStride d 3, dDstStride d 4, dDstStride d 5]

/-- Element widths at the two sides, and the bytes of one run. -/
def dSw (d : Nat) : Nat := fmtWidth (dSrcFmt d)
def dDw (d : Nat) : Nat := fmtWidth (specFmt (dConv d))
def dSrcBytes (d : Nat) : Nat := dCount d 0 * dSw d / 8
def dDstBytes (d : Nat) : Nat := dCount d 0 * dDw d / 8

/-- The range [lo, hi] of a side (R265), from its base, run bytes, counts and strides. -/
def sideRange (b n : Nat) (cs : List Nat) (ss : List Int) : Int × Int :=
  let span := (cs.zip ss).map fun p => ((p.1 : Int) - 1) * p.2
  (b + (span.map fun v => min 0 v).sum, b + (span.map fun v => max 0 v).sum + n - 1)
/-- The range a transfer reads at its local source. -/
def srcRange (d b : Nat) : Int × Int := sideRange b (dSrcBytes d) (dCounts d) (dSrcStrides d)
/-- The range it writes at its local destination; on the transposer route COUNT0 rows of COUNT1 elements (R262). -/
def dstRange (d b : Nat) : Int × Int :=
  if dTrans d then sideRange b (dCount d 1 * dDw d / 8) (dCount d 0 :: (dCounts d).drop 1) (dDstStrides d)
  else sideRange b (dDstBytes d) (dCounts d) (dDstStrides d)

end Sys2Proof.Machine
end

