-- ==== Sys2Proof/Machine/Flags.lean ====
section
/-! DEFINITION. Sticky flags of the eight engines and the first-NaN capture (R133–R138), scale slots: gathering, commit
and watch (R115–R131), telemetry by format (R132), and the conversion of a list of elements into a tile. -/

namespace Sys2Proof.Machine

/-! Sticky flags -/

/-- The flag register of an engine (R133, R141, R142). -/
def flagReg (e : Nat) : Nat := if e < 4 then 0x20080 + 0x1000 * e else 0x38040 + 4 * (e - 4)
/-- The flags of an engine. -/
def State.flags (s : State) (e : Nat) : Flags := (s.reg (flagReg e)).setWidth 4
/-- Raise sticky flags of an engine. -/
def State.raiseFlags (e : Nat) (f : Flags) (s : State) : State := s.orReg (flagReg e) (f.setWidth 32)
/-- Clear the flags of an engine in a mask (R134); clearing a still's INVALID clears its capture (R138). -/
def State.clearFlags (e : Nat) (m : Flags) (s : State) : State :=
  let s := s.clrReg (flagReg e) (m.setWidth 32)
  if e < 4 && m.getLsbD 3 then s.clrReg (0x20084 + 0x1000 * e) 0x80000000 else s

/-- A NaN birth in a still (R137): column, row, cause, and the tag and tile registers it is captured with. -/
structure Birth where
  col : Nat
  row : Nat
  cause : Nat
  tag : Half
  stat : Nat
  strm : Nat
  deriving DecidableEq, Repr

/-- Raise a still's flags and capture its first NaN birth when INVALID changes from 0 to 1 (R138). -/
def State.stillFlags (i : Nat) (f : Flags) (b : Option Birth) (s : State) : State :=
  let was := (s.flags i).getLsbD 3
  let s := s.raiseFlags i f
  match b with
  | none => s
  | some b =>
    if was then s else
    let s := s.setReg (0x20084 + 0x1000 * i) (w32 (2 ^ 31 + b.cause * 2 ^ 24 + i * 2 ^ 20 + b.row * 2 ^ 12 + b.col))
    let s := s.setReg (0x20088 + 0x1000 * i) (w32 (b.strm * 2 ^ 24 + b.stat * 2 ^ 16 + b.tag.toNat))
    s.setCtr (0x20090 + 0x1000 * i) s.aclk

/-- Whether the core is in EVAL mode (R337). -/
def State.evalMode (s : State) : Bool := s.regBit 0x45010 8

/-- A drain saw a NaN or an infinity: SUM[15] bit 0 (R139), or EVAL_NONFINITE in EVAL mode (R337). -/
def State.noteNonfinite (b : Bool) (s : State) : State :=
  if !b then s else if s.evalMode then s.orReg 0x45010 4 else { s with vec := { s.vec with nonfinite := true } }

/-! Scale slots -/

def State.slot (s : State) (n : Nat) : Slot := Tab.get Slot.reset s.slots n
def State.setSlot (n : Nat) (v : Slot) (s : State) : State := { s with slots := Tab.set Slot.reset s.slots n v }

/-- FP32 1.0. -/
def one32 : Word := 0x3F800000
/-- ENC and DEC of the slot a tile or conversion names, 1.0 when it names none (R42). -/
def encOf (s : State) (o : Option Nat) : Word := match o with | some n => (s.slot n).enc | none => one32
def decOf (s : State) (o : Option Nat) : Word := match o with | some n => (s.slot n).dec | none => one32

/-- |x| rounded toward +∞ to FP32, a nonzero magnitude below 2^−126 giving 2^−126 (R117). -/
def gatherMag (x : XVal) : XVal :=
  match x with
  | .nan => .nan
  | .inf _ => .inf false
  | .fin v =>
    if v.num = 0 then .fin (Ex.zero false)
    else if v.magLt fp32Min then .fin fp32Min
    else
      let r := ({ v with neg := false } : Ex).roundP .up 24
      if fp32Max.magLt r.1 then .inf false else .fin r.1

/-- Gather one element into a slot (R117, R118): its value before ENC, whether the maximum takes it, and its class. -/
def Slot.gather (x : Option XVal) (c : SlotClass) (v : Slot) : Slot :=
  let m :=
    match x with
    | none => v.maxCur
    | some x => if x.isNan then v.maxCur else bits32 ((val32 v.maxCur).max (gatherMag x))
  { v with maxCur := m, tot := v.tot + 1,
           ovf := v.ovf + (if c = .overflowed then 1 else 0), van := v.van + (if c = .vanished then 1 else 0) }

/-- Gather into the slot a destination names, if it names one (R116); nothing gathers in EVAL mode (R337). -/
def State.gather (n : Option Nat) (x : Option XVal) (c : SlotClass) (s : State) : State :=
  match n with
  | none => s
  | some n => if s.evalMode then s else s.setSlot n ((s.slot n).gather x c)

/-- The largest of the most recent valid history entries (R123). -/
def Slot.histMax (v : Slot) : XVal :=
  let len := if fld v.cfg 16 4 = 0 then 16 else fld v.cfg 16 4
  let l := min v.valid len
  (List.range l).foldl (fun m i => m.max (val32 (Tab.get 0 v.hist ((v.ptr + 15 - i) % 16)))) .nan

/-- The hardware policy (R123, R124). -/
def Slot.policy (v : Slot) : Slot :=
  let f := fld v.cfg 27 5
  match v.histMax with
  | .fin h =>
    if h.num = 0 || h.neg || 10 < f then { v with held := true }
    else
      let k0 : Int := ((fmaxOf f).div h).log2 - fld v.cfg 8 3
      let k := min (max k0 (-126)) 126
      { v with held := false, enc := w32 ((k + 127).toNat * 2 ^ 23), dec := w32 ((127 - k).toNat * 2 ^ 23) }
  | _ => { v with held := true }

/-- The format watch (R128), which closes the watch interval. -/
def Slot.watch (v : Slot) : Slot :=
  let dt := v.tot - v.tot0
  { v with
    promOvf := v.promOvf || (decide (0 < dt) && decide (v.ovfT.toNat ≤ 2 ^ 20) && decide (v.ovfT.toNat * dt < (v.ovf - v.ovf0) * 2 ^ 20))
    promVan := v.promVan || (decide (0 < dt) && decide (v.vanT.toNat ≤ 2 ^ 20) && decide (v.vanT.toNat * dt < (v.van - v.van0) * 2 ^ 20))
    ovf0 := v.ovf, van0 := v.van, tot0 := v.tot }

/-- A commit (R121). -/
def Slot.commit (v : Slot) : Slot :=
  let v := { v with hist := Tab.set 0 v.hist v.ptr v.maxCur, ptr := (v.ptr + 1) % 16, valid := min (v.valid + 1) 16, maxCur := 0 }
  let v := if v.cfg.getLsbD 24 then v.policy else v
  v.watch

/-- CLEAR_COUNTS and RESET_HIST (R127). -/
def Slot.clearCounts (v : Slot) : Slot := { v with ovf := 0, van := 0, tot := 0, ovf0 := 0, van0 := 0, tot0 := 0 }
def Slot.resetHist (v : Slot) : Slot := { v with hist := [], ptr := 0, valid := 0, maxCur := 0 }
/-- The OR of a slot's promote bits (R130). -/
def Slot.promoted (v : Slot) : Bool := v.promVan || v.promOvf
def Slot.promoteClear (v : Slot) : Slot := { v with promVan := false, promOvf := false }

/-- A factor value the core accepts: a positive normal FP32 number (R125). -/
def factorOk (v : Word) : Bool := !v.getLsbD 31 && decide (0 < fld v 23 8 ∧ fld v 23 8 < 255)

/-- Set ENC or DEC of a slot, or leave it and log SCALE_VALUE_INVALID (R125, R143). -/
def State.setFactor (n : Nat) (dec : Bool) (v : Word) (tag : Half) (thread : Nat) (s : State) : State :=
  if factorOk v then s.setSlot n (if dec then { s.slot n with dec := v } else { s.slot n with enc := v })
  else s.raise { code := 0x3004, unit := 3, tag := tag, thread := thread, d0 := w32 n, d1 := v }

/-! Conversion of elements into a tile -/

/-- Telemetry of one element converted into format f (R132). -/
def State.telemetry (f : Nat) (c : SlotClass) (s : State) : State :=
  let s := s.setCtr (0x38410 + 0x20 * f) (s.ctr (0x38410 + 0x20 * f) + 1)
  match c with
  | .none => s
  | .overflowed => s.setCtr (0x38400 + 0x20 * f) (s.ctr (0x38400 + 0x20 * f) + 1)
  | .vanished => s.setCtr (0x38408 + 0x20 * f) (s.ctr (0x38408 + 0x20 * f) + 1)

/-- Elements in stored order. -/
def insElem (e : Elem) : List Elem → List Elem
  | [] => [e]
  | h :: t => if e.sr < h.sr ∨ (e.sr = h.sr ∧ e.sc ≤ h.sc) then e :: h :: t else h :: insElem e t
def sortElems (l : List Elem) : List Elem := l.foldr insElem []

/-- Codes merged into runs of consecutive columns of one stored row. -/
def runsOf : List (Nat × Nat × Nat) → List (Nat × Nat × List Nat)
  | [] => []
  | (r, c, v) :: t =>
    match runsOf t with
    | (r', c', vs) :: t' => if r = r' ∧ c' = c + 1 then (r, c, v :: vs) :: t' else (r, c, [v]) :: (r', c', vs) :: t'
    | [] => [(r, c, [v])]

/-- Split a list into blocks of n. -/
def blocksOf {α : Type} (n : Nat) : Nat → List α → List (List α)
  | 0, _ => []
  | k + 1, l => if l = [] then [] else l.take n :: blocksOf n k (l.drop n)

/-- One converted element beside its source. -/
abbrev Done := Elem × Conv

/-- Convert elements in stored order under a specifier: the scale bytes, and each element with its conversion. Whole
blocks are consecutive (R148, R151). -/
def convElems (spec : Half) (els : List Elem) : List (Nat × Nat × Nat) × List Done :=
  let f := specFmt spec
  let k := specContainer spec
  if k = 0 then ([], els.map fun e => (e, convElem f (specIeee spec) false e.rnd e.fl e.y))
  else
    let one := fun (b : List Elem) =>
      let r := convBlock k f (b.map fun e => (e.y, e.fl, e.rnd))
      (r.1, b.zip r.2)
    let bs := (blocksOf (blockSize k) els.length els).map fun b => (b, one b)
    (bs.filterMap fun b => b.1.head?.map fun e => (e.sr, e.sc, b.2.1), bs.flatMap fun b => b.2.2)

/-- Whether a converted element reads back as a NaN or an infinity. -/
def doneNonfinite (spec : Half) (d : Done) : Bool :=
  if specContainer spec = 0 then (decodeElem (specFmt spec) d.2.code).nonfinite else d.1.y.nonfinite

/-- Store elements through a tile: convert, write codes and scales, gather into the slot, advance the telemetry (stores and
drains of the vector unit, eng 4, R132) and raise the flags of engine `eng`. -/
def storeElems (req eng : Nat) (t : Tile) (spec : Half) (slot : Option Nat) (els : List Elem) (s : State) : State :=
  let r := convElems spec (sortElems els)
  let s := (runsOf (r.2.map fun d => (d.1.sr, d.1.sc, d.2.code))).foldl (fun s u => writeRun req t u.1 u.2.1 u.2.2 s) s
  let s := r.1.foldl (fun s b => writeScale req t b.1 b.2.1 b.2.2 s) s
  r.2.foldl (fun s d => let s := s.gather slot (some d.1.x) d.2.cls
    (if eng = 4 then s.telemetry (specFmt spec) d.2.cls else s).raiseFlags eng d.2.flags) s

/-- Whether any stored value is NaN or infinite (R139). -/
def storesNonfinite (spec : Half) (els : List Elem) : Bool := (convElems spec (sortElems els)).2.any (doneNonfinite spec)

/-- A store's own format rules (R48): a valid specifier that agrees with its tile register. -/
def specChk (src srcCont : Nat) (spec : Half) (t : Tile) : Option Rej :=
  if !specOk src srcCont spec then formatUnsupported 8 spec.toNat
  else if specFmt spec ≠ tFmt t || specContainer spec ≠ tCont t then formatUnsupported 9 spec.toNat
  else none

/-! The generator (R196, R197) -/

/-- Ten rounds of Philox4×32. -/
def philoxRounds : Nat → (Word × Word) → (Word × Word × Word × Word) → Word × Word × Word × Word
  | 0, _, c => c
  | n + 1, (k0, k1), (c0, c1, c2, c3) =>
    let p0 := c0.toNat * 0xD2511F53
    let p1 := c2.toNat * 0xCD9E8D57
    philoxRounds n (k0 + 0x9E3779B9, k1 + 0xBB67AE85)
      (w32 (p1 / 2 ^ 32) ^^^ c1 ^^^ k0, w32 p1, w32 (p0 / 2 ^ 32) ^^^ c3 ^^^ k1, w32 p0)

/-- The generator word of element index e (R197). -/
def genWord (seed : DWord) (step : Word) (cls layer : Nat) (e : DWord) : Word :=
  let i := e.toNat / 4
  let r := philoxRounds 10 (lo32 seed, hi32 seed) (w32 i, w32 (i / 2 ^ 32), w32 (cls * 2 ^ 24 + layer), step)
  match e.toNat % 4 with
  | 0 => r.1
  | 1 => r.2.1
  | 2 => r.2.2.1
  | _ => r.2.2.2

/-- GEN_SEED and GEN_STEP (R210). -/
def State.genSeed (s : State) : DWord := mk64 (s.reg 0x43004) (s.reg 0x43000)
def State.genStep (s : State) : Word := s.reg 0x43008
def State.genOn (s : State) : Bool := s.regBit 0x4300C 0

/-- The generator's checks of a command that draws words: enabled (R210) and the layer in range (R197). -/
def genChk (s : State) (layer : Nat) : Option Rej :=
  if !s.genOn then operandInvalid 10
  else if 2 ^ 24 ≤ layer then operandInvalid 11 layer
  else none

/-- The rounding of one element of a store: stochastic under RND, with the class 2 word of its index (R53, R198). -/
def storeRnd (spec : Half) (seed : DWord) (step : Word) (layer : Nat) (e : DWord) : Rnd :=
  if specStochastic spec then .sr (genWord seed step 2 layer e) else .rne

end Sys2Proof.Machine
end

