-- ==== Sys2Proof/Machine/Order.lean ====
section
/-! DEFINITION. The order between engine commands: what the head of a queue waits for (R20, R22, R86, R122, R134, R135,
R150, R161, R162, R205–R207), and the removal of an issued head. -/

namespace Sys2Proof.Machine

/-! What a command names -/

/-- The stills of a fill target (R83, R110). -/
def targetStills (s : State) : Target → List Nat
  | .joint => s.usable
  | .pairA => s.usable.filter fun i => i < 2
  | .pairB => s.usable.filter fun i => 2 ≤ i

/-- The row capacity of a target (R66). -/
def capacity (s : State) (t : Target) : Nat := ((targetStills s t).map s.mEff).sum

/-- Where A row m goes: still and accumulator row, among stills in ascending order (R84). -/
def placeRow (s : State) : List Nat → Nat → Option (Nat × Nat)
  | [], _ => none
  | i :: t, m => if m < s.mEff i then some (i, m) else placeRow s t (m - s.mEff i)

/-- The slots of a packed fill, still and first accumulator row (R99). -/
def packSlots (s : State) (t : Target) : List (Nat × Nat) :=
  (targetStills s t).flatMap fun i => (List.range (s.mEff i / 8)).map fun r => (i, 8 * r)

/-- The stills of a list that receive one of m rows. -/
def rowStills (s : State) : List Nat → Nat → List Nat
  | [], _ => []
  | i :: t, m => if m = 0 then [] else i :: rowStills s t (m - min m (s.mEff i))

/-- The halves that columns c0 … c0 + n − 1 lie in (R22). -/
def halvesOf (c0 n : Nat) : List Nat :=
  if n = 0 then [] else if c0 / 2048 = (c0 + n - 1) / 2048 then [c0 / 2048] else [0, 1]

/-- The (still, half) pairs a fill writes. -/
def fillHalves (s : State) : EngOp → List (Nat × Nat)
  | .fill f => (rowStills s (targetStills s f.target) (oVal f.m)).flatMap fun i =>
      (halvesOf (oVal f.c0) (oVal f.n)).map fun h => (i, h)
  | .packed fs =>
    match fs with
    | [] => []
    | (f, _) :: _ => ((packSlots s f.target).take fs.length).flatMap fun p =>
        (halvesOf (oVal f.c0) (oVal f.n)).map fun h => (p.1, h)
  | _ => []

/-- The (still, half) pairs of an extent in the accumulators. -/
def extentHalves (lo hi : Nat) : List (Nat × Nat) :=
  ([0, 1, 2, 3, 4, 5, 6, 7] : List Nat).filterMap fun k =>
    let a := 0x08000000 + 0x40000 * k
    if lo < a + 0x40000 ∧ a < hi then some (k / 2, k % 2) else none

/-- The stills a drain reads: those it lists, or every usable one for a packed group not yet known. -/
def drainStills (s : State) (o : DrainOp) : List Nat :=
  match o.group with
  | none => o.stills
  | some g =>
    match s.still.groups.reverse.find? fun e => e.tag == g with
    | some e => [e.still]
    | none => s.usable

/-- Tile registers an operation reads and writes through, for R150; a destination that an APPLY does not name is its source
in place (R323). -/
def optT : Option TRef → List Tile
  | some r => [r.t]
  | none => []
/-- The tile of a column broadcast, of a vector operation's source and of a drain's dropout (R148, R151). -/
def colTile : VSrc → Option TRef
  | .cols t _ => some t
  | _ => none
def keepTile (o : DrainOp) : Option TRef :=
  match o.drop with
  | some (_, .cols t) => some t
  | _ => none
def srcTiles : EngOp → List Tile
  | .vop o => optT (colTile o.a) ++ optT (colTile o.b) ++ optT (colTile o.c)
  | .vload o => [o.tile.t]
  | .drain o => optT o.bias ++ optT (o.deriv.map Prod.snd) ++ optT (keepTile o) ++ optT o.resid
  | .row o => [o.x.t] ++ optT o.x2 ++ optT o.gamma ++ optT o.beta ++ optT o.dgamma ++ optT o.dbeta ++ optT o.stat ++ optT o.stat2
  | .apply o => [o.p.t, o.g.t] ++ optT o.pr ++ optT o.m ++ optT o.v
  | _ => []
def dstTiles : EngOp → List Tile
  | .vstore o => [o.tile.t]
  | .drain o => [o.dst.t] ++ optT (o.aux.map Prod.fst)
  | .row o => [o.out.t] ++ optT o.statOut ++ optT o.dgamma ++ optT o.dbeta
  | .apply o =>
    if o.opt == .trustSums then []
    else [o.pOut.t] ++ optT (o.prOut <|> o.pr) ++ optT (o.mOut <|> o.m) ++ optT (o.vOut <|> o.v)
  | _ => []

/-- The (still, half) pairs an operation of the vector unit reads: a drain's accumulators, and the tiles it loads from
the accumulators' space. -/
def readHalves (s : State) (o : EngOp) : List (Nat × Nat) :=
  (match o with
  | .drain o => (drainStills s o).flatMap fun i => (halvesOf (oVal o.c0) (oVal o.cols)).map fun h => (i, h)
  | _ => []) ++
  (if (match o with | .drain _ => true | .vload _ => true | .vop _ => true | _ => false) then
    (srcTiles o).flatMap fun t => extentHalves (tExtent t).1 (tExtent t).2
  else [])

/-- Whether two extents overlap. -/
def overlap (a b : Nat × Nat) : Bool := decide (a.1 < b.2) && decide (b.1 < a.2)
/-- Whether extents of two lists of tiles overlap. -/
def tilesOverlap (l k : List Tile) : Bool := l.any fun a => k.any fun b => overlap (tExtent a) (tExtent b)

/-- Slots whose ENC a conversion applies and that it gathers into. -/
def convSlots : EngOp → List Nat
  | .vstore o => (tSlot o.tile.t).toList
  | .drain o => (tSlot o.dst.t).toList ++ ((o.aux.map fun a => tSlot a.1.t).join).toList
  | .row o => (tSlot o.out.t).toList
  | _ => []
/-- Slots an operation reads a factor of, DEC included (R120). -/
def slotsRead : EngOp → List Nat
  | .drain o => convSlots (.drain o) ++ (o.decA.map BitVec.toNat).toList ++ (o.decB.map BitVec.toNat).toList
  | o => convSlots o

/-- Slots an operation sets a factor of: a commit, a SCALE_SET, and an END that names a slot (R122, R125, R332). -/
def slotsSet : EngOp → List Nat
  | .scaleCommit n => [n.toNat]
  | .scaleSet n _ _ => [n.toNat]
  | .endStep n => (n.map BitVec.toNat).toList
  | _ => []

/-- Whether an operation draws generator words, so that it latches GEN_STEP at issue (R201); a DMA command does so by the
conversion its descriptor holds. -/
def usesGen (s : State) : EngOp → Bool
  | .dma _ d _ _ => specStochastic (dConv (s.le (oVal d) 128))
  | .drain o => o.drop.isSome || specStochastic o.spec || (o.aux.any fun a => specStochastic a.2)
  | .vstore o => specStochastic o.spec
  | .row o => specStochastic o.spec
  | _ => false

/-- Whether an operation reduces into summary register i (R158, R326). -/
def reducesInto (i : BitVec 4) : EngOp → Bool
  | .vop o => o.reds.any fun r => r.reg == i
  | .drain o => o.reds.any fun r => r.reg == i
  | .apply o => o.opt == .trustSums && (o.sumP == i || o.sumD == i)
  | _ => false

def isFill : EngOp → Bool
  | .fill _ => true
  | .packed _ => true
  | _ => false
def isDrain : EngOp → Bool
  | .drain _ => true
  | _ => false
/-- Commands of the vector unit, row engine and update unit, which R150 orders. -/
def isMemEngine : EngOp → Bool
  | .vop _ => true
  | .vsplit .. => true
  | .vload _ => true
  | .vstore _ => true
  | .drain _ => true
  | .row _ => true
  | .apply _ => true
  | _ => false

/-- The fills inside a fill command. -/
def fillsOf : EngOp → List FillOp
  | .fill f => [f]
  | .packed fs => fs.map Prod.fst
  | _ => []
/-- Whether a fill names a KLUT4 table (R44). -/
def namesTable (t : Nat) (o : EngOp) : Bool :=
  (fillsOf o).any fun f => (tExpand f.stat.t == 1 && tKlut f.stat.t == t) || (tExpand f.strm.t == 1 && tKlut f.strm.t == t)
/-- Whether a fill obeys the dW mask (R188). -/
def namesMask (o : EngOp) : Bool := (fillsOf o).any fun f => tMasked f.stat.t || tMasked f.strm.t

/-! Commands not yet complete -/

/-- Queued commands of the execute thread, a command held at a halted head left out: a rejected command orders nothing
(R86, R245). -/
def State.queuedX (s : State) : List EngCmd :=
  ([17, 18, 19, 20, 21, 22] : List Nat).flatMap fun q =>
    if (s.queue q).halted then (s.queue q).items.drop 1 else (s.queue q).items
/-- Thin requests held by the packing stage. -/
def State.heldX (s : State) : List EngCmd := s.cc.pack.map fun p => ⟨.fill p.1, p.2.1, p.2.2.1, p.2.2.2⟩
/-- Commands of the vector unit, row engine and update unit in progress. -/
def State.runningX (s : State) : List EngCmd :=
  (s.vec.drain.map DrainRun.cmd).toList ++ (s.row.map RowRun.cmd).toList ++ (s.upd.map ApplyRun.cmd).toList
/-- Fills in progress. -/
def State.fillRuns (s : State) : List FillRun := s.still.runA ++ s.still.runB

/-- Commands queued anywhere, a rejected head left out: the other queues issue and complete what they hold (R245). -/
def State.queuedAll (s : State) : List EngCmd :=
  (List.range 23).flatMap (fun q => if (s.queue q).halted then (s.queue q).items.drop 1 else (s.queue q).items) ++ s.heldX

/-- Commands of the same context earlier in program order that have not issued. -/
def State.unissued (s : State) (c : EngCmd) : List EngCmd :=
  s.queuedAll.filter fun e => e.ctx == c.ctx && decide (e.seq < c.seq)
/-- … that have not completed, fills in progress left out. -/
def State.before (s : State) (c : EngCmd) : List EngCmd :=
  s.unissued c ++ s.runningX.filter fun e => e.ctx == c.ctx && decide (e.seq < c.seq)
/-- Whether every earlier engine command of the context has completed (R134, R135, R207). -/
def State.allDone (s : State) (c : EngCmd) : Bool :=
  (s.before c).isEmpty && !(s.fillRuns.any fun r => r.ctx == c.ctx)

/-- Whether every engine command of both contexts and the access thread enqueued before c has completed (R338). -/
def State.quietBefore (s : State) (c : EngCmd) : Bool :=
  !(s.queuedAll.any fun e => decide (e.seq < c.seq)) && s.runningX.isEmpty && s.fillRuns.isEmpty &&
  s.dma.xfers.all fun p => p.2.isEmpty
/-- Whether a MODE enqueued before c has not taken effect (R338), one that was itself rejected left out. -/
def State.modeFirst (s : State) (c : EngCmd) : Bool :=
  ((s.queue 21).items.drop (bit (s.queue 21).halted)).any fun e =>
    (match e.op with | .mode _ => true | _ => false) && decide (e.seq < c.seq)

/-- R150 for a command of the vector unit, row engine or update unit. -/
def memWait (s : State) (c : EngCmd) : Bool :=
  (s.before c).any fun e => isMemEngine e.op &&
    (tilesOverlap (srcTiles c.op ++ dstTiles c.op) (dstTiles e.op) || tilesOverlap (dstTiles c.op) (srcTiles e.op))
/-- R150 for the record array of a REDUCE (R322). -/
def arrayWait (s : State) (c : EngCmd) (a n : Nat) : Bool :=
  (s.before c).any fun e => isMemEngine e.op && (dstTiles e.op).any fun t => overlap (a, a + n) (tExtent t)

/-- Whether fills issued earlier, or earlier in program order, still write one of these halves (R22). -/
def writeWait (s : State) (c : EngCmd) (hs : List (Nat × Nat)) : Bool :=
  (s.fillRuns.any fun r => hs.any fun h => r.stills.contains h.1 && r.halves.contains h.2) ||
  ((s.unissued c).any fun e => (fillHalves s e.op).any fun h => hs.contains h)

/-- The halves that a drain in progress and not later than c in program order, or a DMA transfer in progress, has still to
read. -/
def State.readsLeft (s : State) (c : EngCmd) : List (Nat × Nat) :=
  ((s.vec.drain.filter fun d => d.cmd.ctx != c.ctx || decide (d.cmd.seq < c.seq)).map fun d =>
    d.beats.map (fun b => (b.1, b.2.1 / 2048)) ++ (srcTiles d.cmd.op).flatMap fun t => extentHalves (tExtent t).1 (tExtent t).2).getD [] ++
  s.dma.xfers.flatMap fun p => p.2.flatMap fun x =>
    if srcLocal x.kind && decide (x.run < dRuns x.desc) then
      extentHalves (srcRange x.desc x.sAddr).1.toNat ((srcRange x.desc x.sAddr).2.toNat + 1)
    else []
/-- Whether reads of one of these halves issued earlier have not completed (R22). -/
def readWait (s : State) (c : EngCmd) (hs : List (Nat × Nat)) : Bool :=
  (hs.any fun h => (s.readsLeft c).contains h) ||
  ((s.unissued c).any fun e => (readHalves s e.op).any fun h => hs.contains h)

/-- Whether a conversion waits for an earlier commit or factor write of a slot it reads (R122, R125, R332), or for an
earlier generator step (R201). -/
def factorWait (s : State) (c : EngCmd) : Bool :=
  (s.unissued c).any fun e =>
    ((slotsSet e.op).any fun n => (slotsRead c.op).contains n) || (match e.op with | .genStep _ => usesGen s c.op | _ => false)
/-- Whether a commit or factor write waits for an earlier command that reads or sets a factor of its slot (R122, R125,
R332). -/
def setWait (s : State) (c : EngCmd) : Bool :=
  (s.unissued c).any fun e => (slotsSet c.op).any fun n => (slotsRead e.op ++ slotsSet e.op).contains n
/-- Whether a command of the execute thread, of either context, waits for a packed fill formed before it, which issues first
(R100, R101). -/
def packFirst (s : State) (c : EngCmd) : Bool :=
  c.ctx != .acc && s.queuedX.any fun e => (match e.op with | .packed _ => true | _ => false) && decide (e.seq < c.seq)

/-- Whether the command must stay at the head of its queue for a reason of its own kind (R204). -/
def opWait (s : State) (c : EngCmd) : Bool :=
  match c.op with
  | .fill _ | .packed _ =>
    (s.queuedX.any fun e => (match e.op with | .pairing _ => true | _ => false) && decide (e.ctx = c.ctx ∧ e.seq < c.seq)) ||
    ((s.unissued c).any fun e =>
      match e.op with
      | .klutLoad t _ => namesTable t.toNat c.op
      | .dwMask .. => namesMask c.op
      | _ => false) ||
    readWait s c (fillHalves s c.op)
  | .vsplit .. | .vsetlen .. => s.vec.drain.isSome
  | .vop _ | .vload _ => s.vec.drain.isSome || memWait s c || writeWait s c (readHalves s c.op)
  | .vstore _ | .drain _ => s.vec.drain.isSome || memWait s c || factorWait s c
  | .row _ => s.row.isSome || memWait s c || factorWait s c
  | .apply _ => s.upd.isSome || memWait s c || factorWait s c
  | .record i _ => (s.before c).any fun e => reducesInto i e.op || isDrain e.op
  | .reduce base count _ _ => arrayWait s c (oVal base) (16 * oVal count)
  | .bktAccount .. | .bktFlush _ | .bktReset _ =>
    (s.vec.drain.any fun d => decide (d.cmd.seq < c.seq)) ||
    (((s.queue 19).items.drop (bit (s.queue 19).halted)).any fun e => decide (e.seq < c.seq))
  | .endStep _ => s.upd.isSome || setWait s c
  | .mode _ => !s.quietBefore c
  | .flagClear .. | .flagRead .. => !s.allDone c
  | .sumRead i _ | .sumIndexRead i _ | .predCopy i _ _ _ =>
    (s.before c).any fun e => reducesInto i e.op || (i == 15 && isDrain e.op)
  | .sumClear _ => (s.before c).any fun e => isDrain e.op
  | .scaleCommit n => setWait s c || ((s.before c).any fun e => (convSlots e.op).contains n.toNat)
  | .scaleSet .. => setWait s c
  | .genStep _ => (s.unissued c).any fun e => usesGen s e.op
  | .dma .. => factorWait s c
  | .klutLoad t _ => (s.unissued c).any fun e => namesTable t.toNat e.op
  | .dwMask .. => (s.unissued c).any fun e => isFill e.op
  | .pairing _ => !s.fillRuns.isEmpty || ((s.unissued c).any fun e => isFill e.op)
  | _ => false

/-- Whether the command must stay at the head of its queue. -/
def mustWait (s : State) (c : EngCmd) : Bool := packFirst s c || opWait s c

/-! Issue -/

/-- An engine command has issued: it leaves the head of queue q and counts for its context (R210). -/
def State.issued (q : Nat) (c : EngCmd) (s : State) : State :=
  let s := s.done q c
  match c.ctx with
  | .acc => s
  | .e0 => s.count 0x14010 1
  | .e1 => s.count 0x14018 1

/-- Run f on the command at the head of queue q, when there is one and nothing holds it there. -/
def withHead (q : Nat) (s : State) (f : EngCmd → State → State) : State :=
  match s.headCmd q with
  | some c => if s.modeFirst c || mustWait s c then s else f c s
  | none => s

/-- Check the head's command and reject it, or issue it with effect f. -/
def issueOr (q : Nat) (c : EngCmd) (r : Option Rej) (f : State → State) (s : State) : State :=
  match r with
  | some r => s.reject q c r
  | none => s.issued q c |> f

/-! Context registers -/

/-- The registers of a context. -/
def State.ctxt (s : State) : Ctx → Ctxt
  | .acc => s.cc.acc
  | .e0 => s.cc.e0
  | .e1 => s.cc.e1
def State.setCtxt (c : Ctx) (v : Ctxt) (s : State) : State :=
  match c with
  | .acc => { s with cc := { s.cc with acc := v } }
  | .e0 => { s with cc := { s.cc with e0 := v } }
  | .e1 => { s with cc := { s.cc with e1 := v } }
/-- X register of a context: X0 reads 0 and ignores writes (R227). -/
def State.x (s : State) (c : Ctx) (r : BitVec 5) : DWord := if r = 0 then 0 else Tab.get 0 (s.ctxt c).x r.toNat
def State.setX (c : Ctx) (r : BitVec 5) (v : DWord) (s : State) : State :=
  if r = 0 then s else s.setCtxt c { s.ctxt c with x := Tab.set 0 (s.ctxt c).x r.toNat v }

/-- Live predicate p (R219). -/
def State.pred (s : State) (p : BitVec 3) : Bool := s.cc.p.getLsbD p.toNat
def State.setPred (p : BitVec 3) (v : Bool) (s : State) : State :=
  let m : BitVec 8 := 1 <<< p.toNat
  { s with cc := { s.cc with p := if v then s.cc.p ||| m else s.cc.p &&& ~~~m } }

end Sys2Proof.Machine
end

