-- ==== Sys2Proof/Machine/Control.lean ====
section
/-! DEFINITION. The control core (chapter 07): operand capture and enqueue, the packing stage, scalar instructions, loops
and branches, tile queues, walks, and the skip of a halted thread. -/

namespace Sys2Proof.Machine

/-! Banks -/

/-- Offsets of the TILE and PARAM banks of a thread (R235, R250). -/
def tileBank : Thread → Nat
  | .acc => 0x12000
  | .exe => 0x11000
def paramBank : Thread → Nat
  | .acc => 0x13200
  | .exe => 0x13000

/-- Word w of tile register n, and PARAM p, of a thread's bank. -/
def State.tileWord (s : State) (t : Thread) (n w : Nat) : Word := s.reg (tileBank t + 0x40 * n + 4 * w)
def State.setTileWord (t : Thread) (n w : Nat) (v : Word) (s : State) : State := s.setReg (tileBank t + 0x40 * n + 4 * w) v
def State.param (s : State) (t : Thread) (p : Nat) : DWord := s.ctr (paramBank t + 8 * p)
def State.setParam (t : Thread) (p : Nat) (v : DWord) (s : State) : State := s.setCtr (paramBank t + 8 * p) v

/-- A tile register of a bank (R236). -/
def State.tile (s : State) (t : Thread) (n : Nat) : Tile :=
  let w := s.tileWord t n
  ⟨w 0, w 1, w 2, w 3, w 4, w 5, w 6, w 7, w 8, (List.range 7).any fun i => w (9 + i) != 0⟩

/-! Capture (R211, R295) -/

/-- A value operand at enqueue: the immediate plus the X register plus the PARAM; a PARAM index above 63 stays. -/
def State.capOpd (s : State) (c : Ctx) (o : Opd) : Opd :=
  let x := match o.x with | some r => s.x c r | none => 0
  match o.p with
  | none => ⟨o.imm + x, none, none⟩
  | some p => if p.toNat ≤ 63 then ⟨o.imm + x + s.param c.thread p.toNat, none, none⟩ else ⟨o.imm + x, none, some p⟩

/-- A tile-register operand at enqueue: its content, when it exists. -/
def State.capTRef (s : State) (c : Ctx) (r : TRef) : TRef :=
  if r.idx.toNat ≤ 63 then { r with t := s.tile c.thread r.idx.toNat } else { r with t := Tile.zero }

def mapSrc (o : Opd → Opd) (t : TRef → TRef) : VSrc → VSrc
  | .reg r => .reg r
  | .bcast v => .bcast (o v)
  | .cols r c0 => .cols (t r) (o c0)

/-- An engine operation with its operands captured. -/
def capOp (o : Opd → Opd) (t : TRef → TRef) (bank : List Tile) : EngOp → EngOp
  | .fill f => .fill { f with stat := t f.stat, strm := t f.strm, m := o f.m, k := o f.k, n := o f.n, c0 := o f.c0 }
  | .packed fs => .packed fs
  | .pairing m => .pairing m
  | .packFlush => .packFlush
  | .klutLoad n a => .klutLoad n (o a)
  | .dwMask m r c tab => .dwMask m (o r) (o c) (tab.map t)
  | .vsetlen n x => .vsetlen (o n) x
  | .vop v => .vop { v with a := mapSrc o t v.a, b := mapSrc o t v.b, c := mapSrc o t v.c }
  | .vsplit a d0 d1 d2 => .vsplit a d0 d1 d2
  | .vload m => .vload { m with tile := t m.tile, first := o m.first, layer := o m.layer, base := o m.base, pitch := o m.pitch }
  | .vstore m => .vstore { m with tile := t m.tile, first := o m.first, layer := o m.layer, base := o m.base, pitch := o m.pitch }
  | .drain d => .drain { d with
      c0 := o d.c0, cols := o d.cols, bias := d.bias.map t, deriv := d.deriv.map fun p => (p.1, t p.2),
      drop := d.drop.map fun p => (p.1, match p.2 with | .one w => .one w | .cols r => .cols (t r)),
      resid := d.resid.map t, dst := t d.dst, aux := d.aux.map fun p => (t p.1, p.2), layer := o d.layer,
      base := o d.base, pitch := o d.pitch, auxOff := o d.auxOff }
  | .row r => .row { r with
      rows := o r.rows, n := o r.n, x := t r.x, x2 := r.x2.map t, gamma := r.gamma.map t, beta := r.beta.map t,
      dgamma := r.dgamma.map t, dbeta := r.dbeta.map t, stat := r.stat.map t, stat2 := r.stat2.map t,
      statOut := r.statOut.map t, fac := o r.fac, fac2 := o r.fac2, out := t r.out, layer := o r.layer,
      base := o r.base, pitch := o r.pitch }
  | .apply a => .apply { a with
      p := t a.p, pr := a.pr.map t, m := a.m.map t, v := a.v.map t, g := t a.g, pOut := t a.pOut,
      prOut := a.prOut.map t, mOut := a.mOut.map t, vOut := a.vOut.map t, lr := o a.lr, b1 := o a.b1, b2 := o a.b2,
      eps := o a.eps, wd := o a.wd, mu := o a.mu, rho := o a.rho }
  | .record i a => .record i (o a)
  | .reduce b n m p => .reduce (o b) (o n) (o m) p
  | .endStep n => .endStep n
  | .bktAccount b n => .bktAccount b (o n)
  | .bktFlush b => .bktFlush b
  | .bktReset b => .bktReset b
  | .mode e => .mode e
  | .scaleCommit n => .scaleCommit n
  | .scaleSet n d v => .scaleSet n d (o v)
  | .promotePred n p => .promotePred n p
  | .promoteClear n => .promoteClear n
  | .flagClear e m => .flagClear e m
  | .flagRead e x => .flagRead e x
  | .sumRead i x => .sumRead i x
  | .sumIndexRead i x => .sumIndexRead i x
  | .sumClear i => .sumClear i
  | .predCopy i c v p => .predCopy i c (o v) p
  | .predSet p v => .predSet p (o v)
  | .genStep v => .genStep (o v)
  | .dma ch d p _ => .dma ch (o d) (p.map o) bank
  | .tqPush n v => .tqPush n v
  | .addrPush ch a => .addrPush ch (o a)
  | .wait a v p => .wait (o a) (o v) p
  | .take a v p => .take (o a) (o v) p
  | .signal f a v h => .signal f (o a) (o v) h
  | .dec f a v => .dec f (o a) (o v)
  | .arrive b => .arrive b

/-- An engine operation captured for a context (R211). -/
def State.capture (s : State) (c : Ctx) (op : EngOp) : EngOp :=
  capOp (s.capOpd c) (s.capTRef c) ((List.range 64).map (s.tile .acc)) op

/-- Whether queue q takes an operation from a context (R230, R248). -/
def queueTakes (c : Ctx) (q : Nat) (op : EngOp) : Bool :=
  let exe := c != .acc
  let own := if exe then decide (17 ≤ q ∧ q ≤ 22) else decide (q ≤ 16)
  match op with
  | .fill f => exe && (if f.target = .pairB then q == 18 else q == 17)
  | .packed _ => false
  | .pairing _ | .packFlush | .klutLoad .. | .dwMask .. | .scaleCommit _ | .scaleSet .. | .promotePred .. | .promoteClear _
  | .flagClear .. | .flagRead .. | .sumRead .. | .sumIndexRead .. | .sumClear _ | .predCopy .. => exe && q == 22
  | .vsetlen .. | .vop _ | .vsplit .. | .vload _ | .vstore _ | .drain _ => exe && q == 19
  | .row _ => exe && q == 20
  | .apply _ | .record .. | .reduce .. | .endStep _ | .bktAccount .. | .bktFlush _ | .bktReset _ | .mode _ => exe && q == 21
  | .predSet .. | .genStep _ => if exe then q == 22 else q == 16
  | .dma ch .. => !exe && decide (q ≤ 15) && (ch.toNat == q || decide (15 < ch.toNat))
  | .tqPush .. => false
  | .addrPush .. => !exe && q == 16
  | .wait .. | .take .. | .signal .. | .dec .. | .arrive _ => own

/-! Placing in a queue (R230, R231) -/

/-- Whether queue q has a free entry. -/
def State.room (s : State) (q : Nat) : Bool := decide ((s.queue q).items.length < 32)
/-- The queues an operation enters: a JOINT fill enters both fill queues. -/
def entersQueues (q : Nat) (op : EngOp) : List Nat :=
  match op with
  | .fill f => if f.target = .joint then [17, 18] else [q]
  | .packed ((f, _) :: _) => if f.target = .joint then [17, 18] else [q]
  | _ => [q]
def State.push (q : Nat) (e : EngCmd) (s : State) : State := s.setQueue q { (s.queue q) with items := (s.queue q).items ++ [e] }
/-- Place a command in its queues and count it (R250); none while one of them is full. -/
def State.place (q : Nat) (e : EngCmd) (s : State) : Option State :=
  let qs := entersQueues q e.op
  if qs.all s.room then
    some ((qs.foldl (fun s q => s.push q e) s).count (if e.ctx.thread = .acc then 0x10128 else 0x10130) 1)
  else none

/-! The packing stage (R100) -/

/-- PACK_HOLD and PACK_EN direct that thin requests are held. -/
def State.packOn (s : State) : Bool := s.regBit 0x24000 1 && s.regFld 0x24000 16 16 != 0
/-- Whether a captured fill is a thin request. -/
def isThin (f : FillOp) : Bool := decide (oVal f.m ≤ 8 ∧ 0 < oVal f.m) && !f.keep && !f.fanout
/-- Whether two thin requests agree in the fields one packed fill fixes. -/
def samePack (a b : FillOp) : Bool :=
  a.target == b.target && a.strm == b.strm && oVal a.k == oVal b.k && oVal a.n == oVal b.n && oVal a.c0 == oVal b.c0 &&
  a.overwrite == b.overwrite && a.neg == b.neg && a.stat.t.format == b.stat.t.format
def fillQueue (f : FillOp) : Nat := if f.target = .pairB then 18 else 17

/-- Issue the pending set as one packed fill, which carries the tag of its oldest request (R101); none while its queue
is full. -/
def State.packFlush (s : State) : Option State :=
  match s.cc.pack with
  | [] => some s
  | (f, tag, c, n) :: _ =>
    ({ s with cc := { s.cc with pack := [] } }).place (fillQueue f) ⟨.packed (s.cc.pack.map fun (p : FillOp × Half × Ctx × Nat) => (p.1, p.2.1)), tag, c, n⟩

/-- Whether the pending set occupies every slot of its target (R100). -/
def State.packFull (s : State) : Bool :=
  match s.cc.pack with
  | [] => false
  | (f, _) :: _ => decide ((packSlots s f.target).length ≤ s.cc.pack.length)

/-- Hold a thin request; a full set issues at once when its queue has room. -/
def State.packHold (f : FillOp) (tag : Half) (c : Ctx) (s : State) : State :=
  let s := { s with cc := { s.cc with pack := s.cc.pack ++ [(f, tag, c, s.cc.seq)], seq := s.cc.seq + 1 } }
  if s.packFull then (s.packFlush).getD s else s

/-- Enqueue a captured command of a context (R100, R230, R231); none while it stalls, as a thin request does while the
pending set is full and its queue has no room. -/
def State.enqueue (c : Ctx) (q : Nat) (op : EngOp) (tag : Half) (s : State) : Option State :=
  let put := fun (s : State) => ({ s with cc := { s.cc with seq := s.cc.seq + 1 } }).place q ⟨op, tag, c, s.cc.seq⟩
  if c = .acc then put s
  else
    match op with
    | .fill f =>
      if isThin f && s.packOn then
        match s.cc.pack with
        | [] => some (s.packHold f tag c)
        | (g, _) :: _ => if samePack g f && !s.packFull then some (s.packHold f tag c) else s.packFlush.map fun s => s.packHold f tag c
      else s.packFlush.bind put
    | _ => s.packFlush.bind put

/-! Instructions -/

/-- Commands that return a value to an X register (R145, R135, R162). -/
def returnsX : EngOp → Bool
  | .vsetlen .. => true
  | .sumRead .. => true
  | .sumIndexRead .. => true
  | .flagRead .. => true
  | _ => false
/-- Whether a context still waits for such a value. -/
def State.owedX (s : State) (c : Ctx) : Bool := s.queuedX.any fun e => e.ctx == c && returnsX e.op

def State.halted (s : State) (t : Thread) : Bool := match t with | .acc => s.cc.haltAcc | .exe => s.cc.haltExe

/-- Whether a context may execute its next instruction. -/
def State.threadGo (s : State) (c : Ctx) : Bool :=
  s.inService && (s.ctxt c).run && !s.halted c.thread && (s.ctxt c).walk.isNone && !s.owedX c

/-- The address an instruction is fetched from: the program counter counts bytes in the bank in service. -/
def State.fetchAddr (s : State) (c : Ctx) : Nat := 0x0A000000 + 0x40000 * bit s.cc.inService + (s.ctxt c).pc.toNat

/-- End loops whose body the program counter has left, and repeat the one whose end it has reached (R229). -/
def loopEnd (pc : Word) : List LoopRec → Word × List LoopRec
  | [] => (pc, [])
  | r :: t =>
    if pc = r.stop then
      if r.iter + 1 < r.count then (r.start, { r with iter := r.iter + 1 } :: t) else loopEnd pc t
    else (pc, r :: t)

/-- Go to a program counter reached in sequence. -/
def State.goto (c : Ctx) (pc : Word) (s : State) : State :=
  let r := loopEnd pc (s.ctxt c).loops
  s.setCtxt c { s.ctxt c with pc := r.1, loops := r.2, stall := none }
/-- Go to the next instruction. -/
def State.advance (c : Ctx) (s : State) : State := s.goto c (Config.nextPc (s.ctxt c).pc)

/-- A control-core instruction that is not executed: counted, and under REJECT_HALT the thread halts (R245). The stream goes
on with the instruction absent. -/
def State.dropInstr (c : Ctx) (s : State) : State :=
  let s := (s.count 0x10120 1).orReg 0x10004 0x100
  (if s.regBit 0x10000 0 then s.haltThread c.thread else s).advance c
/-- The rejection of a control-core instruction, logged (R229, R234, R245, R249). -/
def State.rejectInstr (c : Ctx) (e : Err) (s : State) : State :=
  (s.raise { e with tag := (s.ctxt c).tag, thread := ctxNum c }).dropInstr c

/-- Fetching the instruction at the program counter checks its ECC word: a corrected word is written back and counted, an
uncorrectable one logged with what step 1 of R245 logs (R253, R255). -/
def State.fetched (c : Ctx) (s : State) : State :=
  if s.eccCorr.contains (eccBase (s.fetchAddr c)) || s.poisonedAt (s.fetchAddr c) then
    s.touchBy { req := 9, tag := (s.ctxt c).tag, thread := ctxNum c } (s.fetchAddr c) 1
  else s

/-- Execute one instruction of a context: nothing while it may not run; an uncorrectable word halts it (R255). A stalled
context executes only the instruction that it stalled at, one that may stall in the ways `ks` (R21, R231, R233). -/
def instr (c : Ctx) (ks : List (Nat × Nat)) (s : State) (f : State → State) : Out := runFast s fun s =>
  if !s.threadGo c || !((s.ctxt c).stall.all fun k => ks.contains k) then s
  else if s.poisonedAt (s.fetchAddr c) then (s.fetched c).dropInstr c
  else f (s.fetched c)

/-- OPERAND_INVALID of a control-core instruction (R249). -/
def badIndex (cond n : Nat) : Err := { code := 0x3005, unit := 1, cond := cond, d0 := w32 n }

/-- The result of a two-operand scalar operation (R228). -/
def aluVal (f : Alu) (a b : DWord) : DWord :=
  let n := b.toNat
  match f with
  | .add => a + b
  | .sub => a - b
  | .mul => a * b
  | .and => a &&& b
  | .or => a ||| b
  | .xor => a ^^^ b
  | .sll => if 64 ≤ n then Config.shiftBeyond f a b else a <<< n
  | .srl => if 64 ≤ n then Config.shiftBeyond f a b else a >>> n
  | .sra => if 64 ≤ n then Config.shiftBeyond f a b else BitVec.sshiftRight a n
  | .eq => w64 (bit (a == b))
  | .ne => w64 (bit (a != b))
  | .lt => w64 (bit (BitVec.slt a b))
  | .ltu => w64 (bit (BitVec.ult a b))
  | .le => w64 (bit (!BitVec.slt b a))
  | .leu => w64 (bit (!BitVec.ult b a))

/-- The current iteration of a loop unit (R229). -/
def State.loopIter (s : State) (c : Ctx) (u : Nat) : Nat :=
  (((s.ctxt c).loops.find? fun r => r.unit == u).map LoopRec.iter).getD 0

/-- CORE_STATE.STATE (R443). -/
def coreNum : CoreState → Nat
  | .powerOn => 0
  | .boot => 1
  | .mgmtReady => 2
  | .hostStream => 3
  | .gang => 4
  | .bootFailed => 5
/-- CORE_STATE changes (R443, R465). -/
def State.setCore (c : CoreState) (s : State) : State :=
  let f := match s.sys.fence with | .inService => 0 | .fencing => 1 | .fenced => 2
  { s with sys := { s.sys with core := c } }.blotter 9 3 0 (w32 (coreNum c + f * 2 ^ 4 + bit s.evalMode * 2 ^ 8))
/-- FENCE_STATUS.STATE changes. -/
def State.setFence (f : FenceState) (s : State) : State := ({ s with sys := { s.sys with fence := f } }).setCore s.sys.core
/-- Whether both threads stand between two macro-commands: none is in dispatch, no replay body, no handler (R217, R243). -/
def State.atBoundary (s : State) : Bool :=
  (([s.cc.dispAcc, s.cc.dispExe] : List Disp).all fun d => d.cur.isNone && d.replay.isNone) && !s.cc.acc.run && !s.cc.e0.run
/-- A change of mode that waits for a macro-command boundary takes place there (R243, R458). -/
def State.settleMode (s : State) : State :=
  match s.mgmt.modeNext with
  | some c => if s.atBoundary then ({ s with mgmt := { s.mgmt with modeNext := none } }).setCore c else s
  | none => s

/-- SCALAR_INSTRUCTION (R228, R229). -/
def execScalarInstruction (c : Ctx) (op : ScalarOp) (s : State) : Out := instr c [] s fun s =>
  match op with
  | .alu f d a b =>
    let o := s.capOpd c b
    if opdBad o then s.rejectInstr c (badIndex 1 64) else (s.setX c d (aluVal f (s.x c a) o.imm)).advance c
  | .param d p =>
    if 63 < p.toNat then s.rejectInstr c (badIndex 1 p.toNat) else (s.setX c d (s.param c.thread p.toNat)).advance c
  | .iter d u => (s.setX c d (w64 (s.loopIter c u.toNat))).advance c
  | .setCount u a =>
    (s.setCtxt c { s.ctxt c with
      counts := Tab.set 0 (s.ctxt c).counts u.toNat (lo32 (s.x c a)), written := (s.ctxt c).written ||| (1 : BitVec 4) <<< u.toNat }).advance c
  | .barGen d b => (s.setX c d ((s.reg (0x60114 + 0x20 * b.toNat)).setWidth 64)).advance c
  | .fin => (s.setCtxt c { s.ctxt c with run := false, loops := [], stall := none }).settleMode

/-- Whether a branch is taken (R228). -/
def State.taken (s : State) (c : Ctx) : BrCond → Bool
  | .zero a neg => (s.x c a == 0) != neg
  | .cmp f a b => aluVal f (s.x c a) (s.x c b) != 0
  | .pred p neg => s.pred p != neg

/-- The loops that a branch target stays inside of (R229). -/
def loopsAt (pc : Word) : List LoopRec → List LoopRec
  | [] => []
  | r :: t => if r.start.toNat ≤ pc.toNat ∧ pc.toNat < r.stop.toNat then r :: t else loopsAt pc t

/-- BRANCH (R228, R229). -/
def execBranch (c : Ctx) (b : BrCond) (target : Word) (s : State) : Out := instr c [] s fun s =>
  if s.taken c b then
    let s := s.setCtxt c { s.ctxt c with loops := loopsAt target (s.ctxt c).loops }
    s.goto c target
  else s.advance c

/-- LOOP (R229): a fifth nested entry is LOOP_DEPTH; a count of 0 skips the body. A write of the unit's count register since
its last entry gives the count in place of the operand (DEDUCED, log entry 72). -/
def execLoop (c : Ctx) (u : BitVec 2) (count : Opd) (endPc : Word) (s : State) : Out := instr c [] s fun s =>
  let o := s.capOpd c count
  let n := if (s.ctxt c).written.getLsbD u.toNat then Tab.get 0 (s.ctxt c).counts u.toNat else lo32 o.imm
  if opdBad o then s.rejectInstr c (badIndex 1 64)
  else if 4 ≤ (s.ctxt c).loops.length then s.rejectInstr c { code := 0x3008, unit := 1, cond := 1 }
  else
    let v := s.ctxt c
    let v := { v with counts := Tab.set 0 v.counts u.toNat n, written := v.written &&& ~~~((1 : BitVec 4) <<< u.toNat) }
    if n = 0 then (s.setCtxt c v).goto c endPc
    else s.setCtxt c { v with pc := Config.nextPc v.pc, loops := ⟨u.toNat, n.toNat, 0, Config.nextPc v.pc, endPc⟩ :: v.loops }

/-- PARAM_SET (R225). -/
def execParamSet (c : Ctx) (p : BitVec 8) (v : Opd) (s : State) : Out := instr c [] s fun s =>
  let o := s.capOpd c v
  if 63 < p.toNat || opdBad o then s.rejectInstr c (badIndex 1 p.toNat)
  else (s.setParam c.thread p.toNat o.imm).advance c

/-- TILE_SET (R235). -/
def execTileSet (c : Ctx) (t : BitVec 8) (words : List (Nat × Word)) (s : State) : Out := instr c [] s fun s =>
  if 63 < t.toNat then s.rejectInstr c (badIndex 1 t.toNat)
  else (words.foldl (fun s w => if w.1 < 16 then s.setTileWord c.thread t.toNat w.1 w.2 else s) s).advance c

/-- TRACE_MARK (R248, R465). -/
def execTraceMark (c : Ctx) (mark : Word) (s : State) : Out := instr c [] s fun s =>
  (s.blotter 2 (ctxNum c) (s.ctxt c).tag mark).advance c

/-- Whether a context can take the next enqueue of the execute thread: it runs, and the queue it stalls at, if it does, has
room again, and so have the fill queues, which a joint fill and the packing stage need too (R204). -/
def State.offers (s : State) (c : Ctx) : Bool :=
  s.inService && (s.ctxt c).run && !s.halted c.thread && !s.owedX c &&
    (match (s.ctxt c).stall with | none => true | some (6, q) => s.room q && s.room 17 && s.room 18 | _ => false)
/-- Whether the context waits with an engine command at a queue that was full. -/
def State.atIssue (s : State) (c : Ctx) : Bool := match (s.ctxt c).stall with | some (6, _) => true | _ => false
/-- Whether a context must leave the next enqueue of the execute thread to the other one (R204): E0 to an E1 that has waited
STARVE SCLK and can take it, E1 otherwise to an E0 whose command waits and can be taken. -/
def State.yields (s : State) (c : Ctx) : Bool :=
  match c with
  | .acc => false
  | .e0 => s.cc.e1Next && s.offers .e1
  | .e1 => !s.cc.e1Next && s.atIssue .e0 && s.offers .e0
/-- E1 has taken its issue. -/
def State.served (c : Ctx) (s : State) : State := if c = .e1 then { s with cc := { s.cc with e1Next := false } } else s

/-- The present instruction of a context stalls (R315). -/
def State.stalled (c : Ctx) (kind n : Nat) (s : State) : State := s.setCtxt c { s.ctxt c with stall := some (kind, n) }

/-- ENGINE_COMMAND_ENQUEUE (R211, R231): the next instruction of the context places an engine command in queue q; it
stalls while the queue is full. -/
def execEngineCommandEnqueue (c : Ctx) (q : Nat) (op : EngOp) (s : State) : Out := instr c [(6, q)] s fun s =>
  if s.yields c || !queueTakes c q op then s
  else
    let op := s.capture c op
    let tag := match op with | .fill f => f.tag.getD (s.ctxt c).tag | _ => (s.ctxt c).tag
    match (s.served c).enqueue c q op tag with
    | some s => s.advance c
    | none => s.stalled c 6 q

/-- E1_STARVE_ISSUE (R204): E1, which waits for an issue it can take while E0 could take it too, has waited STARVE SCLK and
takes the next one. -/
def execE1StarveIssue (s : State) : Out := runFast s fun s =>
  if s.regBit 0x14000 0 && s.regFld 0x14000 16 16 != 0 && s.offers .e1 && !s.cc.e1Next then
    ({ s with cc := { s.cc with e1Next := true } }).count 0x14020 1
  else s

/-! Tile queues (R233, R234) -/

def State.tq (s : State) (i : Nat) : List (Nat × Bool × Word) := Tab.get [] s.cc.tqs i
def State.setTq (i : Nat) (v : List (Nat × Bool × Word)) (s : State) : State := { s with cc := { s.cc with tqs := Tab.set [] s.cc.tqs i v } }

/-- TQ_PUSH (R233): reserve a token position and enqueue the push in queue q; the access thread stalls while the tile
queue or the engine queue is full. Its operands are checked at issue (R249). -/
def execTqPush (tq : BitVec 4) (v : Opd) (q : Nat) (s : State) : Out := instr .acc [(4, tq.toNat), (6, q)] s fun s =>
  let o := s.capOpd .acc v
  if 16 < q then s
  else
    let ok := decide (tq.toNat ≤ 7)
    if ok && decide (64 ≤ (s.tq tq.toNat).length) then s.stalled .acc 4 tq.toNat
    else
      match s.enqueue .acc q (.tqPush tq o) s.cc.acc.tag with
      | some s' =>
        (if ok then s'.setTq tq.toNat (s'.tq tq.toNat ++ [(s.cc.seq, false, lo32 o.imm)]) else s').advance .acc
      | none => s.stalled .acc 6 q

/-- Whether an arrival that queue q sent to a peer or fabric word is not yet answered (R298). -/
def State.arriveOut (s : State) (q : Nat) : Bool :=
  s.dma.streams.any fun p => match p.2 with | .sync o => o.what == 1 && o.q == q | _ => false
/-- Whether every command issued from queue q has completed (R233, R298). -/
def State.queueQuiet (s : State) (q : Nat) : Bool :=
  !s.arriveOut q &&
  if q ≤ 15 then Tab.get [] s.dma.xfers q == []
  else if q = 17 then s.still.runA == []
  else if q = 18 then s.still.runB == [] && !(s.still.runA.any FillRun.joint)
  else if q = 19 then s.vec.drain.isNone
  else if q = 20 then s.row.isNone
  else if q = 21 then s.upd.isNone
  else true

/-- TQ_TOKEN_VISIBLE (R233): the push at the head of queue q, every earlier command of the queue complete; a rejected push
gives its reserved position up (R245). -/
def execTqTokenVisible (q : Nat) (s : State) : Out := runFast s fun s => withHead q s fun c s =>
  match c.op with
  | .tqPush tq v =>
    if !s.queueQuiet q then s
    else
      let l := s.tq tq.toNat
      match firstRej [failIf (7 < tq.toNat) (operandInvalid 1 tq.toNat), failIf (opdBad v) (operandInvalid 2)] with
      | some r => (if tq.toNat ≤ 7 then s.setTq tq.toNat (l.filter fun e => e.1 != c.seq) else s).reject q c r
      | none =>
        let show1 : Nat × Bool × Word → Nat × Bool × Word := fun e => if e.1 = c.seq then (e.1, true, e.2.2) else e
        (s.issued q c).setTq tq.toNat (l.map show1)
  | _ => s

/-- Whether the token that a pop of tile queue n awaits waits behind an incomplete PREFETCH transfer (R287). -/
def State.awaitsPrefetch (s : State) (n : Nat) : Bool :=
  match s.tq n with
  | (seq, false, _) :: _ => s.dma.xfers.any fun p => p.2.any fun x => dPrefetch x.desc && decide (x.cmd.seq < seq) &&
      ((s.queue p.1).items.any fun e => e.seq == seq)
  | _ => false

/-- TQ_POP (R233, R234): stalls until a visible token is at the head. -/
def execTqPop (c : Ctx) (tq : BitVec 4) (x : BitVec 5) (s : State) : Out := instr c [(5, tq.toNat)] s fun s =>
  let n := tq.toNat
  if 7 < n then s.rejectInstr c (badIndex 1 n)
  else if c = .acc || (s.regBit (0x10300 + 4 * n) 16 != (c == .e1)) then s.rejectInstr c (badIndex 2 n)
  else
    match s.tq n with
    | (_, true, v) :: t => ((s.setTq n t).setX c x (v.setWidth 64)).advance c
    | _ => if s.awaitsPrefetch n && (s.ctxt c).stall != some (5, n) then (s.stalled c 5 n).count 0x502A8 1 else s.stalled c 5 n

/-- A write of TQ_STAT_i.CTX: an empty tile queue is bound anew (R234). -/
def State.tqBind (i : Nat) (v : Word) (s : State) : State := if s.tq i = [] then s.setReg (0x10300 + 4 * i) (v &&& 0x10000) else s
/-- TQ_BIND_WRITE (R234). -/
def execTqBindWrite (i : BitVec 3) (v : Word) (s : State) : Out := runSlow s (State.tqBind i.toNat v)

/-- ADDR_PUSH (R240, R263): the push at the head of ACTL. Each channel's address FIFO holds 64 addresses. -/
def execAddrPush (s : State) : Out := runFast s fun s => withHead 16 s fun c s =>
  match c.op with
  | .addrPush ch a =>
    let n := ch.toNat
    let fifo := Tab.get [] s.cc.afifo n
    if 15 < n || opdBad a then s.reject 16 c { code := 0x3005, cond := 1, d0 := w32 n }
    else if 64 ≤ fifo.length then s
    else { s.issued 16 c with cc := { (s.issued 16 c).cc with afifo := Tab.set [] s.cc.afifo n (fifo ++ [a.imm]) } }
  | _ => s

/-! Walks (R239) -/

/-- The next index vector of a walk, innermost first; none when it is exhausted. -/
def walkNext : List Nat → List Nat → Option (List Nat)
  | c :: cs, i :: is =>
    if i + 1 < c then some ((i + 1) :: is)
    else match walkNext cs is with | some r => some (0 :: r) | none => none
  | _, _ => none

/-- The fill of a walk at an index vector. -/
def walkFill (r : WalkRun) : FillOp :=
  let dot := fun (f : Word × Word × Word → Int) => ((r.levels.zip r.idx).map fun p => (p.2 : Int) * f p.1).sum
  let move := fun (b : Word) (d : Int) => b + BitVec.ofInt 32 d
  let step : Word → Int := fun w => (w.extractLsb' 20 12).toInt
  let first := (r.levels.zip r.idx).all fun p => !p.1.1.getLsbD 16 || p.2 == 0
  let f := r.f
  { f with
    stat := { f.stat with t := { f.stat.t with base := move f.stat.t.base (dot fun l => l.2.1.toInt) } }
    strm := { f.strm with t := { f.strm.t with base := move f.strm.t.base (dot fun l => l.2.2.toInt) } }
    c0 := { f.c0 with imm := f.c0.imm + BitVec.ofInt 64 (8 * dot fun l => step l.1) }
    overwrite := f.overwrite && first }

/-- Enqueue the fills of a walk while its queue has room. -/
def walkGo (c : Ctx) : Nat → WalkRun → State → State
  | 0, r, s => s.setCtxt c { s.ctxt c with walk := some r, stall := none }
  | n + 1, r, s =>
    let f := walkFill r
    match s.enqueue c (fillQueue f) (.fill f) (f.tag.getD (s.ctxt c).tag) with
    | none => s.setCtxt c { s.ctxt c with walk := some r, stall := some (6, fillQueue f) }
    | some s =>
      match walkNext (r.levels.map fun l => fld l.1 0 16) r.idx with
      | some i => walkGo c n { r with idx := i } s
      | none => (s.setCtxt c { s.ctxt c with walk := none }).advance c

/-- FILL_WALK (R239): captures the template and the walk and enqueues its fills; when its queue fills up, the next
FILL_WALK of the context goes on where it stopped (log entry 2). -/
def execFillWalk (c : Ctx) (f : FillOp) (w : BitVec 6) (s : State) : Out :=
  match (s.ctxt c).walk with
  | some r => runFast s fun s => if s.inService && !s.halted c.thread && !s.yields c then walkGo c 1024 r (s.served c) else s
  | none => instr c [] s fun s =>
    if c = .acc then s
    else if 15 < w.toNat then s.rejectInstr c (badIndex 1 w.toNat)
    else
      let word := fun (i : Nat) => s.reg (0x13800 + 0x80 * w.toNat + 4 * i)
      let levels := (List.range 6).map fun l => (word (4 * l), word (4 * l + 1), word (4 * l + 2))
      if levels.any fun l => fld l.1 0 16 == 0 then s.advance c
      else
        match s.capture c (.fill f), s.yields c with
        | .fill f, false => walkGo c 1024 ⟨f, w.toNat, levels, [0, 0, 0, 0, 0, 0]⟩ (s.served c)
        | _, _ => s

/-! Packing -/

/-- PACK_HOLD_EXPIRE (R100). -/
def execPackHoldExpire (s : State) : Out := runFast s fun s => s.packFlush.getD s

/-- PACK_FLUSH (R100): the flush at the head of XCTL; the pending set has issued when it was enqueued, and any set
formed since issues now. -/
def execPackFlush (s : State) : Out := runFast s fun s => withHead 22 s fun c s =>
  match c.op with
  | .packFlush => issueOr 22 c none (fun s => s.packFlush.getD s) s
  | _ => s

/-- A write of STILL_ARRAY_CFG (R98, R100, R114). -/
def State.stillCfgWrite (v : Word) (s : State) : State :=
  let s := s.setReg 0x24000 (v &&& 0xFFFF0003)
  if s.packOn then s else s.packFlush.getD s
/-- STILL_ARRAY_CFG_WRITE (R98, R100, R114). -/
def execStillArrayCfgWrite (v : Word) (s : State) : Out := runSlow s (State.stillCfgWrite v)

/-! Skip (R247) -/

/-- Drop the held command of a queue, when it is halted; a wait behind it that had begun gives its watch entry up and begins
again at the head (R301). -/
def State.skipQueue (q : Nat) (s : State) : State :=
  if (s.queue q).halted then (s.setQueue q { (s.queue q) with items := (s.queue q).items.drop 1, halted := false }).endWait q else s
/-- Drop the held commands of a list of queues. -/
def State.skipQueues (qs : List Nat) (s : State) : State := qs.foldl (fun s q => s.skipQueue q) s
/-- Whether every engine queue is empty, a command held at a halted head included, and no thin request is pending. -/
def State.queuesIdle (s : State) : Bool := (s.cc.queues.all fun q => q.2.items.isEmpty) && s.cc.pack.isEmpty

/-- CC_CTRL.SKIP_ACC (R247). -/
def State.skipAcc (s : State) : State :=
  let s := s.skipQueues (List.range 17)
  { s with cc := { s.cc with haltAcc := false, dispAcc := { s.cc.dispAcc with halted := false } } }
/-- CC_SKIP_ACC (R247). -/
def execCcSkipAcc (s : State) : Out := runSlow s State.skipAcc
/-- CC_CTRL.SKIP_EXE (R247). -/
def State.skipExe (s : State) : State :=
  let s := s.skipQueues [17, 18, 19, 20, 21, 22]
  { s with cc := { s.cc with haltExe := false, dispExe := { s.cc.dispExe with halted := false } } }

/-- CC_SKIP_EXE (R247). -/
def execCcSkipExe (s : State) : Out := runSlow s State.skipExe

/-- A register-port write of a PARAM word (R225): the low word is held until the high word is written. -/
def execParamRegisterWrite (exe : Bool) (p : BitVec 6) (hi : Bool) (v : Word) (s : State) : Out := runSlow s fun s =>
  let t : Thread := if exe then .exe else .acc
  let off := paramBank t + 8 * p.toNat
  if hi then
    let lo := (s.lowHeld.find? fun e => e.1 == off).map Prod.snd
    (s.setParam t p.toNat (mk64 v (lo.getD (lo32 (s.param t p.toNat))))) |> fun s => { s with lowHeld := s.lowHeld.erase off }
  else { s with lowHeld := s.lowHeld.insert off v }

end Sys2Proof.Machine
end

