-- ==== Sys2Proof/Machine/Crc.lean ====
section
/-! DEFINITION. Cyclic redundancy checks (R372), with the parameters of R407 and R361. -/

namespace Sys2Proof.Machine

/-- The low n bits of a number in reverse order. -/
def reflect (n v : Nat) : Nat := (List.range n).foldl (fun r i => r + v / 2 ^ i % 2 * 2 ^ (n - 1 - i)) 0

/-- The parameters of a CRC of width w. -/
structure Crc where
  w : Nat
  poly : Nat
  init : Nat
  refin : Bool
  refout : Bool
  xorout : Nat
  deriving DecidableEq, Repr

/-- One bit, and one byte, of the register (R372). -/
def Crc.bit (c : Crc) (reg : Nat) : Nat :=
  if reg / 2 ^ (c.w - 1) % 2 = 1 then (reg * 2 ^^^ c.poly % 2 ^ c.w) % 2 ^ c.w else reg * 2 % 2 ^ c.w
def Crc.bits (c : Crc) : Nat → Nat → Nat
  | 0, reg => reg
  | n + 1, reg => Crc.bits c n (c.bit reg)
def Crc.byte (c : Crc) (reg : Nat) (b : Byte) : Nat :=
  c.bits 8 (reg ^^^ (if c.refin then reflect 8 b.toNat else b.toNat) * 2 ^ (c.w - 8))
/-- The register after a list of bytes, and the finished value. -/
def Crc.run (c : Crc) (reg : Nat) (bs : List Byte) : Nat := bs.foldl c.byte reg
def Crc.result (c : Crc) (reg : Nat) : Nat := (if c.refout then reflect c.w reg else reg) ^^^ c.xorout % 2 ^ c.w
/-- The CRC of a list of bytes. -/
def Crc.of (c : Crc) (bs : List Byte) : Nat := c.result (c.run (c.init % 2 ^ c.w) bs)

/-- CRC-32 of R407. -/
def crc32 : Crc := ⟨32, 0x04C11DB7, 0xFFFFFFFF, true, true, 0xFFFFFFFF⟩
/-- CRC-64 of R361. -/
def crc64 : Crc := ⟨64, 0x42F0E1EBA9EA3693, 0xFFFFFFFFFFFFFFFF, true, true, 0xFFFFFFFFFFFFFFFF⟩

end Sys2Proof.Machine
end

