-- ==== Sys2Proof/Machine/Macro.lean ====
section
/-! DEFINITION. The Atomiser and the dispatch of macro-commands (R212–R226, R241–R246, R398–R400, R463). -/

namespace Sys2Proof.Machine

/-- Whether a double word is a COUNTER sync word: KIND 0, reserved bits 0 (R291). -/
def counterOk (d : DWord) : Bool := hi32 d == 0
/-- Whether the TAIL and HEAD of a ring at an address are COUNTER sync words (R13, R215, R451). -/
def State.ringWordsOk (s : State) (b : Nat) : Bool := counterOk (s.dword b) && counterOk (s.dword (b + 8))

/-! The run-ahead queue and its sources -/

/-- Dispatch stages. -/
def State.disp (s : State) (t : Thread) : Disp := match t with | .acc => s.cc.dispAcc | .exe => s.cc.dispExe
def State.setDisp (t : Thread) (d : Disp) (s : State) : State :=
  match t with
  | .acc => { s with cc := { s.cc with dispAcc := d } }
  | .exe => { s with cc := { s.cc with dispExe := d } }

/-- Return a credit for each free entry that no credit covers, once the port is open and unless a thread is stopped
(R216, R399, R464). -/
def State.settleCredits (s : State) : State :=
  let n := 512 - s.cc.runahead.length - s.cc.credits
  if !s.cc.bcOpen || s.cc.dispAcc.stopped || s.cc.dispExe.stopped then s
  else { s with cc := { s.cc with returned := s.cc.returned + n, credits := s.cc.credits + n } }

/-- The tag of a macro-command, 0 when it cannot be decoded. -/
def rawTag (w : BitVec 256) : Half := ((Config.decodeMacro w).map Macro.tag).getD 0

/-- Place a macro-command in the run-ahead queue (R216). -/
def State.placeMacro (w : BitVec 256) (m : Option Macro) (parBad : Bool) (s : State) : State :=
  if 512 ≤ s.cc.runahead.length then s.raise { code := 0x3002, unit := 1, tag := (m.map Macro.tag).getD 0 }
  else
    let e : RunEntry := ⟨w, m, parBad, false, false⟩
    ({ s with cc := { s.cc with runahead := s.cc.runahead ++ [e] } }).count 0x10100 1

/-- Whether the core is in host-stream mode, and whether it forwards as a leader (R214). -/
def State.hostMode (s : State) : Bool := s.sys.core == .hostStream
def State.leading (s : State) : Bool := s.sys.core == .gang && s.sys.straps.leader

/-- The even parity of the eight 32-bit words of a command; bit i covers word i (R398). -/
def parityByte (w : BitVec 256) : Byte :=
  BitVec.ofNat 8 ((List.range 8).map fun i => if parityOf (w.extractLsb' (32 * i) 32) then 2 ^ i else 0).sum

/-- A command's parity fails: logged and counted (R400). -/
def State.parityFail (w : BitVec 256) (s : State) : State := (s.raise { code := 0x6007, unit := 13, tag := rawTag w }).count 0xA0140 1

/-- BCAST_COMMAND_ACCEPT (R216, R243, R343, R399, R400). -/
def execBcastCommandAccept (w : BitVec 256) (par : Byte) (s : State) : Out := runFast s fun s =>
  if !s.cc.bcOpen || (s.leading && s.inService) then s
  else
    let s := ({ s with cc := { s.cc with credits := s.cc.credits - 1 } }).count 0xA0138 1
    if !s.inService then (s.count 0x80138 1).settleCredits
    else if s.hostMode then (s.count 0x10160 1).settleCredits
    else if par = parityByte w then s.placeMacro w (Config.decodeMacro w) false
    else (s.parityFail w).placeMacro w (Config.decodeMacro w) true

/-- BCAST_CREDIT_GRANT (R399). -/
def execBcastCreditGrant (s : State) : Out := runFast s fun s =>
  { s with cc := { s.cc with granted := s.cc.granted + (if s.sys.straps.leader then 1 else 0) } }

/-- ATOM_RING.BASE and the ring's size (R215). -/
def State.ringBase (s : State) : Nat := (s.reg 0x10024).toNat / 64 * 64
def State.ringSize (s : State) : Nat := 2 ^ s.regFld 0x10020 0 4

/-- Whether a range lies in the near or stacked tier. -/
def State.inTiers (s : State) (a n : Nat) : Bool :=
  match s.spaceOf a n with | some .near => true | some .stacked => true | _ => false

/-- The ring is refused: RING_ERR is set and nothing is taken until it is cleared (R215, R216). -/
def State.ringRefuse (e : Err) (s : State) : State :=
  let s := s.raise e
  { s with cc := { s.cc with ringGo := false } }.orReg 0x10028 0x20000
/-- RING_INVALID (R215). -/
def ringInvalid (b : Nat) : Err := { code := 0x300E, unit := 1, d0 := w32 b }
/-- HDR and the reserved bytes after it, as a ring's bytes 0x10 to 0x3F must read (R13, R14, R215, R451). -/
def State.ringHdrOk (s : State) (b : Nat) : Bool := !s.poisonedIn (b + 16) 48 && s.le (b + 16) 48 == 0x1000000000000000
/-- Begin taking from the ring: read HDR (R215). -/
def State.ringHeader (s : State) : State :=
  let b := s.ringBase
  let s1 := s.touch 15 (b + 16) 48
  if s.inTiers b (0x40 + 32 * s.ringSize) && s.ringHdrOk b then { s1 with cc := { s1.cc with ringGo := true } }
  else s1.ringRefuse (ringInvalid b)

/-- ATOMISER_RING_TAKE (R214, R215, R216). A leader checks the parity of the command before it forwards it, and forwards a
failing one with its parity unchanged (R400); that parity is a free value (log entry 73). -/
def execAtomiserRingTake (s : State) : Out := runFast s fun s =>
  let b := s.ringBase
  let size := s.ringSize
  let head := s.word (b + 8)
  let n := (s.word b - head).toNat
  if !s.inService || !(s.hostMode || s.leading) || !s.cc.ringGo || s.regBit 0x10028 17 then s
  else if s.poisonedIn b 16 then s.touch 15 b 16
  else if !s.ringWordsOk b then (s.touch 15 b 16).ringRefuse (ringInvalid b)
  else if n = 0 then s
  else if size < n then s.ringRefuse { code := 0x3002, unit := 1, d0 := w32 n }
  else if 512 ≤ s.cc.runahead.length || (s.leading && s.cc.granted = 0) then s
  else
    let a := b + 0x40 + 32 * (head.toNat % size)
    let w : BitVec 256 := BitVec.ofNat 256 (s.le a 32)
    let m := if s.poisonedIn a 32 then none else Config.decodeMacro w
    let s := ((s.touch 15 b 16).touch 15 a 32).writeDword 15 (b + 8) (w64 ((head.toNat + 1) % 2 ^ 32))
    let par := Config.ringParity s.freeCtr w
    let bad := s.leading && par != parityByte w
    let s := if s.leading then
      { s with freeCtr := s.freeCtr + 1, cc := { s.cc with granted := s.cc.granted - 1, credits := s.cc.credits - 1, bcOut := some (w, par) } }
      else s
    (if bad then s.parityFail w else s).placeMacro w m bad

/-- ATOM_STATUS.RING_ERR cleared (R215). -/
def State.ringErrClear (s : State) : State :=
  if !s.regBit 0x10028 17 then s
  else
    let s := s.clrReg 0x10028 0x20000
    if s.inService && (s.hostMode || s.leading) then s.ringHeader else s
/-- RING_ERR_CLEAR (R215). -/
def execRingErrClear (s : State) : Out := runSlow s State.ringErrClear

/-! Dispatch -/

/-- Whether a thread has dispatched an entry. -/
def doneBy (t : Thread) (e : RunEntry) : Bool := match t with | .acc => e.accDone | .exe => e.exeDone
def markBy (t : Thread) (e : RunEntry) : RunEntry := match t with | .acc => { e with accDone := true } | .exe => { e with exeDone := true }
def other : Thread → Thread
  | .acc => .exe
  | .exe => .acc

/-- A thread has dispatched its next entry; entries that both have dispatched are freed (R217). -/
def markNext (t : Thread) : List RunEntry → List RunEntry
  | [] => []
  | e :: l => if doneBy t e then e :: markNext t l else markBy t e :: l
def dropDone : List RunEntry → List RunEntry
  | [] => []
  | e :: l => if e.accDone && e.exeDone then dropDone l else e :: l
def State.entryDone (t : Thread) (s : State) : State :=
  ({ s with cc := { s.cc with runahead := dropDone (markNext t s.cc.runahead) } }).settleCredits

/-- The thread has finished the command it was dispatching: on to the next of the replay body, or the entry is done, which
may be the boundary that a change of mode waits for (R243). -/
def State.endMacro (t : Thread) (s : State) : State :=
  let d := { s.disp t with cur := none, inBody := false, arrived := none }
  match d.replay with
  | some r =>
    if r.pos + 1 < r.len then s.setDisp t { d with replay := some { r with pos := r.pos + 1 } }
    else ((s.setDisp t { d with replay := none }).entryDone t).settleMode
  | none => ((s.setDisp t d).entryDone t).settleMode

/-- THREAD of a dispatch stage: the execute thread's is E0 (R244). -/
def stageNum : Thread → Nat
  | .acc => 0
  | .exe => 1

/-- Whether the other thread has already passed the command that this thread is at, so that a rejection has been
logged. -/
def State.otherPast (s : State) (t : Thread) : Bool :=
  match s.cc.runahead.find? fun e => !doneBy t e with
  | none => false
  | some e =>
    doneBy (other t) e ||
    match (s.disp t).replay, (s.disp (other t)).replay, s.cc.runahead.find? fun e => !doneBy (other t) e with
    | some r, some q, some e' => decide (r.pos < q.pos) && e == e'
    | _, _, _ => false

/-- The rejection of a macro-command (R246): logged and counted once; the thread stops before its next entry. -/
def State.rejectMacro (t : Thread) (r : Rej) (tag : Half) (s : State) : State :=
  let s :=
    if s.otherPast t then s
    else
      let s := if r.logged then s else s.raise { code := r.code, unit := r.unit, tag := tag, thread := stageNum t, cond := r.cond, d0 := r.d0, d1 := r.d1, d2 := r.d2 }
      (s.count 0x10110 1).orReg 0x10004 0x100
  let s := if s.regBit 0x10000 0 then s.setDisp t { s.disp t with halted := true } else s
  s.endMacro t

/-- Whether a predicate selector holds (R221). -/
def State.selected (s : State) : PredSel → Bool
  | .always => true
  | .pl n => s.cc.pl.getLsbD n.toNat
  | .notPl n => !s.cc.pl.getLsbD n.toNat

/-- The kind number of a macro-command, in the order of R212, and its replay index. -/
def kindNum : MacroKind → Nat
  | .config .. => 0
  | .start _ => 1
  | .patch _ => 2
  | .replay _ => 3
  | .barrier _ => 4
  | .latch => 4
  | .swap => 4
  | .powerHint _ => 5
  | .traceHint _ => 5
def replayOf (d : Disp) : MacroKind → Nat
  | .replay i => i.toNat
  | _ => (d.replay.map ReplayRun.idx).getD 0

/-- Whether breakpoint unit b matches a thread's next command (R463). -/
def State.bpMatch (s : State) (t : Thread) (tag : Half) (b : Nat) : Bool :=
  let o := 0x90100 + 0x20 * b
  let th := s.regFld o 4 2
  let count := s.ctr (0x90010 + 8 * stageNum t)
  s.regBit o 7 && (th == 2 || th == stageNum t) &&
  (if s.regBit o 6 then ((tag ^^^ (s.reg (o + 4)).setWidth 16) &&& (s.reg (o + 0xC)).setWidth 16) == 0
   else count == mk64 (s.reg (o + 8)) (s.reg (o + 4)))

/-- A thread stops at a breakpoint; with SCOPE 1 the other thread, when it still runs, stops before its next dispatch
(R463). -/
def State.breakAt (t : Thread) (tag : Half) (hits : List Nat) (s : State) : State :=
  let s := hits.foldl (fun s b => (s.orReg 0x90000 (w32 (2 ^ (8 + b)))).blotter 4 (stageNum t) tag (w32 b)) s
  let both := hits.any fun b => s.regBit (0x90100 + 0x20 * b) 3
  let s := s.setDisp t { s.disp t with stopped := true, stopNext := false }
  let s := if both && !(s.disp (other t)).stopped then s.setDisp (other t) { s.disp (other t) with stopNext := true } else s
  s.interrupt 4

/-- The next command of a thread: its raw entry from the replay body being dispatched, or from the run-ahead queue. -/
def State.nextMacro (s : State) (t : Thread) : Option (Option Macro × Bool) :=
  match (s.disp t).replay with
  | some r =>
    let a := 0x0B000000 + 32 * (r.off + r.pos)
    some (if s.poisonedIn a 32 then none else Config.decodeMacro (BitVec.ofNat 256 (s.le a 32)), false)
  | none => (s.cc.runahead.find? fun e => !doneBy t e).map fun e => (e.m, e.parBad)

/-- The handler of a thread's dispatch context has ended, and nothing holds the thread. -/
def State.mayDispatch (s : State) (t : Thread) : Bool :=
  let d := s.disp t
  s.inService && d.cur.isNone && !d.halted && !d.stopped && !s.halted t &&
  !(match t with | .acc => s.cc.acc.run | .exe => s.cc.e0.run)

/-- Dispatch the next command m of thread t (R217, R221, R246, R465). -/
def State.dispatch (t : Thread) (m : Option Macro) (parBad : Bool) (s : State) : State :=
  let d := s.disp t
  let body := d.replay.isSome
  let s := match d.replay with | some r => s.touch 15 (0x0B000000 + 32 * (r.off + r.pos)) 32 | none => s
  let s := s.setCtr (0x90010 + 8 * stageNum t) (s.ctr (0x90010 + 8 * stageNum t) + 1)
  let s := s.setDisp t { d with skipBp := false }
  match m with
  | none => s.rejectMacro t { code := if parBad then 0x6007 else 0x300A, cond := 1, logged := parBad } 0
  | some m =>
    if parBad then s.rejectMacro t { code := 0x6007, cond := 1, logged := true } m.tag
    else
      let on := s.selected m.pred
      let s := s.blotter 1 (stageNum t) m.tag (w32 (kindNum m.kind + 8 * bit (!on) + 16 * bit body + 256 * (replayOf d m.kind % 256)))
      if !on then (if t = .exe then s.count 0x10108 1 else s).endMacro t
      else
        match m.kind, t with
        | .powerHint _, .acc => s.endMacro t
        | _, _ => s.setDisp t { s.disp t with cur := some m, inBody := body }

/-- MACRO_DISPATCH (R217, R463): a thread dispatches its next command, or stops at a breakpoint: every unit compares before a
command is dispatched, also where the thread stops for a unit of the other. -/
def execMacroDispatch (t : Thread) (s : State) : Out := runFast s fun s =>
  if !s.mayDispatch t then s
  else
    match s.nextMacro t with
    | none => s
    | some (m, parBad) =>
      let d := s.disp t
      let tag := (m.map Macro.tag).getD 0
      let hits := if d.skipBp then [] else ([0, 1, 2, 3] : List Nat).filter (s.bpMatch t tag)
      if hits ≠ [] then s.breakAt t tag hits
      else if d.stopNext then s.setDisp t { d with stopped := true, stopNext := false }
      else s.dispatch t m parBad

/-- Run f on the macro-command a thread is dispatching. -/
def withMacro (t : Thread) (s : State) (f : Macro → State → State) : Out := runFast s fun s =>
  match (s.disp t).cur with
  | some m => if s.inService && !(s.disp t).halted then f m s else s
  | none => s

/-- CONFIG (R212, R213): words of one tile register or walk into the dispatching thread's bank. -/
def execConfig (t : Thread) (s : State) : Out := withMacro t s fun m s =>
  match m.kind with
  | .config walk idx words =>
    let addrWord := fun (w : Nat) => !walk && (w == 0 || w == 6 || w == 7 || w == 8)
    let bad := (if walk then decide (15 < idx.toNat) else decide (63 < idx.toNat)) ||
      words.any fun w => addrWord w.1 && w.2.2.any fun p => decide (63 < p.toNat)
    if bad then s.rejectMacro t { code := 0x3005, cond := 1 } m.tag
    else
      let val := fun (w : Nat × Word × Option (BitVec 8)) =>
        match w.2.2 with
        | some p => if addrWord w.1 then w.2.1 + lo32 (s.param t p.toNat) else w.2.1
        | none => w.2.1
      let put := fun (s : State) (w : Nat × Word × Option (BitVec 8)) =>
        if walk then (if t = .exe ∧ w.1 < 32 then s.setReg (0x13800 + 0x80 * idx.toNat + 4 * w.1) (val w) else s)
        else if w.1 < 16 then s.setTileWord t idx.toNat w.1 (val w) else s
      (words.foldl put s).endMacro t
  | _ => s

/-- The bytes of the bank in service, by offset. -/
def State.bankBytes (s : State) : List (Nat × Byte) :=
  let lo := 0x0A000000 + 0x40000 * bit s.cc.inService
  (s.mem.filter fun c => decide (lo ≤ c.1 ∧ c.1 < lo + 0x40000)).map fun c => (c.1 - lo, c.2)

/-- START (R212, R244): a handler begins on the thread's context, or on E1; a context above 1 is rejected (R249). -/
def execStart (t : Thread) (s : State) : Out := withMacro t s fun m s =>
  match m.kind with
  | .start h =>
    if 1 < m.ctx.toNat then s.rejectMacro t { code := 0x3005, cond := 2 } m.tag
    else
    (match Config.handlerEntry s.bankBytes h with
    | none => s.rejectMacro t { code := 0x300A, cond := 2 } m.tag
    | some pc =>
      let c : Ctx := if t = .acc then .acc else if m.ctx == 1 && s.regBit 0x14000 0 then .e1 else .e0
      if (s.ctxt c).run then s
      else (s.setCtxt c { s.ctxt c with run := true, tag := m.tag, pc := pc, loops := [], walk := none, stall := none }).endMacro t)
  | _ => s

/-- PATCH (R225): PARAM values into the dispatching thread's bank. -/
def execPatch (t : Thread) (s : State) : Out := withMacro t s fun m s =>
  match m.kind with
  | .patch ps =>
    if ps.any fun p => decide (63 < p.1.toNat) then s.rejectMacro t { code := 0x3005, cond := 1 } m.tag
    else (ps.foldl (fun s p => s.setParam t p.1.toNat p.2) s).endMacro t
  | _ => s

/-- REPLAY (R223, R224): the body of a replay-table entry in place of the command. -/
def execReplay (t : Thread) (s : State) : Out := withMacro t s fun m s =>
  match m.kind with
  | .replay i =>
    let e := s.reg (0x10400 + 4 * i.toNat)
    let off := fld e 16 15
    let len := fld e 0 16
    if 255 < i.toNat then s.rejectMacro t { code := 0x3007, cond := 3 } m.tag
    else if !e.getLsbD 31 then s.rejectMacro t { code := 0x3007, cond := 1 } m.tag
    else if 32768 < off + len then s.rejectMacro t { code := 0x3007, cond := 2 } m.tag
    else if (s.disp t).inBody then s.rejectMacro t { code := 0x3007, cond := 4 } m.tag
    else
      let s := if t = .exe then s.count 0x10118 1 else s
      if len = 0 then s.endMacro t
      else s.setDisp t { s.disp t with cur := none, replay := some ⟨i.toNat, off, len, 0⟩ }
  | _ => s

/-- The macro-command both threads stand at. -/
def State.bothAt (s : State) : Option Macro :=
  match s.cc.dispAcc.cur, s.cc.dispExe.cur with
  | some a, some b => if a = b && s.inService && !s.cc.dispAcc.halted && !s.cc.dispExe.halted then some b else none
  | _, _ => none

/-- The rejection of a macro-command that both threads stand at. -/
def State.rejectBoth (r : Rej) (tag : Half) (s : State) : State := (s.rejectMacro .acc r tag).rejectMacro .exe r tag

/-- Operations that write a predicate (R219). -/
def writesPred : EngOp → Bool
  | .predSet .. => true
  | .predCopy .. => true
  | .promotePred .. => true
  | .reduce _ _ _ p => p.isSome
  | _ => false

/-- Whether an operation that writes a predicate has still to take effect (R220): a rejected command that its queue holds has
not until it is discarded (R247). -/
def State.predsOwed (s : State) : Bool := s.cc.queues.any fun q => q.2.items.any fun e => writesPred e.op
/-- SYNC LATCH (R220). -/
def execSyncLatch (s : State) : Out := runFast s fun s =>
  match s.bothAt with
  | some m =>
    if m.kind ≠ .latch || s.predsOwed then s
    else ({ s with cc := { s.cc with pl := s.cc.p } }.endMacro .acc).endMacro .exe
  | none => s

/-- Whether the execute thread has nothing left: its queues hold nothing, a rejected head included (R242). -/
def State.exeQuiet (s : State) : Bool :=
  (([17, 18, 19, 20, 21, 22] : List Nat).all fun q => (s.queue q).items.isEmpty) && s.heldX.isEmpty && s.runningX.isEmpty && s.fillRuns.isEmpty && !s.cc.e0.run && !s.cc.e1.run

/-- SYNC SWAP (R242, R246): the instruction-memory bank in service flips once the execute thread is quiet. -/
def execSyncSwap (s : State) : Out := runFast s fun s =>
  match s.bothAt with
  | some m =>
    if m.kind ≠ .swap || !s.exeQuiet then s
    else if (if s.cc.inService then s.cc.valid0 else s.cc.valid1) then
      let s := { s with cc := { s.cc with inService := !s.cc.inService } }
      ((s.blotter 5 15 m.tag (w32 (bit s.cc.inService))).endMacro .acc).endMacro .exe
    else s.rejectBoth { code := 0x3009, cond := 1 } m.tag
  | none => s

/-- POWER_HINT (R437): a HINT being dispatched to the execute thread, or the operation of a thread; PWR_HINT holds the
class of the last one dispatched to the execute thread. -/
def execPowerHint (src : Option (Ctx × Byte)) (s : State) : Out :=
  match src with
  | none => withMacro .exe s fun m s =>
    (match m.kind with
    | .powerHint k => { s with pwr := { s.pwr with hint := k } }.endMacro .exe
    | _ => s)
  | some (c, k) => instr c [] s fun s => (if c = .acc then s else { s with pwr := { s.pwr with hint := k } }).advance c

/-- TRACE HINT (R212, R465). -/
def execTraceHint (t : Thread) (s : State) : Out := withMacro t s fun m s =>
  match m.kind with
  | .traceHint k => (s.blotter 2 (stageNum t) m.tag k).endMacro t
  | _ => s

end Sys2Proof.Machine
end

