-- ==== Sys2Proof/Machine/Out.lean ====
section
/-! DEFINITION. What the fabric port offers the other blocks (R365, R380–R388, R271–R273): group-table entries, flits
and packets, lanes and credits, stream-table entries, the window of outstanding requests, and translation (R278). -/

namespace Sys2Proof.Machine

/-- A field of a wide word. -/
def nfld (n lo w : Nat) : Nat := n / 2 ^ lo % 2 ^ w

/-! The group table (R365) -/

/-- Entry i: its first 64 bits in [63:0], its second in [127:64]. -/
def State.gt (s : State) (i : Nat) : BitVec 128 := Tab.get 0 s.flacon.gt i
def gtEndpoint (e : BitVec 128) : Nat := nfld e.toNat 0 24
def gtFeed (e : BitVec 128) : Nat := nfld e.toNat 40 8
def gtRoute (e : BitVec 128) : Nat := nfld e.toNat 64 32
/-- The endpoint and route of a valid entry; none when it is not valid or beyond the table. -/
def State.route (s : State) (i : Nat) : Option (Nat × Nat) :=
  let e := s.gt i
  if i ≤ 8191 && e.getLsbD 59 then some (gtEndpoint e, gtRoute e) else none

/-! Lanes (R380, R381) -/

def State.lanes (s : State) : Nat := if s.sys.straps.portGen then 4 else 8
/-- The largest payload of a write packet. -/
def State.payload (s : State) : Nat := if s.sys.straps.portGen then 128 else 64
/-- Lanes of an outbound class: 0 write, 1 remote-outbound, 2 request/control. -/
def State.outClass (s : State) (c : Nat) : List Nat :=
  let w := s.regFld 0xA0010 8 4
  let r := s.regFld 0xA0010 4 4
  (List.range s.lanes).filter fun i => (if i < w then 0 else if i < w + r then 1 else 2) == c
/-- Whether an inbound lane is of the read-return class; the rest are remote-inbound. -/
def State.inRead (s : State) (i : Nat) : Bool := decide (i < s.regFld 0xA0010 16 4)

def State.outLane (s : State) (i : Nat) : OutLane := Tab.get OutLane.init s.port.outL i
def State.setOutLane (i : Nat) (v : OutLane) (s : State) : State :=
  { s with port := { s.port with outL := Tab.set OutLane.init s.port.outL i v } }
def State.inLane (s : State) (i : Nat) : InLane := Tab.get InLane.init s.port.inL i
def State.setInLane (i : Nat) (v : InLane) (s : State) : State :=
  { s with port := { s.port with inL := Tab.set InLane.init s.port.inL i v } }

/-- The virtual channel of an operation (R383): 0 request, 1 response, 2 remote-write, 3 control/sync. -/
def opVc (op : Nat) : Nat :=
  match op with
  | 1 => 0
  | 2 => 0
  | 3 => 2
  | 4 => 2
  | 5 => 1
  | 9 => 1
  | _ => 3

/-- A count of the four virtual channels. -/
def getCr (c : Nat × Nat × Nat × Nat) (v : Nat) : Nat :=
  match v with
  | 0 => c.1
  | 1 => c.2.1
  | 2 => c.2.2.1
  | _ => c.2.2.2
def setCr (c : Nat × Nat × Nat × Nat) (v n : Nat) : Nat × Nat × Nat × Nat :=
  match v with
  | 0 => (n, c.2.1, c.2.2.1, c.2.2.2)
  | 1 => (c.1, n, c.2.2.1, c.2.2.2)
  | 2 => (c.1, c.2.1, n, c.2.2.2)
  | _ => (c.1, c.2.1, c.2.2.1, n)

/-! Flits (R382, R384) -/

/-- A flit as it is formed, before a lane gives it its sequence number: link word, header, payload. -/
abbrev OutFlit := BitVec 96 × BitVec 128 × List Byte

/-- A link word without the fields a lane fills in. -/
def linkOf (op ep route : Nat) (cont poison sig : Bool) (lenM1 : Nat) : BitVec 96 :=
  BitVec.ofNat 96 (op * 2 ^ 92 + ep * 2 ^ 68 + route * 2 ^ 36 + bit cont * 2 ^ 13 + bit poison * 2 ^ 12 + bit sig * 2 ^ 11 + lenM1 % 128 * 2 ^ 4)
def linkOp (l : BitVec 96) : Nat := nfld l.toNat 92 4
def linkEp (l : BitVec 96) : Nat := nfld l.toNat 68 24
/-- A header from its fields, each a bit position and a value. -/
def hdrOf (fs : List (Nat × Nat)) : BitVec 128 := BitVec.ofNat 128 ((fs.map fun f => f.2 * 2 ^ f.1).sum)
def hfld (h : BitVec 128) (lo n : Nat) : Nat := nfld h.toNat lo n

/-- The even parity of word i of a wide value. -/
def parityWord (n i : Nat) : Bool := parityOf (BitVec.ofNat 32 (n / 2 ^ (32 * i)))
/-- The parity bits of a flit (R382): HPAR and LPAR. -/
def flitHpar (h : BitVec 128) : BitVec 4 := BitVec.ofNat 4 ((List.range 4).map fun i => bit (parityWord h.toNat i) * 2 ^ i).sum
def flitLpar (l : BitVec 96) : BitVec 3 := BitVec.ofNat 3 ((List.range 3).map fun i => bit (parityWord l.toNat i) * 2 ^ i).sum
/-- The SEC-DED bits of a payload of n groups of 8 bytes (R382; log entry 75). -/
def flitEcc (pay : List Byte) (n : Nat) : List Byte := (List.range n).map fun i => Config.secded (w64 (leNat ((pay.drop (8 * i)).take 8)))
/-- A flit with its check bits. -/
def State.checked (s : State) (l : BitVec 96) (h : BitVec 128) (pay : List Byte) : SentFlit :=
  ⟨l, h, pay, flitHpar h, flitLpar l, flitEcc pay (if s.sys.straps.portGen then 16 else 8), 0⟩

/-- The VC whose credits the next link word returns, and how many: the lowest with credits due. -/
def dueVc (n : InLane) : Nat := if 0 < getCr n.due 0 then 0 else if 0 < getCr n.due 1 then 1 else if 0 < getCr n.due 2 then 2 else 3
def dueN (n : InLane) : Nat := min 7 (getCr n.due (dueVc n))
/-- ACKSEQ and NAK of a link word for the paired inbound lane (R382, R393). -/
def ackBits (n : InLane) : Nat := (n.expect - 1).toNat * 2 ^ 20 + bit n.nak * 2 ^ 19
/-- The link control that a lane's next new link word carries: ACKSEQ, NAK and the credits returned (R382, R388, R393). -/
def ctlBits (n : InLane) : Nat := ackBits n + dueVc n * 2 ^ 17 + dueN n * 2 ^ 14
/-- The inbound lane once its link control has been sent. -/
def InLane.told (n : InLane) : InLane := { n with nak := false, due := setCr n.due (dueVc n) (getCr n.due (dueVc n) - dueN n) }

/-- Fill in SEQ and the link control, form the check bits, and place the flit in the lane's replay buffer (R382, R388,
R393). -/
def State.placeFlit (i : Nat) (f : OutFlit) (s : State) : State :=
  let o := s.outLane i
  let n := s.inLane i
  let l : BitVec 96 := BitVec.ofNat 96 (f.1.toNat + o.seq.toNat * 2 ^ 28 + ctlBits n)
  let v := opVc (linkOp f.1)
  let s := s.setOutLane i { o with cr := setCr o.cr v (getCr o.cr v - 1), seq := o.seq + 1, replay := o.replay ++ [s.checked l f.2.1 f.2.2] }
  (s.setInLane i n.told).count 0xA0100 1

/-- A lane of an enabled port sends an IDLE flit (R383, R388, R394), a DOWN lane too; IDLE takes no credit and no SEQ. -/
def State.idleFlit (i : Nat) (s : State) : State :=
  let o := s.outLane i
  let n := s.inLane i
  if o.up || o.down then (s.setOutLane i { o with idle := BitVec.ofNat 96 (ctlBits n) }).setInLane i n.told else s
/-- Every lane sends an IDLE flit: what an idle cycle of the port does (log entry 11). -/
def State.idleFlits (s : State) : State :=
  if s.port.state = 2 then (List.range s.lanes).foldl (fun s i => s.idleFlit i) s else s

/-- Whether a lane can take all flits of a packet (R388, R393). -/
def laneTakes (o : OutLane) (vc n : Nat) : Bool :=
  o.up && !o.down && decide (n ≤ getCr o.cr vc) && decide (o.replay.length + n ≤ 64)
/-- The virtual channel of a packet. -/
def pktVc (p : OutPkt) : Nat := match p.flits with | f :: _ => opVc (linkOp f.1) | [] => 3
/-- The lanes that can take a packet of a class. -/
def State.freeLanes (s : State) (cls vc n : Nat) : List Nat := (s.outClass cls).filter fun i => laneTakes (s.outLane i) vc n

/-- Place a packet on one of the lanes that can take it (R277; log entry 5). -/
def State.placePkt (p : OutPkt) (ls : List Nat) (s : State) : State :=
  let i := getAt 0 ls (Config.laneChoice s.freeCtr % ls.length)
  p.flits.foldl (fun s f => s.placeFlit i f) { s with freeCtr := s.freeCtr + 1 }

/-- Place waiting packets: each class and channel in order, none behind one that must wait. -/
def pumpGo : List OutPkt → List (Nat × Nat) → State → List OutPkt × State
  | [], _, s => ([], s)
  | p :: t, held, s =>
    let key := (p.cls, pktVc p)
    let ls := s.freeLanes p.cls key.2 p.flits.length
    if held.contains key || ls.isEmpty then
      let r := pumpGo t (key :: held) s
      (p :: r.1, r.2)
    else pumpGo t held (s.placePkt p ls)
def State.pump (s : State) : State :=
  if s.port.state = 2 then
    let r := pumpGo s.port.outQ [] s
    { r.2 with port := { r.2.port with outQ := r.1 } }
  else s
/-- Send a packet: it waits until the port is enabled and a lane of its class has credit (R388, R397). -/
def State.send (cls : Nat) (fs : List OutFlit) (s : State) : State :=
  ({ s with port := { s.port with outQ := s.port.outQ ++ [(⟨cls, fs⟩ : OutPkt)] } }).pump
/-- Read records in one RD_REQ at most (R380). -/
def State.maxRec (s : State) : Nat := if s.sys.straps.portGen then 8 else 4
/-- Whether a waiting packet is an RD_REQ to an endpoint over a route, with room for another record (R385). -/
def State.rdOpen (s : State) (ep route : Nat) (p : OutPkt) : Bool :=
  match p.flits with
  | [f] => linkOp f.1 == 1 && linkEp f.1 == ep && nfld f.1.toNat 36 32 == route && decide (hfld f.2.1 124 4 < s.maxRec)
  | _ => false
/-- Whether a waiting packet is an RD_REQ. -/
def isRdReq (p : OutPkt) : Bool := match p.flits with | [f] => linkOp f.1 == 1 | _ => false
/-- Whether a read request can be placed: into a waiting RD_REQ, or, none waiting, into one of its own (R385). -/
def State.rdRoom (s : State) (ep route : Nat) : Bool :=
  s.port.state == 2 && (s.port.outQ.any (s.rdOpen ep route) || !s.port.outQ.any isRdReq)
/-- Add a record to the first packet that has room for it. -/
def State.addRecord (ep route : Nat) (rec' : List Byte) (s : State) : List OutPkt → List OutPkt
  | [] => []
  | p :: t =>
    if s.rdOpen ep route p then
      { p with flits := p.flits.map fun f => (f.1, f.2.1 + BitVec.ofNat 128 (2 ^ 124), f.2.2 ++ rec') } :: t
    else p :: State.addRecord ep route rec' s t
/-- Send a read record: it joins an RD_REQ that waits for a lane, of whatever stream, else it begins one (R385; log entry
76). -/
def State.sendRead (ep route : Nat) (rec' : List Byte) (s : State) : State :=
  if s.port.outQ.any (s.rdOpen ep route) then { s with port := { s.port with outQ := s.addRecord ep route rec' s.port.outQ } }
  else s.send 2 [(linkOf 1 ep route false false false 0, hdrOf [(124, 1)], rec')]
/-- Whether a packet of n flits would be placed at once. -/
def State.canPlace (s : State) (cls vc n : Nat) : Bool :=
  s.port.state == 2 && !(s.freeLanes cls vc n).isEmpty && !(s.port.outQ.any fun p => p.cls == cls && pktVc p == vc)

/-! The stream table, the window and the quotas (R271–R273) -/

/-- The lowest key a table does not list. -/
def firstGap {α : Type} : Tab α → Nat → Nat
  | [], k => k
  | (j, _) :: t, k => if j = k then firstGap t (k + 1) else k
def State.stream (s : State) (i : Nat) : StreamUse := Tab.get .free s.dma.streams i
def State.setStream (i : Nat) (u : StreamUse) (s : State) : State :=
  { s with dma := { s.dma with streams := Tab.set .free s.dma.streams i u } }
def isInbound : StreamUse → Bool
  | .inbound _ => true
  | _ => false
/-- Entries in use by inbound ledgers, and by everything else. -/
def State.inboundUsed (s : State) : Nat := (s.dma.streams.filter fun p => isInbound p.2).length
def State.outboundUsed (s : State) : Nat := s.dma.streams.length - s.inboundUsed
def State.inReserve (s : State) : Nat := s.regFld 0x50000 16 13
/-- A free entry for a transfer or a SYNC, and for an inbound ledger (R271, R275); the lowest free index. -/
def State.freeStream (s : State) : Option Nat :=
  if s.outboundUsed < 32768 - s.inReserve then some (firstGap s.dma.streams 0) else none
def State.freeInbound (s : State) : Option Nat :=
  if s.inboundUsed < s.inReserve then some (firstGap s.dma.streams 0) else none

/-- The interleave group of a fabric address (R273). -/
def State.groupOf (s : State) (a : Nat) : Nat := a / 2 ^ s.regFld 0xA0018 0 5 % 64
/-- Whether the window and group g take n more requests. -/
def State.windowTakes (s : State) (g n : Nat) : Bool :=
  decide (s.dma.outstanding + n ≤ 262144) && decide (Tab.get 0 s.dma.groups g + n ≤ 262144 / 2 ^ s.regFld 0xA0014 0 3)
/-- Requests enter and leave the window and their group. -/
def State.windowAdd (g n : Nat) (s : State) : State :=
  { s with dma := { s.dma with outstanding := s.dma.outstanding + n, groups := Tab.set 0 s.dma.groups g (Tab.get 0 s.dma.groups g + n) } }
def State.windowSub (g n : Nat) (s : State) : State :=
  { s with dma := { s.dma with outstanding := s.dma.outstanding - n, groups := Tab.set 0 s.dma.groups g (Tab.get 0 s.dma.groups g - n) } }

/-! Translation (R278) -/

/-- Pages of a size code in 4 KiB units (R384). -/
def pageUnits (size : Nat) : Nat := if size = 0 then 16 else if size = 1 then 512 else 262144
/-- Whether a cache entry covers a 4 KiB page. -/
def covers (e : AtcEnt) (vpn : Nat) : Bool := e.vpn / pageUnits e.size == vpn / pageUnits e.size
/-- The physical 4 KiB page of a virtual one, with the permission asked for; BYPASS makes addresses physical. -/
def State.translate (s : State) (vpn : Nat) (write : Bool) : Option Nat :=
  if s.regBit 0x50030 0 then some vpn
  else
    (s.dma.atc.find? fun e => e.ctxId.toNat == s.regFld 0x50030 16 16 && covers e vpn && (if write then e.wr else e.rd)).map
      fun e => e.ppn / pageUnits e.size * pageUnits e.size + vpn % pageUnits e.size
/-- Send a miss to the translation agent, or join one outstanding for the page (R278, R392): the XID, none while 64 are
outstanding. -/
def State.miss (vpn : Nat) (write : Bool) (s : State) : Option (Nat × State) :=
  match s.dma.xids.find? fun x => x.2 / 16 == vpn / 16 with
  | some x => some (x.1, s)
  | none =>
    match (List.range 64).find? fun i => !(s.dma.xids.any fun x => x.1 == i) with
    | none => none
    | some i =>
      let h := hdrOf [(76, vpn), (60, s.regFld 0x50030 16 16), (59, bit write), (53, i)]
      some (i, (({ s with dma := { s.dma with xids := s.dma.xids ++ [(i, vpn)] } }).count 0x50220 1).send 2
        [(linkOf 8 (s.regFld 0xA000C 0 24) 0 false false false 0, h, [])])

/-! SYNC flits (R391) -/

/-- Where a SYNC goes: endpoint, route, address and group, or why it cannot go. -/
inductive SyncTo where
  | to (ep route addr group : Nat)
  | page (vpn : Nat)
  | bad (r : Rej)
  deriving DecidableEq, Repr

/-- The target of a sync operation on a peer or fabric word (R259, R273, R292). -/
def State.syncTo (s : State) (fabric : Bool) (a : DWord) : SyncTo :=
  let n := a.toNat
  if fabric then
    match s.translate (n / 4096) true with
    | some p => let pa := p * 4096 + n % 4096; .to 0 0 pa (s.groupOf pa)
    | none => .page (n / 4096)
  else if 2 ^ 45 ≤ n then .bad { code := 0x3005, cond := 3, d0 := lo32 a, d1 := hi32 a }
  else
    match s.route (nfld n 32 13) with
    | some r => .to r.1 r.2 (n % 2 ^ 32) (nfld n 32 13 % 64)
    | none => .bad { code := 0x1008, cond := 1, unit := 10, d0 := w32 (nfld n 32 13) }

/-- Send a SYNC under stream-table entry i. -/
def State.sendSync (i : Nat) (o : SyncOp) (sop : Nat) (v : Word) (ep route addr : Nat) (s : State) : State :=
  (((s.setStream i (.sync o)).windowAdd o.group 1).count 0x50200 1).send 2
    [(linkOf 6 ep route false false false 0, hdrOf [(124, sop), (92, v.toNat), (28, addr), (8, i)], [])]

/-- How an attempt to send a SYNC ended: sent under a stream index, waiting on an XID, to be tried again, or refused. -/
inductive Sent where
  | ok (stream : Nat)
  | xlate (xid : Nat)
  | later
  | bad (r : Rej)
  deriving DecidableEq, Repr

/-- Send a SYNC to a peer or fabric word, when a stream-table entry and the window allow. -/
def State.trySync (fabric : Bool) (a : DWord) (sop : Nat) (v : Word) (o : SyncOp) (s : State) : Sent × State :=
  match s.syncTo fabric a with
  | .bad r => (.bad r, s)
  | .page p =>
    match s.miss p true with
    | some (x, s) => (.xlate x, s)
    | none => (.later, s)
  | .to ep route addr g =>
    match s.freeStream with
    | none => (.later, s)
    | some i => if s.windowTakes g 1 then (.ok i, s.sendSync i { o with group := g } sop v ep route addr) else (.later, s)

end Sys2Proof.Machine
end

