-- ==== Sys2Proof/Machine/Sync.lean ====
section
/-! DEFINITION. Synchronisation (chapter 09): sync words, waits and the watch table, signals, barriers, deadlock detection
and the partner timeout. -/

namespace Sys2Proof.Machine

/-! Sync words (R291–R296) -/

/-- The checks of a local sync word's address (R292). -/
def State.wordChk (s : State) (a : Nat) : Option Rej :=
  match s.space a with
  | some .near | some .stacked => if a % 8 = 0 then none else operandInvalid 2 a
  | _ => descBounds 1 a

/-- A sync word as the sync unit reads it. -/
inductive WordRead where
  | ok (sem : Bool) (count : Word)
  /-- uncorrectable -/
  | poison
  /-- a reserved KIND (1), reserved bits (2), or a kind the operation does not accept (3) -/
  | invalid (cond : Nat)
  deriving DecidableEq, Repr

/-- Kinds that an operation accepts, by its number in R294. -/
def kindOk (op : Nat) (sem : Bool) : Bool :=
  match op with
  | 1 => true
  | 4 => true
  | 2 => sem
  | 5 => sem
  | _ => !sem

/-- Read a sync word for an operation (R294). -/
def State.readWord (s : State) (a op : Nat) : WordRead :=
  let w := s.dword a
  let kind := fld64 w 60 4
  if s.poisonedIn a 8 then .poison
  else if 1 < kind then .invalid 1
  else if fld64 w 32 28 ≠ 0 then .invalid 2
  else if kindOk op (kind == 1) then .ok (kind == 1) (lo32 w)
  else .invalid 3

/-- signed32(a − b) ≥ 0 (R296). -/
def reached (a b : Word) : Bool := decide (0 ≤ signed32 (a - b))
/-- The condition of a wait (R296). -/
def ready (sem : Bool) (count t : Word) : Bool := if sem then decide (t.toNat ≤ count.toNat) else reached count t

/-- The new COUNT of an operation, and the error it logs (R296). -/
def newCount (op : Nat) (sem : Bool) (c v : Word) : Word × Option Half :=
  match op with
  | 2 => if c.toNat < v.toNat then (0, some 0x2001) else (c - v, none)
  | 5 => (c - v, none)
  | 6 => (v, none)
  | _ => if sem && decide (2 ^ 32 ≤ c.toNat + v.toNat) then (0xFFFFFFFF, some 0x2005) else (c + v, none)

/-- Write a sync word's COUNT (R293, R301). -/
def State.putCount (a : Nat) (sem : Bool) (c : Word) (s : State) : State :=
  (s.writeDword 11 a (w64 (bit sem * 2 ^ 60 + c.toNat))).count 0x60300 1

/-- The error of an operation that a word does not take (R294); the entry of an uncorrectable read is made by the read
(R255). -/
def wordRej (a op src : Nat) : WordRead → Rej
  | .invalid k => { code := 0x2004, cond := k, unit := 10, d0 := w32 a, d1 := w32 op, d2 := w32 src }
  | _ => { code := 0x5001, unit := 15, d0 := w32 (eccBase a), d1 := 11, logged := true }

/-- The effect of an error on an operation that is not a queue's own, its word read: logged, the word as stored (R294). -/
def State.wordFail (a op src : Nat) (w : WordRead) (r : Reader) (s : State) : State :=
  match w with
  | .invalid k => s.raise { code := 0x2004, unit := 10, tag := r.tag, index := r.index, thread := r.thread, cond := k, d0 := w32 a, d1 := w32 op, d2 := w32 src }
  | _ => s

/-- The reader that the sync unit is for an operation of no command. -/
def syncUnit : Reader := { req := 11 }

/-- Apply an operation with value v to the local word at a (R293–R296). A queue's own operation (source 0) is rejected
on an error, any other logs it; the word then stays. -/
def State.syncApply (op a : Nat) (v : Word) (src : Nat) (r : Reader) (s : State) : Option Rej × State :=
  match s.wordChk a with
  | some e => (some e, s)
  | none =>
    let t := s.touchBy r a 8
    match s.readWord a op with
    | .ok sem c =>
      let n := newCount op sem c v
      let t := match n.2 with | some e => t.raise { code := e, unit := 10, tag := r.tag, d0 := w32 a } | none => t
      (none, t.putCount a sem n.1)
    | w => (some (wordRej a op src w), if src = 0 then t else t.wordFail a op src w r)

/-- Set bit h of HOSTSIG_PEND (R314). -/
def State.hostsig (h : Nat) (s : State) : State := s.orReg 0x60020 (w32 (2 ^ h))

/-- A command that has left its queue ends as a rejected command (R245, R286): it counts as the head it was; a queue already
halted holds the command it halted at, and a wait behind the head keeps its entry until its queue is skipped (R301). -/
def State.rejectLate (q : Nat) (c : EngCmd) (r : Rej) (s : State) : State :=
  if (s.queue q).halted then s.rejectNote q c r
  else
    let t := (s.setQueue q { (s.queue q) with items := c :: (s.queue q).items }).reject q c r
    if (t.queue q).halted then t else t.setQueue q { (t.queue q) with wait := (s.queue q).wait }

/-! The watch table and polling (R301–R303) -/

def Watch.free : Watch := ⟨0, 0, 0, 0, false, 0, 0, false⟩
def State.watch (s : State) (n : Nat) : Watch := Tab.get Watch.free s.sync.watch n
def State.setWatch (n : Nat) (w : Watch) (s : State) : State := { s with sync := { s.sync with watch := Tab.set Watch.free s.sync.watch n w } }
/-- The lowest free watch entry. -/
def State.freeWatch (s : State) : Option Nat := let n := firstGap s.sync.watch 0; if n < 256 then some n else none

/-- A wait whose first read found its condition false takes a watch entry, or polls when none is free (R301, R302). -/
def State.startWait (party a : Nat) (t : Word) (sem : Bool) (s : State) : WaitSt × State :=
  let n := s.sync.began
  let s := { s with sync := { s.sync with began := n + 1 } }.count 0x60310 1
  match s.freeWatch with
  | some i => (.watched i, s.setWatch i ⟨1, party, w32 a, t, sem, 0, n, false⟩)
  | none =>
    let p : Poll := ⟨party, w32 a, t, sem, n⟩
    (.polling, { s with sync := { s.sync with polls := s.sync.polls ++ [p] } }.count 0x60328 1)

/-- How one evaluation of a wait came out, and the state that its read leaves. -/
inductive Eval where
  | go (s : State)
  | hold (sem : Bool) (s : State)
  | bad (r : Rej) (s : State)

/-- Evaluate a WAIT (operation 4) or TAKE (operation 5) on a word, on behalf of a reader (R253, R296). -/
def State.evalWait (r : Reader) (op a : Nat) (t : Word) (s : State) : Eval :=
  match s.wordChk a with
  | some e => .bad e s
  | none =>
    let u := s.touchBy r a 8
    match s.readWord a op with
    | .ok sem c => if ready sem c t then .go (if op = 5 then u.putCount a sem (c - t) else u) else .hold sem u
    | w => .bad (wordRej a op 0 w) u

/-- The word, target and operation of a wait at a queue head. -/
def waitOf : EngOp → Option (Opd × Opd × Nat × Bool)
  | .wait a t p => some (a, t, 4, p)
  | .take a n p => some (a, n, 5, p)
  | _ => none

/-- The first read of the WAIT or TAKE at the head of queue q. In a DMA queue it issues only when every earlier transfer
has completed (R268). -/
def waitHead (q op : Nat) (c : EngCmd) (a t : Opd) (s : State) : State :=
  if (s.queue q).wait ≠ .none || (decide (q ≤ 15) && !s.queueQuiet q) then s
  else if opdBad a || opdBad t then s.reject q c { code := 0x3005, cond := 1 }
  else
    match s.evalWait (c.reader 11 q) op (oVal a) (oWord t) with
    | .go s => s.issued q c
    | .bad r s => s.reject q c r
    | .hold sem s =>
      let r := s.startWait q (oVal a) (oWord t) sem
      r.2.setQueue q { r.2.queue q with wait := r.1 }

/-- WAIT (R295–R302). -/
def execWait (q : Nat) (s : State) : Out := runFast s fun s => withHead q s fun c s =>
  match c.op with
  | .wait a t _ => waitHead q 4 c a t s
  | _ => s

/-- TAKE (R295–R302). -/
def execTake (q : Nat) (s : State) : Out := runFast s fun s => withHead q s fun c s =>
  match c.op with
  | .take a n _ => waitHead q 5 c a n s
  | _ => s

/-- The local address of the release word of context b (R320). -/
def State.releaseAddr (s : State) (b : Nat) : Nat := (s.reg (0x6010C + 0x20 * b)).toNat

/-- The party of the release wait of a SYNC BARRIER: the dispatch of the execute thread, which waits for both. -/
def barParty : Nat := 27

/-- The reader that a SYNC BARRIER is. -/
def barReader (m : Macro) : Reader := { req := 11, tag := m.tag, thread := 0 }

/-- A waiting party's condition is evaluated again (R301, R302): the wait succeeds, holds, or is rejected; a SYNC BARRIER
whose release word has become invalid is a rejected macro-command of both threads (R246, R294). -/
def State.recheck (party : Nat) (s : State) : State :=
  if party = barParty then
    match s.cc.dispExe.arrived, s.cc.dispExe.cur with
    | some (b, g), some m =>
      match s.evalWait (barReader m) 4 (s.releaseAddr b) (g + 1) with
      | .go s => ((s.endWait barParty).endMacro .acc).endMacro .exe
      | .bad r s => (s.endWait barParty).rejectBoth r m.tag
      | .hold _ s => s
    | _, _ => s
  else
    match s.headCmd party with
    | none => s
    | some c =>
      match waitOf c.op with
      | none => s
      | some (a, t, op, _) =>
        match s.evalWait (c.reader 11 party) op (oVal a) (oWord t) with
        | .go s => (s.endWait party).issued party c
        | .bad r s => (s.endWait party).reject party c r
        | .hold _ s => s

/-- An armed watch's condition holds (R303): its word is a sync word of a kind the core knows (R13), and ready. -/
def State.armedHolds (s : State) (w : Watch) : Bool :=
  (s.wordChk w.addr.toNat).isNone && (match s.readWord w.addr.toNat 4 with | .ok _ c => ready w.sem c w.target | _ => false)
/-- What the read of an armed watch's word does: an invalid word is logged as that of a WAIT, and the watch does not fire
(R253, R294; log entry 74). -/
def State.armedRead (w : Watch) (s : State) : State :=
  if (s.wordChk w.addr.toNat).isSome then s
  else (s.touchBy syncUnit w.addr.toNat 8).wordFail w.addr.toNat 4 0 (s.readWord w.addr.toNat 4) syncUnit

/-- WATCH_WAKE (R297, R301, R303): a write has touched the word of watch entry n, and its condition is evaluated again;
the TAKEs waiting on one word are tried in the order in which their waits began. -/
def execWatchWake (n : Byte) (s : State) : Out := runFast s fun s =>
  let w := s.watch n.toNat
  let isTake : Watch → Bool := fun w => w.owner == 1 && (match (s.headCmd w.party).map EngCmd.op with | some (.take ..) => true | _ => false)
  if !w.dirty then s
  else if isTake w && s.sync.watch.any (fun (p : Nat × Watch) => p.2.dirty && isTake p.2 && p.2.addr == w.addr && decide (p.2.since < w.since)) then s
  else
    let s := s.setWatch n.toNat { w with dirty := false }
    if w.owner = 2 then
      let s := s.armedRead w
      if s.armedHolds w then (s.setWatch n.toNat Watch.free).hostsig w.hostsig.toNat else s
    else s.recheck w.party

/-- WAIT_POLL (R302): a polling wait reads its word again; the oldest one takes a watch entry that is free. -/
def execWaitPoll (party : Nat) (s : State) : Out := runFast s fun s =>
  match s.sync.polls.find? fun p => p.party == party with
  | none => s
  | some p =>
    let oldest := s.sync.polls.all fun e => decide (p.since ≤ e.since)
    let s := (s.count 0x60320 1).recheck party
    if !(s.sync.polls.any fun e => e.party == party) then s
    else
      match s.freeWatch with
      | some i =>
        if !oldest then s
        else
          let s := { s.setWatch i ⟨1, party, p.addr, p.target, p.sem, 0, p.since, false⟩ with
            sync := { (s.setWatch i ⟨1, party, p.addr, p.target, p.sem, 0, p.since, false⟩).sync with
              polls := s.sync.polls.filter fun (e : Poll) => e.party != party } }
          if party = barParty then s else s.setQueue party { s.queue party with wait := .watched i }
      | none => s

/-- WATCH_ARM (R303): the watch of WATCH_ARM_ADDR, WATCH_ARM_TARGET and WATCH_ARM_CTL. -/
def State.watchArm (s : State) : State :=
  match s.freeWatch with
  | none => s.orReg 0x6003C 0x80000000
  | some i =>
    let ctl := s.reg 0x60038
    let w : Watch := ⟨2, 0, s.reg 0x60030, s.reg 0x60034, ctl.getLsbD 20, ctl.extractLsb' 24 5, s.sync.began, false⟩
    let s := (s.setReg 0x6003C (w32 i)).armedRead w
    if s.armedHolds w then s.hostsig w.hostsig.toNat else s.setWatch i w
def execWatchArm (s : State) : Out := runSlow s State.watchArm

/-- WATCH_CTL_n.VALID written 1 (R303): an armed watch is cancelled; a wait's entry stays. -/
def State.watchFree (n : Nat) (s : State) : State := if (s.watch n).owner = 2 then s.setWatch n Watch.free else s
/-- WATCH_CANCEL (R303). -/
def execWatchCancel (n : Byte) (s : State) : Out := runSlow s (State.watchFree n.toNat)

/-! Signals (R298, R314) -/

/-- A SIGNAL (operation 1) or DEC (operation 2) at the head of queue q, every command ahead of it complete. A local word
is written at once; for a peer or fabric word a SYNC is sent, and the head waits for its answer (R292, R391). -/
def signalHead (q op : Nat) (c : EngCmd) (f : Form) (a v : Opd) (h : Nat) (s : State) : State :=
  if !s.queueQuiet q then s
  else if opdBad a || opdBad v then s.reject q c { code := 0x3005, cond := 1 }
  else if f = .loc then
    match s.syncApply op (oVal a) (oWord v) 0 (c.reader 11 q) with
    | (some r, s) => s.reject q c r
    | (none, s) => let s := s.issued q c; if h < 32 then s.hostsig h else s
  else
    match (s.queue q).wait with
    | .sent _ => s
    | .xlate x =>
      if s.dma.xids.any fun e => e.1 == x then s else s.setQueue q { s.queue q with wait := .none }
    | _ =>
      match s.trySync (f == .fabric) a.imm op (oWord v) ⟨0, q, h, some c, 0, false, 0⟩ with
      | (.bad r, s) => s.reject q c r
      | (.ok i, s) => s.setQueue q { s.queue q with wait := .sent i }
      | (.xlate x, s) => s.setQueue q { s.queue q with wait := .xlate x }
      | (.later, s) => s

/-- SIGNAL (R295–R298, R314). -/
def execSignal (q : Nat) (s : State) : Out := runFast s fun s => withHead q s fun c s =>
  match c.op with
  | .signal f a v h => signalHead q 1 c f a v ((h.map BitVec.toNat).getD 32) s
  | _ => s

/-- DEC (R295–R298). -/
def execDec (q : Nat) (s : State) : Out := runFast s fun s => withHead q s fun c s =>
  match c.op with
  | .dec f a v => signalHead q 2 c f a v 32 s
  | _ => s

/-! Barriers (R308–R312) -/

/-- Whether an arrival of context b is outstanding (R308). -/
def State.outstanding (s : State) (b : Nat) : Bool :=
  match Tab.get none s.sync.arrived b with
  | none => false
  | some g =>
    match s.wordChk (s.releaseAddr b), s.readWord (s.releaseAddr b) 6 with
    | none, .ok _ c => !reached c (g + 1)
    | _, _ => true

/-- The checks of an arrival (R311, R312). -/
def State.barChk (s : State) (b : Nat) : Option Rej :=
  let cfg := s.reg (0x60100 + 0x20 * b)
  let form := fld cfg 28 3
  if !cfg.getLsbD 31 then operandInvalid 1 b
  else if 4 ≤ form then operandInvalid 2 b
  else if form = 3 ∧ b ≠ 0 then operandInvalid 3 b
  else none

/-- release(g) at context b (R310). -/
def State.release (b : Nat) (g : Word) (s : State) : State :=
  let a := s.releaseAddr b
  match s.wordChk a with
  | some r => s.raise { code := r.code, unit := 10, index := b, cond := r.cond, d0 := w32 a }
  | none =>
    match s.readWord a 6 with
    | .ok _ c =>
      let s := s.touchBy syncUnit a 8
      let up := decide (0 < signed32 ((g + 1) - c))
      let s := if up then s.putCount a false (g + 1) else s
      let s := s.blotter 7 4 0 g
      let now := if up then g + 1 else c
      (match Tab.get none s.sync.arrived b with
      | some k => if reached now (k + 1) then { s with sync := { s.sync with arrived := s.sync.arrived.erase b } } else s
      | none => s)
    | w => (s.touchBy syncUnit a 8).wordFail a 6 3 w syncUnit

/-- Send release(g) of context b to every valid entry of its release range (R310). -/
def State.sendReleases (b : Nat) (g : Word) (s : State) : State :=
  let rg := s.reg (0x60110 + 0x20 * b)
  let es := (List.range (fld rg 16 14)).map fun i => fld rg 0 13 + i
  let bad := es.filter fun i => (s.route i).isNone
  let one := fun (s : State) (i : Nat) =>
    match s.route i with
    | some r => s.send 2 [(linkOf 7 r.1 r.2 false false false 0, hdrOf [(124, b), (92, g.toNat)], [])]
    | none => s
  let s := es.foldl one s
  match bad with
  | i :: _ => s.raise { code := 0x1008, unit := 10, index := b, d0 := w32 b, d1 := w32 i }
  | [] => s

/-- The test for the last arrival of generation g, on the central COUNT before the add (R309). -/
def State.lastTest (b : Nat) (g old : Word) (s : State) : State :=
  let n := fld (s.reg (0x60100 + 0x20 * b)) 0 16 + 1
  if old + 1 = (g + 1) * w32 n then ((s.count 0x60338 1).sendReleases b g).release b g else s

/-- The arrival has been made: BAR_GEN advances, and the arrival is outstanding (R308, R309). -/
def State.noteArrival (b : Nat) (g : Word) (tag : Half) (s : State) : State :=
  let s := s.setReg (0x60114 + 0x20 * b) (g + 1)
  ({ s with sync := { s.sync with arrived := Tab.set none s.sync.arrived b (some g) } }.count 0x60330 1).blotter 6 4 tag g

/-- Raise an arrival on the barrier lines; further ones wait until ACK is low, in turn (R401). -/
def State.lineArrive (g : Word) (s : State) : State :=
  if s.sync.lineReq || s.sync.lineAck then { s with sync := { s.sync with lineNext := s.sync.lineNext ++ [g] } }
  else { s with sync := { s.sync with lineReq := true, lineGen := g } }

/-- How an attempt to arrive ended. -/
inductive Arrive where
  | made (s : State)
  | xlate (x : Nat) (s : State)
  | later (s : State)
  | bad (r : Rej) (s : State)

/-- Arrive at context b (R309, R312): fetch-add of the central word, or the barrier lines. -/
def State.arriveAt (b q : Nat) (cmd : Option EngCmd) (r : Reader) (s : State) : Arrive :=
  let tag := r.tag
  let cfg := s.reg (0x60100 + 0x20 * b)
  let g := s.reg (0x60114 + 0x20 * b)
  let central := mk64 (s.reg (0x60108 + 0x20 * b)) (s.reg (0x60104 + 0x20 * b))
  match s.barChk b with
  | some r => .bad r s
  | none =>
    if fld cfg 28 3 = 0 then
      match s.syncApply 3 central.toNat 1 0 r with
      | (some r, s) => .bad r s
      | (none, s') => .made ((s'.noteArrival b g tag).lastTest b g (s.word central.toNat))
    else if fld cfg 28 3 = 3 then .made ((s.noteArrival b g tag).lineArrive g)
    else
      match s.trySync (fld cfg 28 3 == 2) central 3 1 ⟨1, q, 16 * g.toNat + b, cmd, 0, false, tag⟩ with
      | (.ok _, s) => .made (s.noteArrival b g tag)
      | (.xlate x, s) => .xlate x s
      | (.later, s) => .later s
      | (.bad r, s) => .bad r s

/-- ARRIVE (R298, R311): it holds nothing. -/
def execArrive (q : Nat) (s : State) : Out := runFast s fun s => withHead q s fun c s =>
  match c.op with
  | .arrive b =>
    let held := match (s.queue q).wait with | .xlate x => s.dma.xids.any fun e => e.1 == x | _ => false
    if !s.queueQuiet q || held then s
    else
      (match s.arriveAt b.toNat q (some c) (c.reader 11 q) with
      | .made s => s.issued q c
      | .xlate x s => s.setQueue q { s.queue q with wait := .xlate x }
      | .later s => s
      | .bad r s => s.reject q c r)
  | _ => s

/-- Every engine command enqueued so far has completed, its remote operations answered; a rejected command that its queue
holds has not, until it is discarded (R247). -/
def State.allQuiet (s : State) : Bool :=
  s.queuesIdle && s.runningX.isEmpty && s.fillRuns.isEmpty && (s.dma.xfers.all fun p => p.2.isEmpty) &&
  !(s.dma.streams.any fun p => match p.2 with | .sync _ => true | _ => false)

/-- SYNC_BARRIER (R311): with both threads at it and every command complete the core arrives once; both threads go on
after the release. A barrier that cannot be made is a rejected macro-command of both (R246). -/
def execSyncBarrier (s : State) : Out := runFast s fun s =>
  match s.bothAt with
  | none => s
  | some m =>
    match m.kind with
    | .barrier b =>
      let held := match s.sync.barWait with | some x => s.dma.xids.any fun e => e.1 == x | none => false
      if s.cc.dispExe.arrived.isSome || held || !s.allQuiet then s
      else
        let a := s.releaseAddr b.toNat
        let g := s.reg (0x60114 + 0x20 * b.toNat)
        (match s.barChk b.toNat, s.wordChk a, s.readWord a 6 with
        | some r, _, _ => s.rejectBoth r m.tag
        | none, some r, _ => s.rejectBoth r m.tag
        | none, none, .ok _ _ =>
          (match s.arriveAt b.toNat barParty none (barReader m) with
          | .bad r s => s.rejectBoth r m.tag
          | .later s => s
          | .xlate x s => { s with sync := { s.sync with barWait := some x } }
          | .made s =>
            let s := s.setDisp .exe { s.disp .exe with arrived := some (b.toNat, g) }
            (match s.evalWait (barReader m) 4 a (g + 1) with
            | .go s => (s.endMacro .acc).endMacro .exe
            | .bad r s => s.rejectBoth r m.tag
            | .hold _ s => (s.startWait barParty a (g + 1) false).2))
        | none, none, w => (s.touchBy (barReader m) a 8).rejectBoth (wordRej a 4 0 w) m.tag)
    | _ => s

/-- BAR_ARRIVE_ACK changes (R401): the arrival is taken, and the next one goes out once ACK is low. -/
def execBarArriveAck (lvl : Bool) (s : State) : Out := runFast s fun s =>
  let s := { s with sync := { s.sync with lineAck := lvl, lineReq := s.sync.lineReq && !lvl } }
  match s.sync.lineNext with
  | g :: l => if lvl then s else { s with sync := { s.sync with lineNext := l, lineReq := true, lineGen := g } }
  | [] => s

/-- BAR_REL_TGL (R343, R401): release(GEN) at context 0; a fenced core ignores it. -/
def execBarRelTgl (gen : Word) (s : State) : Out := runFast s fun s => if s.sys.fence == .fenced then s else s.release 0 gen

/-! The answer to a SYNC (R286, R292, R391) -/

/-- The error of an operation whose target answered with an error (R286). -/
def transferError (i st : Nat) : Rej := { code := 0x1005, cond := 1, unit := 9, d0 := w32 i, d1 := w32 st }

/-- POISON_RECEIVED of a SYNC (R290). -/
def syncPoison (i : Nat) (o : SyncOp) : Err :=
  let thread := match o.cmd with | some c => ctxNum c.ctx | none => 0
  let index := if o.q < 23 then o.q else 0xFF
  { code := 0x1006, unit := 9, tag := (o.cmd.map EngCmd.tag).getD o.tag, index := index, thread := thread, d0 := w32 i }
/-- Act on the answer to the SYNC of stream i: its status, and the word before a FETCH_ADD. A SYNC BARRIER whose arrival
ends in error is a rejected macro-command of both threads, when they still stand at it (R246, R286, R292). -/
def State.syncAnswer (i : Nat) (o : SyncOp) (st : Nat) (old : DWord) (s : State) : State :=
  let s := (s.setStream i .free).windowSub o.group 1
  let ok := decide (st ≤ 1)
  let s := if st = 1 then s.raise (syncPoison i o) else s
  match o.what, o.cmd with
  | 0, some c =>
    if (s.queue o.q).wait ≠ .sent i then s
    else if ok then let s := s.issued o.q c; if o.arg < 32 then s.hostsig o.arg else s
    else s.reject o.q c (transferError i st)
  | 1, c =>
    if ok then s.lastTest (o.arg % 16) (w32 (o.arg / 16)) (lo32 old)
    else
      (match c with
      | some c => s.rejectLate o.q c (transferError i st)
      | none =>
        if s.cc.dispExe.arrived = some (o.arg % 16, w32 (o.arg / 16)) then (s.endWait barParty).rejectBoth (transferError i st) o.tag
        else s.raise { code := 0x1005, unit := 9, tag := o.tag, thread := 0, cond := 1, d0 := w32 i, d1 := w32 st })
  | _, some c => if ok then s else s.rejectLate o.q c (transferError i st)
  | _, none => s

/-! Deadlock and partner timeouts (R315–R318) -/

/-- A blocked party: number, WAIT_KIND, address, target, count, tag, and whether it is a partner wait. -/
structure Blocked where
  party : Nat
  kind : Nat
  addr : Word
  target : Word
  count : Word
  tag : Half
  partner : Bool
  deriving DecidableEq, Repr

/-- Whether a wait on the word at a for target t is a release wait: a WAIT on the release word of a context for a generation
it has arrived for and not yet been released from (R311). -/
def State.releaseWait (s : State) (op a : Nat) (t : Word) : Bool :=
  op == 4 && (List.range 16).any fun b => a == s.releaseAddr b &&
    (match Tab.get none s.sync.arrived b with | some g => reached (g + 1) t | none => false)

/-- The block of queue q: a wait that has started and whose condition is false. A release wait is always a partner wait
(R311). -/
def State.queueBlock (s : State) (q : Nat) : Option Blocked :=
  match s.headCmd q with
  | none => none
  | some c =>
    match waitOf c.op with
    | none => none
    | some (a, t, op, p) =>
      match (s.queue q).wait, s.evalWait (c.reader 11 q) op (oVal a) (oWord t) with
      | .none, _ => none
      | _, .hold _ _ =>
        let rel := s.releaseWait op (oVal a) (oWord t)
        some ⟨q, if rel then 3 else op - 3, oWord a, oWord t, s.word (oVal a), c.tag, p || rel⟩
      | _, _ => none

/-- The block of a context (parties 23–25). -/
def State.ctxBlock (s : State) (c : Ctx) : Option Blocked :=
  let v := s.ctxt c
  match v.run, v.stall with
  | true, some (k, n) =>
    let cnt := if k = 6 then (s.queue n).items.length else if k = 5 then ((s.tq n).filter fun e => e.2.1).length else (s.tq n).length
    let still := match k with | 4 => decide (64 ≤ (s.tq n).length) | 5 => (match s.tq n with | (_, true, _) :: _ => false | _ => true) | _ => !s.room n
    if s.halted c.thread || !still then none
    else some ⟨23 + ctxNum c, k, w32 n, w32 (if k = 5 then 1 else 0), w32 cnt, v.tag, false⟩
  | _, _ => none

/-- The block of a dispatch stage (parties 26 and 27): a LATCH or a SYNC BARRIER not yet satisfied. -/
def State.dispBlock (s : State) (t : Thread) : Option Blocked :=
  match (s.disp t).cur with
  | some m =>
    (match m.kind with
    | .latch => if s.bothAt.isSome && !s.predsOwed then none else some ⟨26 + stageNum t, 7, 0, 0, 0, m.tag, false⟩
    | .barrier b => some ⟨26 + stageNum t, 3, w32 (s.releaseAddr b.toNat), 0, s.word (s.releaseAddr b.toNat), m.tag, true⟩
    | _ => none)
  | none => none

/-- The blocked parties in ascending order (R315). -/
def State.blocked (s : State) : List Blocked :=
  (List.range 23).filterMap s.queueBlock ++ ([.acc, .e0, .e1] : List Ctx).filterMap s.ctxBlock ++ ([.acc, .exe] : List Thread).filterMap s.dispBlock

/-- Whether a dispatch stage has work of its own: a command at it, or one that waits for it while no handler runs; one that a
breakpoint or a rejection stopped has work too, and is not blocked (R246, R464). -/
def State.dispWork (s : State) (t : Thread) : Bool :=
  (s.disp t).cur.isSome || (!(match t with | .acc => s.cc.acc.run | .exe => s.cc.e0.run) && (s.nextMacro t).isSome)

/-- The condition of R316. -/
def State.deadlocked (s : State) : Bool :=
  !s.blocked.isEmpty &&
  ((List.range 23).all fun q => (s.queue q).items.isEmpty || (s.queueBlock q).isSome) &&
  s.heldX.isEmpty && s.runningX.isEmpty && s.fillRuns.isEmpty &&
  (([.acc, .e0, .e1] : List Ctx).all fun c => !(s.ctxt c).run || (s.ctxBlock c).isSome) &&
  (([.acc, .exe] : List Thread).all fun t => !s.dispWork t || (s.dispBlock t).isSome) &&
  (s.blocked.all fun b => !b.partner) &&
  (s.dma.xfers.all fun p => p.2.isEmpty) && s.dma.streams.isEmpty && decide (s.dma.outstanding = 0) &&
  (s.port.inL.all fun l => l.2.rx.isEmpty)

/-- SNAP_HEAD (R320). -/
def Blocked.head (b : Blocked) : Word :=
  w32 (2 ^ 31 + b.kind * 2 ^ 28 + bit b.partner * 2 ^ 27 + b.party * 2 ^ 16 + b.tag.toNat)

/-- DEADLOCK (R316, R317): the condition has held for DEADLOCK_WINDOW SCLK. -/
def execDeadlock (s : State) : Out := runFast s fun s =>
  if s.reg 0x60008 = 0 || s.regBit 0x60010 8 || !s.deadlocked then s
  else
    let bs := s.blocked.take 32
    let clr := fun (s : State) (i : Nat) => s.setReg (0x61400 + 4 * i) 0
    let put := fun (s : State) (p : Blocked × Nat) =>
      (((s.setReg (0x61400 + 16 * p.2) p.1.head).setReg (0x61404 + 16 * p.2) p.1.addr).setReg (0x61408 + 16 * p.2) p.1.target).setReg
        (0x6140C + 16 * p.2) p.1.count
    let s := bs.zipIdx.foldl put ((List.range 128).foldl clr s)
    let s := (s.setCtr 0x61600 s.aclk).setReg 0x60010 (w32 (0x100 + bs.length))
    (s.raise { code := 0x2002, unit := 10, d0 := w32 bs.length }).count 0x60340 1

/-- DL_REARM (R317). -/
def execDlRearm (s : State) : Out := runSlow s fun s => s.clrReg 0x60010 0x100

/-- The word, target and tag of a partner wait that a party stands in (R315). -/
def State.partnerWait (s : State) (party : Nat) : Option (Word × Word × Half) :=
  if party = barParty then
    match s.cc.dispExe.arrived, s.cc.dispExe.cur with
    | some (b, g), some m => some (w32 (s.releaseAddr b), g + 1, m.tag)
    | _, _ => none
  else
    match s.headCmd party with
    | none => none
    | some c =>
      match waitOf c.op, (s.queue party).wait with
      | _, .none => none
      | some (a, t, op, p), _ => if p || s.releaseWait op (oVal a) (oWord t) then some (oWord a, oWord t, c.tag) else none
      | none, _ => none

/-- PARTNER_TIMEOUT (R318): logged once per wait. -/
def execPartnerTimeout (party : Nat) (s : State) : Out := runFast s fun s =>
  if s.regFld 0x60000 0 6 = 0 || s.sync.timedOut.contains party then s
  else
    match s.partnerWait party with
    | none => s
    | some (a, t, tag) =>
      let s := { s with sync := { s.sync with timedOut := party :: s.sync.timedOut } }
      (s.raise { code := 0x2003, unit := 10, tag := tag, index := party, d0 := a, d1 := t, d2 := s.word a.toNat }).count 0x60348 1

end Sys2Proof.Machine
end

