-- ==== Sys2Proof/Machine/Reply.lean ====
section
/-! DEFINITION. Replies of the management controller and their placement in the two transports (R444–R452). -/

namespace Sys2Proof.Machine

/-- The little-endian bytes of a list of words. -/
def wordBytes (ws : List Word) : List Byte := ws.flatMap fun w => leBytes 4 w.toNat

/-- The words of a reply: header low word first, payload, check word (R445, R446). -/
def Reply.words (r : Reply) : List Word :=
  let h := r.op * 2 ^ 56 + r.ver * 2 ^ 52 + r.seq.toNat * 2 ^ 40 + r.pay.length * 2 ^ 24 + r.status * 2 ^ 16 + bit r.notice * 2 ^ 15 + bit r.check * 2 ^ 14
  let l := [w32 h, w32 (h / 2 ^ 32)] ++ r.pay
  if r.check then l ++ [w32 (crc32.of (wordBytes l))] else l

/-! The fabric mailbox (R451) -/

/-- Base and slot count of the request ring and of the reply ring. -/
def State.reqBase (s : State) : Nat := (s.reg 0x01014).toNat / 64 * 64
def State.rspBase (s : State) : Nat := (s.reg 0x01018).toNat / 64 * 64
def State.reqSlots (s : State) : Nat := 2 ^ s.regFld 0x01010 8 3
def State.rspSlots (s : State) : Nat := 2 ^ s.regFld 0x01010 12 3
/-- Whether the rings are served: enabled, their headers accepted, no error. -/
def State.ringServed (s : State) : Bool := s.regBit 0x01010 31 && s.mgmt.ringOk && !s.mgmt.ringErr

/-- The rings are refused: nothing is taken and nothing written until ERR is cleared (R452). -/
def State.mringInvalid (s : State) : State :=
  ({ s with mgmt := { s.mgmt with ringOk := false, ringErr := true } }).raise { code := 0x8007, unit := 0 }
/-- The KIND and reserved bits of a served ring's TAIL and HEAD are tested before they are used (R13, R14, R291). -/
def State.ringTest (b : Nat) (s : State) : State :=
  if s.regBit 0x01010 31 && s.mgmt.ringOk && !s.ringWordsOk b then s.mringInvalid else s

/-- Advance a ring's COUNTER word by 1. -/
def State.bumpWord (a : Nat) (s : State) : State :=
  s.writeDword 14 a (w64 (fld64 (s.dword a) 32 32 * 2 ^ 32 + (s.word a + 1).toNat))

/-- Whether a transport has room for a reply (R450, R452); an overrun of the request ring holds no reply back. -/
def State.replyRoom (s : State) : Transport → Bool
  | .mailbox => decide (s.mgmt.replies.length < 2)
  | .ring => s.regBit 0x01010 31 && s.mgmt.ringOk && decide ((s.word s.rspBase - s.word (s.rspBase + 8)).toNat < s.rspSlots)

/-- Place one reply (R450, R452). -/
def State.placeReply (r : Reply) (s : State) : State :=
  let s := if r.irq || r.notice then s.interrupt 4 else s
  match r.dest with
  | .mailbox => { s with mgmt := { s.mgmt with replies := s.mgmt.replies ++ [r.words], busy := s.mgmt.busy && r.notice } }
  | .ring =>
    let b := s.rspBase
    let s := (s.write 14 (b + 0x40 + 0x1040 * ((s.word b).toNat % s.rspSlots)) (wordBytes r.words)).bumpWord b
    if s.regBit 0x01010 5 then s.hostsig (s.regFld 0x01010 0 5) else s

/-- Place the replies that have room, each transport in order. -/
def placeGo : List Reply → List Transport → State → List Reply × State
  | [], _, s => ([], s)
  | r :: t, held, s =>
    let s := if r.dest = .ring then s.ringTest s.rspBase else s
    if held.contains r.dest || !s.replyRoom r.dest then
      let q := placeGo t (r.dest :: held) s
      (r :: q.1, q.2)
    else placeGo t held (s.placeReply r)
def State.placeReplies (s : State) : State :=
  let r := placeGo s.mgmt.out [] s
  { r.2 with mgmt := { r.2.mgmt with out := r.1 } }

/-- Answer a packet: the detail word before the payload of every reply that is not OK, counted and traced (R446, R465). -/
def State.answer (p : Packet) (status : Nat) (off code : Nat) (notice : Bool) (pay : List Word) (s : State) : State :=
  let body := if status = 0 then pay else w32 (off * 2 ^ 16 + code) :: (if notice then pay else [])
  let ver := if p.ver = 1 ∨ p.ver = 2 then p.ver else 2
  let r : Reply := ⟨p.src, p.op, ver, p.seq, status, notice, p.check, p.irq, body⟩
  let s := if status = 0 then s else s.setCtr 0x01048 (s.ctr 0x01048 + 1)
  let s := s.blotter 8 3 0 (w32 (p.op + status * 2 ^ 8 + bit notice * 2 ^ 16))
  ({ s with mgmt := { s.mgmt with out := s.mgmt.out ++ [r] } }).placeReplies

/-- The packet in hand has been served. -/
def State.served1 (s : State) : State := { s with mgmt := { s.mgmt with cur := none } }
/-- Answer the packet in hand. -/
def State.ok (p : Packet) (pay : List Word) (s : State) : State := s.served1.answer p 0 0 0 false pay
/-- Refuse the packet in hand: status, offending payload word and error code. -/
def State.refuse (p : Packet) (status : Nat) (off : Nat := 0xFFFF) (code : Nat := 0) (s : State) : State := s.served1.answer p status off code false []

/-! Taking packets (R444, R447–R450) -/

/-- DEBUG_LOCK: bit 0 of word 127 of the fuse bank, from the moment it reads 1, before the fuse load too (R460; log entry
81). -/
def State.debugLocked (s : State) : Bool := (Tab.get 0 s.sys.fuses 127).getLsbD 0

/-- The opcodes a FENCED core executes (R344). -/
def fencedOps : List Nat := [0x01, 0x02, 0x05, 0x06, 0x07, 0x08, 0x09, 0x0A, 0x0D, 0x0E, 0x0F, 0x10, 0x14, 0x15, 0x16]
/-- Whether an opcode takes a LEN; w1 is its second payload word (R453). -/
def lenOk (op len : Nat) (w1 : Word) : Bool :=
  match op with
  | 0x03 => len == 3
  | 0x06 => len == 2
  | 0x07 => len == 2
  | 0x08 => len == 5
  | 0x0A => len == 1
  | 0x0B => len == 2
  | 0x0D => len == 4
  | 0x0E => len == 3
  | 0x0F => decide (3 ≤ len ∧ len ≤ 1024)
  | 0x10 => len == 1
  | 0x12 => len == 2
  | 0x13 => decide (2 ≤ len ∧ len = 2 + 4 * w1.toNat)
  | 0x14 => len == 1
  | 0x16 => len == 1
  | _ => len == 0
/-- The bits that the opcodes' leading payload words assign (R453); the others are reserved (R14; log entry 80). -/
def payloadBits (op : Nat) : List Word :=
  match op with
  | 0x06 => [0xFFFFFFFF, 0xF]
  | 0x08 => [0xFFFF]
  | 0x0A => [0x1F0003]
  | 0x0B => [0xFFFFFFFF, 0x8000000F]
  | 0x0D => [0xF803, 0xFFFFFFFF, 0xFFFFFFFF, 0xFFFF]
  | 0x0E | 0x0F => [0xF]
  | 0x10 => [7]
  | 0x12 => [0xC0000FFF]
  | 0x13 => [0x1FFF]
  | _ => []
/-- Whether a packet sets a reserved bit of its payload. -/
def payloadReserved (op : Nat) (pay : List Word) : Bool := (pay.zip (payloadBits op)).any fun p => p.1 &&& ~~~p.2 != 0
/-- The CORE_STATE values in which an opcode is allowed (R454). -/
def stateOk (op st : Nat) : Bool :=
  match op with
  | 0x10 => st == 2 || st == 5
  | 0x04 => st == 2 || st == 3
  | 0x0B => st == 2 || st == 4
  | 0x0C => st == 3
  | 0x03 | 0x05 | 0x06 | 0x08 | 0x0A | 0x11 | 0x12 | 0x13 => decide (2 ≤ st ∧ st ≤ 4)
  | _ => decide (2 ≤ st ∧ st ≤ 5)
/-- The deferred opcodes (R448). -/
def deferredOp (op : Nat) : Bool := op == 0x03 || op == 0x05 || op == 0x10 || op == 0x11 || op == 0x12

/-- The packet that a list of received words spells: OPCODE and SEQ 0 when there are fewer than two (R444, R450). -/
def packetOf (src : Transport) (ws : List Word) : Packet :=
  let h0 := getAt 0 ws 0
  let h1 := getAt 0 ws 1
  let chk := h0.getLsbD 17
  let body := ws.drop 2
  if ws.length < 2 then ⟨src, 0, 2, 0, false, false, []⟩
  else ⟨src, fld h1 24 8, fld h1 20 4, BitVec.ofNat 12 (fld h1 8 12), chk && fld h1 20 4 == 2, h0.getLsbD 16, if chk then body.dropLast else body⟩

/-- The first test of R447 that a packet fails: its status. `bad` says that the words were read with an uncorrectable
error (log entry 48). -/
def State.packetTest (s : State) (p : Packet) (ws : List Word) (bad : Bool) : Option Nat :=
  let h0 := getAt 0 ws 0
  let len := fld (getAt 0 ws 1) 0 8 * 256 + fld h0 24 8
  let chk := h0.getLsbD 17
  let st := coreNum s.sys.core
  let deferred := s.mgmt.deferred.map fun d => d.pkt.op
  let flacon := p.op == 0x11 && (s.flacon.snap.isSome || s.flacon.rest.isSome)
  if ws.length < 2 then some 3
  else if bad || (chk && 2 < ws.length && w32 (crc32.of (wordBytes ws.dropLast)) != ws.getLastD 0) then some 7
  else if (p.ver ≠ 1 && p.ver ≠ 2) || (chk && p.ver == 1) || fld h0 18 6 ≠ 0 || fld h0 0 16 ≠ 0 || payloadReserved p.op p.pay then some 8
  else if p.op = 0 || 0x16 < p.op then some 2
  else if s.sys.fence == .fenced && !fencedOps.contains p.op then some 9
  else if s.debugLocked && decide (0x0D ≤ p.op ∧ p.op ≤ 0x0F) then some 5
  else if 1024 < len || ws.length ≠ 2 + len + bit chk || !lenOk p.op len (getAt 0 p.pay 1) then some 3
  else if flacon then none
  else if deferred.isSome && (p.op == 2 || (deferredOp p.op && (p.op ≠ 5 || deferred == some 5))) then some 1
  else if !stateOk p.op st then some 6
  else none

/-- The controller takes a packet (R447, R449): counted, tested, and refused or held for its opcode. -/
def State.takePacket (src : Transport) (ws : List Word) (bad : Bool) (s : State) : State :=
  let p := packetOf src ws
  let s := s.setCtr 0x01040 (s.ctr 0x01040 + 1)
  let s := { s with mgmt := { s.mgmt with last := src } }
  match s.packetTest p ws bad with
  | some st => s.answer p st 0xFFFF 0 false []
  | none => { s with mgmt := { s.mgmt with cur := some p } }

/-- Whether the controller serves packets: start-up has ended (R461, R462, R469). -/
def State.mgmtReady (s : State) : Bool := s.sys.bootStage == 6 || s.sys.core == .bootFailed
/-- Whether it can take one now: none while a reply for the register mailbox is held (R449, R450). -/
def State.mayTake (s : State) : Bool := s.mgmtReady && s.mgmt.cur.isNone && !(s.mgmt.out.any fun r => r.dest == .mailbox)

/-- Request slots not yet taken (R452). -/
def State.reqHeld (s : State) : Nat := (s.word s.reqBase - s.word (s.reqBase + 8)).toNat
/-- Whether the request ring has a slot that the controller may take (R452). -/
def State.ringHas (s : State) : Bool := s.ringServed && decide (0 < s.reqHeld) && s.replyRoom .ring

/-- Take the packet of the register mailbox, when the controller is free and it is that transport's turn (R449). -/
def State.takeMail (s : State) : State :=
  match s.mgmt.submitted with
  | none => s
  | some ws =>
    if !s.mayTake || (s.mgmt.last == .mailbox && s.ringHas) then s
    else ({ s with mgmt := { s.mgmt with submitted := none } }).takePacket .mailbox ws false

/-- MGMT_REPLY_PLACE (R450, R452). -/
def execMgmtReplyPlace (s : State) : Out := runSlow s fun s => s.placeReplies.takeMail

/-- Run an opcode on the packet in hand, when it carries this opcode; the next packet is taken once it is served. -/
def withPacket (op : Nat) (s : State) (f : Packet → State → State) : Out := runSlow s fun s =>
  match s.mgmt.cur with
  | some p => if p.op = op then (f p s).takeMail else s
  | none => s

/-- Payload word i of a packet. -/
def Packet.w (p : Packet) (i : Nat) : Word := getAt 0 p.pay i

/-- A deferred operation begins: the acceptance reply is sent, the packet kept (R448). -/
def State.accept (p : Packet) (d : Deferred) (pay : List Word) (s : State) : State :=
  { s with mgmt := { s.mgmt with deferred := some d } }.ok p pay
/-- The deferred operation ends: its completion reply is sent (R448). -/
def State.complete (status off code : Nat) (pay : List Word) (s : State) : State :=
  match s.mgmt.deferred with
  | some d => { s with mgmt := { s.mgmt with deferred := none } }.answer d.pkt status off code true pay
  | none => s


end Sys2Proof.Machine
end

