-- ==== Sys2Proof/Machine/Flacon.lean ====
section
/-! DEFINITION. Flacon and its registry, parity, manifests and restores, the group table and the check-value unit
(chapter 11). -/

namespace Sys2Proof.Machine

/-- 1 MiB, the size of a chunk (R361). -/
def mib : Nat := 0x100000

/-! The register image of a scale slot (R140) -/

/-- Word i of the 128-byte image of a slot. -/
def slotWord (v : Slot) (i : Nat) : Word :=
  match i with
  | 0 => v.cfg
  | 1 => w32 (v.ptr % 16 * 2 ^ 20 + v.valid % 32 * 2 ^ 15 + bit v.held * 4 + bit v.promVan * 2 + bit v.promOvf)
  | 2 => v.enc
  | 3 => v.dec
  | 4 => v.maxCur
  | 5 => v.ovfT
  | 6 => v.vanT
  | 8 => w32 v.ovf
  | 9 => w32 (v.ovf / 2 ^ 32)
  | 10 => w32 v.van
  | 11 => w32 (v.van / 2 ^ 32)
  | 12 => w32 v.tot
  | 13 => w32 (v.tot / 2 ^ 32)
  | n => if 16 ≤ n ∧ n < 32 then Tab.get 0 v.hist (n - 16) else 0

/-- The slot of an image; its watch interval begins at the counts restored (log entry 27). -/
def slotOfImage (w : Nat → Word) : Slot :=
  let c := fun (i : Nat) => (w i).toNat + (w (i + 1)).toNat * 2 ^ 32
  { Slot.reset with
    cfg := w 0, ptr := fld (w 1) 20 4, valid := fld (w 1) 15 5, held := (w 1).getLsbD 2, promVan := (w 1).getLsbD 1,
    promOvf := (w 1).getLsbD 0, enc := w 2, dec := w 3, maxCur := w 4, ovfT := w 5, vanT := w 6,
    ovf := c 8, van := c 10, tot := c 12, ovf0 := c 8, van0 := c 10, tot0 := c 12,
    hist := (List.range 16).foldl (fun (h : Tab Word) i => Tab.set 0 h i (w (16 + i))) [] }

/-! Forms of address (R259, R354) -/

/-- The number that stands for fabric memory beside the group-table entries. -/
def fabricGt : Nat := 8192
/-- The memory a remote address of a form lies in, and its address there. -/
def formPlace (form a : Nat) : Nat × Nat := if form = 2 then (nfld a 32 13, a % 2 ^ 32) else (fabricGt, a)
/-- The bytes a span list holds of [a, a + n) of place g: the bytes and whether they are poisoned; none is an error. -/
def remoteRead (r : Remote) (g a n : Nat) : Option (List Byte × Bool) :=
  match r.spans.find? fun e => e.gt == g && decide (e.addr.toNat ≤ a ∧ a + n ≤ e.addr.toNat + e.data.length) with
  | some e => if e.ok then some ((e.data.drop (a - e.addr.toNat)).take n, e.poison) else none
  | none => none

/-- A read by Flacon: the bytes and whether they are poisoned, none when it ends in an error (R253, R351). -/
def State.flRead (r : Remote) (form a n : Nat) (s : State) : Option (List Byte × Bool) :=
  if n = 0 then some ([], false)
  else if form = 0 then (if s.inTiers a n then some (s.bytes a n, s.poisonedIn a n) else none)
  else
    let p := formPlace form a
    if p.1 ≠ fabricGt && (s.route p.1).isNone then none else remoteRead r p.1 p.2 n
/-- What such a read does to the state. -/
def State.flTouch (form a n : Nat) (s : State) : State :=
  let s := if form = 0 && s.inTiers a n then s.touch 12 a n else s
  s.count 0x80110 n
/-! Flacon's remote writes (R360, R386)

They are ordinary write packets: PEER_WRITE packets through a group-table entry, OUT packets to translated fabric addresses.
Log entry 42 says what they take as their source lines. -/

/-- Bytes from source address src for address a, cut at the source blocks of `pay` bytes (R386) and at the 4 KiB pages of the
destination (R279). -/
def flPackets (pay chunk gt : Nat) (bad : Nat → Nat → Bool) : Nat → Nat → Nat → List Byte → List FlWrite
  | 0, _, _, _ => []
  | k + 1, a, src, bs =>
    if bs.isEmpty then []
    else
      let n := min (pay - src % pay) (4096 - a % 4096)
      ⟨chunk, gt, a, src, bs.take n, bad src (min n bs.length)⟩ :: flPackets pay chunk gt bad k (a + n) (src + n) (bs.drop n)
/-- The source lines that n bytes from address src lie in, each with its bytes. -/
def flLines (src n : Nat) : List (Nat × Nat) :=
  let k := min n (64 - src % 64)
  if k = n then [(src / 64, n)] else [(src / 64, k), (src / 64 + 1, n - k)]

/-- A chunk of which a write ended in an error. -/
def Flacon.lose (n : Nat) (f : Flacon) : Flacon := if f.wbad.contains n then f else { f with wbad := f.wbad ++ [n] }
/-- Whether writes of Flacon are still to be placed or acknowledged. -/
def State.flWriting (s : State) : Bool := !s.flacon.wr.isEmpty || !s.flacon.wout.isEmpty
/-- The stream-table entry is freed when it serves no request, and none is to come or it has timed out (R274). -/
def State.flFree (s : State) : State :=
  match s.flacon.wstream with
  | some i =>
    if s.flacon.wout.isEmpty && (s.flacon.wr.isEmpty || s.flacon.wlate) then
      ({ s with flacon := { s.flacon with wstream := none, wlate := false } }).setStream i .free
    else s
  | none => s

/-- Place the next packet, when an entry, the window, a quota and a lane allow; none when it cannot be placed now. -/
def State.flPlace (s : State) : Option State :=
  match s.flacon.wr with
  | [] => none
  | w :: t =>
    let n := w.bytes.length
    let lines := flLines w.src n
    let seat := match s.flacon.wstream with | some i => some i | none => s.freeStream
    let waits := match s.flacon.wxid with | some x => s.dma.xids.any fun e => e.1 == x | none => false
    let go := fun (i cls vc g : Nat) (f : OutFlit) =>
      if s.windowTakes g lines.length && s.canPlace cls vc 1 then
        let reqs : List Req := lines.map fun l => ⟨64 * l.1 % 2 ^ 32, g, w.chunk, 0, l.2, 0⟩
        let u := (s.setStream i .flacon).windowAdd g lines.length
        let u := { u with flacon := { u.flacon with wr := t, wstream := some i, wxid := none, wout := u.flacon.wout ++ reqs } }
        some ((((u.count 0x50200 lines.length).count 0x50210 n).count 0x80118 n).send cls [f])
      else none
    if !s.inService || s.flacon.wlate || waits then none
    else
      match seat with
      | none => none
      | some i =>
        if w.gt ≠ fabricGt then
          let e := s.gt w.gt
          go i 1 2 (w.gt % 64) (linkOf 3 (gtEndpoint e) (gtRoute e) false w.poison false (n - 1),
            hdrOf [(108, i), (76, w.addr % 2 ^ 32), (50, w.src / 64 % 2 ^ 26)], w.bytes)
        else
          match s.translate (w.addr / 4096) true with
          | some p =>
            let pa := p * 4096 + w.addr % 4096
            go i 0 0 (s.groupOf pa) (linkOf 2 0 0 false w.poison false (n - 1), hdrOf [(64, pa), (44, i), (18, w.src / 64 % 2 ^ 26)], w.bytes)
          | none => none
/-- Place packets while they can be placed. -/
def flPlaceGo : Nat → State → State
  | 0, s => s
  | k + 1, s => match s.flPlace with | some t => flPlaceGo k t | none => s
/-- Ask for the translation that the next packet needs (R278). -/
def State.flMiss (s : State) : State :=
  match s.flacon.wr with
  | [] => s
  | w :: _ =>
    let waits := match s.flacon.wxid with | some x => s.dma.xids.any fun e => e.1 == x | none => false
    if w.gt ≠ fabricGt || !s.inService || waits || (s.translate (w.addr / 4096) true).isSome then s
    else
      match s.miss (w.addr / 4096) true with
      | some (x, s) => { s with flacon := { s.flacon with wxid := some x } }
      | none => s
/-- Place what can be placed of Flacon's writes (R360). -/
def State.flPump (s : State) : State := (flPlaceGo s.flacon.wr.length s).flMiss.flFree

/-- The request that a response slot answers is done (R272, R274, R352). -/
def State.flAnswer (la len st : Nat) (s : State) : State :=
  let hit := match s.flacon.wout.find? fun r => r.laddr == la && r.len == len with
    | some q => some q
    | none => s.flacon.wout.find? fun r => r.laddr == la
  match hit with
  | none => s
  | some q =>
    let s := s.windowSub q.group 1
    let f := { s.flacon with wout := s.flacon.wout.erase q }
    if f.wlate then (({ s with flacon := f }).count 0x50258 1).flFree
    else ({ s with flacon := if 2 ≤ st then f.lose q.run else f }).flFree
/-- The entry of the writes times out (R274): the chunks with a write in flight are in error, and their other writes are not
placed. -/
def State.flTimeout (s : State) : State :=
  let hit := s.flacon.wout.map fun r => r.run
  if hit.isEmpty || s.flacon.wlate then s
  else
    let f := hit.foldl (fun f n => f.lose n) s.flacon
    { s with flacon := { f with wlate := true, wxid := none, wr := f.wr.filter fun w => !hit.contains w.chunk } }
/-- A timed-out entry is freed (R274): what is still in flight leaves the window. -/
def State.flExpire (s : State) : State :=
  if !s.flacon.wlate then s
  else
    let s := s.flacon.wout.foldl (fun s (r : Req) => s.windowSub r.group 1) s
    ({ s with flacon := { s.flacon with wout := [] } }).flFree
/-- The translation of XID x ended in an error or a refusal: the packet that waits on it is not placed, and its chunk is in
error (R279, R352). -/
def State.flRefuse (x : Nat) (s : State) : State :=
  match s.flacon.wr with
  | [] => s
  | w :: t => if s.flacon.wxid = some x then ({ s with flacon := { s.flacon.lose w.chunk with wr := t, wxid := none } }).flFree else s

/-- A write by Flacon, of bytes of a chunk that stood at address src, poisoned where `bad` says so: a local one is made, a
remote one queued; and whether it has ended in an error. -/
def State.flWrite (form a chunk src : Nat) (bs : List Byte) (bad : Nat → Nat → Bool) (s : State) : Bool × State :=
  if bs = [] then (false, s)
  else if form = 0 then (if s.inTiers a bs.length then (false, s.write 12 a bs) else (true, s))
  else
    let p := formPlace form a
    if p.1 ≠ fabricGt && (s.route p.1).isNone then (true, s)
    else (false, { s with flacon := { s.flacon with wr := s.flacon.wr ++ flPackets s.payload chunk p.1 bad bs.length p.2 src bs } })

/-! The registry (R354, R355) -/

def State.entry (s : State) (i : Nat) : Nat := (Tab.get 0 s.flacon.registry i).toNat
def eValid (e : Nat) : Bool := efld e 0 59 1 == 1
def eMethod (e : Nat) : Nat := efld e 0 57 2
def eSingle (e : Nat) : Bool := efld e 0 56 1 == 1
def eK (e : Nat) : Nat := efld e 0 48 5
def eRank (e : Nat) : Nat := efld e 0 40 5
def eManForm (e : Nat) : Nat := efld e 0 36 2
def eParForm (e : Nat) : Nat := efld e 0 34 2
def eBufForm (e : Nat) : Nat := efld e 0 32 2
def eGt (e : Nat) : Nat := efld e 0 16 13
def eTag (e : Nat) : Nat := efld e 0 0 16
def eStride (e : Nat) : Nat := efld e 8 48 16 * mib
def eSize (e : Nat) : Nat := efld e 8 0 48
def eBuf (e b : Nat) : Nat := efld e (0x10 + 8 * b) 0 64
def ePar (e b : Nat) : Nat := efld e (0x20 + 8 * b) 0 64
def eMan (e b : Nat) : Nat := efld e (0x30 + 8 * b) 0 64
/-- This member's own buffer b (R354: a fabric buffer of a parity member lies RANK strides on). -/
def eOwn (e b : Nat) : Nat := if eMethod e = 1 ∧ eBufForm e = 1 then eBuf e b + eRank e * eStride e else eBuf e b
/-- The length of a parity unit. -/
def eUnit (e : Nat) : Nat := ceilDiv (eSize e) (eK e * mib) * mib
/-- Chunks of the buffer, and of one parity unit. -/
def eChunks (e : Nat) : Nat := ceilDiv (eSize e) mib
def eParChunks (e : Nat) : Nat := if eMethod e = 1 then 2 * (eUnit e / mib) else 0
/-- First byte and length of chunk c of the buffer. -/
def chunkAt (e c : Nat) : Nat × Nat := (c * mib, min mib (eSize e - c * mib))

/-- The FEED_DOMAIN_ID strap. -/
def State.feed (s : State) : Nat := s.sys.straps.feedDomain.toNat

/-- The registry index being drained. -/
def State.draining (s : State) : Option Nat := s.flacon.snap.bind fun n => n.todo.head?

/-- The conditions of R355 that do not depend on a drain: the number of the first that fails. -/
def State.entryChk (s : State) (e : Nat) : Option Nat :=
  let k := eK e
  let addrs : List (Nat × Nat) := [(eBufForm e, eBuf e 0), (eBufForm e, eBuf e 1), (eParForm e, ePar e 0), (eParForm e, ePar e 1),
    (eManForm e, eMan e 0), (eManForm e, eMan e 1)]
  let badAddr : Nat × Nat → Bool := fun p =>
    decide (p.2 % 64 ≠ 0) || (p.1 == 0 && (match s.space p.2 with | some .near => false | some .stacked => false | _ => true))
  if efld e 0 60 4 ≠ 1 || efld e 0 53 3 ≠ 0 || efld e 0 45 3 ≠ 0 || efld e 0 38 2 ≠ 0 || efld e 0 29 3 ≠ 0 ||
      eManForm e = 3 || eParForm e = 3 || eBufForm e = 3 then some 1
  else if eMethod e = 0 || eMethod e = 3 then some 2
  else if addrs.any badAddr then some 3
  else if eMethod e = 1 then
    if k < 4 || 16 < k || k + 1 < eRank e then some 4
    else if eSingle e == decide (eBuf e 0 ≠ eBuf e 1) then some 5
    else if eSize e < s.regFld 0x80004 24 8 * mib then some 6
    else if eBufForm e = 2 || (eBufForm e = 1 && eStride e = 0) then some 7
    else if 8191 < eGt e + k + 1 then some 8
    else if (s.route (eGt e + eRank e)).isNone || gtFeed (s.gt (eGt e + eRank e)) ≠ s.feed then some 9
    else none
  else if k ≠ 0 || eRank e ≠ 0 then some 10
  else if eParForm e = 0 then some 11
  else if eParForm e = 2 && (nfld (ePar e 0) 32 13 ≠ eGt e || nfld (ePar e 1) 32 13 ≠ eGt e) then some 12
  else none

/-- The group-table entries of the other members of an entry's group (R369). -/
def otherMembers (e : Nat) : List Nat :=
  if eMethod e = 1 then ((List.range (eK e + 2)).filter fun j => j ≠ eRank e).map fun j => eGt e + j else [eGt e]

/-- Counts of equal values, largest first. -/
def domainCounts (l : List Nat) : List Nat :=
  ((l.eraseDups.map fun d => (l.filter fun x => x = d).length).mergeSort fun a b => decide (b ≤ a))
/-- The largest f with c_1 + … + c_f ≤ lim. -/
def tolerance : Nat → List Nat → Nat
  | _, [] => 0
  | lim, c :: t => if c ≤ lim then tolerance (lim - c) t + 1 else 0

/-- The tolerance report of an entry (R370). -/
def State.tolReport (s : State) (e : Nat) : Word :=
  if eMethod e = 0 ∨ eMethod e = 3 then 0 else
  let ds := (otherMembers e).map fun g => gtFeed (s.gt g)
  let cs := domainCounts (s.feed :: ds)
  w32 (bit (ds.contains s.feed) * 2 ^ 31 + (cs.headD 0) % 256 * 2 ^ 16 + cs.length % 256 * 2 ^ 8 +
    tolerance (if eMethod e = 1 then 2 else 1) cs)

/-- An entry has been written: the tolerance report, and the comparison of feed domains (R369, R370). -/
def State.entryStored (i : Nat) (e : BitVec 512) (s : State) : State :=
  let n := e.toNat
  let rep := s.tolReport n
  let s := { s with flacon := { s.flacon with registry := Tab.set 0 s.flacon.registry i e, tol := Tab.set 0 s.flacon.tol i rep } }
  let same := (otherMembers n).filter fun g => gtFeed (s.gt g) == s.feed
  if eValid n && !same.isEmpty then
    (s.raise { code := 0x9001, unit := 12, d0 := w32 i, d1 := w32 (same.headD 0), d2 := w32 ((same.drop 1).headD 0) }).orReg 0x80008 0x10
  else s

/-- The words of a window as one wide number, and its words. -/
def State.window (s : State) (base n : Nat) : Nat := (List.range n).foldr (fun i (acc : Nat) => (s.reg (base + 4 * i)).toNat + 2 ^ 32 * acc) 0
def State.setWindow (base n v : Nat) (s : State) : State :=
  (List.range n).foldl (fun s i => s.setReg (base + 4 * i) (w32 (v / 2 ^ (32 * i)))) s

/-- REG_WIN_CTRL.WRITE (R355). -/
def State.registryWrite (s : State) : State :=
  let i := s.regFld 0x80020 0 12
  let e := s.window 0x80040 16
  let cond := if eValid e then s.entryChk e else none
  let cond := match cond with | some c => some c | none => if s.draining == some i then some 13 else none
  match cond with
  | some c => (s.raise { code := 0x9003, unit := 12, cond := c, d0 := w32 i }).setRegFld 0x80024 31 1 1
  | none => (s.entryStored i (BitVec.ofNat 512 e)).setRegFld 0x80024 31 1 0
def execRegistryWrite (s : State) : Out := runSlow s State.registryWrite

/-- REG_WIN_CTRL.READ (R377). -/
def State.registryRead (s : State) : State := s.setWindow 0x80040 16 (s.entry (s.regFld 0x80020 0 12))
def execRegistryRead (s : State) : Out := runSlow s State.registryRead

/-! The group table (R365, R366) -/

/-- The condition of R366 that an entry fails: its format version (1) or a reserved bit (2). -/
def gtBad (e : Nat) : Option Nat := if efld e 0 60 4 ≠ 1 then some 1 else if efld e 0 48 10 ≠ 0 || efld e 0 24 16 ≠ 0 then some 2 else none

def State.setGt (i : Nat) (e : BitVec 128) (s : State) : State := { s with flacon := { s.flacon with gt := Tab.set 0 s.flacon.gt i e } }

/-- The refusal of a write of entry i, by either way (R366, R378). -/
def State.gtRefuse (i c : Nat) (s : State) : State :=
  (s.raise { code := 0x9009, unit := 12, cond := c, d0 := w32 i }).setRegFld 0x80084 31 1 1

/-- GT_WIN_CTRL.WRITE (R366). -/
def State.gtWrite (s : State) : State :=
  let i := s.regFld 0x80080 0 13
  let e := s.window 0x80090 4
  match gtBad e with
  | some c => s.gtRefuse i c
  | none => (s.setGt i (BitVec.ofNat 128 e)).setRegFld 0x80084 31 1 0
def execGtWrite (s : State) : Out := runSlow s State.gtWrite

/-- GT_WIN_CTRL.READ (R377). -/
def State.gtRead (s : State) : State := s.setWindow 0x80090 4 (s.gt (s.regFld 0x80080 0 13)).toNat
def execGtRead (s : State) : Out := runSlow s State.gtRead

/-! The check-value unit (R371–R376) -/

def cvuBase (c : Nat) : Nat := 0x70000 + 0x40 * c
/-- The parameters of a context (R372, R376). -/
def State.cvuCrc (s : State) (c : Nat) : Crc :=
  let b := cvuBase c
  let w := s.regFld b 0 7
  ⟨w, (s.ctr (b + 8)).toNat % 2 ^ w, (s.ctr (b + 0x10)).toNat, s.regBit b 16, s.regBit b 17, (s.ctr (b + 0x18)).toNat⟩
/-- RESULT, the finished value of VALUE. -/
def State.cvuResult (s : State) (c : Nat) : DWord :=
  let k := s.cvuCrc c
  w64 (k.result ((s.ctr (cvuBase c + 0x20)).toNat % 2 ^ k.w))
def State.cvuMode (s : State) (c : Nat) : Nat := s.regFld (cvuBase c) 26 2
def State.cvuHold (s : State) (c : Nat) : CvuHold := Tab.get .free s.flacon.cvu c
def State.setCvuHold (c : Nat) (h : CvuHold) (s : State) : State := { s with flacon := { s.flacon with cvu := Tab.set .free s.flacon.cvu c h } }
/-- Absorb bytes into a context. -/
def State.cvuAbsorb (c : Nat) (bs : List Byte) (s : State) : State :=
  let k := s.cvuCrc c
  (s.setCtr (cvuBase c + 0x20) (w64 (k.run ((s.ctr (cvuBase c + 0x20)).toNat % 2 ^ k.w) bs))).count 0x70410 bs.length
/-- VALUE := INIT. -/
def State.cvuInit (c : Nat) (s : State) : State := s.setCtr (cvuBase c + 0x20) (s.ctr (cvuBase c + 0x10))

/-- CVU_CFG as written: WIDTH outside 8–64 reads back 64 (R376). -/
def cvuCfg (v : Word) : Word :=
  let v := v &&& 0x8C03007F
  if fld v 0 7 < 8 || 64 < fld v 0 7 then setFld v 0 7 64 else v

/-- A write of CVU_CFG: ignored while the context is held; EN rising in PLAIN mode sets VALUE := INIT (R373). -/
def State.cvuWriteCfg (c : Nat) (v : Word) (s : State) : State :=
  if s.cvuHold c ≠ .free then s
  else
    let was := s.regBit (cvuBase c) 31
    let s := s.setReg (cvuBase c) (cvuCfg v)
    if !was && s.regBit (cvuBase c) 31 && s.cvuMode c == 0 then s.cvuInit c else s
/-- CVU_ENABLE (R373). -/
def execCvuEnable (c : BitVec 4) (cfg : Word) (s : State) : Out := runSlow s (State.cvuWriteCfg c.toNat cfg)

/-- Transfers of channel ch, oldest first. -/
def State.xfersOf (s : State) (ch : Nat) : List Xfer := Tab.get [] s.dma.xfers ch
def State.setXfers (ch : Nat) (l : List Xfer) (s : State) : State := { s with dma := { s.dma with xfers := Tab.set [] s.dma.xfers ch l } }
/-- The transfer of channel ch with a command's sequence number, and its replacement. -/
def State.xferBy (s : State) (ch seq : Nat) : Option Xfer := (s.xfersOf ch).find? fun x => x.cmd.seq == seq
def State.putXfer (x : Xfer) (s : State) : State :=
  s.setXfers x.ch ((s.xfersOf x.ch).map fun e => if e.cmd.seq = x.cmd.seq then x else e)

/-- The whole bytes waiting from ordinal k on, at most n. -/
def takeBytes (buf : List (Nat × Nat × Nat)) (k : Nat) : Nat → List Byte
  | 0 => []
  | n + 1 =>
    match buf.find? fun e => e.1 == k && decide (8 ≤ e.2.1) with
    | some e => BitVec.ofNat 8 e.2.2 :: takeBytes buf (k + 1) n
    | none => []

/-- CVU_ABSORB (R371): up to 64 bytes of the transfer that holds the context, in element order. -/
def execCvuAbsorb (c : BitVec 4) (s : State) : Out := runFast s fun s =>
  match s.cvuHold c.toNat with
  | .xfer ch seq =>
    match s.xferBy ch seq with
    | none => s
    | some x =>
      let bs := takeBytes x.cvuBuf x.absorbed 64
      if bs = [] then s
      else
        let n := x.absorbed + bs.length
        (s.putXfer { x with absorbed := n, cvuBuf := x.cvuBuf.filter fun (e : Nat × Nat × Nat) => decide (n ≤ e.1) }).cvuAbsorb c.toNat bs
  | _ => s

/-- The context Flacon holds, taken with the parameters of R361 when it is free. -/
def State.flaconTake (s : State) : Option (Nat × State) :=
  let c := s.regFld 0x80004 20 4
  match s.flacon.cvu.find? fun p => p.2 == .flacon with
  | some p => some (p.1, s)
  | none =>
    if s.cvuHold c ≠ .free then none
    else
      let b := cvuBase c
      let s := (s.setCvuHold c .flacon).setReg b (setFld (setFld (s.reg b) 0 7 64) 16 2 3)
      let s := ((s.setCtr (b + 8) 0x42F0E1EBA9EA3693).setCtr (b + 0x10) 0xFFFFFFFFFFFFFFFF).setCtr (b + 0x18) 0xFFFFFFFFFFFFFFFF
      some (c, s.cvuInit c)
/-- Flacon releases its context (R361). -/
def State.flaconRelease (s : State) : State :=
  { s with flacon := { s.flacon with cvu := s.flacon.cvu.filter fun (p : Nat × CvuHold) => p.2 != .flacon } }
/-- A digest through the context: VALUE starts at INIT and holds the running register (R361). -/
def State.digest (c : Nat) (bs : List Byte) (s : State) : DWord × State := (w64 (crc64.of bs), (s.cvuInit c).cvuAbsorb c bs)

/-! Galois-field arithmetic and stripes (R357–R359) -/

/-- Multiplication in GF(2^8) modulo 0x11D. -/
def gfMulGo : Nat → Nat → Nat → Nat
  | 0, _, _ => 0
  | n + 1, a, b => (if b % 2 = 1 then a else 0) ^^^ gfMulGo n (if a < 128 then 2 * a else (2 * a) ^^^ 0x11D) (b / 2)
def gfMul (a b : Nat) : Nat := gfMulGo 8 a b
/-- g^n for g = 2. -/
def gfPow : Nat → Nat
  | 0 => 1
  | n + 1 => gfMul 2 (gfPow n)
/-- a^n. -/
def gfExp (a : Nat) : Nat → Nat
  | 0 => 1
  | n + 1 => gfMul a (gfExp a n)
/-- The inverse, a^254. -/
def gfInv (a : Nat) : Nat := gfExp a 254
/-- f · bytes. -/
def gfScale (f : Nat) (bs : List Byte) : List Byte := bs.map fun b => BitVec.ofNat 8 (gfMul f b.toNat)
def xorBytes (a b : List Byte) : List Byte := a.zipWith (fun x y => x ^^^ y) b

/-- Whether rank i holds P or Q of stripe t, with m = k + 2 members. -/
def holds (m i t : Nat) : Bool := t == i || (t + 1) % m == i
/-- The unit of rank i in stripe t. -/
def unitOf (m i t : Nat) : Nat := ((List.range t).filter fun t' => !holds m i t').length
/-- The stripe that holds unit u of rank i. -/
def stripeOf (m i u : Nat) : Nat := ((List.range m).find? fun t => !holds m i t && unitOf m i t == u).getD 0
/-- The data ranks of stripe t. -/
def dataRanks (m t : Nat) : List Nat := (List.range m).filter fun i => !holds m i t

/-- n bytes of the data of rank j in stripe t, from offset w of its unit, through its group-table entry, which must be valid
whatever the form of the buffer (R357, R364); bytes at or beyond SIZE read as zero. -/
def State.pull (r : Remote) (e b j t w n : Nat) (s : State) : Option (List Byte × Bool) :=
  let off := unitOf (eK e + 2) j t * eUnit e + w
  let m := min n (eSize e - off)
  let got :=
    if (s.route (eGt e + j)).isNone then none
    else if m = 0 then some ([], false)
    else if eBufForm e = 1 then remoteRead r fabricGt (eBuf e b + j * eStride e + off) m
    else remoteRead r (eGt e + j) (eBuf e b + off) m
  got.map fun p => (p.1 ++ List.replicate (n - m) 0, p.2)

/-- Bytes that stand where a read ended in an error (R352; log entry 13). -/
def lostBytes (k n : Nat) : List Byte := (List.range n).map fun i => Config.lostByte k i

/-- The bytes of a slice of parity (R358). -/
def sliceLen : Nat := 0x10000
/-- Accumulate one slice of the ranks of a stripe, read in ascending order: the parity (P, or Q with the powers of g), and
whether a pull failed or was poisoned. -/
def State.accumulate (r : Remote) (e b t w : Nat) (q : Bool) (late : List Nat) (s : State) : List Byte × Bool × Bool :=
  (dataRanks (eK e + 2) t).foldl (fun (a : List Byte × Bool × Bool) j =>
    let got := if late.contains j then none else s.pull r e b j t w sliceLen
    let d := match got with | some p => p.1 | none => lostBytes (s.freeCtr + j) sliceLen
    (xorBytes a.1 (if q then gfScale (gfPow j) d else d), a.2.1 || got.isNone, a.2.2 || (match got with | some p => p.2 | none => false)))
    (List.replicate sliceLen 0, false, false)
/-- The slices of a chunk of parity, in ascending order, each written as it is formed (R358): their bytes, whether one failed
and whether one was poisoned. -/
def State.formSlices (r : Remote) (e b t w : Nat) (q : Bool) (late : List Nat) (form a chunk src : Nat) (s : State) :
    (List Byte × Bool × Bool) × State :=
  (List.range (mib / sliceLen)).foldl (fun (p : (List Byte × Bool × Bool) × State) i =>
    let o := i * sliceLen
    let acc := p.2.accumulate r e b t (w + o) q late
    let u := ({ p.2 with freeCtr := p.2.freeCtr + eK e + 2 }).count 0x80110 (sliceLen * eK e)
    let v := u.flWrite form (a + o) chunk (src + o) acc.1 fun _ _ => acc.2.2
    ((p.1.1 ++ acc.1, p.1.2.1 || acc.2.1 || v.1, p.1.2.2 || acc.2.2), v.2)) (([], false, false), s)

/-! Snapshots (R347–R352) -/

/-- Whether a snapshot or restore is in progress (FLACON_STATUS.BUSY). -/
def State.flaconBusy (s : State) : Bool := s.flacon.snap.isSome || s.flacon.rest.isSome
/-- STATE_BASE. -/
def State.stateBase (s : State) : Nat := (s.reg 0x80018).toNat / 64 * 64

/-- The core-state record (R350) for generation g. -/
def State.record (g : Word) (s : State) : List Byte :=
  let st := s.sys.straps
  let words : List Word := [g, 0x10000000, lo32 (s.ctr 0x45008), hi32 (s.ctr 0x45008), s.reg 0x45004, s.reg 0x45000,
    lo32 s.genSeed, hi32 s.genSeed, s.genStep, w32 (bit s.flacon.live),
    w32 (st.feedDomain.toNat * 2 ^ 8 + st.coreInst.toNat), 0]
  wordBytes words ++ List.replicate (0x100 - 0x30) 0 ++
    (List.range 256).flatMap (fun n => wordBytes ((List.range 32).map (slotWord (s.slot n)))) ++
    (List.range 8192).flatMap fun i => leBytes 16 (s.gt i).toNat
/-- The length of the record. -/
def recordLen : Nat := 164096

/-- A trigger that finds Flacon busy (R348). -/
def State.snapSkip (s : State) : State := (s.count 0x80108 1).orReg 0x80008 4

/-- Advance a publication or done word to g: ADD (g − COUNT) (R349). -/
def State.advanceWord (a : Nat) (g : Word) (s : State) : State := (s.syncApply 1 a (g - s.word a) 4 syncUnit).2

/-- A snapshot starts, or is skipped (R347–R349). -/
def State.snapBegin (byOp : Bool) (s : State) : State :=
  if s.flaconBusy then s.snapSkip
  else
    let g := s.reg 0x8000C + 1
    let s := s.setReg 0x8000C g
    let s := if s.regBit 0x80004 15 && s.inTiers s.stateBase recordLen then s.write 12 s.stateBase (s.record g) else s
    let s := s.advanceWord (s.reg 0x80010).toNat g
    let valid := (List.range 4096).filter fun i => eValid (s.entry i)
    let todo := valid.filter (fun i => eSingle (s.entry i)) ++ valid.filter fun i => !eSingle (s.entry i)
    let n : SnapRun := ⟨g, s.flacon.live, s.ctr 0x45008, todo, 0, [], false, false, [], [], byOp, none, 0⟩
    let s := { s with flacon := { s.flacon with snap := some n, ends := 0, wbad := [] } }
    match s.flaconTake with
    | some p => p.2
    | none => s

/-- The trigger of an END (R347, R348): LIVE toggles, and every EVERY_N ENDs a snapshot starts. -/
def State.endTrigger (s : State) : State :=
  let n := s.flacon.ends + 1
  let s := { s with flacon := { s.flacon with live := !s.flacon.live, ends := n } }
  let every := s.regFld 0x80004 0 8
  if every ≠ 0 && decide (every ≤ n) then s.snapBegin false else s

/-- Whether a destination [lo, lo + n) of a form overlaps a buffer of the entry being drained (R351). -/
def State.drainOverlap (s : State) (form lo n : Nat) : Bool :=
  match s.draining with
  | none => false
  | some i =>
    let e := s.entry i
    eBufForm e == form && decide (0 < n) && ([eOwn e 0, eOwn e 1]).any fun b => decide (lo < b + eSize e) && decide (b < lo + n)

/-- A chunk record of a manifest (R362). -/
def chunkRecord (g : Word) (c : DWord × Bool × Bool × Nat) : List Byte :=
  leBytes 8 c.1.toNat ++ leBytes 8 (g.toNat % 2 ^ 16 * 2 ^ 48 + bit c.2.1 * 2 ^ 22 + bit c.2.2.1 * 2 ^ 21 + (c.2.2.2 - 1) % 2 ^ 21)
/-- The first seven double words of a manifest header (R362). -/
def State.manHead (e : Nat) (n : SnapRun) (s : State) : List Byte :=
  let st := s.sys.straps
  (([1 * 2 ^ 60 + bit n.entryBad * 2 ^ 59 + eMethod e * 2 ^ 57 + bit n.live * 2 ^ 56 + eTag e * 2 ^ 32 + n.g.toNat,
    n.step.toNat, eSize e,
    st.feedDomain.toNat * 2 ^ 32 + st.coreInst.toNat * 2 ^ 24 + eK e * 2 ^ 16 + eRank e * 2 ^ 8,
    n.recs.length, 0, 0] : List Nat).map fun v => leBytes 8 v).flatten

/-- The snapshot goes on with n. -/
def State.setSnap (n : SnapRun) (s : State) : State := { s with flacon := { s.flacon with snap := some n } }
/-- The chunk number of writes whose error changes nothing: those of a manifest (R352), and of a chunk that has failed. -/
def manChunk : Nat := 2 ^ 48

/-- The entry is done, and the next begins. -/
def State.drainDone (n : SnapRun) (s : State) : State :=
  s.setSnap { n with
    todo := n.todo.drop 1, chunk := 0, recs := [], entryBad := false, bad := n.bad || n.entryBad, seen := [], late := [], held := none, man := 0 }
/-- The header of the entry's manifest is written, its records being acknowledged (R362). -/
def State.manHeader (n : SnapRun) (e : Nat) (s : State) : State :=
  let recs := n.recs.flatMap (chunkRecord n.g)
  let hd := s.manHead e n
  let s := ((s.flWrite (eManForm e) (eMan e (n.g.toNat % 2)) manChunk 0 (hd ++ leBytes 8 (crc64.of (hd ++ recs))) fun _ _ => false).2).flPump
  let n : SnapRun := { n with man := 2 }
  if s.flWriting then s.setSnap n else s.drainDone n
/-- The records of the entry's manifest are written, its chunks being done. -/
def State.manRecords (n : SnapRun) (e : Nat) (s : State) : State :=
  let s := ((s.flWrite (eManForm e) (eMan e (n.g.toNat % 2) + 64) manChunk 64 (n.recs.flatMap (chunkRecord n.g)) fun _ _ => false).2).flPump
  let n : SnapRun := { n with man := 1 }
  if s.flWriting then s.setSnap n else s.manHeader n e

/-- A chunk has been drained and its writes acknowledged: its record, the log entry when it is incomplete (R352), and the
manifest after the last. -/
def State.chunkEnd (n : SnapRun) (i : Nat) (k : DWord × Bool × Bool × Nat) (s : State) : State :=
  let err := k.2.1 || s.flacon.wbad.contains n.chunk
  let bad := err || k.2.2.1
  let s := { s with flacon := { s.flacon with wbad := [] } }
  let s := if bad then s.raise { code := 0x9006, unit := 12, d0 := w32 i, d1 := w32 n.chunk } else s
  let n : SnapRun := { n with chunk := n.chunk + 1, recs := n.recs ++ [(k.1, err, k.2.2)], entryBad := n.entryBad || bad, held := none }
  let e := s.entry i
  if n.chunk < eChunks e + eParChunks e then s.setSnap n else s.manRecords n e
/-- A chunk has been formed: its drain ends at once, or when its remote writes have been acknowledged (R360). -/
def State.chunkFormed (n : SnapRun) (i : Nat) (k : DWord × Bool × Bool × Nat) (s : State) : State :=
  let s := s.flPump
  if s.flWriting then s.setSnap { n with held := some k } else s.chunkEnd n i k

/-- Drain one chunk of the entry's buffer: read once, digest, and copy for a replica (R351, R360). -/
def State.drainOwn (r : Remote) (c : Nat) (n : SnapRun) (i : Nat) (s : State) : State :=
  let e := s.entry i
  let b := bit n.live
  let k := chunkAt e n.chunk
  let a := eOwn e b + k.1
  let got := s.flRead r (eBufForm e) a k.2
  let bs := match got with | some p => p.1 | none => lostBytes s.freeCtr k.2
  let poison := match got with | some p => p.2 | none => false
  let bad := fun (o m : Nat) => if eBufForm e = 0 then s.poisonedIn o m else poison
  let s := { s with freeCtr := s.freeCtr + 1 }
  let p := (s.flTouch (eBufForm e) a k.2).digest c bs
  let w := if eMethod e = 2 then p.2.flWrite (eParForm e) (ePar e (n.g.toNat % 2) + k.1) n.chunk (if eBufForm e = 0 then a else k.1) bs bad
    else (false, p.2)
  w.2.chunkFormed n i (p.1, got.isNone || w.1, poison, k.2)

/-- Form one chunk of the entry's P or Q unit and write it (R357, R358). -/
def State.drainParity (r : Remote) (c : Nat) (n : SnapRun) (i : Nat) (s : State) : State :=
  let e := s.entry i
  let m := eK e + 2
  let j := n.chunk - eChunks e
  let per := eUnit e / mib
  let q := decide (per ≤ j)
  let t := if q then (eRank e + m - 1) % m else eRank e
  let w := (j % per) * mib
  if (dataRanks m t).any fun k => !n.seen.contains k && !n.late.contains k then s
  else
    let o := (if q then eUnit e else 0) + w
    let acc := s.formSlices r e (bit n.live) t w q n.late (eParForm e) (ePar e (n.g.toNat % 2) + o) n.chunk o
    let p := acc.2.digest c acc.1.1
    p.2.chunkFormed n i (p.1, acc.1.2.1, acc.1.2.2, mib)

/-- The next step of the entry's drain, nothing of Flacon being still in flight. -/
def State.drainStep (r : Remote) (c : Nat) (n : SnapRun) (i : Nat) (s : State) : State :=
  let e := s.entry i
  match n.held with
  | some k => s.chunkEnd n i k
  | none =>
    if !eValid e || n.man = 2 then s.drainDone n
    else if n.man = 1 then s.manHeader n e
    else if n.chunk < eChunks e then s.drainOwn r c n i
    else if n.chunk < eChunks e + eParChunks e then s.drainParity r c n i
    else s.manRecords n e

/-- FLACON_CHUNK_DRAIN (R342, R351, R357–R362): first what is still to be placed or acknowledged. -/
def execFlaconChunkDrain (r : Remote) (s : State) : Out := runFast s fun s =>
  match s.flacon.snap with
  | none => s
  | some n =>
    match n.todo with
    | [] => s
    | i :: _ =>
      let s := s.flPump
      if s.flWriting || !s.inService then s
      else match s.flaconTake with | some (c, s) => s.drainStep r c n i | none => s

/-- PARITY_PUB_POLL (R352, R357): the publication word of the lowest rank not yet seen, which counts only as a COUNTER word
(R13, R291); a rank not seen in time makes the drain incomplete. -/
def execParityPubPoll (r : Remote) (timedOut : Bool) (s : State) : Out := runFast s fun s =>
  match s.flacon.snap with
  | none => s
  | some n =>
    match n.todo with
    | [] => s
    | i :: _ =>
      let e := s.entry i
      if eMethod e ≠ 1 || !s.inService then s
      else
        match (List.range (eK e + 2)).find? fun j => j ≠ eRank e && !n.seen.contains j && !n.late.contains j with
        | none => s
        | some j =>
          let got := if (s.route (eGt e + j)).isNone then none else remoteRead r (eGt e + j) (s.reg 0x80010).toNat 8
          let ok := match got with
            | some (bs, false) => let d := w64 (leNat bs); counterOk d && reached (lo32 d) n.g
            | _ => false
          if ok then { s with flacon := { s.flacon with snap := some { n with seen := n.seen ++ [j] } } }
          else if timedOut then
            let s := s.raise { code := 0x9006, unit := 12, d0 := w32 i, d1 := w32 n.chunk }
            { s with flacon := { s.flacon with snap := some { n with late := n.late ++ [j], entryBad := true } } }
          else s

/-- SNAPSHOT_COMPLETE (R349, R352, R364). -/
def execSnapshotComplete (s : State) : Out := runFast s fun s =>
  match s.flacon.snap with
  | none => s
  | some n =>
    if !n.todo.isEmpty then s
    else
      let s := s.advanceWord (s.reg 0x80014).toNat n.g
      let s := ({ s with flacon := { s.flacon with snap := none } }).flaconRelease.count 0x80100 1
      let s := s.setRegFld 0x80008 1 1 (bit n.bad)
      let s := if n.bad then s else s.clrReg 0x80008 8
      let s := if s.regBit 0x80004 14 then s.hostsig (s.regFld 0x80004 9 5) else s
      if n.byOp then s.complete 0 0xFFFF 0 [w32 (bit n.bad)] else s

/-- A deferred operation that is no image load. -/
def plainDeferred (p : Packet) : Deferred := ⟨p, 0, 0, 0, false, 0, 0⟩

/-- SNAPSHOT_BEGIN (R348, R453). -/
def execSnapshotBegin (s : State) : Out := withPacket 0x11 s fun p s =>
  if s.flaconBusy then s.snapSkip.refuse p 1
  else s.snapBegin true |>.accept p (plainDeferred p) [s.reg 0x8000C + 1]

/-! Restores (R363, R364) -/

/-- An accepted manifest: BUF_INDEX and its records' digests; or none (R363). -/
def State.manifest (r : Remote) (e : Nat) (g : Word) (mode : Nat) (s : State) : Option (Nat × List DWord) :=
  let a := eMan e (g.toNat % 2)
  match s.flRead r (eManForm e) a 64 with
  | some (h, false) =>
    let n := bfld h 0x20 0 32
    (match s.flRead r (eManForm e) (a + 64) (16 * n) with
    | some (rec, false) =>
      let recs := (List.range n).map fun i => (rec.drop (16 * i)).take 16
      let fields := bfld h 0 60 4 == 1 && bfld h 0 48 8 == 0 && bfld h 0x10 48 16 == 0 && bfld h 0x18 40 24 == 0 &&
        bfld h 0x18 21 3 == 0 && bfld h 0x18 13 3 == 0 && bfld h 0x18 0 8 == 0 && bfld h 0x20 32 32 == 0 && bfld h 0x28 0 64 == 0 &&
        bfld h 0x30 0 64 == 0 && recs.all fun x => bfld x 8 23 25 == 0
      let same := bfld h 0 0 32 == g.toNat && bfld h 0 32 16 == eTag e && bfld h 0 57 2 == eMethod e && bfld h 0x10 0 48 == eSize e &&
        bfld h 0x18 16 5 == eK e && bfld h 0x18 8 5 == eRank e && recs.all fun x => bfld x 8 48 16 == g.toNat % 2 ^ 16
      let crc := bfld h 0x38 0 64 == crc64.of (h.take 0x38 ++ rec)
      if fields && same && crc && (mode ≠ 1 || bfld h 0 59 1 == 0) then some (bfld h 0 56 1, recs.map fun x => w64 (bfld x 0 0 64)) else none
    | _ => none)
  | _ => none

/-- n bytes of the P or Q unit of stripe t, from the rank that holds it. -/
def State.parityBytes (r : Remote) (e : Nat) (g : Word) (t w n : Nat) (q : Bool) (s : State) : Option (List Byte) :=
  let m := eK e + 2
  let j := if q then (t + 1) % m else t
  let a := ePar e (g.toNat % 2) + (if q then eUnit e else 0) + w
  if (s.route (eGt e + j)).isNone then none
  else
    (match (if eParForm e = 0 then remoteRead r (eGt e + j) a n else s.flRead r (eParForm e) a n) with
    | some (bs, false) => some bs
    | _ => none)

/-- Reconstruct n bytes of this rank's data in stripe t (R359): none when more than two ranks are lost. -/
def State.reconstruct (r : Remote) (e b : Nat) (g : Word) (t w n : Nat) (s : State) : Option (List Byte) :=
  let m := eK e + 2
  let x := eRank e
  let got : List (Nat × Option (List Byte)) := (dataRanks m t).map fun j =>
    (j, if j = x then none else match s.pull r e b j t w n with | some (bs, false) => some bs | _ => none)
  let p := s.parityBytes r e g t w n false
  let q := s.parityBytes r e g t w n true
  let lost := (got.filter fun j => j.2.isNone).map Prod.fst
  let alive := got.filterMap fun j => j.2.map fun bs => (j.1, bs)
  let p' := alive.foldl (fun (a : List Byte) j => xorBytes a j.2) (p.getD [])
  let q' := alive.foldl (fun (a : List Byte) j => xorBytes a (gfScale (gfPow j.1) j.2)) (q.getD [])
  if 2 < lost.length + bit p.isNone + bit q.isNone then none
  else
    match lost with
    | [_] => if p.isSome then some p' else some (gfScale (gfInv (gfPow x)) q')
    | [i, j] =>
      let inv := gfInv (gfPow (j - i) ^^^ 1)
      let di := xorBytes (gfScale (gfMul (gfPow (j - i)) inv) p') (gfScale (gfMul (gfInv (gfPow i)) inv) q')
      some (if x = i then di else xorBytes p' di)
    | _ => none

/-- The bytes of chunk c from the replica copy, or from the stripe of its unit. -/
def State.recover (r : Remote) (e b : Nat) (g : Word) (c : Nat) (s : State) : Option (List Byte) :=
  let k := chunkAt e c
  if eMethod e = 2 then
    (match s.flRead r (eParForm e) (ePar e (g.toNat % 2) + k.1) k.2 with | some (bs, false) => some bs | _ => none)
  else s.reconstruct r e b g (stripeOf (eK e + 2) (eRank e) (k.1 / eUnit e)) (k.1 % eUnit e) k.2

/-- Rebuild chunk c from its copy or stripe, and check it; whether it is good now. -/
def State.rebuildChunk (r : Remote) (c i b : Nat) (g : Word) (n : Nat) (want : Option DWord) (s : State) : Bool × State :=
  let e := s.entry i
  let k := chunkAt e n
  let fail := fun (s : State) => (false, s.raise { code := 0x900B, unit := 12, d0 := w32 i, d1 := w32 n })
  match s.recover r e b g n with
  | none => fail s
  | some bs =>
    let d := s.digest c bs
    let good := some d.1 == want
    -- an error of its writes matters only to a chunk that has not failed already
    let w := d.2.flWrite (eBufForm e) (eOwn e b + k.1) (if good then n else manChunk) k.1 bs fun _ _ => false
    if good && !w.1 then (true, if eBufForm e = 0 then w.2.count 0x80130 1 else w.2) else fail w.2

/-- The counts of a restore: chunks checked, repaired and failed. -/
abbrev Tally := Nat × Nat × Nat

/-- Check chunk n against its digest, and repair it (VERIFY). -/
def State.verifyChunk (r : Remote) (c i b : Nat) (g : Word) (ds : List DWord) (t : Tally) (n : Nat) (s : State) : Tally × State :=
  let e := s.entry i
  let k := chunkAt e n
  let want := ds[n]?
  let got := s.flRead r (eBufForm e) (eOwn e b + k.1) k.2
  let s := s.flTouch (eBufForm e) (eOwn e b + k.1) k.2
  let d := match got with | some p => s.digest c p.1 | none => (0, s)
  if got.isSome && (match got with | some p => !p.2 | none => false) && some d.1 == want then ((t.1 + 1, t.2.1, t.2.2), d.2)
  else
    let s := (d.2.raise { code := 0x9002, unit := 12, d0 := w32 i, d1 := w32 n }).count 0x80128 1
    let q := s.rebuildChunk r c i b g n want
    ((t.1 + 1, t.2.1 + bit q.1, t.2.2 + bit (!q.1)), q.2)

/-- Rebuild chunk n (REBUILD). -/
def State.restoreChunk (r : Remote) (c i b : Nat) (g : Word) (ds : List DWord) (t : Tally) (n : Nat) (s : State) : Tally × State :=
  let q := s.rebuildChunk r c i b g n ds[n]?
  ((t.1 + 1, t.2.1 + bit q.1, t.2.2 + bit (!q.1)), q.2)

/-- Load the core-state record at STATE_BASE into the registers of R350 (R364). -/
def State.loadRecord (s : State) : State :=
  let a := s.stateBase
  let w := fun (o : Nat) => s.word (a + o)
  let slots := (List.range 256).foldl (fun (t : Tab Slot) n => Tab.set Slot.reset t n (slotOfImage fun i => w (0x100 + 0x80 * n + 4 * i))) []
  let gt := (List.range 8192).foldl (fun (t : Tab (BitVec 128)) i => Tab.set 0 t i (BitVec.ofNat 128 (s.le (a + 0x8100 + 16 * i) 16))) []
  let s := (s.touch 12 a recordLen).setCtr 0x45008 (s.dword (a + 8))
  let s := ((((s.setReg 0x45004 (w 0x10)).setReg 0x45000 (w 0x14)).setReg 0x43000 (w 0x18)).setReg 0x43004 (w 0x1C)).setReg 0x43008 (w 0x20)
  { s.setReg 0x8000C (w 0) with
    slots := slots
    flacon := { s.flacon with gt := gt, live := (w 0x24).getLsbD 0 } }

/-- ACC_STATE, E0_STATE and E1_STATE of CC_STATUS (R250): 0 idle, 1 running, 2 stalled, 3 halted. -/
def State.ctxState (s : State) (c : Ctx) : Nat :=
  if s.halted c.thread || (s.disp c.thread).halted then 3
  else if !(s.ctxt c).run then 0
  else if (s.ctxt c).stall.isSome then 2
  else 1

/-- Whether the control core is idle: its contexts are, and nothing is being dispatched. -/
def State.coreIdle (s : State) : Bool :=
  (([.acc, .e0, .e1] : List Ctx).all fun c => s.ctxState c == 0) &&
  (([.acc, .exe] : List Thread).all fun t => (s.disp t).cur.isNone && (s.disp t).replay.isNone)

/-- A restore under way: what its completion will report; its remote writes are placed. -/
def State.restored (mode i : Nat) (g : Word) (t : Tally) (status : Nat) (code : Half) (s : State) : State :=
  ({ s with flacon := { s.flacon with rest := some ⟨mode, i, g, true, t.1, t.2.1, t.2.2, status, code, eBufForm (s.entry i) ≠ 0⟩ } }).flPump

/-- Whether a core-state record has FMT_VER 1 and every reserved bit 0, those of its slot images and group-table entries among
them (R13, R14, R140, R350, R365); an entry never written is 0. -/
def State.recordOk (s : State) : Bool :=
  let a := s.stateBase
  let d := fun (o : Nat) => (s.dword (a + o)).toNat
  let slot := fun (n : Nat) =>
    let w := fun (i : Nat) => (s.word (a + 0x100 + 0x80 * n + 4 * i)).toNat
    nfld (w 0) 25 2 == 0 && nfld (w 0) 20 4 == 0 && nfld (w 0) 11 5 == 0 && nfld (w 0) 0 8 == 0 && nfld (w 1) 24 8 == 0 &&
      nfld (w 1) 3 12 == 0 && nfld (w 5) 21 11 == 0 && nfld (w 6) 21 11 == 0 && w 7 == 0 && w 14 == 0 && w 15 == 0
  let gt := fun (i : Nat) => let e := s.le (a + 0x8100 + 16 * i) 16; e == 0 || (gtBad e).isNone
  nfld (d 0) 60 4 == 1 && nfld (d 0) 32 28 == 0 && nfld (d 0x20) 33 31 == 0 && nfld (d 0x28) 16 48 == 0 &&
    ((s.bytes (a + 0x30) 0xD0).all fun b => b == 0) && (List.range 256).all slot && (List.range 8192).all gt

/-- RESTORE of entry i at generation g with the context c: the whole of the work (R363, R364). -/
def State.restoreRun (r : Remote) (mode i : Nat) (g : Word) (c : Nat) (s : State) : State :=
  let e := s.entry i
  let mform := eManForm e
  let s0 := s.flTouch mform (eMan e (g.toNat % 2)) 64
  match s.manifest r e g mode with
  | none => (s0.raise { code := 0x900A, unit := 12, d0 := w32 i }).restored mode i g (0, 0, 0) 7 0x900A
  | some (b, ds) =>
    let one := fun (q : Tally × State) n =>
      if mode = 1 then q.2.restoreChunk r c i b g ds q.1 n else q.2.verifyChunk r c i b g ds q.1 n
    let q := (List.range (eChunks e)).foldl one ((0, 0, 0), s0)
    let s := if mode = 1 then q.2.orReg 0x80008 8 else q.2
    let bad := decide (0 < q.1.2.2)
    if bad then s.restored mode i g q.1 7 0x900B
    else if mode = 2 then
      (if s.recordOk then s.loadRecord.restored mode i g q.1 0 0 else s.restored mode i g q.1 7 0)
    else s.restored mode i g q.1 0 0

/-- Serve a RESTORE packet of one mode (R364, R453). -/
def State.restoreOp (r : Remote) (mode : Nat) (p : Packet) (s : State) : State :=
  let m := fld (p.w 0) 30 2
  let i := fld (p.w 0) 0 12
  let e := s.entry i
  if s.genOn || s.flaconBusy || !s.coreIdle then s.refuse p 6
  else if m = 3 || !eValid e then s.refuse p 4 0
  else if m = 2 && (eMethod e ≠ 2 || !eSingle e || eBufForm e ≠ 0 || eBuf e 0 ≠ s.stateBase) then s.refuse p 4 0
  else if m ≠ mode then s
  else
    match s.flaconTake with
    | none => s
    | some (c, s) => ({ s with flacon := { s.flacon with wbad := [] } }).restoreRun r mode i (p.w 1) c |>.accept p (plainDeferred p) []

/-- RESTORE_VERIFY (R364). -/
def execRestoreVerify (r : Remote) (s : State) : Out :=
  withPacket 0x12 s (State.restoreOp r 0)
/-- RESTORE_REBUILD (R364). -/
def execRestoreRebuild (r : Remote) (s : State) : Out :=
  withPacket 0x12 s (State.restoreOp r 1)
/-- RESTORE_STATE (R364). -/
def execRestoreState (r : Remote) (s : State) : Out :=
  withPacket 0x12 s (State.restoreOp r 2)

/-- A chunk of a restore whose writes did not all succeed has failed after all (R364). -/
def State.restoreLost (p : RestRun × State) (n : Nat) : RestRun × State :=
  ({ p.1 with repaired := p.1.repaired - 1, failed := p.1.failed + 1, status := 7, code := 0x900B },
    p.2.raise { code := 0x900B, unit := 12, d0 := w32 p.1.idx, d1 := w32 n })

/-- RESTORE_COMPLETE (R360, R448, R453): when every write of the restore has been acknowledged. -/
def execRestoreComplete (s : State) : Out := runFast s fun s =>
  match s.flacon.rest with
  | none => s
  | some x =>
    let s := s.flPump
    if s.flWriting then s
    else
      let p := (s.flacon.wbad.filter fun (n : Nat) => n != manChunk).foldl State.restoreLost (x, s)
      let s := if x.remote then p.2.count 0x80130 p.1.repaired else p.2
      (({ s with flacon := { s.flacon with rest := none, wbad := [] } }).flaconRelease).complete p.1.status 0xFFFF p.1.code.toNat
        [w32 p.1.checked, w32 p.1.repaired, w32 p.1.failed]

end Sys2Proof.Machine
end

