-- ==== Sys2Proof/Machine/Special.lean ====
section
/-! DEFINITION. What the spec fixes of the special functions and derivatives: the exact function, enclosed between two
fixed-point numbers, and the maximum error of R155 and R185 around it. The result itself is free within that (log entry 4). -/

namespace Sys2Proof.Machine

/-! Enclosures: an interval of multiples of 2^−256 that holds a real number -/

/-- An interval of multiples of 2^−256. -/
structure Iv where
  lo : Int
  hi : Int
  deriving DecidableEq, Repr

/-- The number of fraction bits. -/
def ivP : Nat := 256
/-- The quotient rounded up, for a positive divisor. -/
def cdivI (a b : Int) : Int := -((-a) / b)
/-- The fraction a / b, b positive, and a whole number. -/
def Iv.ofFrac (a : Int) (b : Nat) : Iv := ⟨a * 2 ^ ivP / b, cdivI (a * 2 ^ ivP) b⟩
def Iv.ofInt (a : Int) : Iv := ⟨a * 2 ^ ivP, a * 2 ^ ivP⟩
/-- A finite value. -/
def Iv.ofEx (v : Ex) : Iv :=
  let r := v.ratio 0
  Iv.ofFrac (if v.neg then -(r.1 : Int) else r.1) r.2
def Iv.add (x y : Iv) : Iv := ⟨x.lo + y.lo, x.hi + y.hi⟩
def Iv.neg (x : Iv) : Iv := ⟨-x.hi, -x.lo⟩
def Iv.sub (x y : Iv) : Iv := x.add y.neg
def Iv.mul (x y : Iv) : Iv :=
  let a := x.lo * y.lo
  let b := x.lo * y.hi
  let c := x.hi * y.lo
  let d := x.hi * y.hi
  ⟨min (min a b) (min c d) / 2 ^ ivP, cdivI (max (max a b) (max c d)) (2 ^ ivP)⟩
/-- The reciprocal of a positive interval, and a quotient by one. -/
def Iv.inv (x : Iv) : Iv := ⟨2 ^ (2 * ivP) / x.hi, cdivI (2 ^ (2 * ivP)) x.lo⟩
def Iv.div (x y : Iv) : Iv := x.mul y.inv
/-- A quotient by a positive whole number, and a product with 2^k. -/
def Iv.divNat (x : Iv) (n : Nat) : Iv := ⟨x.lo / n, cdivI x.hi n⟩
def Iv.scale (x : Iv) (k : Int) : Iv :=
  let d : Int := 2 ^ (-k).toNat
  ⟨x.lo * 2 ^ k.toNat / d, cdivI (x.hi * 2 ^ k.toNat) d⟩
/-- The root of an interval that holds no negative number. -/
def Iv.sqrt (x : Iv) : Iv := ⟨isqrt (x.lo.toNat * 2 ^ ivP), isqrt (x.hi.toNat * 2 ^ ivP) + 1⟩
def Iv.one : Iv := Iv.ofInt 1
/-- The whole number below the middle. -/
def Iv.floor (x : Iv) : Int := x.lo / 2 ^ ivP

/-- atanh(1/q) for odd = false, atan(1/q) for odd = true, by n terms of the series from term k on: the tail is below the
last term. -/
def ivAtan (alt : Bool) (q : Nat) : Nat → Nat → Iv
  | 0, _ => ⟨-1, 1⟩
  | n + 1, k =>
    let t := Iv.ofFrac (if alt && k % 2 == 1 then -1 else 1) ((2 * k + 1) * q ^ (2 * k + 1))
    t.add (ivAtan alt q n (k + 1))
/-- ln 2 = 2 atanh(1/3), and π = 16 atan(1/5) − 4 atan(1/239). -/
def ivLn2 : Iv := (Iv.ofInt 2).mul (ivAtan false 3 90 0)
def ivPi : Iv := ((Iv.ofInt 16).mul (ivAtan true 5 60 0)).sub ((Iv.ofInt 4).mul (ivAtan true 239 20 0))

/-- 1 + r/k (1 + r/(k+1) (…)), n levels deep, for 0 ≤ r ≤ 1: e^r from k = 1, the innermost factor between 1 and 3. -/
def ivExpGo (r : Iv) : Nat → Nat → Iv
  | 0, _ => ⟨2 ^ ivP, 3 * 2 ^ ivP⟩
  | n + 1, k => Iv.one.add ((r.mul (ivExpGo r n (k + 1))).divNat k)
/-- e^x, for x below 200; an x below −200 gives less than 2^−280. -/
def ivExp (x : Iv) : Iv :=
  if x.floor < -200 then ⟨0, 1⟩ else
  let k := (x.div ivLn2).floor
  (ivExpGo (x.sub ((Iv.ofInt k).mul ivLn2)) 70 1).scale k

/-- 1 − s/(k(k+1)) (1 − s/((k+2)(k+3)) (…)), n levels deep: cos r from k = 1 and sin r / r from k = 2, of s = r². -/
def ivCosGo (s : Iv) : Nat → Nat → Iv
  | 0, _ => ⟨0, 2 ^ ivP⟩
  | n + 1, k => Iv.one.sub ((s.mul (ivCosGo s n (k + 2))).divNat (k * (k + 1)))
/-- x less the multiple of 2π nearest below it. -/
def ivTurn (x : Iv) : Iv :=
  let t := ivPi.scale 1
  x.sub ((Iv.ofInt (x.div t).floor).mul t)
def ivCos (x : Iv) : Iv := let r := ivTurn x; ivCosGo (r.mul r) 60 1
def ivSin (x : Iv) : Iv := let r := ivTurn x; r.mul (ivCosGo (r.mul r) 60 2)

/-- 1 + 2s/k (1 + 2s/(k+2) (…)), n levels deep, for s ≤ 37: the innermost factor lies between 1 and 2. -/
def ivErfGo (s : Iv) : Nat → Nat → Iv
  | 0, _ => ⟨2 ^ ivP, 2 * 2 ^ ivP⟩
  | n + 1, k => Iv.one.add (((s.scale 1).mul (ivErfGo s n (k + 2))).divNat k)
/-- erf y = 2/√π · y · e^(−y²) · Σ, for |y| ≤ 6. -/
def ivErf (y : Iv) : Iv :=
  let s := y.mul y
  ((((ivErfGo s 200 3).mul (ivExp s.neg)).mul y).scale 1).div ivPi.sqrt

/-- log2 x of a positive x = m · 2^e, 1 ≤ m < 2: ln m = 2 atanh((m − 1)/(m + 1)) over ln 2. -/
def ivAtanhGo (w s : Iv) : Nat → Nat → Iv
  | 0, _ => ⟨-1, 2 ^ 12⟩
  | n + 1, k => (w.divNat k).add (ivAtanhGo (w.mul s) s n (k + 2))
def ivLog2 (v : Ex) : Iv :=
  let e := v.log2
  let m := Iv.ofEx { v with exp := v.exp - e }
  let z := (m.sub Iv.one).div (m.add Iv.one)
  (Iv.ofInt e).add (((ivAtanhGo z (z.mul z) 90 1).scale 1).div ivLn2)

/-! The functions -/

/-- 1 / (1 + e^(−x)), and e^(−|x|). -/
def ivAbs (x : Iv) : Iv := if x.lo < 0 then x.neg else x
def ivDecay (x : Iv) : Iv := ivExp (ivAbs x).neg
def ivSigmoid (x : Iv) : Iv :=
  let d := ivDecay x
  (if x.lo < 0 then d else Iv.one).div (Iv.one.add d)
/-- tanh x, from e^(−2|x|). -/
def ivTanh (x : Iv) : Iv :=
  let d := ivDecay (x.scale 1)
  let t := (Iv.one.sub d).div (Iv.one.add d)
  if x.lo < 0 then t.neg else t
/-- The argument of gelu_tanh: √(2/π)(x + 0.044715 x³), and its derivative. -/
def ivCube : Iv := Iv.ofFrac 44715 1000000
def ivGeluArg (x : Iv) : Iv := ((Iv.ofInt 2).div ivPi).sqrt.mul (x.add (ivCube.mul (x.mul (x.mul x))))
def ivGeluArg' (x : Iv) : Iv := ((Iv.ofInt 2).div ivPi).sqrt.mul (Iv.one.add ((ivCube.mul (x.mul x)).mul (Iv.ofInt 3)))
/-- The standard normal density, and x / √2. -/
def ivPhi (x : Iv) : Iv := (ivExp ((x.mul x).scale (-1)).neg).div (ivPi.scale 1).sqrt
def ivHalfRoot (x : Iv) : Iv := x.div (Iv.ofInt 2).sqrt

/-- Whether |v| is above 8, where the gelu functions are x or 0, and their derivatives 1 or 0, within 2^−40. -/
def exFar (v : Ex) : Bool := (Ex.ofInt 8 0).magLt v
def Iv.wide (y : Iv) : Iv := ⟨y.lo - 2 ^ (ivP - 40), y.hi + 2 ^ (ivP - 40)⟩

/-- An enclosure of the exact function (R155) of a finite nonzero value. -/
def ivSfu (f : Sfu) (v : Ex) : Iv :=
  let x := Iv.ofEx v
  let half := fun (y : Iv) => ((x.mul (Iv.one.add y)).scale (-1))
  match f with
  | .exp2 => (let k := x.floor; (ivExpGo ((x.sub (Iv.ofInt k)).mul ivLn2) 70 1).scale k)
  | .log2 => ivLog2 v
  | .rcp => Iv.ofEx (Ex.div (Ex.pow2 0) v)
  | .rsqrt => (Iv.ofEx (Ex.div (Ex.pow2 0) v)).sqrt
  | .tanh => ivTanh x
  | .sigmoid => ivSigmoid x
  | .geluTanh => if exFar v then (if v.neg then (Iv.ofInt 0).wide else x.wide) else half (ivTanh (ivGeluArg x))
  | .geluErf => if exFar v then (if v.neg then (Iv.ofInt 0).wide else x.wide) else half (ivErf (ivHalfRoot x))
  | .silu => x.mul (ivSigmoid x)
  | .sin => ivSin x
  | .cos => ivCos x

/-- An enclosure of the exact derivative (R185) of a finite value. -/
def ivDeriv (f : Deriv) (v : Ex) : Iv :=
  let x := Iv.ofEx v
  let one := fun (y : Iv) => (Iv.one.add y).scale (-1)
  match f with
  | .relu => if v.neg || v.num == 0 then Iv.ofInt 0 else Iv.one
  | .sigmoid => (let d := ivDecay x; d.div ((Iv.one.add d).mul (Iv.one.add d)))
  | .tanh => (let d := ivDecay (x.scale 1); (d.scale 2).div ((Iv.one.add d).mul (Iv.one.add d)))
  | .geluTanh =>
    if exFar v then (if v.neg then (Iv.ofInt 0).wide else Iv.one.wide)
    else
      let t := ivTanh (ivGeluArg x)
      (one t).add (((x.mul (Iv.one.sub (t.mul t))).mul (ivGeluArg' x)).scale (-1))
  | .geluErf =>
    if exFar v then (if v.neg then (Iv.ofInt 0).wide else Iv.one.wide)
    else (one (ivErf (ivHalfRoot x))).add (x.mul (ivPhi x))
  | .silu => (let s := ivSigmoid x; s.mul (Iv.one.add (x.mul (Iv.one.sub s))))

/-! The error bounds -/

/-- A maximum error: so many ulps of FP32 at the exact result, and an absolute 2^k, whichever is larger. -/
structure MaxErr where
  ulps : Nat
  abs : Option Int
  deriving DecidableEq, Repr

/-- The bounds of R155 for a finite input, and of R185. -/
def sfuErr (f : Sfu) (v : Ex) : MaxErr :=
  match f with
  | .log2 => if v.magLt (Ex.pow2 (-1)) || (Ex.pow2 1).magLt v then ⟨1, none⟩ else ⟨0, some (-22)⟩
  | .exp2 => ⟨1, none⟩
  | .rcp => ⟨1, none⟩
  | .rsqrt => ⟨1, none⟩
  | .tanh => ⟨2, none⟩
  | .sigmoid => ⟨2, none⟩
  | .sin => ⟨0, some (-23)⟩
  | .cos => ⟨0, some (-23)⟩
  | _ => ⟨4, some (-24)⟩
def derivErr : Deriv → MaxErr
  | .relu => ⟨0, none⟩
  | .sigmoid => ⟨4, none⟩
  | .tanh => ⟨4, some (-24)⟩
  | _ => ⟨8, some (-23)⟩

/-- Whether a value lies within a maximum error of the enclosed exact result; an ulp below 2^−126 is that of 2^−126. -/
def MaxErr.holds (b : MaxErr) (e : Iv) (w : Ex) : Bool :=
  let m : Nat := max e.lo.natAbs e.hi.natAbs
  let ulp : Nat := 2 ^ (max (Nat.log2 m) (ivP - 126) - 23)
  let tol : Int := max (b.ulps * ulp : Nat) (match b.abs with | some k => ((2 : Int) ^ ((ivP : Int) + k).toNat) | none => 0)
  let x := Iv.ofEx w
  decide (e.lo - tol ≤ x.hi) && decide (x.lo ≤ e.hi + tol)

/-- The FP32 bits of a result within its bound: the free bits where they meet it, else the middle of the enclosure rounded. -/
def boundedBits (b : MaxErr) (e : Iv) (w : Word) : Word :=
  let mid : Ex := ⟨decide (e.lo + e.hi < 0), (e.lo + e.hi).natAbs, 1, -(ivP : Int) - 1⟩
  match val32 w with
  | .fin x => if b.holds e x then w else bits32 (rne32 (.fin mid)).1
  | _ => bits32 (rne32 (.fin mid)).1

end Sys2Proof.Machine
end

