-- ==== Sys2Proof/Machine/Arith.lean ====
section
/-! DEFINITION. Vector-unit arithmetic (R148, R149), special functions and derivatives (R155, R156, R185), vector
registers (R144) and the reduction unit (R158–R162), shared by the vector unit, the row engine and the update unit. -/

namespace Sys2Proof.Machine

/-! Arithmetic -/

/-- An FP32 result from its exact value: rounded once, INVALID when a NaN is born of operands without one (R149). -/
def fpRes (nanIn : Bool) (x : XVal) : XVal × Flags := if x.isNan then (.nan, if nanIn then 0 else fInv) else rne32 x
def fpAdd (a b : XVal) : XVal × Flags := fpRes (a.isNan || b.isNan) (a.add b)
def fpSub (a b : XVal) : XVal × Flags := fpRes (a.isNan || b.isNan) (a.sub b)
def fpMul (a b : XVal) : XVal × Flags := fpRes (a.isNan || b.isNan) (a.mul b)
def fpFma (a b c : XVal) : XVal × Flags := fpRes (a.isNan || b.isNan || c.isNan) ((a.mul b).add c)

/-- FP32 1.0 and +0 as values. -/
def xOne : XVal := .fin (Ex.pow2 0)
def xZero : XVal := .fin (Ex.zero false)
def xBool (b : Bool) : XVal := if b then xOne else xZero

/-- The flags of an input flushed (R149). -/
def flFlags (b : Bool) : Flags := if b then fUnd ||| fInx else 0

/-- A special-function result of a finite nonzero value: free bits within the function's maximum error (R155, R157),
flushed (R156; log entry 4). -/
def sfuFree (f : Sfu) (v : Ex) : XVal × Flags :=
  let x := bits32 (.fin v)
  let r := in32 (boundedBits (sfuErr f v) (ivSfu f v) (Config.sfu f x))
  (r.1, if r.2 then fUnd ||| fInx else if Config.sfuInexact f x then fInx else 0)

/-- Whether a value is finite, nonzero and negative, and whether |x| ≥ 2^k. -/
def xNeg (x : XVal) : Bool := x.sign && !x.isZero && !x.isNan
def magGe (x : XVal) (k : Int) : Bool := match x with | .fin v => !(v.magLt (Ex.pow2 k)) | .inf _ => true | .nan => false
def magGt (x : XVal) (k : Int) : Bool := match x with | .fin v => (Ex.pow2 k).magLt v | .inf _ => true | .nan => false
/-- Whether x < −126. -/
def expTiny (x : XVal) : Bool := x.lt (.fin (Ex.ofInt (-126) 0))

/-- The special inputs of R156 at ±0 (the Bool is the sign). -/
def sfuZero (f : Sfu) (n : Bool) : XVal × Flags :=
  match f with
  | .exp2 => (xOne, 0)
  | .cos => (xOne, 0)
  | .log2 => (.inf true, fOvf)
  | .rcp => (.inf n, fOvf)
  | .rsqrt => (.inf n, fOvf)
  | .sigmoid => (.fin (Ex.pow2 (-1)), 0)
  | _ => (.fin (Ex.zero n), 0)

/-- The special inputs of R156 at ±∞. -/
def sfuInf (f : Sfu) (n : Bool) : XVal × Flags :=
  match f, n with
  | .exp2, false => (.inf false, 0)
  | .exp2, true => (xZero, 0)
  | .log2, false => (.inf false, 0)
  | .log2, true => (.nan, fInv)
  | .rcp, n => (.fin (Ex.zero n), 0)
  | .rsqrt, false => (xZero, 0)
  | .rsqrt, true => (.nan, fInv)
  | .tanh, n => (.fin { Ex.pow2 0 with neg := n }, 0)
  | .sigmoid, false => (xOne, 0)
  | .sigmoid, true => (xZero, 0)
  | .sin, _ => (.nan, fInv)
  | .cos, _ => (.nan, fInv)
  | _, false => (.inf false, 0)
  | _, true => (xZero, 0)

/-- A special function of a flushed FP32 value (R155, R156). -/
def sfuVal (f : Sfu) (x : XVal) : XVal × Flags :=
  match x with
  | .nan => (.nan, 0)
  | .inf n => sfuInf f n
  | .fin v =>
    if v.num = 0 then sfuZero f v.neg
    else
      match f with
      | .exp2 => if magGe x 7 && !v.neg then (.inf false, fOvf ||| fInx)
                 else if expTiny x then (xZero, fUnd ||| fInx) else sfuFree f v
      | .log2 => if v.neg then (.nan, fInv) else sfuFree f v
      | .rsqrt => if v.neg then (.nan, fInv) else sfuFree f v
      | .rcp => if magGt x 126 then (.fin (Ex.zero v.neg), fUnd ||| fInx) else sfuFree f v
      | .sin => if magGe x 20 then (.nan, fInv) else sfuFree f v
      | .cos => if magGe x 20 then (.nan, fInv) else sfuFree f v
      | _ => sfuFree f v

/-- ReLU (R152). -/
def relu (x : XVal) : XVal :=
  match x with
  | .nan => .nan
  | y => if xZero.lt y then y else xZero

/-- The derivative d = f′(z) of a flushed z (R185): a free value within its maximum error but for ReLU (log entry 4). -/
def derivVal (f : Deriv) (z : XVal) : XVal :=
  match z with
  | .nan => .nan
  | .inf n =>
    (match f with
    | .sigmoid => xZero
    | .tanh => xZero
    | _ => if n then xZero else xOne)
  | .fin v =>
    match f with
    | .relu => xBool (xZero.lt z)
    | _ => (in32 (boundedBits (derivErr f) (ivDeriv f v) (Config.deriv f (bits32 z)))).1

/-- Special-function evaluations of a derivative (R153). -/
def derivCost : Deriv → Nat
  | .relu => 0
  | .sigmoid => 1
  | .tanh => 1
  | _ => 2

/-! Vector registers (R144) -/

/-- Lane i of register r, and packed element i. -/
def State.lane (s : State) (r i : Nat) : Word := Tab.get 0 s.vec.v (512 * r + i)
def State.setLane (r i : Nat) (w : Word) (s : State) : State := { s with vec := { s.vec with v := Tab.set 0 s.vec.v (512 * r + i) w } }
def State.packedEl (s : State) (r i : Nat) : Nat := fld (s.lane r (i / 2)) (16 * (i % 2)) 16
def State.setPacked (r i c : Nat) (s : State) : State := s.setLane r (i / 2) (setFld (s.lane r (i / 2)) (16 * (i % 2)) 16 c)
/-- The format code of a packed form. -/
def packFmt : Packed → Nat
  | .bf16 => 1
  | .fp16 => 2

/-! The reduction unit -/

def State.sum (s : State) (i : Nat) : Sum := Tab.get Sum.reset s.vec.sums i
def State.setSum (i : Nat) (v : Sum) (s : State) : State := { s with vec := { s.vec with sums := Tab.set Sum.reset s.vec.sums i v } }

/-- The checks of attached reductions (R158). -/
def redChk (s : State) (rs : List RedAtt) : Option Rej :=
  if 2 < rs.length then operandInvalid 25 rs.length
  else if rs.any fun r => r.reg == 15 then operandInvalid 21 15
  else if (rs.map RedAtt.reg).eraseDups.length ≠ rs.length then operandInvalid 22
  else if rs.any fun r => !r.init && (s.sum r.reg.toNat).kind != r.kind then operandInvalid 23
  else if rs.any fun r => r.kind == 0 || r.kind == 7 then operandInvalid 24
  else none

/-- The empty value of a kind (R158). -/
def redEmpty (k : BitVec 3) : DWord := if k = 3 ∨ k = 5 then 0xFFF0000000000000 else if k = 4 then 0x7FF0000000000000 else 0

/-- INIT empties the register (R158, R160). -/
def redInit (r : RedAtt) (s : State) : State :=
  if r.init then s.setSum r.reg.toNat ⟨redEmpty r.kind, 0xFFFFFFFF, r.kind, true, 0⟩ else s

/-- Combine neighbours of one level of the tree: an absent child passes the other up (R159). -/
def pairUp {α : Type} (f : α → α → α) : List (Option α) → List (Option α)
  | some a :: some b :: t => some (f a b) :: pairUp f t
  | some a :: none :: t => some a :: pairUp f t
  | none :: b :: t => b :: pairUp f t
  | [a] => [a]
  | [] => []
/-- The fixed tree over one beat, up to n levels. -/
def treeUp {α : Type} (f : α → α → α) : Nat → List (Option α) → Option α
  | 0, l => l.head?.join
  | n + 1, l => if l.length ≤ 1 then l.head?.join else treeUp f n (pairUp f l)

/-- A binary64 addition (R159). -/
def add64 (a b : XVal) : XVal := rne64 (a.add b)
/-- The larger of two (value, index) pairs, the earlier one on a tie (R160). -/
def argMax (a b : XVal × Nat) : XVal × Nat := if a.1.ltz b.1 then b else a

/-- Number the non-NaN elements of a beat from n on; a NaN is absent (R160). -/
def numberEls : Nat → List (Option XVal) → List (Option (XVal × Nat))
  | _, [] => []
  | n, some x :: t => if x.isNan then none :: numberEls n t else some (x, n) :: numberEls (n + 1) t
  | n, none :: t => none :: numberEls n t

/-- The values a beat presents to a kind's tree. A beat of NaN elements only makes an EMPTY maximum or minimum NaN, as
ARGMAX has it (DESIGN CHOICE, log entry 68: R159 gives the empty value ∓∞, and R60 would keep that). -/
def redBeat (v : Sum) (l : List (Option XVal)) : Sum :=
  let live := l.filterMap id
  if live = [] then v else
  let cnt := v.cnt + w32 (live.filter fun x => !x.isNan).length
  let join := fun (f : XVal → XVal → XVal) (b : Option XVal) =>
    match b with
    | none => v.val
    | some b => bits64 (if v.empty then b else f (val64 v.val) b)
  match v.kind.toNat with
  | 1 => { v with val := bits64 (add64 (val64 v.val) ((treeUp add64 10 l).getD xZero)), empty := false, cnt := cnt }
  | 2 => { v with val := bits64 (add64 (val64 v.val) ((treeUp add64 10 (l.map fun o => o.map fun x => x.mul x)).getD xZero)), empty := false, cnt := cnt }
  | 3 => { v with val := join XVal.max (treeUp XVal.max 10 l), empty := false, cnt := cnt }
  | 4 => { v with val := join XVal.min (treeUp XVal.min 10 l), empty := false, cnt := cnt }
  | 5 =>
    (match treeUp argMax 10 (numberEls v.cnt.toNat l) with
    | none => if v.empty then { v with val := 0x7FF8000000000000, idx := 0xFFFFFFFF, empty := false, cnt := cnt } else { v with cnt := cnt }
    | some b =>
      let r := if v.empty || (val64 v.val).isNan then b else argMax (val64 v.val, v.idx.toNat) b
      { v with val := bits64 r.1, idx := w32 r.2, empty := false, cnt := cnt })
  | 6 => { v with val := if live.any XVal.nonfinite then 0x3FF0000000000000 else v.val, empty := false, cnt := cnt }
  | _ => v

/-- Absorb one beat into the register of a reduction. -/
def redAbsorb (r : RedAtt) (l : List (Option XVal)) (s : State) : State := s.setSum r.reg.toNat (redBeat (s.sum r.reg.toNat) l)

/-- The comparison of PRED_COPY (R162). -/
def cmp64 (c : Cmp) (a b : XVal) : Bool :=
  let un := a.isNan || b.isNan
  match c with
  | .unord => un
  | .lt => a.lt b
  | .le => !un && !(b.lt a)
  | .gt => b.lt a
  | .ge => !un && !(a.lt b)
  | .eq => a.eqv b
  | .ne => !un && !(a.eqv b)

end Sys2Proof.Machine
end

