-- ==== Sys2Proof/Machine/Vector.lean ====
section
/-! DEFINITION. The vector unit's commands (chapter 05): vector operations, loads, stores, drains and their beats, and
the summary and predicate operations. -/

namespace Sys2Proof.Machine

/-- VLEN of the context of a command (R145, R203). -/
def vlenOf (s : State) (c : EngCmd) : Nat := (s.ctxt c.ctx).vlen

/-- VSETLEN (R145). -/
def execVsetlen (s : State) : Out := runFast s fun s => withHead 19 s fun c s =>
  match c.op with
  | .vsetlen n x => issueOr 19 c (failIf (opdBad n) (operandInvalid 1)) (fun s =>
      let v := min (oVal n) 512
      (s.setCtxt c.ctx { s.ctxt c.ctx with vlen := v }).setX c.ctx x (w64 v)) s
  | _ => s

/-- A tile register outside a fill: expansion belongs to the weight stream alone (R43, R45). -/
def plainT (r : TRef) : TRef := { r with t := { r.t with format := setFld r.t.format 10 2 0 } }

/-- An element of an input tile as FP32 (R55). -/
def inEl (s : State) (r : TRef) (row col : Nat) : XVal × Flags := rne32 (readElem s (plainT r).t row col)

/-- The operands of one element: the value a source gives to element i, and whether it was flushed (R148). The column
broadcast gives lane l the element of its column l div 32 (R151); its elements are FP32 or BF16, as those of a bias
(DESIGN CHOICE, log entry 70). -/
def srcVal (s : State) (pk : Option Packed) (v : VSrc) (i : Nat) : XVal × Bool :=
  match v, pk with
  | .cols t c0, _ => let x := inEl s t 0 (oVal c0 + (if pk.isSome then i / 2 else i) / 32); (x.1, x.2 != 0)
  | .bcast o, _ => in32 (oWord o)
  | .reg r, none => in32 (s.lane r.toNat i)
  | .reg r, some p => (decodeElem (packFmt p) (s.packedEl r.toNat i), false)

/-- The sources an operation takes. -/
def vArity : VFun → Nat
  | .neg => 1
  | .abs => 1
  | .isnf => 1
  | .sfu _ => 1
  | .fma => 3
  | .sel => 3
  | _ => 2

/-- Operations that set no flag (R149). -/
def vQuiet : VFun → Bool
  | .add => false
  | .sub => false
  | .mul => false
  | .fma => false
  | .sfu _ => false
  | _ => true

/-- Operations with a packed form (R147). -/
def vPackable : VFun → Bool
  | .add => true
  | .sub => true
  | .mul => true
  | .fma => true
  | .max => true
  | .min => true
  | _ => false

/-- The exact result of an operation, or the final one of a special function, and its flags beside rounding. -/
def vExact (f : VFun) (a b c : XVal) : XVal :=
  match f with
  | .add => a.add b
  | .sub => a.sub b
  | .mul => a.mul b
  | .fma => (a.mul b).add c
  | .neg => a.negate
  | .abs => a.abs
  | .max => a.max b
  | .min => a.min b
  | .eq => xBool (a.eqv b)
  | .lt => xBool (a.lt b)
  | .le => xBool (!a.isNan && !b.isNan && !(b.lt a))
  | .isnf => xBool a.nonfinite
  | .sel => if !a.isZero && !a.isNan then b else c
  | .sfu _ => a

/-- One FP32 element: the result and the flags it sets (R148, R149). -/
def vElem (f : VFun) (xs : List (XVal × Bool)) : XVal × Flags :=
  let a := (getAt (xZero, false) xs 0).1
  let b := (getAt (xZero, false) xs 1).1
  let c := (getAt (xZero, false) xs 2).1
  let fl := flFlags (xs.any Prod.snd)
  match f with
  | .sfu g => let r := sfuVal g a; (r.1, r.2 ||| fl)
  | _ =>
    if vQuiet f then (vExact f a b c, 0)
    else let r := fpRes (xs.any fun x => x.1.isNan) (vExact f a b c); (r.1, r.2 ||| fl)

/-- One packed element: its code and flags, rounded once to the 16-bit format (R148). A result rounded to zero is no nonzero
subnormal, so it sets INEXACT alone (R149). -/
def vPackElem (ieee : Bool) (p : Packed) (f : VFun) (xs : List (XVal × Bool)) : Nat × Flags :=
  let a := (getAt (xZero, false) xs 0).1
  let b := (getAt (xZero, false) xs 1).1
  let c := (getAt (xZero, false) xs 2).1
  let x := vExact f a b c
  let r := convElem (packFmt p) ieee false .rne false x
  let nan : Flags := if x.isNan && !(xs.any fun x => x.1.isNan) then fInv else 0
  let rnd : Flags := if r.cls = .vanished then fInx else r.flags
  (r.code, if vQuiet f then 0 else rnd ||| nan ||| flFlags (xs.any Prod.snd))

/-- The sources of an operation. -/
def vSources (o : VOp) : List VSrc := [o.a, o.b, o.c].take (vArity o.f)

def srcBad : VSrc → Bool
  | .bcast o => opdBad o
  | .cols _ c0 => opdBad c0
  | .reg _ => false

/-- The column operands of an operation over n lanes, each with the columns it reads (R148, R151). -/
def vCols (o : VOp) (n : Nat) : List (TRef × Box) :=
  (vSources o).filterMap fun v =>
    match v with
    | .cols t c0 => some (plainT t, ⟨0, 1, oVal c0, oVal c0 + (n + 31) / 32⟩)
    | _ => none

/-- The checks of a vector operation (R147, R148, R158, R237). -/
def vopChk (s : State) (n : Nat) (o : VOp) : Option Rej :=
  let cs := vCols o n
  firstRej [
    failIf (o.packed.isSome && !vPackable o.f) (operandInvalid 1),
    failIf ((vSources o).any srcBad) (operandInvalid 2),
    redChk s o.reds,
    tileChecks s .vu (cs.map fun p => (p.1, false, [p.2])) (failIf (cs.any fun p => decide (1 < tFmt p.1.t)) (formatUnsupported 11)),
    failIf (cs.any fun p => decide (p.1.t.cols.toNat < p.2.c1) || p.1.t.rows == 0) (descBounds 12)]

/-- VOP (R146–R149, R158). -/
def execVop (s : State) : Out := runFast s fun s => withHead 19 s fun c s =>
  match c.op with
  | .vop o =>
    issueOr 19 c (vopChk s (vlenOf s c) o) (fun s0 =>
      let n := vlenOf s0 c
      if n = 0 then s0 else
      let s := (vCols o n).foldl (fun s p => touchBox 2 p.1.t p.2 s) ((o.reds.foldl (fun s r => redInit r s) s0).count 0x40010 1)
      match o.packed with
      | none =>
        let res := (List.range n).map fun i => vElem o.f ((vSources o).map fun v => srcVal s none v i)
        let s := (List.range n).foldl (fun s i => s.setLane o.dst.toNat i (bits32 (getAt (xZero, 0) res i).1)) s
        let s := s.raiseFlags 4 (res.foldl (fun f r => f ||| r.2) 0)
        let s := (match o.f with | .sfu _ => s.count 0x40020 n | _ => s)
        o.reds.foldl (fun s r => redAbsorb r (res.map fun x => some x.1) s) s
      | some p =>
        let ieee := s0.regBit 0x40004 0
        let res := (List.range (2 * n)).map fun i => vPackElem ieee p o.f ((vSources o).map fun v => srcVal s (some p) v i)
        let s := (List.range (2 * n)).foldl (fun s i => s.setPacked o.dst.toNat i (getAt (0, 0) res i).1) s
        let s := s.raiseFlags 4 (res.foldl (fun f r => f ||| r.2) 0)
        o.reds.foldl (fun s r => redAbsorb r (res.map fun x => some (decodeElem (packFmt p) x.1)) s) s) s
  | _ => s

/-- x rounded to the BF16 grid, subnormals kept: code, value, exact (R105). -/
def bf16Of (m : Rnd) (x : Ex) : Nat × Ex × Bool :=
  match fpFmt 1 with
  | none => (0, x, true)
  | some f =>
    if x.num = 0 then (f.encode x, x, true) else
    let q := Max.max (x.log2 - 7) (-133)
    let r := x.roundAt m q
    let y : Ex := ⟨x.neg, r.1, 1, q⟩
    (f.encode (if r.1 = 0 then Ex.zero x.neg else y), if r.1 = 0 then Ex.zero x.neg else y, r.2)

/-- The three BF16 parts of an FP32 value and the flags of the split (R105). The truncations that form x0 and x1 set no
INEXACT, since x1 and x2 carry what they leave (DESIGN CHOICE, log entry 70: R149 speaks of rounding that changes a value). -/
def splitVal (w : Word) : (Nat × Nat × Nat) × Flags :=
  let x := in32 w
  match x.1 with
  | .fin v =>
    let a := bf16Of .trunc v
    let r1 := v.add a.2.1.negate
    let b := bf16Of .trunc r1
    let r2 := r1.add b.2.1.negate
    let c := bf16Of .rne r2
    let fl : Flags := if c.2.2 then 0 else if c.2.1.magLt (Ex.pow2 (-126)) then fUnd ||| fInx else fInx
    ((a.1, b.1, c.1), fl ||| flFlags x.2)
  | _ => ((0x7FC0, 0x7FC0, 0x7FC0), fInv ||| flFlags x.2)

/-- VSPLIT (R105). -/
def execVsplit (s : State) : Out := runFast s fun s => withHead 19 s fun c s =>
  match c.op with
  | .vsplit a d0 d1 d2 => issueOr 19 c none (fun s0 =>
      let n := vlenOf s0 c
      if n = 0 then s0 else
      let res := (List.range n).map fun i => splitVal (s0.lane a.toNat i)
      let s := (List.range n).foldl (fun s i =>
        let r := (getAt ((0, 0, 0), 0) res i).1
        ((s.setPacked d0.toNat i r.1).setPacked d1.toNat i r.2.1).setPacked d2.toNat i r.2.2) (s0.count 0x40010 1)
      s.raiseFlags 4 (res.foldl (fun f r => f ||| r.2) 0)) s
  | _ => s

/-- The elements a load or store moves, as (row, column) (R148). -/
def spanEls (t : Tile) (e0 n : Nat) : List (Nat × Nat) := (List.range n).map fun i => ((e0 + i) / t.cols.toNat, (e0 + i) % t.cols.toNat)

/-- A span that passes the tile's last element (R148). -/
def spanChk (t : Tile) (e0 n : Nat) : Option Rej := failIf (0 < n && t.rows.toNat * t.cols.toNat < e0 + n) (descBounds 9 e0)

/-- The elements a load or store of a context moves (R146). -/
def vspan (s : State) (c : EngCmd) (o : VMem) : Nat := vlenOf s c * (if o.packed.isSome then 2 else 1)

/-- The checks of a load (R148, R237). -/
def vloadChk (s : State) (c : EngCmd) (o : VMem) : Option Rej :=
  let r := plainT o.tile
  firstRej [failIf (opdBad o.first) (operandInvalid 2),
    tileChecks s .vu [(r, false, spanBoxes r.t (oVal o.first) (vspan s c o))] (failIf (10 < tFmt r.t) (formatUnsupported 8 (tFmt r.t))),
    spanChk r.t (oVal o.first) (vspan s c o)]

/-- VLOAD (R146, R148). -/
def execVload (s : State) : Out := runFast s fun s => withHead 19 s fun c s =>
  match c.op with
  | .vload o =>
    let r := plainT o.tile
    let n := vspan s c o
    let e0 := oVal o.first
    let boxes := spanBoxes r.t e0 n
    let chk := vloadChk s c o
    issueOr 19 c chk (fun s0 =>
      if n = 0 then s0 else
      let s := boxes.foldl (fun s b => touchBox 2 r.t b s) (s0.count 0x40010 1)
      let xs := (spanEls r.t e0 n).map fun p => readElem s r.t p.1 p.2
      match o.packed with
      | none =>
        let res := xs.map rne32
        let s := (List.range n).foldl (fun s i => s.setLane o.reg.toNat i (bits32 (getAt (xZero, 0) res i).1)) s
        s.raiseFlags 4 (res.foldl (fun f x => f ||| x.2) 0)
      | some p =>
        let ieee := s0.regBit 0x40004 0
        let res := xs.map fun x => let y := flushIn (tFmt r.t) x; convElem (packFmt p) ieee false .rne y.2 y.1
        let s := (List.range n).foldl (fun s i => s.setPacked o.reg.toNat i (getAt ⟨0, 0, .none⟩ res i).code) s
        s.raiseFlags 4 (res.foldl (fun f x => f ||| x.flags) 0)) s
  | _ => s

/-- Whether positions in stored order are whole blocks of n consecutive elements (R148). -/
def wholeBlocks (n : Nat) (l : List Elem) : Bool :=
  n == 1 || (blocksOf n l.length (sortElems l)).all fun b =>
    match b with
    | [] => true
    | h :: _ => decide (b.length = n) && h.sc % n == 0 &&
        (List.range n).all fun i => match b[i]? with | some e => e.sr == h.sr && e.sc == h.sc + i | none => false

/-- An element for a logical place of a tile. -/
def elemAt (t : Tile) (r c : Nat) (x y : XVal) (fl : Bool) (rnd : Rnd) : Elem := if tTrans t then ⟨c, r, x, y, fl, rnd⟩ else ⟨r, c, x, y, fl, rnd⟩

/-- The generator index of an element at (r, c) (R198). -/
def genIdx (base pitch : DWord) (r c : Nat) : DWord := base + w64 r * pitch + w64 c

/-- The elements a store moves, before and after the multiplication by ENC (R50, R148). -/
def vstoreEls (s : State) (c : EngCmd) (o : VMem) : List Elem :=
  let t := (plainT o.tile).t
  (List.range (vspan s c o)).map fun i =>
    let p := getAt (0, 0) (spanEls t (oVal o.first) (vspan s c o)) i
    let v := srcVal s o.packed (.reg o.reg) i
    elemAt t p.1 p.2 v.1 (v.1.mul (val32 (encOf s (tSlot t)))) v.2
      (storeRnd o.spec s.genSeed s.genStep (oVal o.layer) (genIdx o.base.imm o.pitch.imm p.1 p.2))

/-- The checks of a store (R148, R237). -/
def vstoreChk (s : State) (c : EngCmd) (o : VMem) : Option Rej :=
  let r := plainT o.tile
  let t := r.t
  let n := vspan s c o
  let e0 := oVal o.first
  firstRej [failIf (opdBad o.first || opdBad o.layer || opdBad o.base || opdBad o.pitch) (operandInvalid 2),
    tileChecks s .vu [(r, true, spanBoxes t e0 n)] (firstRej [specChk ((o.packed.map packFmt).getD 0) 0 o.spec t,
      failIf (!wholeBlocks (blockSize (tCont t)) (vstoreEls s c o)) (formatUnsupported 10)]),
    spanChk t e0 n, if specStochastic o.spec && decide (0 < n) then genChk s (oVal o.layer) else none]

/-- VSTORE (R146, R148). A store of one format into itself under ENC 1.0 copies bits (R49, R105). -/
def execVstore (s : State) : Out := runFast s fun s => withHead 19 s fun c s =>
  match c.op with
  | .vstore o =>
    let t := (plainT o.tile).t
    let n := vspan s c o
    let e0 := oVal o.first
    let src := (o.packed.map packFmt).getD 0
    let enc := encOf s (tSlot t)
    let els := vstoreEls s c o
    let chk := vstoreChk s c o
    issueOr 19 c chk (fun s =>
      if n = 0 then s else
      let s := s.count 0x40010 1
      let s := if specStochastic o.spec then s.count 0x43010 ((n + 3) / 4) else s
      if src = tFmt t ∧ tCont t = 0 ∧ enc = one32 then
        let raw := fun (i : Nat) => if o.packed.isSome then s.packedEl o.reg.toNat i else (s.lane o.reg.toNat i).toNat
        let codes := (sortElems els).map fun e =>
          let i := if tTrans t then e.sc * t.cols.toNat + e.sr - e0 else e.sr * t.cols.toNat + e.sc - e0
          (e.sr, e.sc, raw i)
        let s' := (runsOf codes).foldl (fun s u => writeRun 2 t u.1 u.2.1 u.2.2 s) s
        els.foldl (fun s e => s.gather (tSlot t) (some e.x) .none) s'
      else storeElems 2 4 t o.spec (tSlot t) els s) s
  | _ => s

/-! Drains -/

/-- The still ranges of a drain: still, first accumulator row, rows, first destination row (R101, R151). -/
def drainParts (s : State) (o : DrainOp) : List (Nat × Nat × Nat × Nat) :=
  match o.group with
  | some g =>
    (match s.still.groups.reverse.find? fun e => e.tag == g with
    | some e => [(e.still, e.row, e.m, 0)]
    | none => [])
  | none =>
    let l := ([0, 1, 2, 3] : List Nat).filter fun i => o.stills.contains i
    (List.range l.length).map fun k => (getAt 0 l k, 0, s.mEff (getAt 0 l k), ((l.take k).map s.mEff).sum)

/-- Whether a drain has a stage among D3–D6, so that it follows the second branch of R51. -/
def drainVops (o : DrainOp) : Bool := o.bias.isSome || o.act.isSome || o.deriv.isSome || o.drop.isSome || o.resid.isSome

/-- Whether a column range covers whole blocks of a destination (R151), in the stored orientation (R39). -/
def drainBlocksOk (t : Tile) (c0 cols rows : Nat) : Bool :=
  if tCont t = 0 then true
  else if tTrans t then rows % blockSize (tCont t) == 0
  else if tCont t = 1 then c0 % 32 == 0 && cols % 32 == 0
  else true

/-- The checks of a drain (R151, R152, R158, R237). A range that passes column 4,095, and a drain that enables both D4a and
D4b, are OPERAND_INVALID (DESIGN CHOICE, log entry 70: R151 and R152 name no code for them). -/
def drainChk (s : State) (o : DrainOp) : Option Rej :=
  let c0 := oVal o.c0
  let n := oVal o.cols
  let parts := drainParts s o
  let total := (parts.map fun p => p.2.2.1).sum
  let dst := plainT o.dst
  let aux := o.aux.map fun a => (plainT a.1, a.2)
  let rowsOf := fun (t : Tile) => min t.rows.toNat total
  let ins := ([o.bias, o.deriv.map Prod.snd, o.resid].filterMap id).map plainT
  let inBox := fun (r : TRef) (one : Bool) => (r, false, [(⟨0, if one then 1 else rowsOf dst.t, 0, n⟩ : Box)])
  let slotBad := fun (d : Option (BitVec 10)) => d.any fun x => decide (255 < x.toNat)
  let cols := (o.bias.toList ++ (keepTile o).toList).map plainT
  firstRej [
    failIf (opdBad o.c0 || opdBad o.cols || opdBad o.layer || opdBad o.base || opdBad o.pitch || opdBad o.auxOff) (operandInvalid 1),
    failIf (c0 % 16 ≠ 0 || n % 16 ≠ 0 || 4096 < c0 + n) (operandInvalid 2 c0),
    failIf (o.group.isNone && (o.stills = [] || o.stills.any fun i => 3 < i)) (operandInvalid 3),
    failIf (o.group.isSome && parts = []) (operandInvalid 4),
    failIf (o.act.isSome && o.deriv.isSome) (operandInvalid 5),
    failIf (slotBad o.decA || slotBad o.decB) (operandInvalid 6),
    redChk s o.reds,
    failIf ((o.drop.isSome && !s.evalMode) || specStochastic o.spec || aux.any fun a => specStochastic a.2) (genChk s (oVal o.layer)),
    tileChecks s .vu
      ([(dst, true, [⟨0, rowsOf dst.t, 0, n⟩])] ++ (o.bias.toList.map fun r => inBox (plainT r) true) ++
        ((o.deriv.map Prod.snd).toList.map fun r => inBox (plainT r) false) ++ ((keepTile o).toList.map fun r => inBox (plainT r) true) ++ (o.resid.toList.map fun r => inBox (plainT r) false) ++
        (aux.toList.map fun a => (a.1, true, [⟨0, rowsOf a.1.t, 0, n⟩])))
      (firstRej [
        failIf (ins.any fun r => 11 < tFmt r.t) (formatUnsupported 8),
        failIf (cols.any fun r => 1 < tFmt r.t) (formatUnsupported 11),
        specChk 0 0 o.spec dst.t,
        (match aux with | some a => specChk 0 0 a.2 a.1.t | none => none),
        failIf (!drainBlocksOk dst.t c0 n (rowsOf dst.t) || aux.any fun a => !drainBlocksOk a.1.t c0 n (rowsOf a.1.t)) (formatUnsupported 10)]),
    failIf (parts.any fun p => s.stillFenced p.1) (descBounds 11),
    failIf (dst.t.cols.toNat < n || aux.any fun a => a.1.t.cols.toNat < n) (descBounds 10 n),
    failIf (cols.any (fun r => r.t.cols.toNat < n || r.t.rows = 0) ||
      ([o.deriv.map Prod.snd, o.resid].filterMap id).any fun r => r.t.cols.toNat < n || r.t.rows.toNat < rowsOf dst.t) (descBounds 12 n)]

/-- DRAIN (R151): the drain issues, reading its factors and generator settings (R120, R201). A drain issued with VLEN 0,
or of no column, moves no byte (R146). -/
def execDrain (s : State) : Out := runFast s fun s => withHead 19 s fun c s =>
  match c.op with
  | .drain o =>
    issueOr 19 c (drainChk s o) (fun s0 =>
      let c0 := oVal o.c0
      let beats := (drainParts s0 o).flatMap fun p => (List.range (oVal o.cols / 16)).map fun b => (p.1, c0 + 16 * b, p.2.1, p.2.2.1, p.2.2.2)
      if beats = [] ∨ vlenOf s0 c = 0 then s0 else
      let slotN := fun (d : Option (BitVec 10)) => d.map BitVec.toNat
      let g := (fpMul (val32 (decOf s0 (slotN o.decA))) (val32 (decOf s0 (slotN o.decB)))).1
      let enc := encOf s0 (tSlot o.dst.t)
      let enc := if drainVops o then enc else (rne32b (g.mul (val32 enc))).1
      let run : DrainRun := ⟨c, o, beats, bits32 g, enc, encOf s0 ((o.aux.map fun a => tSlot a.1.t).join), s0.genSeed, s0.genStep, [], []⟩
      let s := o.reds.foldl (fun s r => redInit r s) s0
      { s with vec := { s.vec with drain := some run } }) s
  | _ => s

/-- What one lane of a drain produces: the accumulator value, D2, D3 and the value after D6, their flags, and whether the
accumulator word was a subnormal. -/
structure Lane where
  acc : XVal
  d2 : XVal
  d3 : XVal
  d6 : XVal
  fl : Flags
  raw : Bool
  deriving DecidableEq, Repr

/-- Stage D1: what an accumulator word reads as, with its flags and whether it was a subnormal: NaN in a poisoned tile,
whether it holds sums or integers (R94, R152). -/
def drainAcc (isInt pois : Bool) (w : Word) : XVal × Flags × Bool :=
  if pois then (.nan, 0, false)
  else if isInt then (let r := rne32 (.fin (Ex.ofInt w.toInt 0)); (r.1, r.2, false))
  else (let r := in32 w; (r.1, 0, r.2))

/-- The keep scale of a column, flushed (R151, R200). -/
def keepVal (s : State) (k : Keep) (col : Nat) : XVal × Flags :=
  match k with
  | .one w => let r := in32 w; (r.1, flFlags r.2)
  | .cols t => inEl s t 0 col

/-- Stages D1–D6 of one lane at destination (dr, dc), its accumulator word in a poisoned tile or not (R51, R152). `full` is
false for a row that only the auxiliary store takes. -/
def drainLane (s : State) (d : DrainRun) (full pois : Bool) (w : Word) (dr dc : Nat) : Lane :=
  let o := d.op
  let acc := drainAcc o.accInt pois w
  let d2 := fpMul acc.1 (val32 d.gdec)
  if !drainVops o then ⟨acc.1, d2.1, d2.1, d2.1, acc.2.1, acc.2.2⟩ else
  let f0 := acc.2.1 ||| flFlags acc.2.2 ||| d2.2
  let step := fun (p : XVal × Flags) (b : Option (XVal × Flags)) (f : XVal → XVal → XVal × Flags) =>
    match b with
    | none => p
    | some b => let r := f p.1 b.1; (r.1, p.2 ||| b.2 ||| r.2)
  let d3 := step (d2.1, f0) (o.bias.map fun r => inEl s r 0 dc) fpAdd
  if !full then ⟨acc.1, d2.1, d3.1, d3.1, d3.2, false⟩ else
  let d4 : XVal × Flags :=
    (match o.act with
    | none => d3
    | some .relu => (relu d3.1, d3.2)
    | some (.sfu g) => let r := sfuVal g d3.1; (r.1, d3.2 ||| r.2))
  let d4 := step d4 (o.deriv.map fun p => let z := inEl s p.2 dr dc; (derivVal p.1 z.1, z.2)) fpMul
  let d5 := if s.evalMode then d4 else step d4 (o.drop.map fun p =>
    let r := genWord d.seed d.step 1 (oVal o.layer) (genIdx o.base.imm o.pitch.imm dr dc)
    if p.1.toNat ≤ r.toNat then keepVal s p.2 dc else (xZero, (0 : Flags))) fpMul
  let d6 := step d5 (o.resid.map fun r => inEl s r dr dc) fpAdd
  ⟨acc.1, d2.1, d3.1, d6.1, d6.2, false⟩

/-- The elements of complete blocks, and those that still wait for the rest of theirs (R151). -/
def splitBlocks (t : Tile) (l : List Elem) : List Elem × List Elem :=
  let n := blockSize (tCont t)
  if n = 1 then (l, [])
  else
    let full := fun (e : Elem) => (l.filter fun f => f.sr == e.sr && f.sc / n == e.sc / n).length == n
    (l.filter full, l.filter fun e => !full e)

/-- One beat of a drain: 16 columns of one still through the stages, the reductions and the stores (R151, R152). -/
def drainBeat (d : DrainRun) (b : Nat × Nat × Nat × Nat × Nat) (rest : List (Nat × Nat × Nat × Nat × Nat)) (s0 : State) : State :=
  let o := d.op
  let still := b.1
  let cb := b.2.1
  let r0 := b.2.2.1
  let m := b.2.2.2.1
  let d0 := b.2.2.2.2
  let dst := (plainT o.dst).t
  let k := min m (dst.rows.toNat - d0)
  let ka := (o.aux.map fun a => min m (a.1.t.rows.toNat - d0)).getD 0
  let kall := max k ka
  let dc0 := cb - oVal o.c0
  let s1 := (List.range 16).foldl (fun s j => s.accCheck (accAddr still (cb + j) r0) (4 * kall)) ((s0.count 0x40010 1).count 0x40018 1)
  let boxIn := fun (one : Bool) => (⟨if one then 0 else d0, if one then 1 else d0 + k, dc0, dc0 + 16⟩ : Box)
  let touch := fun (r : Option TRef) (one : Bool) (s : State) => match r with | some r => touchBox 2 (plainT r).t (boxIn one) s | none => s
  let s2 := touch o.resid false (touch (if s0.evalMode then none else keepTile o) true (touch (o.deriv.map Prod.snd) false (touch o.bias true s1)))
  let uses := bit (o.drop.isSome && !s0.evalMode) + bit (specStochastic o.spec) + bit (o.aux.any fun a => specStochastic a.2)
  let s3 := if uses = 0 then s2 else s2.count 0x43010 (128 * uses)
  let s3 := (match o.act with | some (.sfu _) => s3.count 0x40020 (16 * k) | _ => s3)
  let s3 := (match o.deriv with | some p => if derivCost p.1 = 0 then s3 else s3.count 0x40020 (16 * k * derivCost p.1) | none => s3)
  let lanes := (List.range 16).flatMap fun j => (List.range kall).map fun i =>
    let w := w32 (s1.seenLe (accAddr still (cb + j) (r0 + i)) 4)
    (i, j, drainLane s2 d (decide (i < k)) (s1.poison.contains (still, (cb + j) / 8)) w (d0 + i) (dc0 + j))
  let mine := lanes.filter fun l => l.1 < k
  let els := mine.map fun l =>
    let v := l.2.2
    let x := if drainVops o then v.d6 else v.acc
    elemAt dst (d0 + l.1) (dc0 + l.2.1) (if drainVops o then v.d6 else v.d2) (x.mul (val32 d.enc)) v.raw
      (storeRnd o.spec d.seed d.step (oVal o.layer) (genIdx o.base.imm o.pitch.imm (d0 + l.1) (dc0 + l.2.1)))
  let out := splitBlocks dst (d.held ++ els)
  let s4 := storeElems 2 4 dst o.spec (tSlot dst) out.1 s3
  let s4 := s4.noteNonfinite (storesNonfinite o.spec out.1)
  let s5 : State × List Elem :=
    (match o.aux with
    | none => (s4, [])
    | some a =>
      let t := (plainT a.1).t
      let els := (lanes.filter fun l => l.1 < ka).map fun l =>
        elemAt t (d0 + l.1) (dc0 + l.2.1) l.2.2.d3 (l.2.2.d3.mul (val32 d.encAux)) false
          (storeRnd a.2 d.seed d.step (oVal o.layer) (genIdx o.base.imm o.pitch.imm (d0 + l.1) (dc0 + l.2.1) + o.auxOff.imm))
      let out := splitBlocks t (d.heldAux ++ els)
      ((storeElems 2 4 t a.2 (tSlot t) out.1 s4).noteNonfinite (storesNonfinite a.2 out.1), out.2))
  let s6 := (s5.1.raiseFlags 4 (lanes.foldl (fun f l => f ||| l.2.2.fl) 0)).noteNonfinite (lanes.any fun l => l.2.2.acc.nonfinite)
  let tap := fun (late : Bool) => (List.range 512).map fun l =>
    (mine.find? fun e => e.2.1 == l / 32 && r0 + e.1 == l % 32).map fun e => if late then e.2.2.d6 else e.2.2.d2
  let s7 := o.reds.foldl (fun s r => redAbsorb r (tap r.late) s) s6
  { s7 with vec := { s7.vec with drain := if rest = [] then none else some { d with beats := rest, held := out.2, heldAux := s5.2 } } }

/-- The accumulator halves that a beat reads: its own, and those of the tiles it loads from (R22). -/
def beatHalves (d : DrainRun) (b : Nat × Nat × Nat × Nat × Nat) : List (Nat × Nat) :=
  (b.1, b.2.1 / 2048) :: (srcTiles (.drain d.op)).flatMap fun t => extentHalves (tExtent t).1 (tExtent t).2

/-- DRAIN_BEAT (R152): the next beat of the drain in progress, once R22 releases its half. -/
def execDrainBeat (s : State) : Out := runFast s fun s =>
  match s.vec.drain with
  | none => s
  | some d =>
    match d.beats with
    | [] => { s with vec := { s.vec with drain := none } }
    | b :: rest => if writeWait s d.cmd (beatHalves d b) then s else drainBeat d b rest s

/-! Summaries and predicates -/

/-- The 64 bits of a summary register (R161, R162). -/
def State.sumBits (s : State) (i : Nat) : DWord := if i = 15 then w64 (bit s.vec.nonfinite) else (s.sum i).val

/-- SUM_READ (R162). -/
def execSumRead (s : State) : Out := runFast s fun s => withHead 22 s fun c s =>
  match c.op with
  | .sumRead i x => issueOr 22 c none (fun s => s.setX c.ctx x (s.sumBits i.toNat)) s
  | _ => s
/-- SUM_INDEX_READ (R162). -/
def execSumIndexRead (s : State) : Out := runFast s fun s => withHead 22 s fun c s =>
  match c.op with
  | .sumIndexRead i x => issueOr 22 c none (fun s => s.setX c.ctx x ((s.sum i.toNat).idx.setWidth 64)) s
  | _ => s
/-- SUM_CLEAR (R161): SUM[15]; another register takes its reset content. -/
def execSumClear (s : State) : Out := runFast s fun s => withHead 22 s fun c s =>
  match c.op with
  | .sumClear i => issueOr 22 c none (fun s =>
      if i = 15 then { s with vec := { s.vec with nonfinite := false } } else s.setSum i.toNat Sum.reset) s
  | _ => s
/-- PRED_COPY (R162). -/
def execPredCopy (s : State) : Out := runFast s fun s => withHead 22 s fun c s =>
  match c.op with
  | .predCopy i k v p => issueOr 22 c (failIf (opdBad v) (operandInvalid 1)) (fun s =>
      s.setPred p (if i = 15 then s.vec.nonfinite else cmp64 k (val64 (s.sum i.toNat).val) (val64 v.imm))) s
  | _ => s

/-- PRED_SET (R219): from XCTL or ACTL. -/
def execPredSet (q : Nat) (s : State) : Out := runFast s fun s => withHead q s fun c s =>
  match c.op with
  | .predSet p v => issueOr q c (failIf (opdBad v) (operandInvalid 1)) (fun s => s.setPred p (v.imm != 0)) s
  | _ => s

/-- GEN_STEP (R201): from XCTL or ACTL. -/
def execGenStep (q : Nat) (s : State) : Out := runFast s fun s => withHead q s fun c s =>
  match c.op with
  | .genStep v => issueOr q c (failIf (opdBad v) (operandInvalid 1)) (fun s => s.setReg 0x43008 (oWord v)) s
  | _ => s

end Sys2Proof.Machine
end

