-- ==== Sys2Proof/Machine/Row.lean ====
section
/-! DEFINITION. The row engine (R163–R170): one row of each operation, the issue of an operation and its completion. An
operation processes all rows but its last when it issues and the last when ROW_OPERATION_COMPLETE arrives (log entry 1). -/

namespace Sys2Proof.Machine

/-- A value with the flags its formation raised. -/
abbrev Fl := XVal × Flags

/-- A binary64 sum (R166): a six-level tree within each 64-element beat, then beat by beat. -/
def sum64 (l : List XVal) : XVal :=
  (blocksOf 64 l.length l).foldl (fun acc b => add64 acc ((treeUp add64 6 (b.map some)).getD xZero)) xZero

def anyNan (l : List XVal) : Bool := l.any XVal.isNan
def orFlags (l : List Fl) : Flags := l.foldl (fun f x => f ||| x.2) 0
/-- Division by n (R166). -/
def divN (x : XVal) (n : Nat) : XVal := x.div (.fin (Ex.ofInt n 0))
/-- Run one FP32 step after another, collecting flags. -/
def fl1 (f : XVal → XVal × Flags) (a : Fl) : Fl := let r := f a.1; (r.1, a.2 ||| r.2)
def fl2 (f : XVal → XVal → XVal × Flags) (a b : Fl) : Fl := let r := f a.1 b.1; (r.1, a.2 ||| b.2 ||| r.2)
/-- A value whose flags have been counted. -/
def quiet (a : Fl) : Fl := (a.1, 0)

/-- Whether a value is +0. -/
def isPlusZero (x : XVal) : Bool := x.isZero && !x.sign

/-- {μ, r} of a row (R166). The binary64 roundings of the sums, of q, q·q and the difference raise no INEXACT (DESIGN
CHOICE, log entry 71: R170 takes the conditions of R149, which speaks of FP32 results). -/
def lnStat (xs : List XVal) (eps : XVal) : Fl × Fl :=
  let nan := anyNan xs
  let n := xs.length
  let q := rne64 (divN (sum64 xs) n)
  let var := fpRes nan (rne64 ((rne64 (divN (sum64 (xs.map fun x => x.mul x)) n)).sub (rne64 (q.mul q))))
  let mu := fpRes nan q
  (mu, fl1 (sfuVal .rsqrt) (fl2 fpAdd (var.1.max xZero, var.2) (eps, 0)))

/-- {0, r} of a row (R166). -/
def rmsStat (xs : List XVal) (eps : XVal) : Fl × Fl :=
  let ms := fpRes (anyNan xs) (divN (sum64 (xs.map fun x => x.mul x)) xs.length)
  ((xZero, 0), fl1 (sfuVal .rsqrt) (fl2 fpAdd ms (eps, 0)))

/-- t_i of a softmax (R167). -/
def expTerm (alpha m x : XVal) : Fl := fl1 (sfuVal .exp2) (fl2 fpMul (alpha, 0) (fpSub x m))

/-- Whether a row is fully masked: some element is −∞ and every other is −∞ or NaN (R167). -/
def maskedRow (xs : List XVal) : Bool :=
  (xs.any fun x => x == .inf true) && xs.all fun x => x.isNan || x == .inf true

/-- {m, l} of a row (R167). -/
def smStat (xs : List XVal) (alpha : XVal) : Fl × Fl :=
  if maskedRow xs then ((.inf true, 0), (xZero, 0))
  else
    let m := xs.foldl XVal.max .nan
    let ts := xs.map (expTerm alpha m)
    let l := fpRes (anyNan (ts.map Prod.fst)) (sum64 (ts.map Prod.fst))
    ((m, 0), (l.1, l.2 ||| orFlags ts))

/-- Whether {m, l} is that of a fully masked row. -/
def maskedStat (m l : XVal) : Bool := m == .inf true && isPlusZero l

/-- y_i of a softmax from x and {m, l} (R167). -/
def smOut (alpha m l : XVal) (xs : List XVal) : List Fl :=
  if maskedStat m l then xs.map fun _ => (xZero, 0)
  else
    let r := sfuVal .rcp l
    xs.map fun x => fl2 fpMul (expTerm alpha m x) r

/-- What one row produces: its outputs, its statistics entry, the values it adds to dγ and dβ, and flags. -/
structure RowRes where
  ys : List XVal
  fl : Flags
  stat : XVal × XVal
  dg : List Fl
  db : List Fl
  deriving DecidableEq, Repr

/-- What one row reads: x, the second input, γ, β, ε or α or β, the second factor, and the statistics entries. -/
structure RowIn where
  xs : List XVal
  x2 : List XVal
  g : List XVal
  b : List XVal
  fac : XVal
  fac2 : XVal
  st : Option (XVal × XVal)
  st2 : XVal × XVal
  haveY : Bool
  deriving DecidableEq, Repr

/-- The normalised values xh_i (R168). -/
def xhat (rms : Bool) (mu r : XVal) (xs : List XVal) : List Fl :=
  xs.map fun x => if rms then fpMul x r else fl2 fpMul (fpSub x mu) (r, 0)

/-- One row of LN_FWD or RMS_FWD (R166). -/
def rowNorm (rms : Bool) (i : RowIn) : RowRes :=
  let st := if rms then rmsStat i.xs i.fac else lnStat i.xs i.fac
  let h := xhat rms st.1.1 st.2.1 i.xs
  let ys := (h.zip (i.g.zip i.b)).map fun p =>
    let y := fl2 fpMul p.1 (p.2.1, 0)
    if rms then y else fl2 fpAdd y (p.2.2, 0)
  ⟨ys.map Prod.fst, st.1.2 ||| st.2.2 ||| orFlags ys, (st.1.1, st.2.1), [], []⟩

/-- One row of SOFTMAX_FWD (R167). -/
def rowSoftmax (i : RowIn) : RowRes :=
  let st := smStat i.xs i.fac
  let ys := smOut i.fac st.1.1 st.2.1 i.xs
  ⟨ys.map Prod.fst, st.2.2 ||| orFlags ys, (st.1.1, st.2.1), [], []⟩

/-- One row of LN_BWD or RMS_BWD (R168). -/
def rowNormBwd (rms : Bool) (i : RowIn) : RowRes :=
  let st := match i.st with
    | some st => ((st.1, (0 : Flags)), (st.2, (0 : Flags)))
    | none => if rms then rmsStat i.xs i.fac else lnStat i.xs i.fac
  let n := i.xs.length
  let h := xhat rms st.1.1 st.2.1 i.xs
  let g := (i.x2.zip i.g).map fun p => fpMul p.1 p.2
  let gv := g.map Prod.fst
  let gh := (gv.zip (h.map Prod.fst)).map fun p => p.1.mul p.2
  let a : Fl := if rms then (xZero, 0) else fpRes (anyNan gv) (divN (sum64 gv) n)
  let c := fpRes (anyNan gv || anyNan (h.map Prod.fst)) (divN (sum64 gh) n)
  let dx := (gv.zip (h.map Prod.fst)).map fun p =>
    fl2 fpMul (st.2.1, 0) (fl2 fpSub (fpSub p.1 a.1) (fpMul p.2 c.1))
  let dg := (i.x2.zip (h.map Prod.fst)).map fun p => fpMul p.1 p.2
  ⟨dx.map Prod.fst, st.1.2 ||| st.2.2 ||| orFlags h ||| orFlags g ||| a.2 ||| c.2 ||| orFlags dx,
    (st.1.1, st.2.1), dg, i.x2.map fun y => (y, 0)⟩

/-- One row of SOFTMAX_BWD (R168): β is the factor, α the second factor. -/
def rowSoftmaxBwd (i : RowIn) : RowRes :=
  let ys : List Fl :=
    if i.haveY then i.xs.map fun x => (x, 0)
    else
      match i.st with
      | some st => smOut i.fac2 st.1 st.2 i.xs
      | none => let st := smStat i.xs i.fac2; smOut i.fac2 st.1.1 st.2.1 i.xs
  let yv := ys.map Prod.fst
  let c := fpRes (anyNan yv || anyNan i.x2) (sum64 ((i.x2.zip yv).map fun p => p.1.mul p.2))
  let dx := (i.x2.zip yv).map fun p => fl2 fpMul (i.fac, 0) (fl2 fpMul (p.2, 0) (fpSub p.1 c.1))
  ⟨dx.map Prod.fst, orFlags ys ||| c.2 ||| orFlags dx, (xZero, xZero), [], []⟩

/-- One row of MERGE (R169). -/
def rowMerge (i : RowIn) : RowRes :=
  let a := i.st.getD (xZero, xZero)
  let b := i.st2
  if a.1 == .inf true && b.1 == .inf true then ⟨i.xs.map fun _ => xZero, 0, (.inf true, xZero), [], []⟩
  else
    let m := a.1.max b.1
    let s1 := expTerm i.fac m a.1
    let s2 := expTerm i.fac m b.1
    let l := fl2 fpAdd (fpMul a.2 s1.1) (fpMul b.2 s2.1)
    let os := (i.xs.zip i.x2).map fun p => fl2 fpAdd (fpMul p.1 s1.1) (fpMul p.2 s2.1)
    ⟨os.map Prod.fst, s1.2 ||| s2.2 ||| l.2 ||| orFlags os, (m, l.1), [], []⟩

/-- One row of FINALISE (R167). -/
def rowFinal (i : RowIn) : RowRes :=
  let l := (i.st.getD (xZero, xZero)).2
  if isPlusZero l then ⟨i.xs.map fun _ => xZero, 0, (xZero, xZero), [], []⟩
  else
    let r := sfuVal .rcp l
    let ys := i.xs.map fun x => fpMul x r.1
    ⟨ys.map Prod.fst, r.2 ||| orFlags ys, (xZero, xZero), [], []⟩

/-- One row of an operation. -/
def rowOne (k : RowKind) (i : RowIn) : RowRes :=
  match k with
  | .lnFwd => rowNorm false i
  | .rmsFwd => rowNorm true i
  | .softmaxFwd => rowSoftmax i
  | .lnBwd => rowNormBwd false i
  | .rmsBwd => rowNormBwd true i
  | .softmaxBwd => rowSoftmaxBwd i
  | .merge => rowMerge i
  | .finalise => rowFinal i

/-! Operands -/

def rowBwd : RowKind → Bool
  | .lnBwd => true
  | .rmsBwd => true
  | .softmaxBwd => true
  | _ => false
/-- Operations that take a second input, that read statistics, that write them, that take ε. -/
def rowTwo (k : RowKind) : Bool := rowBwd k || k == .merge
def rowReads (o : RowOp) : Bool :=
  o.kind == .lnBwd || o.kind == .rmsBwd || o.kind == .merge || o.kind == .finalise || (o.kind == .softmaxBwd && !o.haveY)
def rowWrites (k : RowKind) : Bool := k == .lnFwd || k == .rmsFwd || k == .softmaxFwd || k == .merge
def rowNormKind (k : RowKind) : Bool := k == .lnFwd || k == .rmsFwd || k == .lnBwd || k == .rmsBwd
/-- Whether ε takes part: a backward operation with stored statistics does not use it. -/
def rowUsesEps (o : RowOp) : Bool := o.kind == .lnFwd || o.kind == .rmsFwd || ((o.kind == .lnBwd || o.kind == .rmsBwd) && o.stat.isNone)

/-- The statistics tile check (R163, R164): R entries of 8 bytes inside the statistics store. -/
def statChk (n : Nat) (r : Option TRef) : Option Rej :=
  match r with
  | none => none
  | some r =>
    let b := r.t.base.toNat
    failIf (63 < r.idx.toNat || b % 8 ≠ 0 || b < 0x09000000 || 0x09040000 < b + 8 * n) (operandInvalid 6 b)

/-- An ε that is negative or not finite (R163). -/
def epsBad (w : Word) : Bool := let e := (in32 w).1; e.nonfinite || xNeg e

/-- The checks of a row-engine operation (R163, R237, R337). -/
def rowChk (s : State) (o : RowOp) : Option Rej :=
  let n := oVal o.n
  let rows := oVal o.rows
  let vec := fun (r : Option TRef) (w : Bool) => r.toList.map fun r => (plainT r, w, [(⟨0, 1, 0, n⟩ : Box)])
  let mat := fun (r : TRef) (w : Bool) => (plainT r, w, [(⟨0, rows, 0, n⟩ : Box)])
  let out := (plainT o.out).t
  let bs := blockSize (tCont out)
  let small := fun (m : Nat) (r : TRef) => decide (r.t.rows.toNat < m) || decide (r.t.cols.toNat < n)
  let vecs := o.gamma.toList ++ o.beta.toList ++ o.dgamma.toList ++ o.dbeta.toList
  firstRej [
    failIf (s.evalMode && rowBwd o.kind) (some { code := 0x300C, cond := 1 }),
    failIf (opdBad o.rows || opdBad o.n || opdBad o.fac || opdBad o.fac2 || opdBad o.layer || opdBad o.base || opdBad o.pitch) (operandInvalid 1),
    failIf (65535 < rows) (operandInvalid 2 rows),
    failIf (n = 0 || 65536 < n) (operandInvalid 3 n),
    failIf (rowUsesEps o && epsBad (oWord o.fac)) (operandInvalid 4),
    failIf (rowTwo o.kind && o.x2.isNone) (operandInvalid 5),
    failIf ((o.kind == .merge || o.kind == .finalise) && o.stat.isNone || o.kind == .merge && o.stat2.isNone) (operandInvalid 6),
    firstRej [statChk rows o.stat, statChk rows o.stat2, statChk rows o.statOut],
    if specStochastic o.spec then genChk s (oVal o.layer) else none,
    tileChecks s .row
      ([mat o.x false] ++ (o.x2.toList.map fun r => mat r false) ++ vec o.gamma false ++ vec o.beta false ++ vec o.dgamma true ++
        vec o.dbeta true ++ [mat o.out true])
      (firstRej [
        failIf (10 < tFmt o.x.t || o.x2.any fun r => 10 < tFmt r.t) (formatUnsupported 8),
        failIf (vecs.any fun r => 1 < tFmt r.t || tCont r.t ≠ 0) (formatUnsupported 11),
        specChk 0 0 o.spec out,
        failIf (0 < rows && (if tTrans out then rows % bs else n % bs) ≠ 0) (formatUnsupported 10)]),
    failIf (0 < rows && (small rows o.x || o.x2.any (small rows) || small rows o.out || vecs.any (small 1))) (descBounds 10 n)]

/-! Rows -/

/-- A value of a statistics entry as the engine takes it, with its flush flags: a poisoned word is a NaN (R55, R149, R255). -/
def statWord (s : State) (a : Nat) : Fl :=
  if s.poisonedIn a 4 then (.nan, 0) else let r := in32 (s.word a); (r.1, flFlags r.2)
/-- Row j's statistics entry of a tile (R164), and the flags of reading it. -/
def statRead (s : State) (r : Option TRef) (j : Nat) : Option (XVal × XVal) :=
  r.map fun r => ((statWord s (r.t.base.toNat + 8 * j)).1, (statWord s (r.t.base.toNat + 8 * j + 4)).1)
def statFlags (s : State) (r : Option TRef) (j : Nat) : Flags :=
  match r with
  | some r => (statWord s (r.t.base.toNat + 8 * j)).2 ||| (statWord s (r.t.base.toNat + 8 * j + 4)).2
  | none => 0

/-- A vector of n elements, d when the operand is absent. -/
def vecRead (s : State) (r : Option TRef) (d : XVal) (n : Nat) : List Fl :=
  match r with
  | some r => (List.range n).map fun i => inEl s r 0 i
  | none => (List.range n).map fun _ => (d, 0)

/-- Write a vector of FP32 or BF16 elements (R163): FP32 bits as they are, BF16 to nearest even and saturating. -/
def vecWrite (req eng : Nat) (r : TRef) (vs : List XVal) (s : State) : State :=
  let t := (plainT r).t
  let els := (List.range vs.length).map fun i => let v := getAt xZero vs i; elemAt t 0 i v v false .rne
  if tFmt t = 0 then (sortElems els).foldl (fun s e => writeRun req t e.sr e.sc [(bits32 e.x).toNat] s) s
  else storeElems req eng t (BitVec.ofNat 16 (2048 * tFmt t)) none els s

/-- The accumulation of one row into dγ or dβ (R168). -/
def vecAccum (r : Option TRef) (adds : List Fl) (s : State) : State :=
  match r with
  | none => s
  | some r =>
    let s1 := touchBox 3 (plainT r).t ⟨0, 1, 0, adds.length⟩ s
    let old := vecRead s (some r) xZero adds.length
    let new := (old.zip adds).map fun p => fl2 fpAdd p.1 p.2
    vecWrite 3 5 r (new.map Prod.fst) (s1.raiseFlags 5 (orFlags new))

/-- How often a row of n elements is read from local memory: once, or once per sweep beyond the row buffers (R165). -/
def rowSweeps (k : RowKind) (n : Nat) : Nat :=
  if n ≤ 16384 then 1
  else
    match k with
    | .merge => 1
    | .lnFwd => 2
    | .rmsFwd => 2
    | .finalise => 2
    | _ => 3

/-- Row j of an operation: reads, formulas, output conversion, statistics and dγ/dβ (R163–R170). SFU_ELEMS counts no
evaluation of the row engine (DESIGN CHOICE, log entry 71: R171 lists it among the vector unit's counters). -/
def rowRun (r : RowRun) (j : Nat) (p : State × List Elem) : State × List Elem :=
  let o := r.op
  let s0 := p.1
  let n := oVal o.n
  let row := fun (t : TRef) => (List.range n).map fun c => inEl s0 t j c
  let xs := row o.x
  let x2 := (o.x2.map row).getD []
  let g := vecRead s0 o.gamma xOne n
  let b := vecRead s0 o.beta xZero n
  let fac := in32 (oWord o.fac)
  let fac2 := in32 (oWord o.fac2)
  let vals := fun (l : List Fl) => l.map Prod.fst
  let uses := rowReads o
  let i : RowIn := ⟨vals xs, vals x2, vals g, vals b, fac.1, fac2.1, if uses then statRead s0 o.stat j else none,
    (statRead s0 o.stat2 j).getD (xZero, xZero), o.haveY⟩
  let res := rowOne o.kind i
  let touchRow := fun (t : Option TRef) (vec : Bool) (s : State) =>
    match t with
    | some t => touchBox 3 (plainT t).t (if vec then ⟨0, 1, 0, n⟩ else ⟨j, j + 1, 0, n⟩) s
    | none => s
  let touchStat := fun (t : Option TRef) (s : State) => match t with | some t => s.touch 3 (t.t.base.toNat + 8 * j) 8 | none => s
  let rows := (List.range (rowSweeps o.kind n)).foldl (fun s _ => touchRow o.x2 false (touchRow (some o.x) false s)) s0
  let s1 := touchRow o.beta true (touchRow o.gamma true rows)
  let s2 := if uses then touchStat o.stat2 (touchStat o.stat s1) else s1
  let s3 := s2.raiseFlags 5 (orFlags xs ||| orFlags x2 ||| orFlags g ||| orFlags b ||| flFlags (fac.2 || fac2.2) |||
    (if uses then statFlags s0 o.stat j ||| statFlags s0 o.stat2 j else 0) ||| res.fl)
  let t := (plainT o.out).t
  let els := (List.range n).map fun c =>
    let v := getAt xZero res.ys c
    elemAt t j c v (v.mul (val32 r.enc)) false (storeRnd o.spec r.seed r.step (oVal o.layer) (genIdx o.base.imm o.pitch.imm j c))
  let out := splitBlocks t (p.2 ++ els)
  let s4 := storeElems 3 5 t o.spec (tSlot t) out.1 (if specStochastic o.spec then s3.count 0x43010 ((n + 3) / 4) else s3)
  let s5 :=
    match o.statOut with
    | some st =>
      if rowWrites o.kind && !(s0.evalMode && o.kind != .merge) then
        s4.write 3 (st.t.base.toNat + 8 * j) (leBytes 4 (bits32 res.stat.1).toNat ++ leBytes 4 (bits32 res.stat.2).toNat)
      else s4
    | none => s4
  let s6 := if rowNormKind o.kind && rowBwd o.kind then vecAccum o.dgamma res.dg s5 else s5
  let s7 := if o.kind == .lnBwd then vecAccum o.dbeta res.db s6 else s6
  ((s7.count 0x42010 1).count 0x42018 n, out.2)

/-- Issue a row-engine operation of kind k (R163, R165). -/
def rowIssue (k : RowKind) (s : State) : Out := runFast s fun s => withHead 20 s fun c s =>
  match c.op with
  | .row o =>
    if o.kind ≠ k then s else
    issueOr 20 c (rowChk s o) (fun s =>
      if oVal o.rows = 0 then s else
      let run : RowRun := ⟨c, o, oVal o.rows - 1, [], encOf s (tSlot o.out.t), s.genSeed, s.genStep⟩
      let r := (List.range (oVal o.rows - 1)).foldl (fun p j => rowRun run j p) (s, [])
      { r.1 with row := some { run with held := r.2 } }) s
  | _ => s

/-- LN_FWD (R166). -/
def execLnFwd (s : State) : Out := rowIssue .lnFwd s
/-- RMS_FWD (R166). -/
def execRmsFwd (s : State) : Out := rowIssue .rmsFwd s
/-- SOFTMAX_FWD (R167). -/
def execSoftmaxFwd (s : State) : Out := rowIssue .softmaxFwd s
/-- LN_BWD (R168). -/
def execLnBwd (s : State) : Out := rowIssue .lnBwd s
/-- RMS_BWD (R168). -/
def execRmsBwd (s : State) : Out := rowIssue .rmsBwd s
/-- SOFTMAX_BWD (R168). -/
def execSoftmaxBwd (s : State) : Out := rowIssue .softmaxBwd s
/-- MERGE (R169). -/
def execMerge (s : State) : Out := rowIssue .merge s
/-- FINALISE (R167). -/
def execFinalise (s : State) : Out := rowIssue .finalise s

/-- ROW_OPERATION_COMPLETE (R165): the last row of the operation in progress. -/
def execRowOperationComplete (s : State) : Out := runFast s fun s =>
  match s.row with
  | none => s
  | some r => { (rowRun r r.next (s, r.held)).1 with row := none }

end Sys2Proof.Machine
end

