-- ==== Sys2Proof/Machine/Slots.lean ====
section
/-! DEFINITION. Commands on scale slots, flags, counters and predicates (chapter 04; R112, R113, R162, R219). -/

namespace Sys2Proof.Machine

/-- The check of a slot operand (R249). -/
def slotChk (n : BitVec 10) : Option Rej := failIf (255 < n.toNat) (operandInvalid 1 n.toNat)

/-- SCALE_COMMIT (R121, R122). -/
def execScaleCommit (s : State) : Out := runFast s fun s => withHead 22 s fun c s =>
  match c.op with
  | .scaleCommit n => issueOr 22 c (slotChk n) (fun s => s.setSlot n.toNat (s.slot n.toNat).commit) s
  | _ => s

/-- SLOT_CTRL.COMMIT (R122). -/
def execSlotCommit (n : Byte) (s : State) : Out := runSlow s fun s => s.setSlot n.toNat (s.slot n.toNat).commit
/-- SLOT_CTRL.CLEAR_COUNTS (R127). -/
def execClearCounts (n : Byte) (s : State) : Out := runSlow s fun s => s.setSlot n.toNat (s.slot n.toNat).clearCounts
/-- SLOT_CTRL.RESET_HIST (R127). -/
def execResetHist (n : Byte) (s : State) : Out := runSlow s fun s => s.setSlot n.toNat (s.slot n.toNat).resetHist

/-- SCALE_SET (R125). -/
def execScaleSet (s : State) : Out := runFast s fun s => withHead 22 s fun c s =>
  match c.op with
  | .scaleSet n dec v =>
    issueOr 22 c (firstRej [slotChk n, failIf (opdBad v) (operandInvalid 2)])
      (fun s => s.setFactor n.toNat dec (oWord v) c.tag (ctxNum c.ctx)) s
  | _ => s

/-- A register write of ENC or DEC (R125). -/
def execScaleRegisterWrite (n : Byte) (dec : Bool) (v : Word) (s : State) : Out :=
  runSlow s fun s => s.setFactor n.toNat dec v 0 15

/-- PROMOTE_CLEAR (R130). -/
def execPromoteClear (s : State) : Out := runFast s fun s => withHead 22 s fun c s =>
  match c.op with
  | .promoteClear n => issueOr 22 c (slotChk n) (fun s => s.setSlot n.toNat (s.slot n.toNat).promoteClear) s
  | _ => s

/-- PROMOTE_PRED (R131). -/
def execPromotePred (s : State) : Out := runFast s fun s => withHead 22 s fun c s =>
  match c.op with
  | .promotePred n p => issueOr 22 c (slotChk n) (fun s => s.setPred p (s.slot n.toNat).promoted) s
  | _ => s

/-- The check of an engine number (R133). -/
def engineChk (e : Nat) : Option Rej := failIf (7 < e) (operandInvalid 1 e)

/-- FLAG_CLEAR (R134). -/
def execFlagClear (s : State) : Out := runFast s fun s => withHead 22 s fun c s =>
  match c.op with
  | .flagClear e m => issueOr 22 c (engineChk e) (fun s => s.clearFlags e m) s
  | _ => s

/-- FLAG_READ (R135). -/
def execFlagRead (s : State) : Out := runFast s fun s => withHead 22 s fun c s =>
  match c.op with
  | .flagRead e x => issueOr 22 c (engineChk e) (fun s => s.setX c.ctx x ((s.flags e).setWidth 64)) s
  | _ => s

/-- Whether an offset is a block's CNT_CTRL register. -/
def isCntCtrl (off : Nat) : Bool := cntBlocks.any fun b => b.2.2 == off

/-- Set every counter of the block of a CNT_CTRL register to 0 (R112); a high word already latched stays (R113). -/
def State.clearCounters (off : Nat) (s : State) : State :=
  { s with ctrs := s.ctrs.filter fun p => cntCtrlOf p.1 != some off }

/-- CNT_CTRL.CLEAR (R112). -/
def execCntCtrlClear (off : BitVec 20) (s : State) : Out :=
  runSlow s fun s => if isCntCtrl off.toNat then s.clearCounters off.toNat else s

end Sys2Proof.Machine
end

