-- ==== Sys2Proof/Machine/Update.lean ====
section
/-! DEFINITION. The update unit and the bucket table (chapter 10). An APPLY processes all elements but its last when it
issues and the last when UPDATE_APPLY_COMPLETE arrives (log entry 1). -/

namespace Sys2Proof.Machine

/-- The queue of the UPDATE forms (R230, R322). -/
def updQ : Nat := 21
/-- UPDATE forms but MODE are rejected in EVAL mode (R337). -/
def evalChk (s : State) : Option Rej := failIf s.evalMode (some { code := 0x300C, cond := 1, unit := 8 })

/-! Optimiser operands (R323, R324) -/

/-- Whether an optimiser has a second moment: all but SGDM. -/
def hasV (o : Optim) : Bool := o != .sgdm
/-- The source and destination pairs an APPLY uses; an absent destination is its source. -/
def applyPairs (o : ApplyOp) : List (TRef × TRef) :=
  let pr := o.pr.map fun t => (t, o.prOut.getD t)
  let m := o.m.map fun t => (t, o.mOut.getD t)
  let v := if hasV o.opt then o.v.map fun t => (t, o.vOut.getD t) else none
  [(o.p, o.pOut)] ++ pr.toList ++ m.toList ++ v.toList
/-- Whether the form writes its destinations. -/
def applyWrites (o : ApplyOp) : Bool := o.opt != .trustSums
/-- The elements of an APPLY. -/
def applyCount (o : ApplyOp) : Nat := o.p.t.rows.toNat * o.p.t.cols.toNat

/-- FP32 hyperparameters an optimiser uses in [0, 1), and those that must be finite and not negative. -/
def unitHypers (o : ApplyOp) : List Opd := if o.opt == .sgdm then [o.mu] else [o.b1, o.b2]
def plainHypers (o : ApplyOp) : List Opd := if o.opt == .sgdm then [o.lr, o.wd] else [o.lr, o.eps, o.wd]
def unitBad (o : Opd) : Bool := let x := (in32 (oWord o)).1; x.nonfinite || xNeg x || !(x.lt xOne)
/-- The operand values an APPLY takes. -/
def applyOpds (o : ApplyOp) : List Opd := unitHypers o ++ plainHypers o ++ (if o.opt == .trustGiven then [o.rho] else [])

/-- The format rules of R323. -/
def applyFmtChk (o : ApplyOp) : Option Rej :=
  let ps := applyPairs o
  let used := ps.map Prod.fst ++ (if applyWrites o then ps.map Prod.snd else []) ++ [o.g]
  let fmtBad := decide (1 < tFmt o.p.t) || decide (tFmt o.p.t = 1) != o.pr.isSome || (o.pr.any fun t => tFmt t.t != 0) ||
    (o.m.any fun t => decide (1 < tFmt t.t)) || (hasV o.opt && o.v.any fun t => decide (1 < tFmt t.t)) || tFmt o.g.t != 1 ||
    (applyWrites o && ps.any fun p => tFmt p.1.t != tFmt p.2.t)
  if fmtBad then formatUnsupported 1
  else if used.any fun t => tCont t.t != 0 then formatUnsupported 2
  else if used.any fun t => t.t.rows != o.p.t.rows || t.t.cols != o.p.t.cols then formatUnsupported 3
  else none

/-- The checks of an APPLY (R237, R323, R324, R326, R337). -/
def applyChk (s : State) (o : ApplyOp) : Option Rej :=
  let ps := applyPairs o
  let box := fun (t : TRef) => tBox t.t
  let ops := (ps.map fun p => (plainT p.1, false, [box p.1])) ++ [(plainT o.g, false, [box o.g])] ++
    (if applyWrites o then ps.map fun p => (plainT p.2, true, [box p.2]) else [])
  firstRej [
    evalChk s,
    failIf ((applyOpds o).any opdBad) (operandInvalid 1),
    failIf (o.m.isNone || (hasV o.opt && o.v.isNone)) (operandInvalid 5),
    tileChecks s .upd ops (applyFmtChk o),
    failIf ((unitHypers o).any unitBad) (operandInvalid 2),
    failIf ((plainHypers o).any fun h => epsBad (oWord h)) (operandInvalid 3),
    failIf (o.opt == .trustSums && (o.sumP == 15 || o.sumD == 15 || o.sumP == o.sumD || (s.sum o.sumP.toNat).kind != 2 || (s.sum o.sumD.toNat).kind != 2)) (operandInvalid 6),
    failIf (applyWrites o && ps.any fun p => p.1.t != p.2.t && overlap (tExtent p.1.t) (tExtent p.2.t)) (operandInvalid 4)]

/-! The step (R324–R327) -/

/-- The power of a widened β that R325 forms bit by bit: t has bits n − 1 … 0. -/
def betaPow (b : XVal) (t : Nat) : Nat → XVal → XVal
  | 0, q => q
  | n + 1, q =>
    let q := rne64 (q.mul q)
    betaPow b t n (if t / 2 ^ n % 2 = 1 then rne64 (q.mul b) else q)
/-- A bias-correction factor (R325). -/
def biasFactor (b : XVal) (t : Nat) : XVal :=
  (rne32 (xOne.div (rne64 (xOne.sub (betaPow b t (Nat.log2 t + 1) xOne))))).1

/-- The square root as one FP32 step. -/
def fpSqrt (a : XVal) : XVal × Flags := fpRes a.isNan a.sqrt
/-- The division as one FP32 step; a finite value divided by zero is a finite operation with a result beyond FP32 range, 0/0
is INVALID (R62, R149, R327). -/
def fpDiv (a b : XVal) : XVal × Flags :=
  let r := fpRes (a.isNan || b.isNan) (a.div b)
  if b.isZero && !a.nonfinite && !a.isZero then (r.1, fOvf) else r

/-- What an APPLY takes of one element: p, m, v and the gradient, with the flags of reading them. -/
structure UpdIn where
  p : Fl
  m : Fl
  v : Fl
  g : Fl
  deriving DecidableEq, Repr

/-- The values an APPLY works with: k, hyperparameters, bias corrections and the ratio. -/
structure UpdPar where
  k : XVal
  lr : XVal
  b1 : XVal
  b2 : XVal
  eps : XVal
  wd : XVal
  mu : XVal
  c1 : XVal
  c2 : XVal
  rho : XVal
  deriving DecidableEq, Repr

/-- The moments and d of one element of the ADAM family (R324, R326). -/
def adamParts (o : Optim) (h : UpdPar) (x : UpdIn) : Fl × Fl × Fl :=
  let g0 := fl2 fpMul x.g (h.k, 0)
  let wp := fl2 fpMul (h.wd, 0) x.p
  let g := if o = .adam then fl2 fpAdd g0 wp else g0
  let m := fl2 fpAdd (fl2 fpMul (h.b1, 0) x.m) (fl2 fpMul (fpSub xOne h.b1) g)
  let v := fl2 fpAdd (fl2 fpMul (h.b2, 0) x.v) (fl2 fpMul (fl2 fpMul (fpSub xOne h.b2) g) g)
  let u := fl2 fpDiv (fl2 fpMul m (h.c1, 0)) (fl2 fpAdd (fl1 fpSqrt (fl2 fpMul v (h.c2, 0))) (h.eps, 0))
  (m, v, if o = .adam then u else fl2 fpAdd u wp)

/-- The new p, m and v of one element. -/
def updStep (o : Optim) (h : UpdPar) (x : UpdIn) : Fl × Fl × Fl :=
  match o with
  | .sgdm =>
    let m := fl2 fpAdd (fl2 fpMul (h.mu, 0) x.m) (fl2 fpMul x.g (h.k, 0))
    (fl2 fpSub x.p (fl2 fpMul (h.lr, 0) (fl2 fpAdd m (fl2 fpMul (h.wd, 0) x.p))), m, x.v)
  | _ =>
    let a := adamParts o h x
    let step : Fl := if o = .adamw ∨ o = .adam then (h.lr, 0) else fpMul h.lr h.rho
    (fl2 fpSub x.p (fl2 fpMul step a.2.2), a.1, a.2.1)

/-- An element as the update unit takes it: BF16 subnormals are kept, FP32 ones flushed (R55, R324). -/
def updEl (s : State) (r : TRef) (i j : Nat) : Fl := if tFmt r.t = 0 then inEl s r i j else (readElem s (plainT r).t i j, 0)
/-- Read element (i, j) of an APPLY: a BF16 parameter with its remainder as it stands, subnormal or not (R323). -/
def updRead (s : State) (o : ApplyOp) (i j : Nat) : UpdIn :=
  let rd := fun (t : Option TRef) => match t with | some t => updEl s t i j | none => (xZero, 0)
  let raw := fun (t : TRef) => readElem s (plainT t).t i j
  ⟨match o.pr with | some r => fpAdd (raw o.p) (raw r) | none => updEl s o.p i j, rd o.m, rd o.v, updEl s o.g i j⟩

/-- The values of an APPLY in progress. -/
def ApplyRun.par (r : ApplyRun) : UpdPar :=
  let h := fun (o : Opd) => (in32 (oWord o)).1
  ⟨val32 r.k, h r.op.lr, h r.op.b1, h r.op.b2, h r.op.eps, h r.op.wd, h r.op.mu, val32 r.c1, val32 r.c2, val32 r.rho⟩

/-- Write one value through a destination tile: FP32 bits as they are, BF16 to nearest even and saturating (R324). -/
def updWrite (r : TRef) (i j : Nat) (v : XVal) (s : State) : State :=
  let t := (plainT r).t
  let e := elemAt t i j v v false .rne
  if tFmt t = 0 then writeRun 4 t e.sr e.sc [(bits32 v).toNat] s else storeElems 4 6 t 0x0800 none [e] s

/-- Copy the bits of element (i, j) to a destination that is not its source (R327, R331). -/
def updCopy (p : TRef × TRef) (i j : Nat) (s : State) : State :=
  if p.1.t = p.2.t then s
  else
    let a := elemAt p.1.t i j xZero xZero false .rne
    let b := elemAt p.2.t i j xZero xZero false .rne
    let c := readCode s p.1.t a.sr a.sc
    writeRun 4 p.2.t b.sr b.sc [if c.2 then poisonCode (tFmt p.1.t) else c.1] s

/-- BF16 of p and the exact remainder, which may be an FP32 subnormal (R323). -/
def splitParam (p : XVal) : XVal × XVal :=
  let hi := decodeElem 1 (convElem 1 false false .rne false p).code
  (hi, p.sub hi)

/-- Element e of an APPLY (R323–R331). -/
def updElem (r : ApplyRun) (e : Nat) (s : State) : State :=
  let o := r.op
  let i := e / o.p.t.cols.toNat
  let j := e % o.p.t.cols.toNat
  let box : Box := ⟨i, i + 1, j, j + 1⟩
  let touch := fun (s : State) => (applyPairs o).foldl (fun s p => touchBox 4 (plainT p.1).t box s) s
  if r.skip then (applyPairs o).foldl (fun s p => updCopy p i j s) (if (applyPairs o).any fun p => p.1.t != p.2.t then touch s else s)
  else
    let x := updRead s o i j
    let s := touchBox 4 (plainT o.g).t box (touch s)
    if x.g.1.nonfinite then ((applyPairs o).foldl (fun s p => updCopy p i j s) s).count 0x45040 1 |>.raiseFlags 6 fInv
    else
      let n := updStep o.opt r.par x
      let s := s.raiseFlags 6 (n.1.2 ||| n.2.1.2 ||| n.2.2.2)
      let s := match o.pr with
        | some t => updWrite (o.prOut.getD t) i j (splitParam n.1.1).2 (updWrite o.pOut i j n.1.1 s)
        | none => updWrite o.pOut i j n.1.1 s
      let s := match o.m with | some t => updWrite (o.mOut.getD t) i j n.2.1.1 s | none => s
      let s := match o.v with | some t => if hasV o.opt then updWrite (o.vOut.getD t) i j n.2.2.1 s else s | none => s
      s.count 0x45030 1

/-- The first sweep of a trust-ratio step: of every element whether its gradient is not finite, and p and d with their flags
(R326). -/
def trustSweep (s : State) (r : ApplyRun) : List (Bool × Fl × Fl) :=
  (List.range (applyCount r.op)).map fun e =>
    let x := updRead s r.op (e / r.op.p.t.cols.toNat) (e % r.op.p.t.cols.toNat)
    (x.g.1.nonfinite, x.p, (adamParts r.op.opt r.par x).2.2)
/-- What that sweep's reads do to the state (R253). -/
def sweepTouch (o : ApplyOp) (s : State) : State :=
  (((applyPairs o).map Prod.fst) ++ [o.g]).foldl (fun s t => touchBox 4 (plainT t).t (tBox t.t) s) s
/-- Sp and Sd. -/
def sumSq (l : List XVal) : XVal := sum64 (l.map fun x => x.mul x)
/-- ρ of LOCAL: sqrt(Sp) / sqrt(Sd) rounded once, as the root of the exact quotient of the two sums; 1.0 when either sum is
0 (R326). -/
def trustRatio (sp sd : XVal) : XVal :=
  if sp.isZero || sd.isZero then xOne else (rne32 (sp.div sd).sqrt).1

/-- Add Sp or Sd into a summary register of kind SUMSQ, with CONTINUE (R158, R326). -/
def addSum (i : Nat) (l : List XVal) (s : State) : State :=
  let v := s.sum i
  s.setSum i { v with val := bits64 (add64 (val64 v.val) (sumSq l)), empty := false, cnt := v.cnt + w32 (l.filter fun x => !x.isNan).length }

/-- What the sweep of SUMS_ONLY does; a gradient that is not finite is counted and sets INVALID (R327). -/
def sumsOnly (r : ApplyRun) (s : State) : State :=
  if r.skip then s
  else
    let l := trustSweep s r
    let fin := l.filter fun (p : Bool × Fl × Fl) => !p.1
    let nf := l.length - fin.length
    let s := (sweepTouch r.op s).raiseFlags 6 (orFlags (fin.map fun p => p.2.1) ||| orFlags (fin.map fun p => p.2.2))
    let s := if nf = 0 then s else (s.count 0x45040 nf).raiseFlags 6 fInv
    addSum r.op.sumD.toNat (l.map fun p => p.2.2.1) (addSum r.op.sumP.toNat (l.map fun p => p.2.1.1) s)

/-- What an APPLY reads at issue: K, NONFINITE_GLOBAL, the bias corrections and the ratio. -/
def applyStart (s : State) (c : EngCmd) (o : ApplyOp) : ApplyRun :=
  let t := (s.ctr 0x45008).toNat + 1
  let b := fun (x : Opd) => bits32 (biasFactor (in32 (oWord x)).1 t)
  let skip := o.skipOnNf && s.regBit 0x45010 0
  let r : ApplyRun := ⟨c, o, applyCount o - 1, s.reg 0x45024, b o.b1, b o.b2, oWord o.rho, skip⟩
  if o.opt = .trustLocal ∧ ¬ skip then
    let l := trustSweep s r
    { r with rho := bits32 (trustRatio (sumSq (l.map fun p => p.2.1.1)) (sumSq (l.map fun p => p.2.2.1))) }
  else r

/-- Whether a destination of an APPLY overlaps an entry that Flacon drains (R351). -/
def applyHeld (s : State) (o : ApplyOp) : Bool :=
  applyWrites o && (applyPairs o).any fun p => s.drainOverlap 0 p.2.t.base.toNat p.2.t.extent.toNat

/-- UPDATE_APPLY (R323–R328): issue, and every element but the last. -/
def execUpdateApply (s : State) : Out := runFast s fun s => withHead updQ s fun c s =>
  match c.op with
  | .apply o =>
    if applyHeld s o then s
    else
      issueOr updQ c (applyChk s o) (fun s =>
        if applyCount o = 0 then s
        else
          let r := applyStart s c o
          let s := if o.opt == .trustLocal && !r.skip then sweepTouch o s else s
          let s := if applyWrites o then (List.range (applyCount o - 1)).foldl (fun s e => updElem r e s) s else s
          { s with upd := some r }) s
  | _ => s

/-- UPDATE_APPLY_COMPLETE (R328): the last element of the APPLY in progress. -/
def execUpdateApplyComplete (s : State) : Out := runFast s fun s =>
  match s.upd with
  | none => s
  | some r => { (if applyWrites r.op then updElem r r.next s else sumsOnly r s) with upd := none }

/-! The step record (R329, R330) -/

/-- An address of n bytes on a 16-byte boundary in one of the tiers. -/
def recordChk (s : State) (a n : Nat) : Option Rej := failIf (a % 16 ≠ 0 || !s.inTiers a n) (descBounds 1 a)

/-- UPDATE_RECORD (R329). -/
def execUpdateRecord (s : State) : Out := runFast s fun s => withHead updQ s fun c s =>
  match c.op with
  | .record i addr =>
    let v := s.sum i.toNat
    issueOr updQ c (firstRej [evalChk s, failIf (opdBad addr) (operandInvalid 1), failIf (i == 15 || v.kind != 2) (operandInvalid 2 i.toNat),
        recordChk s (oVal addr) 16])
      (fun s =>
        let nf := s.vec.nonfinite || (val64 v.val).nonfinite
        s.write 4 (oVal addr) (leBytes 8 (2 ^ 60 + bit nf) ++ leBytes 8 v.val.toNat)) s
  | _ => s

/-- MAX_NORM values that R330 rejects: negative, NaN or subnormal. -/
def maxNormBad (w : Word) : Bool :=
  let x := val32 w
  x.isNan || xNeg x || (in32 w).2
/-- The first record that R330 refuses: its format version, a reserved bit, or an uncorrectable word. -/
def badRecord (s : State) (a n : Nat) : Option Nat :=
  (List.range n).find? fun i => s.poisonedIn (a + 16 * i) 16 || s.le (a + 16 * i) 8 / 2 != 2 ^ 59
/-- nf and g over the records in order. -/
def reduceRecords (s : State) (a n : Nat) : Bool × XVal :=
  (List.range n).foldl (fun (q : Bool × XVal) i => (q.1 || (s.byte (a + 16 * i)).getLsbD 0, add64 q.2 (val64 (s.dword (a + 16 * i + 8))))) (false, xZero)

/-- LS_LOG2 and the bounds of UPD_CFG, signed (R339). -/
def State.lsLog2 (s : State) : Int := signedOf 8 (s.regFld 0x45004 0 8)
def State.lsMax (s : State) : Int := signedOf 8 (s.regFld 0x45000 8 8)
def State.lsMin (s : State) : Int := signedOf 8 (s.regFld 0x45000 0 8)

/-- NONFINITE_GLOBAL, CLIP and K from nf, g, MAX_NORM and the loss scale (R330). -/
def clipOf (nf : Bool) (g : XVal) (mx : XVal) (ls : Int) : XVal × XVal :=
  let u : XVal := .fin (Ex.pow2 (-ls))
  let norm := (rne64 g.sqrt).mul u
  let clip := if nf || mx.isZero || mx.isInf || !(mx.lt norm) then xOne else (rne32 (mx.div norm)).1
  (clip, (rne32 (clip.mul u)).1)

/-- UPDATE_REDUCE (R330). -/
def execUpdateReduce (s : State) : Out := runFast s fun s => withHead updQ s fun c s =>
  match c.op with
  | .reduce base count mx pred =>
    let a := oVal base
    let n := oVal count
    let bad := if n ≤ 65536 && s.inTiers a (16 * n) then badRecord s a n else none
    let pre := firstRej [evalChk s, failIf (opdBad base || opdBad count || opdBad mx) (operandInvalid 1),
        failIf (maxNormBad (oWord mx)) (operandInvalid 2), failIf (n = 0 || 65536 < n) (operandInvalid 3 n), recordChk s a (16 * n)]
    -- the records are read up to the one refused
    let u := if pre.isSome then s else s.touchBy (c.reader 4 updQ) a (16 * (match bad with | some i => i + 1 | none => n))
    issueOr updQ c (firstRej [pre, bad.map fun i => { code := 0x300D, cond := 1, unit := 8, d0 := w32 i }])
      (fun s =>
        let r := reduceRecords s a n
        let nf := r.1 || r.2.nonfinite
        let k := clipOf nf r.2 (val32 (oWord mx)) s.lsLog2
        let s := s.setRegFld 0x45010 0 1 (bit nf)
        let s := ((s.setCtr 0x45018 (bits64 r.2)).setReg 0x45020 (bits32 k.1)).setReg 0x45024 (bits32 k.2)
        match pred with
        | some p => s.setPred p nf
        | none => s) u
  | _ => s

/-- UPDATE_END (R332, R347, R348). -/
def execUpdateEnd (s : State) : Out := runFast s fun s => withHead updQ s fun c s =>
  match c.op with
  | .endStep slot =>
    issueOr updQ c (firstRej [evalChk s, (slot.map slotChk).join])
      (fun s =>
        let ls := s.lsLog2
        let good := s.regFld 0x45004 16 16
        let put := fun (ls : Int) (good : Nat) (s : State) => s.setReg 0x45004 (w32 (good % 2 ^ 16 * 2 ^ 16 + (BitVec.ofInt 8 ls).toNat))
        let s :=
          if s.regBit 0x45010 0 then
            let s := if ls ≤ s.lsMin then s.orReg 0x45010 8 else s
            (put (max (ls - 1) s.lsMin) 0 ((s.orReg 0x45010 2).count 0x45048 1))
          else
            let s := (s.clrReg 0x45010 2).setCtr 0x45008 (s.ctr 0x45008 + 1)
            let growth := s.regFld 0x45000 16 16
            if growth ≠ 0 ∧ good + 1 = growth then put (min (ls + 1) s.lsMax) 0 s else put ls (good + 1) s
        let ls := s.lsLog2
        let s := match slot with
          | some n => (s.setFactor n.toNat false (bits32 (.fin (Ex.pow2 ls))) c.tag (ctxNum c.ctx)).setFactor n.toNat true
              (bits32 (.fin (Ex.pow2 (-ls)))) c.tag (ctxNum c.ctx)
          | none => s
        s.endTrigger) s
  | _ => s

/-! Buckets (R333, R334) -/

def bktBase (b : Nat) : Nat := 0x46000 + 0x10 * b
/-- The checks of a BUCKET form (R334, R337). -/
def bktChk (s : State) (b : Nat) : Option Rej :=
  firstRej [evalChk s, failIf (63 < b) (operandInvalid 2 b), failIf (!s.regBit (bktBase b) 31) (operandInvalid 3 b),
    failIf ((s.wordChk (s.reg (bktBase b + 4)).toNat).isSome) (operandInvalid 4 b)]
/-- Launch a bucket: ADD 1 to its launch word, and LAUNCHED (R293, R294, R334). -/
def State.launch (b : Nat) (c : EngCmd) (s : State) : State :=
  (((s.syncApply 1 (s.reg (bktBase b + 4)).toNat 1 4 (c.reader 11 updQ)).2).orReg (bktBase b + 0xC) 1).count 0x45050 1
def State.launched (s : State) (b : Nat) : Bool := s.regBit (bktBase b + 0xC) 0

/-- Launch when asked, then do the rest, or reject. -/
def bktRun (c : EngCmd) (b : Nat) (go : Bool) (rest : State → State) (s : State) : State :=
  issueOr updQ c (bktChk s b) (fun s => rest (if go then s.launch b c else s)) s

/-- BUCKET_ACCOUNT (R334). -/
def execBucketAccount (s : State) : Out := runFast s fun s => withHead updQ s fun c s =>
  match c.op with
  | .bktAccount b n =>
    if opdBad n then s.reject updQ c { code := 0x3005, cond := 1 }
    else
      let o := bktBase b.toNat
      let f := (s.reg (o + 8)).toNat + oVal n
      let size := s.regFld o 0 9 * mib
      bktRun c b.toNat (decide (size ≤ f) && !s.launched b.toNat) (fun s =>
        let s := s.setReg (o + 8) (w32 f)
        if size < f then (s.orReg (o + 0xC) 2).raise { code := 0x300B, unit := 8, tag := c.tag, index := b.toNat, thread := ctxNum c.ctx, d0 := w32 b.toNat } else s) s
  | _ => s

/-- BUCKET_FLUSH (R334). -/
def execBucketFlush (s : State) : Out := runFast s fun s => withHead updQ s fun c s =>
  match c.op with
  | .bktFlush b => bktRun c b.toNat (!s.launched b.toNat) id s
  | _ => s

/-- BUCKET_RESET (R334). -/
def execBucketReset (s : State) : Out := runFast s fun s => withHead updQ s fun c s =>
  match c.op with
  | .bktReset b => bktRun c b.toNat false (fun s => (s.setReg (bktBase b.toNat + 8) 0).clrReg (bktBase b.toNat + 0xC) 1) s
  | _ => s

/-- MODE (R337, R338). -/
def execMode (s : State) : Out := runFast s fun s => withHead updQ s fun c s =>
  match c.op with
  | .mode e =>
    let was := s.evalMode
    let s := (s.issued updQ c).setRegFld 0x45010 8 1 (bit e)
    if was = e then s else s.setCore s.sys.core
  | _ => s

end Sys2Proof.Machine
end

