-- ==== Sys2Proof/Machine/Dma.lean ====
section
/-! DEFINITION. DMA channels and the stream table (R257–R290, R474): issue, placement of requests, responses, completion,
timeouts, page faults, translation replies and the patrol scrubber (chapter 08). -/

namespace Sys2Proof.Machine

/-! Checks at issue (R264–R266) -/

/-- Whether a tile register holds reserved bits (R259). -/
def tReserved (t : Tile) : Bool := t.resv || fld t.format 0 5 ≠ 0
/-- The mode of the CVU context a descriptor names, when it passes through one. -/
def State.xferMode (s : State) (d : Nat) : Option Nat := if dCvu d then some (s.cvuMode (dCtx d)) else none
/-- The guard record's address (R374). -/
def State.guardAddr (s : State) (d : Nat) : Nat := (s.ctr (cvuBase (dCtx d) + 0x30)).toNat
/-- Whether the transfer writes a guard record, and whether it checks one. -/
def State.guardTx (s : State) (d : Nat) : Bool := s.xferMode d == some 1
def State.guardRx (s : State) (d : Nat) : Bool := s.xferMode d == some 2

/-- Step 1: the number of the first condition that fails. -/
def State.descCond (s : State) (bank : List Tile) (d : Nat) : Option Nat :=
  let k := dKind d
  let tile := fun (i : Nat) => getAt Tile.zero bank i
  let peerBad := fun (a : Nat) => decide (2 ^ 45 ≤ a)
  let cs := dCount d 0 :: dCounts d
  let trBad := dTrans d && (k != 2 || dCount d 0 % 32 ≠ 0 || dCount d 1 % 32 ≠ 0)
  let remote := if k = 0 then dSrcStrides d else dDstStrides d
  let asBad := dAddrStream d && (!(k == 0 || k == 1) || remote.any fun v => v ≠ 0)
  let entry := fun (a : Nat) => nfld a 32 13
  let fails : List Bool := [
    efld d 0 60 4 ≠ 1,
    efld d 0 48 1 ≠ 0 || efld d 0 0 9 ≠ 0 || efld d 8 36 10 ≠ 0,
    decide (4 < k),
    dSrcStride d 0 ≠ 0 || dDstStride d 0 ≠ 0,
    (srcLocal k && decide (2 ^ 32 ≤ dSrcAddr d)) || (dstLocal k && decide (2 ^ 32 ≤ dDstAddr d)),
    (k == 3 && (peerBad (dSrcAddr d) || (dVer d && peerBad (dVerAddr d)))) || (k == 4 && peerBad (dDstAddr d)),
    255 < efld d 0 15 10 || 15 < dCtx d || 63 < dSrcTile d || 63 < dDstTile d,
    trBad || asBad,
    dSig d && !(dSigOp d == 1 || dSigOp d == 2),
    k == 4 && ((dSig d && (peerBad (dSigAddr d) || entry (dSigAddr d) ≠ entry (dDstAddr d))) ||
      (s.guardTx d && (peerBad (s.guardAddr d) || entry (s.guardAddr d) ≠ entry (dDstAddr d)))),
    tReserved (tile (dSrcTile d)) || tReserved (tile (dDstTile d)),
    8 * 2 ^ 48 ≤ cs.foldl (fun a c => a * c) 1 * max (dSw d) (dDw d)]
  (fails.findIdx? id).map fun i => i + 1

/-- Remainders mod 64 of the addresses that a base and strides reach. -/
def residues : List (Nat × Int) → List Nat → List Nat
  | [], l => l
  | (c, st) :: t, l =>
    residues t ((l.flatMap fun r => (List.range (min c 64)).map fun i => (((r : Int) + i * st) % 64).toNat).eraseDups)

/-- Whether every destination block of a run at a source address has its source bytes in one aligned 64-byte request
(R261). -/
def runWhole (d a : Nat) : Bool :=
  let bs := blockSize (specContainer (dConv d))
  let bb := bs * dSw d / 8
  (List.range (min (dCount d 0 / bs) 64)).all fun j => decide ((a + j * bb) % 64 + bb ≤ 64)

/-- Whether every destination block's source bytes lie in one aligned 64-byte request (R261). -/
def blocksWhole (d sAddr : Nat) : Bool :=
  (residues ((dCounts d).zip (dSrcStrides d)) [sAddr % 64]).all fun r => runWhole d r

/-- The source formats of a transfer: any element code in any container, KLUT4 codes bare (R48). -/
def srcFmtOk (fmt cont : Nat) : Bool := decide (fmt ≤ 11 ∧ cont ≤ 2) || (fmt == 14 && cont == 0)

/-- Steps 2 to 4 for a transfer with its run-0 addresses. -/
def State.xferChk (s : State) (src dst : Tile) (sAddr dAddr d : Nat) : Option Rej :=
  let k := dKind d
  let empty := dCount d 0 = 0 ∨ dRuns d = 0
  let spec := dConv d
  let c0 := dCount d 0
  let n := c0 * dRuns d
  let noRoute := fun (a : Nat) => failIf (s.route (nfld a 32 13)).isNone (some { code := 0x1008, cond := 1, unit := 9, d0 := w32 (nfld a 32 13) })
  let inTile := fun (t : Tile) (r : Int × Int) (cond : Nat) =>
    failIf (decide (r.1 < t.base.toNat) || decide (((t.base.toNat + t.extent.toNat : Nat) : Int) ≤ r.2)) (descBounds cond r.1.toNat r.2.toNat)
  let range := fun (t : Tile) (r : Int × Int) (write : Bool) (cond : Nat) =>
    firstRej [inTile t r cond, spaceChk s .dma write r.1.toNat ((r.2 + 1 - r.1).toNat) (cond + 1)]
  firstRej [
    if k = 3 then firstRej [noRoute (dSrcAddr d), failIf (dVer d) (noRoute (dVerAddr d)), failIf (s.guardRx d) (noRoute (s.guardAddr d))] else none,
    if k = 4 then noRoute (dDstAddr d) else none,
    failIf (!srcFmtOk (dSrcFmt d) (dSrcCont d)) (formatUnsupported 1 (dSrcFmt d)),
    failIf (!specOk (dSrcFmt d) (dSrcCont d) spec) (formatUnsupported 2 spec.toNat),
    failIf (!fillsWhole (dSrcFmt d) c0 || !fillsWhole (specFmt spec) c0) (formatUnsupported 3 c0),
    failIf (c0 % blockSize (dSrcCont d) ≠ 0 || c0 % blockSize (specContainer spec) ≠ 0) (formatUnsupported 4 c0),
    failIf ((dSrcCont d ≠ 0 && !srcLocal k) || (specContainer spec ≠ 0 && !dstLocal k)) (formatUnsupported 5),
    failIf (specContainer spec ≠ 0 && (k == 0 || k == 3) && !dAddrStream d && !blocksWhole d sAddr) (formatUnsupported 6),
    failIf (specStochastic spec && !s.genOn) (operandInvalid 2),
    failIf (dCvu d && (!s.regBit (cvuBase (dCtx d)) 31 || s.cvuMode (dCtx d) == 3)) (operandInvalid 3 (dCtx d)),
    if empty then none else firstRej [
      if srcLocal k then range src (srcRange d sAddr) false 1 else none,
      if dstLocal k then range dst (dstRange d dAddr) true 4 else none,
      if srcLocal k && dSrcCont d ≠ 0 then spaceChk s .dma false src.scaleBase.toNat (n / blockSize (dSrcCont d)) 7 else none,
      if dstLocal k && specContainer spec ≠ 0 then spaceChk s .dma true dst.scaleBase.toNat (n / blockSize (specContainer spec)) 9 else none,
      if srcLocal k && dVer d then spaceChk s .dma false (dVerAddr d) 8 11 else none,
      if dstLocal k && s.guardTx d then spaceChk s .dma true (s.guardAddr d) 16 13 else none,
      if srcLocal k && s.guardRx d then spaceChk s .dma false (s.guardAddr d) 16 15 else none],
    if dSig d && dstLocal k then s.wordChk (dSigAddr d) else none]

/-! Transfers -/

/-- The reader that a transfer is, with its stream-table index where it has one (R253, R290). -/
def Xfer.reader (x : Xfer) (req : Nat) : Reader := { x.cmd.reader req x.ch with d2 := w32 (x.stream.getD 0xFFFFF) }
/-- Whether every data request of a transfer has been placed. -/
def Xfer.placed (x : Xfer) : Bool := decide (dRuns x.desc ≤ x.run)
/-- Destination bytes of the whole transfer. -/
def Xfer.total (x : Xfer) : Nat := dRuns x.desc * dDstBytes x.desc
/-- Whether the CVU pass has absorbed every byte (R269). -/
def Xfer.cvuDone (x : Xfer) : Bool := !dCvu x.desc || decide (x.total ≤ x.absorbed)
/-- Whether the transfer is a bit copy (R49): one format and container under ENC 1.0, or KLUT4 codes. -/
def Xfer.isCopy (x : Xfer) : Bool :=
  dSrcFmt x.desc == 14 || (dSrcFmt x.desc == specFmt (dConv x.desc) && dSrcCont x.desc == specContainer (dConv x.desc) &&
    x.enc == one32 && !dTrans x.desc)
/-- Block sizes at the two sides. -/
def Xfer.srcBlk (x : Xfer) : Nat := blockSize (dSrcCont x.desc)
def Xfer.dstBlk (x : Xfer) : Nat := blockSize (specContainer (dConv x.desc))

/-- First address of run r at the source and at the destination (R259, R260, R263). -/
def Xfer.srcAt (x : Xfer) (r : Nat) : Nat :=
  let v := (x.sAddr : Int) + runOff (dCounts x.desc) (dSrcStrides x.desc) r
  if srcLocal x.kind then v.toNat
  else if dAddrStream x.desc then (x.rAddr.getD 0).toNat
  else (v % (2 ^ (if x.kind = 3 then 32 else 64) : Nat)).toNat
def Xfer.dstAt (x : Xfer) (r : Nat) : Nat :=
  let v := (x.dAddr : Int) + runOff (dCounts x.desc) (dDstStrides x.desc) r
  if dstLocal x.kind then v.toNat
  else if dAddrStream x.desc then (x.rAddr.getD 0).toNat
  else (v % (2 ^ (if x.kind = 4 then 32 else 64) : Nat)).toNat

/-- A transfer leaves the block: its entry is freed, what it still has in flight leaves the window, and its CVU context
is released. -/
def State.dropXfer (x : Xfer) (s : State) : State :=
  let s := x.outst.foldl (fun s (r : Req) => s.windowSub r.group 1) s
  let s := match x.stream with | some i => s.setStream i .free | none => s
  let s := if dCvu x.desc && s.cvuHold (dCtx x.desc) == .xfer x.ch x.cmd.seq then s.setCvuHold (dCtx x.desc) .free else s
  s.setXfers x.ch ((s.xfersOf x.ch).filter fun (e : Xfer) => e.cmd.seq != x.cmd.seq)

/-- A transfer ends without its signal and halts its queue as a rejected command (R245). -/
def State.endXfer (x : Xfer) (r : Rej) (s : State) : State := (s.dropXfer x).rejectLate x.ch x.cmd r

/-- A transfer ends in error (R286) when nothing of it is in flight. -/
def State.failXfer (x : Xfer) (s : State) : State :=
  match x.err with
  | none => s
  | some st =>
    if !x.outst.isEmpty then s
    else ((s.orReg (0x50100 + 4 * x.ch) 0x80000).endXfer x (transferError (x.stream.getD 0xFFFFF) st))

/-- A transfer ends in error with a status; it ends at once when nothing of it is in flight. -/
def State.errXfer (x : Xfer) (st : Nat) (s : State) : State :=
  let x := { x with err := some (x.err.getD st), xwait := none }
  (s.putXfer x).failXfer x

/-- A transfer has completed (R269, R287, R288). -/
def State.finishXfer (x : Xfer) (s : State) : State :=
  let a := 0x50100 + 4 * x.ch
  let s := s.setRegFld a 0 16 x.cmd.tag.toNat
  let s := if x.poisoned then s.orReg a 0x40000 else s
  s.dropXfer x

/-- Fire the signal of a completed transfer (R305) and complete it; an OUT whose SYNC cannot be sent yet waits. -/
def State.fireSignal (x : Xfer) (s : State) : State :=
  let d := x.desc
  if !dSig d then s.finishXfer x
  else if dstLocal x.kind then ((s.syncApply (dSigOp d) (dSigAddr d) (w32 (dSigValue d)) 1 (x.reader 11)).2).finishXfer x
  else if x.kind = 1 then
    let s := match x.stream with | some i => s.setStream i .free | none => s
    let x := { x with stream := none }
    let held := match x.xwait with | some i => s.dma.xids.any fun e => e.1 == i | none => false
    if held || !s.inService then s.putXfer x
    else
      match s.trySync true (w64 (dSigAddr d)) (dSigOp d) (w32 (dSigValue d)) ⟨2, x.ch, 32, some x.cmd, 0, false, x.cmd.tag⟩ with
      | (.ok _, s) => s.finishXfer x
      | (.xlate i, s) => s.putXfer { x with xwait := some i }
      | (.later, s) => s.putXfer { x with xwait := none }
      | (.bad r, s) => s.endXfer x r
  else if x.stream.isSome then s.finishXfer x
  else
    -- an empty PEER_WRITE: the standalone signal packet
    let g := s.gt (nfld (dDstAddr d) 32 13)
    let rwr : OutFlit := (linkOf 3 (gtEndpoint g) (gtRoute g) true false true 0, hdrOf [(108, 0xFFFFF), (76, x.dAddr)], [])
    let sigx : OutFlit := (linkOf 4 (gtEndpoint g) (gtRoute g) false false false 0,
      hdrOf [(124, dSigOp d), (92, dSigValue d), (60, dSigAddr d % 2 ^ 32), (40, 0xFFFFF)], [])
    (s.send 1 [rwr, sigx]).finishXfer x

/-! Issue (R257) -/

/-- A transfer starts: what it reads at issue is latched, and its CVU context is held (R120, R201, R373). -/
def State.startXfer (c : EngCmd) (ch d : Nat) (src dst : Tile) (sAddr dAddr : Nat) (s : State) : State :=
  let k := dKind d
  let empty := dCount d 0 = 0 ∨ dRuns d = 0
  let x : Xfer := {
    cmd := c, ch := ch, kind := k, desc := d, src := if srcLocal k then src else Tile.zero, dst := if dstLocal k then dst else Tile.zero,
    sAddr := sAddr, dAddr := dAddr, enc := encOf s (dSlot d), seed := s.genSeed, step := s.genStep, stream := none,
    run := if empty then dRuns d else 0, off := 0, rAddr := none, chunk := none, xwait := none, outst := [], straddle := [],
    cvuBuf := [], doneBits := 0, ver0 := none, ver1 := none, poisoned := false, poisonLogged := false, err := none,
    timedOut := false, fault := none, recorded := false, guard := if empty then 3 else 0, guardRec := [], absorbed := 0 }
  let s := s.setXfers ch (s.xfersOf ch ++ [x])
  if empty then s.fireSignal x
  else if dCvu d then
    let s := s.setCvuHold (dCtx d) (.xfer ch c.seq)
    if s.cvuMode (dCtx d) == 0 then s else s.cvuInit (dCtx d)
  else s

/-- The destination bytes of a transfer that are known at issue, each with its address form: codes, the scale array of a local
destination, and of an address-stream OUT the runs whose addresses its FIFO holds (R351). -/
def State.dstSpans (s : State) (dst : Tile) (ch d dAddr : Nat) : List (Nat × Nat × Nat) :=
  let k := dKind d
  let r := dstRange d dAddr
  let len := (r.2 + 1 - r.1).toNat
  let cont := specContainer (dConv d)
  let scales := if dstLocal k && cont ≠ 0 then [(0, dst.scaleBase.toNat, dCount d 0 * dRuns d / blockSize cont)] else []
  if k = 1 && dAddrStream d then ((Tab.get [] s.cc.afifo ch).take (dRuns d)).map fun a => (1, a.toNat, dDstBytes d)
  else if k = 1 then [(1, r.1.toNat, len)]
  else if k = 4 then [(2, r.1.toNat + nfld (dDstAddr d) 32 13 * 2 ^ 32, len)]
  else (0, r.1.toNat, len) :: scales

/-- DMA (R257, R264–R268). -/
def execDma (ch : BitVec 4) (s : State) : Out := runFast s fun s => withHead ch.toNat s fun c s =>
  match c.op with
  | .dma n desc param bank =>
    let q := ch.toNat
    let a := oVal desc
    let rej := fun (r : Option Rej) (s : State) => match r with | some r => s.reject q c r | none => s
    if !s.inService || (s.xfersOf q).any fun x => !x.placed || (x.guard = 0 && s.guardTx x.desc && !dstLocal x.kind) then s
    else if 15 < n.toNat then rej (operandInvalid 1 n.toNat) s
    else if opdBad desc || (param.any opdBad) then rej (operandInvalid 4) s
    else if !s.inTiers a 128 then rej (descBounds 17 a) s
    else if a % 128 ≠ 0 then rej (some { code := 0x1004, cond := 13, unit := 9, d0 := w32 a }) s
    else if s.poisonedIn a 128 then
      -- the read ends at its first uncorrectable word, whose entry is the only one (R255)
      let e := ((s.eccBad.filter fun e => eccOverlap e a 128).head?).getD a
      (s.touchBy (c.reader 7 q) a (e + 1 - a)).reject q c { code := 0x5001, unit := 15, d0 := w32 e, d1 := 7, logged := true }
    else
      let d := s.le a 128
      match s.descCond bank d with
      | some k => (s.touchBy (c.reader 7 q) a 128).reject q c { code := 0x1004, cond := k, unit := 9, d0 := w32 a }
      | none =>
        let k := dKind d
        let src := getAt Tile.zero bank (dSrcTile d)
        let dst := getAt Tile.zero bank (dDstTile d)
        let pv := match param with | some p => oVal p | none => 0
        let sAddr := if srcLocal k then (src.base.toNat + dSrcAddr d) % 2 ^ 32
          else if k = 3 then (dSrcAddr d + pv) % 2 ^ 32 else (dSrcAddr d + pv) % 2 ^ 64
        let dAddr := if dstLocal k then (dst.base.toNat + dDstAddr d) % 2 ^ 32
          else if k = 4 then (dDstAddr d + pv) % 2 ^ 32 else (dDstAddr d + pv) % 2 ^ 64
        let empty := dCount d 0 = 0 ∨ dRuns d = 0
        let r := s.xferChk src dst sAddr dAddr d
        let s := s.touchBy (c.reader 7 q) a 128
        if r.isSome then rej r s
        else
          let rng := srcRange d sAddr
          let accs := if srcLocal k && !empty then extentHalves rng.1.toNat (rng.2.toNat + 1) else []
          let filling := s.fillRuns.any fun f => accs.any fun h => f.stills.contains h.1 && f.halves.contains h.2
          let held := !empty && dCvu d && s.cvuHold (dCtx d) != .free
          let draining := !empty && (s.dstSpans dst q d dAddr).any fun p => s.drainOverlap p.1 p.2.1 p.2.2
          if filling || held || draining then s
          else (s.issued q c).startXfer c q d src dst sAddr dAddr
  | _ => s

/-! Moving elements (R49, R50, R255, R260–R262) -/

/-- What one level-0 run offers: its source bytes, which of them are poisoned, and the scale code of an element with
whether that byte is poisoned. -/
structure RunSrc where
  byte : Nat → Byte
  bad : Nat → Bool
  scale : Nat → Nat
  scaleBad : Nat → Bool

/-- First byte and bytes that element e of width w occupies in a run. -/
def elemSpan (w e : Nat) : Nat × Nat := (e * w / 8, (e * w % 8 + w + 7) / 8)
/-- The bits of a number taken as the code of element e. -/
def RunSrc.code (r : RunSrc) (w e : Nat) : Nat :=
  let p := elemSpan w e
  leNat ((List.range p.2).map fun i => r.byte (p.1 + i)) / 2 ^ (e * w % 8) % 2 ^ w
/-- Whether any of its bytes is poisoned. -/
def RunSrc.elBad (r : RunSrc) (w e : Nat) : Bool := (List.range (elemSpan w e).2).any fun i => r.bad ((elemSpan w e).1 + i)

/-- A local source's run at address a (R94, R255). -/
def State.localRun (s : State) (x : Xfer) (run a : Nat) : RunSrc :=
  let sc := fun (e : Nat) => x.src.scaleBase.toNat + (run * dCount x.desc 0 + e) / x.srcBlk
  ⟨fun i => s.seen (a + i), fun i => s.poisonedAt (a + i), fun e => if dSrcCont x.desc = 0 then 0 else (s.byte (sc e)).toNat,
    fun e => dSrcCont x.desc ≠ 0 && s.poisonedAt (sc e)⟩
/-- What reading elements e0 … e1 − 1 of that run does to the state. -/
def State.touchLocal (x : Xfer) (run a e0 e1 : Nat) (s : State) : State :=
  if e1 ≤ e0 then s else
  let w := dSw x.desc
  let s := s.touchBy (x.reader 7) (a + e0 * w / 8) ((e1 * w + 7) / 8 - e0 * w / 8)
  if dSrcCont x.desc = 0 then s
  else
    let o := run * dCount x.desc 0
    s.touchBy (x.reader 7) (x.src.scaleBase.toNat + (o + e0) / x.srcBlk) ((o + e1 - 1) / x.srcBlk + 1 - (o + e0) / x.srcBlk)

/-- Elements as they come out: their destination codes, the scale bytes of their blocks (by the block's first element,
with whether it is poisoned), and for the slot and flags the gathered value and conversion of each. -/
structure Moved where
  codes : List (Nat × Nat)
  scales : List (Nat × Nat × Bool)
  stats : List (Nat × Option XVal × Conv)
  bad : List Nat

/-- Convert or copy elements of a run: `row` numbers their run, `es` lists them in destination order, whole blocks where
the destination has blocks. -/
def moveEls (x : Xfer) (row : Nat) (r : RunSrc) (es : List Nat) : Moved :=
  let w := dSw x.desc
  let spec := dConv x.desc
  let value := fun (e : Nat) => flushIn (dSrcFmt x.desc) (containerElem (dSrcCont x.desc) (dSrcFmt x.desc) (r.scale e) (r.code w e))
  if x.isCopy then
    let heads := if specContainer spec = 0 then [] else es.filter fun e => e % x.dstBlk == 0
    ⟨es.map fun e => (e, r.code w e), heads.map fun e => (e, r.scale e, r.scaleBad e),
      es.map fun e => (e, if dSrcFmt x.desc = 14 then none else some (value e).1, ⟨r.code w e, 0, .none⟩),
      es.filter fun e => r.elBad w e⟩
  else
    let els : List Elem := es.map fun e =>
      let v := value e
      ⟨row, e, v.1, v.1.mul (val32 x.enc), v.2, storeRnd spec x.seed x.step 0 (dGenBase x.desc + w64 (row * dCount x.desc 0 + e))⟩
    let out := convElems spec els
    let bad := es.filter fun e => r.elBad w e || r.scaleBad e
    ⟨out.2.map fun p => (p.1.sc, p.2.code), out.1.map fun b => (b.2.1, b.2.2, bad.any fun e => e / x.dstBlk == b.2.1 / x.dstBlk),
      out.2.map fun p => (p.1.sc, some p.1.x, p.2), bad⟩

/-- Gather, telemetry, flags and generator count of converted elements (R49, R58, R118, R132, R201). -/
def State.noteMoved (x : Xfer) (st : List (Nat × Option XVal × Conv)) (s : State) : State :=
  let s := st.foldl (fun s e =>
    let s := s.gather (dSlot x.desc) e.2.1 e.2.2.cls
    if x.isCopy then s else (s.telemetry (specFmt (dConv x.desc)) e.2.2.cls).raiseFlags 7 e.2.2.flags) s
  if !x.isCopy && specStochastic (dConv x.desc) then s.count 0x43010 ((st.length + 3) / 4) else s

/-- Add bits to the byte of ordinal k that waits for the CVU. -/
def cvuPut (buf : List (Nat × Nat × Nat)) (k n v : Nat) : List (Nat × Nat × Nat) :=
  if buf.any fun e => e.1 == k then buf.map fun (e : Nat × Nat × Nat) => if e.1 = k then (k, e.2.1 + n, e.2.2 + v) else e
  else buf ++ [((k, n, v) : Nat × Nat × Nat)]
/-- Give the CVU a bit string: bit p of the transfer's destination bytes on, n bits with value v (R371). -/
def cvuFeed (p n v : Nat) (buf : List (Nat × Nat × Nat)) : List (Nat × Nat × Nat) :=
  let whole := v % 2 ^ n * 2 ^ (p % 8)
  (List.range ((p % 8 + n + 7) / 8)).foldl (fun buf i =>
    let k := p / 8 + i
    let bits := min (p + n) (8 * (k + 1)) - max p (8 * k)
    if bits = 0 then buf else cvuPut buf k bits (whole / 2 ^ (8 * i) % 256)) buf

/-- Land a contiguous piece in a local destination: run address d, element e0 there, its codes (R37, R254). -/
def State.landCodes (d w e0 : Nat) (codes : List Nat) (s : State) : State :=
  if codes = [] then s else
  let a := d + e0 * w / 8
  let off := e0 * w % 8
  let n := (off + w * codes.length + 7) / 8
  s.write 6 a (leBytes n (packRun (s.le a n) off w codes))

/-- The destination bytes of a run that poison reaches: byte for byte in a copy, else the bytes of poisoned elements
(R255). -/
def badDst (x : Xfer) (r : RunSrc) (m : Moved) (w : Nat) : List Nat :=
  m.bad.flatMap fun e =>
    let p := elemSpan w e
    ((List.range p.2).map fun i => p.1 + i).filter fun i => !x.isCopy || dTrans x.desc || r.bad i

/-- Elements of run `row` land at a local destination: codes, scale bytes, poison, slot and flags, counters and the CVU's
bytes. `d` is the destination address of the run, `base` the ordinal of its first element there, `at'` places an
element of the run. -/
def State.landEls (x : Xfer) (row d base : Nat) (r : RunSrc) (es : List Nat) (s : State) : Xfer × State :=
  let m := moveEls x row r es
  let w := dDw x.desc
  let bs := x.dstBlk
  let sc := fun (e : Nat) => x.dst.scaleBase.toNat + (base + e) / bs
  let s := s.noteMoved x m.stats
  let runs := runsOf (m.codes.map fun c => (0, c.1, c.2))
  let s := runs.foldl (fun s u => s.landCodes d w u.2.1 u.2.2) s
  let s := m.scales.foldl (fun s b => s.write 6 (sc b.1) [BitVec.ofNat 8 b.2.1]) s
  let bad := (badDst x r m w).map (fun i => d + i) ++ (m.scales.filter fun b => b.2.2).map fun b => sc b.1
  let s := if bad = [] then s else s.poisonBytes bad
  let bits := x.doneBits + w * m.codes.length
  let s := s.count 0x50208 (bits / 8 - x.doneBits / 8 + m.scales.length)
  let buf := if dCvu x.desc then
      runs.foldl (fun buf u => cvuFeed ((base + u.2.1) * w) (w * u.2.2.length) (packRun 0 0 w u.2.2) buf) x.cvuBuf
    else x.cvuBuf
  ({ x with doneBits := bits, cvuBuf := buf, poisoned := x.poisoned || !m.bad.isEmpty || m.scales.any fun b => b.2.2 }, s)

/-! The remote side -/

/-- The state of a transfer's next step towards a remote address. -/
inductive Reach where
  | to (ep route addr group : Nat) (x : Xfer)
  | wait (x : Xfer)

/-- Where a virtual fabric address goes: the chunk's confirmed translation, one found now, or a miss (R278, R279). -/
def State.reachFabric (v : Nat) (write keep : Bool) (x : Xfer) (s : State) : Reach × State :=
  let go := fun (p : Nat) (x : Xfer) => let a := p * 4096 + v % 4096; Reach.to 0 0 a (s.groupOf a) x
  let cached := match x.chunk with | some (c, p) => if keep && c == v / 4096 then some p else none | none => none
  match cached with
  | some p => (go p x, s)
  | none =>
    if (match x.xwait with | some i => s.dma.xids.any fun e => e.1 == i | none => false) then (.wait x, s)
    else
      match s.translate (v / 4096) write with
      | some p =>
        let s' := if s.regBit 0x50030 0 || x.xwait.isSome || !keep then s else s.count 0x50218 1
        (go p { x with chunk := if keep then some (v / 4096, p) else x.chunk, xwait := none }, s')
      | none =>
        match s.miss (v / 4096) write with
        | some (i, s) => (.wait { x with xwait := some i }, s)
        | none => (.wait { x with xwait := none }, s)
/-- Where a peer address goes; the group-table entry is read at each placement (R366). -/
def State.reachPeer (gt a : Nat) (x : Xfer) (s : State) : Reach :=
  let e := s.gt gt
  .to (gtEndpoint e) (gtRoute e) a (gt % 64) x
/-- Where an address of a transfer's remote side goes. -/
def State.reach (peer : Option Nat) (v : Nat) (write keep : Bool) (x : Xfer) (s : State) : Reach × State :=
  match peer with
  | some gt => (s.reachPeer gt v x, s)
  | none => s.reachFabric v write keep x

/-- The LADDR of the request for a version word and for a guard record: addresses in a hole, that no data has. -/
def verLaddr : Nat := 0xFFFFFFC0
def guardLaddr : Nat := 0xFFFFFF80

/-- Place one read request (R272, R385). -/
def State.placeRead (x : Xfer) (ep route addr group laddr len : Nat) (q : Req) (s : State) : State :=
  let i := x.stream.getD 0
  let rec' := addr * 2 ^ 64 + i * 2 ^ 44 + laddr % 2 ^ 32 * 2 ^ 12 + bit (dShared x.desc) * 2 ^ 11 + (len - 1) % 64 * 2 ^ 5
  let s := s.putXfer { x with outst := x.outst ++ [q] }
  ((s.windowAdd group 1).count 0x50200 1).sendRead ep route (leBytes 16 rec')

/-- The LADDR of a read request for source bytes [off, off + n) of a run (R474). -/
def readLaddr (x : Xfer) (d off n : Nat) : Nat :=
  let sw := dSw x.desc
  let dw := dDw x.desc
  if x.isCopy then d + off
  else
    let e0 := ceilDiv (8 * off) sw
    let e1 := ceilDiv (8 * (off + n)) sw
    let b := ceilDiv (e0 * dw) 8
    if b * 8 / dw < e1 then d + b else d + (e0 - bit (8 * off % sw ≠ 0)) * dw / 8

/-- Partial elements in a channel's straddle store. -/
def State.straddles (s : State) (ch : Nat) : Nat :=
  ((s.xfersOf ch).map fun x => ((x.straddle.map fun e => (e.1, e.2.1)).eraseDups).length).sum

/-- The next place of a transfer after n bytes of a run of `len`. -/
def Xfer.advance (x : Xfer) (n len : Nat) : Xfer :=
  if len ≤ x.off + n then { x with run := x.run + 1, off := 0, rAddr := none } else { x with off := x.off + n }

/-- Place the next read request of an IN or PEER_READ (R272, R474). -/
def State.placeIn (x : Xfer) (s : State) : State :=
  let a := x.srcAt x.run + x.off
  let a := if x.kind = 3 then a % 2 ^ 32 else a % 2 ^ 64
  let n := min (dSrcBytes x.desc - x.off) (64 - a % 64)
  let sw := dSw x.desc
  let begins := decide (x.off + n < dSrcBytes x.desc) && 8 * (x.off + n) % sw ≠ 0
  let completes := decide (8 * x.off % sw ≠ 0)
  let la := readLaddr x (x.dstAt x.run) x.off n % 2 ^ 32
  if begins && !completes && decide (1024 ≤ s.straddles x.ch) then s
  else
    match s.reach (if x.kind = 3 then some (nfld (dSrcAddr x.desc) 32 13) else none) a false true x with
    | (.wait x, s) => s.putXfer x
    | (.to ep route pa g x, s) =>
      let s := s.putXfer x
      if s.windowTakes g 1 && s.rdRoom ep route then
        s.placeRead (x.advance n (dSrcBytes x.desc)) ep route pa g la n ⟨la, g, x.run, x.off, n, 0⟩
      else s

/-- The source byte that decides the unit of destination byte b of a run (R474). -/
def unitByte (x : Xfer) (a b : Nat) : Nat := if x.isCopy then a + b else a + 8 * b / dDw x.desc * dSw x.desc / 8
/-- The length of the packet that begins at destination byte b: bytes of one source unit, at most `n`. -/
def packetLen (x : Xfer) (a b pay : Nat) : Nat → Nat
  | 0 => 0
  | n + 1 => if decide (b < dDstBytes x.desc) && unitByte x a b / pay == unitByte x a (b - (pay - (n + 1))) / pay then packetLen x a (b + 1) pay n + 1 else 0
/-- The source lines of destination bytes [b, b + n), each with its first byte and count (R386). -/
def packetLines (x : Xfer) (a b : Nat) : Nat → List (Nat × Nat × Nat)
  | 0 => []
  | n + 1 =>
    let l := unitByte x a b / 64
    match packetLines x a (b + 1) n with
    | (m, o, k) :: t => if m = l then (l, b, k + 1) :: t else (l, b, 1) :: (m, o, k) :: t
    | [] => [(l, b, 1)]

/-- The flits of a write packet (R384, R386, R387): `last` adds the SIGX of a signalled PEER_WRITE. -/
def State.writeFlits (x : Xfer) (ep route addr echo : Nat) (bs : List Byte) (poison last : Bool) (s : State) : List OutFlit :=
  let i := x.stream.getD 0
  let d := x.desc
  if x.kind = 1 then [(linkOf 2 ep route false poison (dSig d) (bs.length - 1), hdrOf [(64, addr), (44, i), (18, echo)], bs)]
  else
    let total := if dSig d then x.total + (if s.guardTx d then 16 else 0) else 0
    let sigx : OutFlit := (linkOf 4 ep route false false false 0,
      hdrOf [(124, dSigOp d), (92, dSigValue d), (60, dSigAddr d % 2 ^ 32), (40, i)], [])
    (linkOf 3 ep route (dSig d && last) poison (dSig d) (bs.length - 1), hdrOf [(108, i), (76, addr % 2 ^ 32), (50, echo), (0, total)], bs) ::
      (if dSig d && last then [sigx] else [])

/-- The entry of a PEER_WRITE's destination; none for OUT. -/
def dstPeer (x : Xfer) : Option Nat := if x.kind = 4 then some (nfld (dDstAddr x.desc) 32 13) else none

/-- Place the next write packet of an OUT or PEER_WRITE (R272, R386, R474). -/
def State.placeOut (x : Xfer) (s : State) : State :=
  let a := x.srcAt x.run
  let pay := s.payload
  let v := (x.dstAt x.run + x.off) % (if x.kind = 4 then 2 ^ 32 else 2 ^ 64)
  -- a packet lies in one chunk, whose translation is confirmed before it is placed (R279; log entry 51)
  let n := if x.kind = 1 && !s.regBit 0x50030 0 then min (packetLen x a x.off pay pay) (4096 - v % 4096) else packetLen x a x.off pay pay
  let lines := packetLines x a x.off n
  let dw := dDw x.desc
  let e0 := 8 * x.off / dw
  let e1 := min (dCount x.desc 0) (ceilDiv (8 * (x.off + n)) dw)
  let last := decide (dDstBytes x.desc ≤ x.off + n) && decide (dRuns x.desc ≤ x.run + 1) && !s.guardTx x.desc
  let vc := if x.kind = 1 then 0 else 2
  let flits := if x.kind = 4 && dSig x.desc && last then 2 else 1
  match s.reach (dstPeer x) v true true x with
  | (.wait x, s) => s.putXfer x
  | (.to ep route pa g x, s) =>
    let s := s.putXfer x
    if s.windowTakes g lines.length && s.canPlace (if x.kind = 1 then 0 else 1) vc flits then
      let s := s.touchLocal x x.run a e0 e1
      let r := s.localRun x x.run a
      let es := (List.range (e1 - e0)).map fun i => e0 + i
      let m := moveEls x x.run r es
      let bs := leBytes n (packRun 0 0 dw (m.codes.map Prod.snd) / 2 ^ (8 * x.off - e0 * dw))
      let poison := (badDst x r m dw).any fun i => decide (x.off ≤ i ∧ i < x.off + n)
      let s := s.noteMoved x (m.stats.filter fun (e : Nat × Option XVal × Conv) => decide (x.off ≤ e.1 * dw / 8 ∧ e.1 * dw / 8 < x.off + n))
      let fl := s.writeFlits x ep route pa ((lines.head?.map Prod.fst).getD 0 % 2 ^ 26) bs poison last
      let reqs : List Req := lines.map fun l => ⟨64 * l.1 % 2 ^ 32, g, x.run, l.2.1, l.2.2, 0⟩
      let buf := if dCvu x.desc then cvuFeed (8 * (x.run * dDstBytes x.desc + x.off)) (8 * n) (leNat bs) x.cvuBuf else x.cvuBuf
      let y := { x.advance n (dDstBytes x.desc) with outst := x.outst ++ reqs, cvuBuf := buf, poisoned := x.poisoned || poison }
      ((((s.putXfer y).windowAdd g lines.length).count 0x50200 lines.length).count 0x50210 n).send (if x.kind = 1 then 0 else 1) fl
    else s

/-- Move the next run of a LOCAL transfer, or the next matrix of the transposer route (R262, R268). -/
def State.moveLocal (x : Xfer) (s : State) : State :=
  let c0 := dCount x.desc 0
  let c1 := dCount x.desc 1
  if dTrans x.desc then
    let d := x.dstAt x.run
    let s := (List.range c1).foldl (fun s i => s.touchLocal x (x.run + i) (x.srcAt (x.run + i)) 0 c0) s
    -- the transposers serve it (R174, R210)
    let s := (s.count 0x44020 (c0 / 32 * (c1 / 32))).count 0x44028
      (c1 * (c0 * dSw x.desc / 8 + (if dSrcCont x.desc = 0 then 0 else c0 / x.srcBlk)))
    let rows := (List.range c1).map fun i => s.localRun x (x.run + i) (x.srcAt (x.run + i))
    -- destination row j holds element j of every source row
    let none' : RunSrc := ⟨fun _ => 0, fun _ => false, fun _ => 0, fun _ => false⟩
    let w := dSw x.desc
    let row := fun (p : Xfer × State) (j : Nat) =>
      let got := fun (i : Nat) => getAt none' rows i
      let value := fun (i : Nat) => flushIn (dSrcFmt x.desc) (containerElem (dSrcCont x.desc) (dSrcFmt x.desc) ((got i).scale j) ((got i).code w j))
      let idx := fun (i : Nat) => dGenBase x.desc + w64 ((x.run + i) * c0 + j)
      let els : List Elem := (List.range c1).map fun i =>
        let v := value i
        ⟨0, i, v.1, v.1.mul (val32 x.enc), v.2, storeRnd (dConv x.desc) x.seed x.step 0 (idx i)⟩
      let bad := (List.range c1).filter fun i => (got i).elBad w j || (got i).scaleBad j
      let out := convElems (dConv x.desc) els
      let raw := fun (i : Nat) => (got i).code w j
      let codes := if x.isCopy then (List.range c1).map raw else out.2.map fun p => p.2.code
      let stats : List (Nat × Option XVal × Conv) :=
        if x.isCopy then (List.range c1).map fun i => (i, none, ⟨raw i, 0, .none⟩) else out.2.map fun p => (p.1.sc, some p.1.x, p.2)
      let dw := dDw x.desc
      let a := ((d : Int) + j * dDstStride x.desc 1).toNat
      let ord := x.run * c0 + j * c1
      let sc := fun (i : Nat) => x.dst.scaleBase.toNat + (ord + i) / x.dstBlk
      let s := (p.2.noteMoved x stats).landCodes a dw 0 codes
      let s := out.1.foldl (fun s b => s.write 6 (sc b.2.1) [BitVec.ofNat 8 b.2.2]) s
      let badBytes := (bad.flatMap fun i => (List.range (elemSpan dw i).2).map fun k => a + (elemSpan dw i).1 + k) ++
        (out.1.filter fun b => bad.any fun i => i / x.dstBlk == b.2.1 / x.dstBlk).map fun b => sc b.2.1
      let s := (if badBytes = [] then s else s.poisonBytes badBytes).count 0x50208 (c1 * dw / 8 + out.1.length)
      let buf := if dCvu x.desc then
          codes.zipIdx.foldl (fun buf c => cvuFeed (((x.run + c.2) * c0 + j) * dw) dw c.1 buf) p.1.cvuBuf
        else p.1.cvuBuf
      ({ p.1 with cvuBuf := buf, doneBits := p.1.doneBits + c1 * dw, poisoned := p.1.poisoned || !bad.isEmpty }, s)
    let p := (List.range c0).foldl row (x, s)
    p.2.putXfer { p.1 with run := x.run + c1 }
  else
    let a := x.srcAt x.run
    let s := s.touchLocal x x.run a 0 c0
    let r := s.localRun x x.run a
    let p := s.landEls x x.run (x.dstAt x.run) (x.run * c0) r (List.range c0)
    p.2.putXfer { p.1 with run := x.run + 1 }

/-! Version words and guard records (R284, R374) -/

/-- Whether the source side, and the destination side, is remote. -/
def Xfer.remoteSrc (x : Xfer) : Bool := !srcLocal x.kind
def Xfer.remoteDst (x : Xfer) : Bool := !dstLocal x.kind

/-- Place the read of a remote version word (what = 1) or guard record (what = 2). -/
def State.placeWord (x : Xfer) (what v len laddr : Nat) (s : State) : State :=
  match s.reach (if x.kind = 3 then some (nfld v 32 13) else none) (if x.kind = 3 then v % 2 ^ 32 else v) false false x with
  | (.wait x, s) => s.putXfer x
  | (.to ep route pa g x, s) =>
    if s.windowTakes g 1 && s.rdRoom ep route then
      s.placeRead (if what = 2 then { x with guard := 1 } else x) ep route pa g laddr len ⟨laddr, g, 0, 0, len, what⟩
    else s.putXfer x

/-- Whether a request of a kind is in flight. -/
def Xfer.flying (x : Xfer) (what : Nat) : Bool := x.outst.any fun r => r.what == what

/-- The guard record that a context sends, with ALIVE advanced (R374). -/
def State.guardBytes (c : Nat) (s : State) : List Byte × State :=
  let a := cvuBase c + 0x38
  let n := (s.regFld a 0 16 + 1) % 2 ^ 16
  let s := s.setReg a (w32 n)
  (leBytes 8 (2 ^ 60 + n) ++ leBytes 8 (s.cvuResult c).toNat, s)

/-- Place the guard record of an OUT or PEER_WRITE; it is the last packet. -/
def State.placeGuard (x : Xfer) (s : State) : State :=
  let v := s.guardAddr x.desc
  let flits := if x.kind = 4 && dSig x.desc then 2 else 1
  match s.reach (dstPeer x) (if x.kind = 4 then v % 2 ^ 32 else v) true false x with
  | (.wait x, s) => s.putXfer x
  | (.to ep route pa g x, s) =>
    if s.windowTakes g 1 && s.canPlace (if x.kind = 1 then 0 else 1) (if x.kind = 1 then 0 else 2) flits then
      let p := s.guardBytes (dCtx x.desc)
      let y := { x with guard := 1, outst := x.outst ++ [(⟨guardLaddr, g, 0, 0, 16, 2⟩ : Req)] }
      ((((p.2.putXfer y).windowAdd g 1).count 0x50200 1).count 0x50210 16).send (if x.kind = 1 then 0 else 1)
        (p.2.writeFlits x ep route pa (guardLaddr / 64) p.1 false true)
    else s.putXfer x

/-- The data phase of a transfer: its entry, its first version word, its next address, then its next request. -/
def State.placeData (x : Xfer) (s : State) : State :=
  let seat : Option (Xfer × State) :=
    if x.kind = 2 || x.stream.isSome then some (x, s)
    else (s.freeStream).map fun i => let y := { x with stream := some i }; (y, (s.setStream i (.xfer x.ch)).putXfer y)
  match seat with
  | none => s
  | some (x, s) =>
    let v : Bool × Xfer × State :=
      if !dVer x.desc || x.ver0.isSome then (true, x, s)
      else if x.remoteSrc then
        (false, x, if x.flying 1 then s else s.placeWord x 1 (dVerAddr x.desc) 8 verLaddr)
      else
        let y := { x with ver0 := some (w64 (s.seenLe (dVerAddr x.desc) 8)) }
        (true, y, (s.touchBy (x.reader 7) (dVerAddr x.desc) 8).putXfer y)
    if !v.1 then v.2.2
    else
      let x := v.2.1
      let s := v.2.2
      let f : Option (Xfer × State) :=
        if !dAddrStream x.desc || x.rAddr.isSome then some (x, s)
        else
          match Tab.get [] s.cc.afifo x.ch with
          | [] => none
          | h :: t =>
            let y := { x with rAddr := some h }
            some (y, ({ s with cc := { s.cc with afifo := Tab.set [] s.cc.afifo x.ch t } }).putXfer y)
      match f with
      | none => s
      | some (x, s) =>
        -- a block of a container destination in two requests (R261): the transfer ends once nothing is in flight
        if dAddrStream x.desc && x.kind = 0 && specContainer (dConv x.desc) ≠ 0 && !runWhole x.desc (x.srcAt x.run) then
          (if x.outst.isEmpty then (formatUnsupported 6).elim s fun r => s.endXfer x r else s)
        else if x.kind = 2 then s.moveLocal x else if x.remoteSrc then s.placeIn x else s.placeOut x

/-- Whether a transfer whose data is placed must still place its guard record, read one, or read its version word. -/
def State.closing (s : State) (x : Xfer) : Nat :=
  if s.guardTx x.desc && x.remoteDst && x.guard = 0 && x.cvuDone then 1
  else if s.guardRx x.desc && x.remoteSrc && x.guard = 0 && x.cvuDone && x.outst.isEmpty then 2
  else if dVer x.desc && x.remoteSrc && x.ver1.isNone && x.outst.isEmpty && x.cvuDone && x.guard < 3 then 3
  else 0

/-- DMA_REQUEST_PLACE (R268, R272–R274, R278, R279): the next request, packet or run of a channel; a core that is being
fenced places no request, and its LOCAL transfers run on (R342). -/
def execDmaRequestPlace (ch : BitVec 4) (s : State) : Out := runFast s fun s =>
  match (s.xfersOf ch.toNat).find? fun x => x.err.isNone && x.fault.isNone && (!x.placed || s.closing x ≠ 0) && (s.inService || x.kind == 2) with
  | none => s
  | some x =>
    if !x.placed then s.placeData x
    else
      match s.closing x with
      | 1 => s.placeGuard x
      | 2 => s.placeWord x 2 (s.guardAddr x.desc) 16 guardLaddr
      | _ => s.placeWord x 1 (dVerAddr x.desc) 8 verLaddr

/-! Flits from the port -/

/-- Remove the first flit of a virtual channel from a list. -/
def dropVc (v : Nat) : List Flit → List Flit
  | [] => []
  | f :: t => if opVc (linkOp f.link) = v then t else f :: dropVc v t
/-- The next flit of a virtual channel of inbound lane i, when its operation is `op`, and the lane without it, its credit
due (R388, R389). -/
def State.takeRx (i op : Nat) (s : State) : Option (Flit × State) :=
  let n := s.inLane i
  match n.rx.find? fun f => opVc (linkOp f.link) == opVc op with
  | none => none
  | some f =>
    if linkOp f.link ≠ op then none
    else some (f, s.setInLane i { n with rx := dropVc (opVc op) n.rx, due := setCr n.due (opVc op) (getCr n.due (opVc op) + 1) })
/-- A malformed flit of lane i: counted, and logged once per 2^20 VCLK (R389; log entry 75). -/
def State.flitInvalid (i : Nat) (s : State) : State :=
  let s := s.count 0xA0128 1
  let again := Config.flitWindow s.freeCtr
  let s := { s with freeCtr := s.freeCtr + 1 }
  if (s.inLane i).logged && !again then s
  else (s.raise { code := 0x6005, unit := 13, index := i, d0 := w32 i, d1 := 1 }).setInLane i { s.inLane i with logged := true }

/-! Responses (R272, R274, R286) -/

/-- The bytes of a response land: the elements of the run whose source bytes are all here are converted and written, and
the bytes of the others are held (R474). -/
def State.landBytes (x : Xfer) (q : Req) (bs : List Byte) (bad : Bool) (s : State) : Xfer × State :=
  let w := dSw x.desc
  let here := fun (i : Nat) => decide (q.off ≤ i ∧ i < q.off + q.len)
  let old := fun (i : Nat) => x.straddle.find? fun e => e.1 == q.run && e.2.2.1 == i
  let got := fun (i : Nat) => here i || (old i).isSome
  let r : RunSrc := ⟨fun i => if here i then getAt 0 bs (i - q.off) else ((old i).map fun e => e.2.2.2.1).getD 0,
    fun i => if here i then bad else ((old i).map fun e => e.2.2.2.2).getD false, fun _ => 0, fun _ => false⟩
  let k := x.dstBlk
  let e0 := 8 * q.off / w / k * k
  let es := (List.range (min (dCount x.desc 0) (ceilDiv (ceilDiv (8 * (q.off + q.len)) w) k * k) - e0)).map fun i => e0 + i
  let whole1 := fun (e : Nat) => (List.range (elemSpan w e).2).all fun i => got ((elemSpan w e).1 + i)
  let whole := fun (e : Nat) => (List.range k).all fun i => whole1 (e / k * k + i)
  let rest := es.filter fun e => !whole e
  let keep : List (Nat × Nat × Nat × Byte × Bool) := rest.flatMap fun e =>
    (((List.range (elemSpan w e).2).map fun i => (elemSpan w e).1 + i).filter got).map fun i => (q.run, e, i, r.byte i, r.bad i)
  let x := { x with straddle := (x.straddle.filter fun (e : Nat × Nat × Nat × Byte × Bool) => !(e.1 == q.run && es.contains e.2.1)) ++ keep }
  s.landEls x q.run (x.dstAt q.run) (q.run * dCount x.desc 0) r (es.filter whole)

/-- The request that a response slot answers: its echoed address and length, else its echoed address. -/
def Xfer.answers (x : Xfer) (la len : Nat) : Option Req :=
  match x.outst.find? fun r => r.laddr == la && r.len == len with
  | some r => some r
  | none => x.outst.find? fun r => r.laddr == la

/-- A response to a transfer (R272, R274, R286). -/
def State.answerXfer (x : Xfer) (la len st : Nat) (bs : List Byte) (s : State) : State :=
  match x.answers la len with
  | none => s
  | some q =>
    let s := s.windowSub q.group 1
    let x := { x with outst := x.outst.erase q }
    if x.timedOut then ((s.count 0x50258 1).putXfer x).failXfer x
    else if 2 ≤ st then s.errXfer x (if 5 ≤ st then 4 else st)
    else
      let i := x.stream.getD 0
      let log := st = 1 && !x.poisonLogged
      let s := if log then s.raise { code := 0x1006, unit := 9, tag := x.cmd.tag, index := x.ch, thread := 0, d0 := w32 i } else s
      let x := { x with poisoned := x.poisoned || st == 1, poisonLogged := x.poisonLogged || log }
      let word := w64 (leNat (bs.take 8))
      let p : Xfer × State :=
        if q.what = 1 then (if x.ver0.isNone then { x with ver0 := some word } else { x with ver1 := some word }, s)
        else if q.what = 2 then ({ x with guard := 2, guardRec := bs.take 16 }, s)
        else if x.remoteSrc then s.landBytes x q (bs.take q.len) (st == 1)
        else ({ x with doneBits := x.doneBits + 8 * q.len }, s)
      (p.2.putXfer p.1).failXfer p.1

/-- One slot of a RESP (R384): its 64 header bits and its payload. -/
def State.respSlot (v : Nat) (bs : List Byte) (s : State) : State :=
  let i := nfld v 44 20
  let la := nfld v 12 32
  let st := nfld v 8 4
  let len := nfld v 1 6 + 1
  if nfld v 7 1 = 0 || i = 0xFFFFF then s
  else
    match s.stream i with
    | .free => (s.count 0x50258 1).raise { code := 0x1009, unit := 9, d0 := w32 i }
    | .inbound _ => s.count 0x50258 1
    | .sync o =>
      if o.timedOut then ((s.setStream i .free).windowSub o.group 1).count 0x50258 1
      else s.syncAnswer i o (if 5 ≤ st then 4 else st) (w64 (leNat (bs.take 8)))
    | .flacon => s.flAnswer la len st
    | .xfer ch =>
      match (s.xfersOf ch).find? fun x => x.stream == some i with
      | none => s
      | some x => s.answerXfer x la len st bs

/-- DMA_RESPONSE (R272, R274, R286, R291, R391): the next RESP of an inbound lane. -/
def execDmaResponse (lane : BitVec 3) (s : State) : Out := runFast s fun s =>
  match s.takeRx lane.toNat 5 with
  | none => s
  | some (f, s) =>
    let h := f.hdr.toNat
    let s := s.respSlot (h / 2 ^ 64) (f.pay.take 64)
    if s.sys.straps.portGen then s.respSlot (h % 2 ^ 64) ((f.pay.drop 64).take 64) else s

/-! Completion (R269, R284, R287, R374, R375) -/

/-- Whether a transfer is stale (R284). -/
def Xfer.stale (x : Xfer) : Bool :=
  match x.ver0, x.ver1 with
  | some a, some b => a != b || a.getLsbD 0
  | _, _ => false

/-- The closing reads and writes at local addresses. -/
def State.closeLocal (x : Xfer) (s : State) : Xfer × State :=
  let d := x.desc
  let p : Xfer × State :=
    if s.guardTx d && !x.remoteDst && x.guard = 0 then
      let g := s.guardBytes (dCtx d)
      ({ x with guard := 2 }, g.2.write 5 (s.guardAddr d) g.1)
    else if s.guardRx d && !x.remoteSrc && x.guard = 0 then
      ({ x with guard := 2, guardRec := s.seens (s.guardAddr d) 16 }, s.touchBy (x.reader 5) (s.guardAddr d) 16)
    else (x, s)
  if dVer d && !x.remoteSrc && x.ver1.isNone then
    ({ p.1 with ver1 := some (w64 (p.2.seenLe (dVerAddr d) 8)) }, p.2.touchBy (x.reader 7) (dVerAddr d) 8)
  else p

/-- The check of a received guard record (R375): the error, or ALIVE stored; a record whose FMT_VER is not 1, or with a
reserved bit set, fails its check (R13, R14). -/
def State.guardCheck (x : Xfer) (s : State) : Option Rej × State :=
  let c := dCtx x.desc
  if !s.guardRx x.desc || x.guard = 3 then (none, s)
  else
    let alive := leNat (x.guardRec.take 2)
    let d := (alive + 2 ^ 16 - s.regFld (cvuBase c + 0x38) 0 16) % 2 ^ 16
    let facts := fun (code : Half) => some ({ code := code, cond := 1, unit := 11, d0 := w32 c, d1 := w32 alive } : Rej)
    if leNat (x.guardRec.take 8) / 2 ^ 16 ≠ 2 ^ 44 ∨ w64 (leNat ((x.guardRec.drop 8).take 8)) ≠ s.cvuResult c then (facts 0x9004, (s.orReg (cvuBase c + 4) 2).count 0x70418 1)
    else if d = 0 || 256 < d then (facts 0x9005, (s.orReg (cvuBase c + 4) 4).count 0x70420 1)
    else (none, s.setReg (cvuBase c + 0x38) (w32 alive))

/-- A completed PREFETCH transfer enters the tracker (R287). -/
def State.trackPrefetch (x : Xfer) (s : State) : State :=
  if !dPrefetch x.desc || x.remoteDst then s
  else
    let r := dstRange x.desc x.dAddr
    let e : PfEnt := ⟨r.1.toNat, r.2.toNat, x.total, false⟩
    let s := s.count 0x50290 x.total
    match s.dma.pf with
    | h :: t =>
      if 256 ≤ s.dma.pf.length then
        ({ s with dma := { s.dma with pf := t ++ [e] } }).count 0x502A0 (if h.used then 0 else h.bytes)
      else { s with dma := { s.dma with pf := s.dma.pf ++ [e] } }
    | [] => { s with dma := { s.dma with pf := [e] } }

/-- Whether a transfer meets the conditions of R269, the reads and writes at local addresses set aside. -/
def State.xferReady (s : State) (x : Xfer) : Bool :=
  x.placed && x.err.isNone && x.fault.isNone && x.outst.isEmpty && x.cvuDone && s.closing x == 0

/-- The end of a transfer that meets R269: guard record, version words, prefetch accounting, then its signal. -/
def State.completeXfer (x : Xfer) (s : State) : State :=
  if x.guard = 3 then s.fireSignal x
  else
    let p := s.closeLocal x
    match p.2.guardCheck p.1 with
    | (some r, s) => s.endXfer p.1 r
    | (none, s) =>
      let x := p.1
      let s := if x.stale then (s.count 0x50230 1).orReg (0x50100 + 4 * x.ch) 0x20000 else s
      if x.stale && dStaleHalt x.desc then
        s.endXfer x { code := 0x1003, cond := 1, unit := 9, d0 := w32 (x.stream.getD 0xFFFFF) }
      else
        let x := { x with guard := 3 }
        ((s.putXfer x).trackPrefetch x).fireSignal x

/-- DMA_COMPLETE (R269). -/
def execDmaComplete (ch : BitVec 4) (s : State) : Out := runFast s fun s =>
  match (s.xfersOf ch.toNat).find? fun x => s.xferReady x with
  | none => s
  | some x => s.completeXfer x

/-! Timeouts (R274) -/

/-- DMA_TIMEOUT (R274). -/
def execDmaTimeout (stream : Nat) (s : State) : Out := runFast s fun s =>
  match s.stream stream with
  | .xfer ch =>
    (match (s.xfersOf ch).find? fun x => x.stream == some stream with
    | some x => if x.outst.isEmpty || x.timedOut then s else s.putXfer { x with timedOut := true, err := some (x.err.getD 3), xwait := none }
    | none => s)
  | .sync o =>
    if o.timedOut then s
    else
      -- the operation ends with TIMEOUT; its entry stays, timed out
      let t := (s.syncAnswer stream o 3 0).setStream stream (.sync { o with timedOut := true })
      t.windowAdd o.group 1
  | .flacon => s.flTimeout
  | _ => s

/-- STREAM_QUARANTINE_EXPIRE (R274). -/
def execStreamQuarantineExpire (stream : Nat) (s : State) : Out := runFast s fun s =>
  match s.stream stream with
  | .xfer ch =>
    (match (s.xfersOf ch).find? fun x => x.stream == some stream with
    | some x =>
      if !x.timedOut then s
      else
        let y := { x with outst := [] }
        ((x.outst.foldl (fun s (r : Req) => s.windowSub r.group 1) s).putXfer y).failXfer y
    | none => s)
  | .sync o => if o.timedOut then (s.setStream stream .free).windowSub o.group 1 else s
  | .flacon => s.flExpire
  | _ => s

/-! Page faults (R279–R282) -/

/-- FAULTQ_BASE and the number of records. -/
def State.faultBase (s : State) : Nat := (s.reg 0x50010).toNat / 64 * 64
def State.faultSize (s : State) : Nat := 2 ^ s.regFld 0x50014 0 4
/-- TAIL of the fault ring when a record has space (R280). -/
def State.faultSlot (s : State) : Option Word :=
  let b := s.faultBase
  if !s.inTiers b (0x40 + 64 * s.faultSize) then none
  else
    match s.readWord b 1, s.readWord (b + 8) 1 with
    | .ok false t, .ok false h => if (t - h).toNat < s.faultSize then some t else none
    | _, _ => none

/-- The remote address that a transfer places next, and whether it writes there. -/
def Xfer.nextRemote (x : Xfer) : Nat × Bool :=
  if x.remoteSrc then ((x.srcAt x.run + x.off) % 2 ^ 64, false) else ((x.dstAt x.run + x.off) % 2 ^ 64, true)
/-- I0 … I5 of the next element (R276, R279). -/
def Xfer.indices (x : Xfer) : List Nat :=
  (if x.remoteSrc then 8 * x.off / dSw x.desc else 8 * x.off / dDw x.desc) :: runIdx (dCounts x.desc) x.run

/-- The fault record (R281). -/
def faultRecord (x : Xfer) (aclk : DWord) : List Byte :=
  let i := fun (k : Nat) => getAt 0 x.indices k % 2 ^ 16
  let n := x.nextRemote
  ([2 ^ 60 + x.stream.getD 0 * 2 ^ 32 + x.ch * 2 ^ 20 + bit (x.fault == some true) * 2 ^ 17 + bit n.2 * 2 ^ 16 + 0x1002,
    n.1, i 0 + i 1 * 2 ^ 16 + i 2 * 2 ^ 32 + i 3 * 2 ^ 48, i 4 + i 5 * 2 ^ 16, x.doneBits / 8 % 2 ^ 48, x.cmd.tag.toNat,
    aclk.toNat, 0] : List Nat).flatMap (leBytes 8)

/-- Write the fault record of a transfer when the ring has space: TAIL and HEAD read, the record, then TAIL, then the log
entry. -/
def State.faultWrite (x : Xfer) (s : State) : Option State :=
  (s.faultSlot).map fun t =>
    let b := s.faultBase
    let s := (s.touchBy (x.reader 11) (b + 8) 8).write 7 (b + 0x40 + 64 * (t.toNat % s.faultSize)) (faultRecord x s.aclk)
    let s := (s.syncApply 1 b 1 1 (x.reader 11)).2
    let s := s.putXfer { x with recorded := true }
    (s.raise { code := 0x1002, unit := 9, tag := x.cmd.tag, index := x.ch, thread := 0, cond := 1, d0 := w32 (x.stream.getD 0), d1 := w32 x.nextRemote.1, d2 := w32 (x.nextRemote.1 / 2 ^ 32) }).count 0x50228 1

/-- The faulted transfer of a stream. -/
def State.faulted (s : State) (stream : Nat) : Option Xfer :=
  match s.stream stream with
  | .xfer ch => (s.xfersOf ch).find? fun x => x.stream == some stream && x.fault.isSome
  | _ => none

/-- PAGE_FAULT (R279, R280). -/
def execPageFault (stream : Nat) (s : State) : Out := runFast s fun s =>
  match s.faulted stream with
  | none => s
  | some x =>
    if !x.outst.isEmpty || x.recorded || x.err.isSome || s.dma.faults.contains stream then s
    else
      match s.faultWrite x with
      | some s => s
      | none => { s with dma := { s.dma with faults := s.dma.faults ++ [stream] } }

/-- FAULT_RECORD_WRITE (R280): the oldest fault that waits for ring space. -/
def execFaultRecordWrite (s : State) : Out := runFast s fun s =>
  match s.dma.faults with
  | [] => s
  | i :: t =>
    match s.faulted i with
    | none => { s with dma := { s.dma with faults := t } }
    | some x =>
      match s.faultWrite x with
      | some s => { s with dma := { s.dma with faults := t } }
      | none => s

/-- A RESUME or ABORT that names no faulted entry (R282): the log names the transfer that has the entry, if one has
(R290). -/
def State.resumeInvalid (stream : Nat) (s : State) : State :=
  let live : Option Xfer := match s.stream stream with
    | .xfer ch => (s.xfersOf ch).find? fun x => x.stream == some stream
    | _ => none
  match live with
  | some x => s.raise { code := 0x100A, unit := 9, tag := x.cmd.tag, index := x.ch, thread := ctxNum x.cmd.ctx, d0 := w32 stream }
  | none => s.raise { code := 0x100A, unit := 9, d0 := w32 stream }
/-- STREAM_CTRL RESUME (R282). -/
def State.streamResume (stream : Nat) (s : State) : State :=
  match s.faulted stream with
  | none => s.resumeInvalid stream
  | some x =>
    let s := { s with dma := { s.dma with faults := s.dma.faults.filter fun (i : Nat) => i != stream } }
    s.putXfer { x with fault := none, recorded := false, chunk := none, xwait := none }
/-- STREAM_CTRL ABORT (R282). -/
def State.streamAbort (stream : Nat) (s : State) : State :=
  match s.faulted stream with
  | none => s.resumeInvalid stream
  | some x =>
    let s := { s with dma := { s.dma with faults := s.dma.faults.filter fun (i : Nat) => i != stream } }
    s.endXfer x { code := 0x1002, cond := 2, unit := 9, d0 := w32 stream, d1 := w32 x.nextRemote.1, d2 := w32 (x.nextRemote.1 / 2 ^ 32) }
/-- STREAM_RESUME (R282). -/
def execStreamResume (stream : BitVec 20) (s : State) : Out := runSlow s (State.streamResume stream.toNat)
/-- STREAM_ABORT (R282). -/
def execStreamAbort (stream : BitVec 20) (s : State) : Out := runSlow s (State.streamAbort stream.toNat)

/-! Translation (R278, R392) -/

/-- Empty the translation cache. -/
def State.atcInv (s : State) : State := { s with dma := { s.dma with atc := [] } }
/-- ATC_INV_ALL (R278, R288). -/
def execAtcInvAll (s : State) : Out := runSlow s State.atcInv

/-- Whether a transfer that waits on XID i waits for a data chunk; else it waits for a version word, a guard record or its
signal. -/
def Xfer.waitsData (x : Xfer) : Bool := !x.placed && (!dVer x.desc || x.ver0.isSome)

/-- The translation that a transfer waits for was refused: a data chunk faults (R279), any other access ends it in
error. -/
def State.refuseXfer (st : Nat) (perm : Bool) (x : Xfer) (s : State) : State :=
  if x.waitsData then s.putXfer { x with fault := some perm, xwait := none } else s.errXfer x st

/-- A translation that ended in an error for everything else that waits on it: a queue head's operation and a SYNC BARRIER
are rejected as a transfer ends (R292). -/
def State.refuseHeads (i st : Nat) (s : State) : State :=
  let r := transferError i st
  let one := fun (s : State) (q : Nat) =>
    (match (s.queue q).wait, s.headCmd q with
    | .xlate x, some c => if x = i then s.reject q c r else s
    | _, _ => s)
  let s := (List.range 23).foldl one s
  if s.sync.barWait = some i then
    let s := { s with sync := { s.sync with barWait := none } }
    match s.bothAt with
    | some m => s.rejectBoth r m.tag
    | none => s
  else s

/-- Transfers that wait on XID i. -/
def State.waiters (s : State) (i : Nat) : List Xfer := s.dma.xfers.flatMap fun p => p.2.filter fun x => x.xwait == some i

/-- XRESP_RECEIVE (R278, R279, R286, R390, R392): a refused page or permission faults a chunk; any other status ends the
transfers that wait in an error, as a response does (POISON as NO_TARGET: DESIGN CHOICE, log entry 77). -/
def execXrespReceive (lane : BitVec 3) (s : State) : Out := runFast s fun s =>
  match s.takeRx lane.toNat 9 with
  | none => s
  | some (f, s) =>
    let i := hfld f.hdr 70 6
    match s.dma.xids.find? fun x => x.1 == i with
    | none => s.flitInvalid lane.toNat
    | some e =>
      let s := { s with dma := { s.dma with xids := s.dma.xids.filter fun (x : Nat × Nat) => x.1 != i } }
      let rd := f.hdr.getLsbD 63
      let wr := f.hdr.getLsbD 62
      let st := hfld f.hdr 66 4
      let ok := st = 0
      let ent : AtcEnt := ⟨e.2, hfld f.hdr 64 2, hfld f.hdr 76 52, rd, wr, BitVec.ofNat 16 (s.regFld 0x50030 16 16)⟩
      let bad := fun (w : Bool) => !ok || (if w then !wr else !rd)
      let ws := (s.waiters i).filter fun x => bad x.remoteDst
      let s := if !ok then s else
        { s with dma := { s.dma with atc := (if 4096 ≤ s.dma.atc.length then s.dma.atc.drop 1 else s.dma.atc) ++ [ent] } }
      let err := if st = 1 || 4 ≤ st then 4 else 3
      let s := ws.foldl (fun s x => if ok || st = 2 then s.refuseXfer 2 ok x else s.errXfer x err) s
      let s := if bad true then s.flRefuse i else s
      if bad true then s.refuseHeads i (if ok || st = 2 then 2 else err)
      else { s with sync := { s.sync with barWait := if s.sync.barWait = some i then none else s.sync.barWait } }

/-- XREQ_TIMEOUT (R392). -/
def execXreqTimeout (xid : BitVec 6) (s : State) : Out := runFast s fun s =>
  let i := xid.toNat
  if !(s.dma.xids.any fun x => x.1 == i) then s
  else
    let s := { s with dma := { s.dma with xids := s.dma.xids.filter fun (x : Nat × Nat) => x.1 != i } }
    (((s.waiters i).foldl (fun s x => s.errXfer x 3) s).flRefuse i).refuseHeads i 3

/-- XINV_RECEIVE (R278, R392). -/
def execXinvReceive (lane : BitVec 3) (s : State) : Out := runFast s fun s =>
  match s.takeRx lane.toNat 10 with
  | none => s
  | some (f, s) =>
    let vpn := hfld f.hdr 76 52
    let ctx := hfld f.hdr 60 16
    let scope := hfld f.hdr 58 2
    if scope = 3 then s.flitInvalid lane.toNat
    else
      let hit : AtcEnt → Bool := fun e =>
        scope == 2 || (e.ctxId.toNat == ctx && (scope == 1 || covers e vpn))
      let s := { s with dma := { s.dma with atc := s.dma.atc.filter fun (e : AtcEnt) => !hit e } }
      s.send 2 [(linkOf 11 (linkEp f.link) 0 false false false 0, hdrOf [(52, hfld f.hdr 52 6)], [])]

/-! The patrol scrubber (R256) -/

/-- SCRUB_READ (R256): one 64-byte line; the tiers alternate while both have lines left in the pass. -/
def execScrubRead (s : State) : Out := runFast s fun s =>
  if !s.regBit 0x50040 0 then s
  else
    let near := decide (s.dma.scrubNear < 262144)
    let stk := s.sys.straps.tier && decide (s.dma.scrubStack < 1310720)
    if !near && !stk then (({ s with dma := { s.dma with scrubNear := 1, scrubStack := 0, scrubTurn := true } }).touch 13 0 64)
    else if stk && (s.dma.scrubTurn || !near) then
      (({ s with dma := { s.dma with scrubStack := s.dma.scrubStack + 1, scrubTurn := false } }).touch 13 (0x01000000 + 64 * s.dma.scrubStack) 64)
    else (({ s with dma := { s.dma with scrubNear := s.dma.scrubNear + 1, scrubTurn := true } }).touch 13 (64 * s.dma.scrubNear) 64)

end Sys2Proof.Machine
end

