-- ==== Sys2Proof/Machine/Fence.lean ====
section
/-! DEFINITION. Fencing (R341–R345) and the end of a deferred operation before its time (R448, R457). -/

namespace Sys2Proof.Machine

/-! Fencing (R341–R345) -/

/-- Empty every engine and tile queue, the packing stage and the waits (R342 step 2). -/
def State.emptyQueues (s : State) : State :=
  { s with
    cc := { s.cc with queues := [], tqs := [], afifo := [], pack := [] }
    sync := { s.sync with watch := s.sync.watch.filter fun (p : Nat × Watch) => p.2.owner == 2, polls := [], timedOut := [], barWait := none } }

/-- The Atomiser and the control core stop; run-ahead entries are discarded, stopped threads released (R342 step 1,
R464). -/
def State.stopDispatch (s : State) : State :=
  let stop : Ctxt → Ctxt := fun c => { c with run := false, stall := none }
  let s : State := { s with
    cc := { s.cc with
      runahead := [], ringGo := false, dispAcc := Disp.idle, dispExe := Disp.idle
      acc := stop s.cc.acc, e0 := stop s.cc.e0, e1 := stop s.cc.e1 } }
  s.settleCredits

/-- The completion payload of a deferred operation that is ended before its time (R446). -/
def State.abortPayload (d : Deferred) (s : State) : List Word :=
  match d.pkt.op with
  | 0x03 => [w32 d.bank]
  | 0x10 => (List.range (3 * popcount4 (fld (d.pkt.w 0) 0 3))).map fun i => Config.bistSoFar s.freeCtr i
  | 0x11 => [1]
  | 0x12 => (match s.flacon.rest with | some x => [w32 x.checked, w32 x.repaired, w32 x.failed] | none => [0, 0, 0])
  | _ => []

/-- A deferred operation that a FENCE or a core reset overtakes ends with status STATE (R448, R457); a patch load leaves
no patch in force (R456). -/
def State.overtake (s : State) : State :=
  match s.mgmt.deferred with
  | none => s
  | some d =>
    let pay := s.abortPayload d
    let snap := s.flacon.snap.map fun (n : SnapRun) => { n with byOp := false }
    let wr := if s.flacon.rest.isSome then [] else s.flacon.wr
    let s := { s with freeCtr := s.freeCtr + 1, flacon := { s.flacon with snap := snap, rest := none, wr := wr } }
    let s := if d.bank = 2 then { s with mgmt := { s.mgmt with patch := [], patchVer := 0 } } else s
    let s := if s.flacon.snap.isNone then s.flaconRelease else s
    s.complete 6 0xFFFF 0 pay

/-- FENCE (R342, R448). -/
def execFence (s : State) : Out := withPacket 0x05 s fun p s =>
  match s.sys.fence with
  | .fenced => s.ok p []
  | .fencing => s.refuse p 1
  | .inService =>
    let s := (s.overtake.setFence .fencing).stopDispatch.emptyQueues
    s.accept p (plainDeferred p) []

/-- No active tile is valid (R73). -/
def State.dropActive (s : State) : State := { s with still := { s.still with actA := none, actB := none, shaA := none, shaB := none } }

/-- The core is FENCED: what R342 steps 3–6 leave. The active tiles are invalid (R73), the barrier lines are not driven
(R343), and a mode asked for is forgotten. -/
def State.fenceDone (cause : Nat) (s : State) : State :=
  let s := { s.dropActive with
    dma := { s.dma with xfers := [], streams := [], outstanding := 0, groups := [], xids := [], faults := [] }
    flacon := { s.flacon with snap := none, rest := none, cvu := [], wr := [], wout := [], wstream := none, wxid := none, wlate := false, wbad := [] }
    sync := { s.sync with lineReq := false, lineNext := [] }
    mgmt := { s.mgmt with modeNext := none }
    pwr := { s.pwr with hint := 0, sillage := none, ramp := none }
    sys := { s.sys with fenceCause := cause } }
  let s := s.setCore .mgmtReady
  (s.setFence .fenced).interrupt 4

/-- Whether a command that was executing has still to complete (R342 step 2): an engine's or a fill, a LOCAL transfer, or a
transfer that needs no further request. -/
def State.fenceWaits (s : State) : Bool :=
  let ends := fun (x : Xfer) => x.err.isNone && x.fault.isNone && (x.kind == 2 || (s.xferReady x && !(x.kind == 1 && dSig x.desc)))
  !s.runningX.isEmpty || !s.fillRuns.isEmpty || s.dma.xfers.any fun p => p.2.any ends

/-- FENCE_COMPLETE (R342): commands executing have completed, and the requests outstanding have, or have timed out. -/
def execFenceComplete (timedOut : Bool) (s : State) : Out := runFast s fun s =>
  if s.sys.fence ≠ .fencing || s.fenceWaits || !(decide (s.dma.outstanding = 0) || timedOut) then s
  else (s.fenceDone 1).complete 0 0xFFFF 0 []

end Sys2Proof.Machine
end

