-- ==== Sys2Proof/Machine/Port.lean ====
section
/-! DEFINITION. The fabric port (chapter 12): the link, its training and enable, and what arrives on remote-inbound lanes:
the inbound window, signalled writes and their ledgers, SYNC and BAR flits (R275, R305–R307, R310, R343, R380–R397). -/

namespace Sys2Proof.Machine

/-! Lanes -/

/-- LINK_CFG.REPLAY_MAX. -/
def State.replayMax (s : State) : Nat := s.regFld 0xA0008 0 4

/-- An outbound lane goes DOWN (R394). -/
def State.outDown (i : Nat) (s : State) : State :=
  (s.setOutLane i { OutLane.init with down := true }).raise { code := 0x6001, unit := 13, index := i, d0 := w32 i, d1 := 0 }
/-- An inbound lane goes DOWN (R394); what it has delivered stays. -/
def State.inDown (i : Nat) (s : State) : State :=
  (s.setInLane i { s.inLane i with up := false, down := true, due := (0, 0, 0, 0) }).raise { code := 0x6001, unit := 13, index := i, d0 := w32 i, d1 := 1 }

/-- The sequence number of a placed flit. -/
def flitSeq (f : SentFlit) : Byte := f.link.extractLsb' 28 8
/-- The flits after the one with sequence number a; none when no flit has it. -/
def afterSeq (a : Byte) : List SentFlit → Option (List SentFlit)
  | [] => none
  | f :: t => if flitSeq f = a then some t else afterSeq a t

/-- An acknowledgement of everything up to sequence number a on outbound lane i (R393). -/
def State.acked (i : Nat) (a : Byte) (s : State) : State :=
  let o := s.outLane i
  match afterSeq a o.replay with
  | some t => s.setOutLane i { o with replay := t }
  | none => s

/-- A flit as it is resent: ACKSEQ and NAK refreshed, CR_VC and CR_N as first sent (R393). -/
def SentFlit.again (n : InLane) (f : SentFlit) : SentFlit :=
  let v := f.link.toNat
  let l : BitVec 96 := BitVec.ofNat 96 (v / 2 ^ 28 * 2 ^ 28 + ackBits n + v % 2 ^ 19)
  { f with link := l, lpar := flitLpar l, resent := f.resent + 1 }
/-- The flits resent in their order; a NAK goes with the first. -/
def againAll (n : InLane) : List SentFlit → List SentFlit
  | [] => []
  | f :: t => f.again n :: t.map (SentFlit.again { n with nak := false })

/-- Resend the unacknowledged flits of outbound lane i, or take it DOWN when one of them has been resent REPLAY_MAX times
(R393, R394). -/
def State.resend (i : Nat) (s : State) : State :=
  let o := s.outLane i
  let n := s.inLane i
  if o.replay.isEmpty || o.down then s
  else if o.replay.any fun f => decide (s.replayMax ≤ f.resent) then s.outDown i
  else ((s.setOutLane i { o with replay := againAll n o.replay }).setInLane i { n with nak := false }).count 0xA0110 o.replay.length

/-- LINK_NAK_RECEIVE (R393): replay from ACKSEQ + 1. -/
def execLinkNakReceive (lane : BitVec 3) (ackSeq : Byte) (s : State) : Out := runFast s fun s =>
  (((s.acked lane.toNat ackSeq).resend lane.toNat)).pump

/-- LINK_ACK_TIMEOUT (R393). -/
def execLinkAckTimeout (lane : BitVec 3) (s : State) : Out := runFast s fun s => s.resend lane.toNat

/-- Credits returned for a channel of outbound lane i (R388); the log has the lane, the direction 0 and the channel (R413). -/
def State.creditReturn (i vc n : Nat) (s : State) : State :=
  let o := s.outLane i
  if n = 0 || !o.up then s
  else
    let c := getCr o.cr vc + n
    let s := s.setOutLane i { o with cr := setCr o.cr vc (min c 255) }
    if 255 < c then s.raise { code := 0x6003, unit := 13, index := i, d0 := w32 i, d1 := 0, d2 := w32 vc } else s

/-- Record r of an RD_REQ (R385). -/
def recordOf (f : Flit) (r : Nat) : Nat := leNat ((f.pay.drop (16 * r)).take 16)

/-- Whether a flit is malformed on inbound lane i (R383–R389, R391). -/
def State.malformed (i : Nat) (f : Flit) (s : State) : Bool :=
  let op := linkOp f.link
  let h := f.hdr.toNat
  let res := fun (lo n : Nat) => nfld h lo n ≠ 0
  let cls := if s.inRead i then op == 5 || op == 9 else op == 1 || op == 3 || op == 4 || op == 6 || op == 7 || op == 10
  !cls || nfld f.link.toNat 0 4 ≠ 0 ||
    (match op with
    | 1 =>
      let n := nfld h 124 4
      res 0 124 || n = 0 || s.maxRec < n || (List.range n).any fun r => nfld (recordOf f r) 0 5 ≠ 0 || nfld (recordOf f r) 96 32 ≠ 0
    | 3 => res 48 2
    | 4 => res 0 40 || !(s.inLane i).cont || !(nfld h 124 4 == 1 || nfld h 124 4 == 2)
    | 5 => res 64 1 || res 0 1
    | 6 => res 0 8 || nfld h 124 4 = 0 || 3 < nfld h 124 4
    | 7 => res 0 92
    | 9 => res 0 62
    | 10 => res 0 52 || nfld h 58 2 = 3
    | _ => true)

/-- The link control that a flit's link word carries for the paired outbound lane (R382, R388, R393). -/
def State.linkControl (i : Nat) (l : BitVec 96) (s : State) : State :=
  let s := (s.acked i (l.extractLsb' 20 8)).creditReturn i (nfld l.toNat 17 2) (nfld l.toNat 14 3)
  (if l.getLsbD 19 then s.resend i else s).pump

/-- LINK_FLIT_RECEIVE (R388, R389, R393, R394). -/
def execLinkFlitReceive (lane : BitVec 3) (f : Flit) (s : State) : Out := runFast s fun s =>
  let i := lane.toNat
  let n := s.inLane i
  if !n.up || n.down then s
  else if linkOp f.link = 0 then (if f.lpar = flitLpar f.link then s.linkControl i f.link else s)
  else
    let seq : Byte := f.link.extractLsb' 28 8
    let bad := f.hpar ≠ flitHpar f.hdr || f.lpar ≠ flitLpar f.link || f.bad || seq ≠ n.expect
    if n.dropping && seq ≠ n.expect then s
    else if bad then
      let s := (s.setInLane i { n with dropping := true, naks := n.naks + 1, nak := true }).count 0xA0118 1
      if s.replayMax ≤ n.naks + 1 then s.inDown i else s
    else
      let ill := s.malformed i f
      let n := { n with expect := n.expect + 1, dropping := false, naks := 0, cont := linkOp f.link == 3 && f.link.getLsbD 13 }
      let s := ((s.setInLane i n).count 0xA0108 1).count 0xA0120 f.corr
      let s := if ill then
          let v := opVc (linkOp f.link)
          (s.setInLane i { n with due := setCr n.due v (getCr n.due v + 1) }).flitInvalid i
        else s.setInLane i { n with rx := n.rx ++ [f] }
      s.linkControl i f.link

/-! Training and enable (R395, R397) -/

/-- Whether LANE_SPLIT is one that R277 allows. -/
def State.splitOk (s : State) : Bool :=
  let r := s.regFld 0xA0010 16 4
  let m := s.regFld 0xA0010 12 4
  let w := s.regFld 0xA0010 8 4
  let o := s.regFld 0xA0010 4 4
  let q := s.regFld 0xA0010 0 4
  decide (0 < r) && decide (0 < m) && decide (0 < w) && decide (0 < o) && decide (0 < q) && r + m == s.lanes && w + o + q == s.lanes
/-- Whether a measured FCLK lies in range (R395). -/
def fclkOk (mhz : Nat) : Bool := decide (1450 ≤ mhz ∧ mhz ≤ 2550)

/-- A write of 1 to PORT_CTRL.EN (R397). -/
def State.portEnable (s : State) : State :=
  if s.port.state = 1 || s.port.state = 2 then s
  else if !s.splitOk then
    ({ s with port := { s.port with state := 3 } }).raise { code := 0x6002, unit := 13, d0 := s.reg 0xA0010 }
  else if !fclkOk s.port.fclk then
    ({ s with port := { s.port with state := 3 } }).raise { code := 0x6006, unit := 13, d0 := w32 s.port.fclk }
  else { s with port := { s.port with state := 1 } }
/-- PORT_ENABLE (R397). -/
def execPortEnable (s : State) : Out := runSlow s State.portEnable

/-- The channels an inbound lane's class carries (R383). -/
def State.inVcs (s : State) (i : Nat) : List Nat := if s.inRead i then [1] else [0, 2, 3]
/-- The receive buffer of a lane and channel (R380). -/
def State.rxBuffer (s : State) : Nat := if s.sys.straps.portGen then 16 else 32

/-- Step 4 of R397, once every lane is UP or DOWN. -/
def State.trained (s : State) : State :=
  let ls := List.range s.lanes
  if s.port.state ≠ 1 || !(ls.all fun i => ((s.outLane i).up || (s.outLane i).down) && ((s.inLane i).up || (s.inLane i).down)) then s
  else
    let grant := fun (s : State) (i : Nat) =>
      if (s.inLane i).up then
        s.setInLane i { s.inLane i with due := (s.inVcs i).foldl (fun c v => setCr c v s.rxBuffer) (0, 0, 0, 0) }
      else s
    let s := ls.foldl grant s
    ({ s with port := { s.port with state := 2 } }).pump

/-- LANE_TRAINED (R397). -/
def execLaneTrained (inbound : Bool) (lane : BitVec 3) (s : State) : Out := runFast s fun s =>
  let i := lane.toNat
  if s.port.state ≠ 1 || s.lanes ≤ i then s
  else if inbound then
    (if (s.inLane i).up || (s.inLane i).down then s else (s.setInLane i { InLane.init with up := true }).trained)
  else if (s.outLane i).up || (s.outLane i).down then s
  else (s.setOutLane i { OutLane.init with up := true }).trained

/-- LANE_TRAIN_FAILED (R397). -/
def execLaneTrainFailed (inbound : Bool) (lane : BitVec 3) (s : State) : Out := runFast s fun s =>
  let i := lane.toNat
  if s.port.state ≠ 1 || s.lanes ≤ i then s
  else
    let up := if inbound then (s.inLane i).up || (s.inLane i).down else (s.outLane i).up || (s.outLane i).down
    if up then s
    else
      let s := if inbound then s.setInLane i { InLane.init with down := true } else s.setOutLane i { OutLane.init with down := true }
      (s.raise { code := 0x6004, unit := 13, index := i, d0 := w32 i, d1 := w32 (bit inbound) }).trained

/-- FCLK_MEASURE (R395). -/
def execFclkMeasure (mhz : BitVec 12) (s : State) : Out := runSlow s fun s =>
  let n := mhz.toNat
  let serving := s.port.state = 1 || s.port.state = 2
  let out := serving && !fclkOk n
  let was := s.port.fclkOut
  let s := { s with port := { s.port with fclk := n, fclkOut := out } }
  if out && !was then s.raise { code := 0x6006, unit := 13, d0 := w32 n } else s

/-! The inbound window (R30, R31, R343, R386) -/

def State.fenced (s : State) : Bool := s.sys.fence == .fenced

/-- Whether [a, a + n) lies in one of the two mailbox rings (R451, R452). -/
def State.inRings (s : State) (a n : Nat) : Bool :=
  let within := fun (b k : Nat) => decide (b ≤ a ∧ a + n ≤ b + 0x40 + 0x1040 * k)
  s.regBit 0x01010 31 && (within s.reqBase s.reqSlots || within s.rspBase s.rspSlots)

/-- Whether the window serves an access (R30, R31, R343). -/
def State.windowServes (s : State) (write : Bool) (a n : Nat) : Bool :=
  (!s.fenced || s.inRings a n) &&
    (match s.spaceOf a n with
    | some .near => true
    | some .stacked => true
    | some .stats => true
    | some .replay => true
    | some (.imem b) => write && b != s.cc.inService
    | _ => false)

/-- The 64 header bits of a response slot (R384). -/
def slotBits (stream laddr st len : Nat) : Nat :=
  stream * 2 ^ 44 + laddr % 2 ^ 32 * 2 ^ 12 + st * 2 ^ 8 + 2 ^ 7 + (len - 1) % 64 * 2
/-- Answer a requester with one RESP of one or two slots (R386). -/
def State.respond (ep stream st : Nat) (slots : List (Nat × Nat)) (data : List Byte) (s : State) : State :=
  let bits := fun (k : Nat) => match slots[k]? with | some p => slotBits stream p.1 st p.2 | none => 0
  s.send 1 [(linkOf 5 ep 0 false (decide (st = 1)) false 0, hdrOf [(64, bits 0), (0, bits 1)], data)]

/-- RD_REQ_RECEIVE (R30, R31, R343, R386, R390). -/
def execRdReqReceive (lane : BitVec 3) (s : State) : Out := runFast s fun s =>
  match s.takeRx lane.toNat 1 with
  | none => s
  | some (f, s) =>
    let one := fun (s : State) (r : Nat) =>
      let v := recordOf f r
      let a := nfld v 64 32
      let n := nfld v 5 6 + 1
      let slot : Nat × Nat := (nfld v 12 32, n)
      if s.windowServes false a n then
        (s.touch 8 a n).respond (linkEp f.link) (nfld v 44 20) (bit (s.poisonedIn a n)) [slot] (s.bytes a n)
      else s.respond (linkEp f.link) (nfld v 44 20) 4 [slot] []
    (List.range (hfld f.hdr 124 4)).foldl one s

/-- Write a packet's bytes into the window: its status. -/
def State.windowWrite (a : Nat) (bs : List Byte) (poison : Bool) (s : State) : Nat × State :=
  if s.windowServes true a bs.length then
    let s := s.write 8 a bs
    (0, if poison then s.poisonBytes ((List.range bs.length).map fun i => a + i) else s)
  else
    match s.spaceOf a bs.length with
    | some (.imem b) => (4, if b = s.cc.inService && !s.fenced then s.raise { code := 0x3001, unit := 15, d0 := w32 a } else s)
    | _ => (4, s)

/-- The acknowledgement slots of a write packet, one for each source line (R386). A line has at most 64 of its bytes, so a full
packet of 128 is 64 and 64; what a shorter one leaves open is a free split (log entry 5). -/
def State.ackSlots (echo len : Nat) (s : State) : List (Nat × Nat) × State :=
  if s.sys.straps.portGen && echo % 2 == 0 then
    let lo := max 1 (len - 64)
    let k := lo + Config.ackSplit s.freeCtr len % (min 64 len + 1 - lo)
    let s := { s with freeCtr := s.freeCtr + 1 }
    if k = len then ([(64 * echo, len)], s) else ([(64 * echo, k), (64 * echo + 64, len - k)], s)
  else ([(64 * echo, len)], s)

/-! Ledgers (R275, R306, R307) -/

/-- The open inbound entry of a sender's stream. -/
def State.ledgerOf (s : State) (ep stream : Nat) : Option (Nat × Inbound) :=
  s.dma.streams.findSome? fun p =>
    match p.2 with
    | .inbound i => if i.ep = ep ∧ i.stream = stream then some (p.1, i) else none
    | _ => none

/-- Free an inbound entry without its signal (R307): the log has the sender's endpoint, its stream and the bytes written
(log entry 40). -/
def State.abandon (n : Nat) (i : Inbound) (s : State) : State :=
  ((s.setStream n .free).raise { code := 0x2006, unit := 10, d0 := w32 i.ep, d1 := w32 i.stream, d2 := w32 i.ledger }).count 0x60350 1
/-- The sync unit on behalf of a sender's stream. -/
def syncFrom (stream : Nat) : Reader := { syncUnit with d2 := w32 stream }

/-- Apply the signal of a complete ledger, free the entry and acknowledge the signal packet (R306). -/
def State.ledgerApply (n : Nat) (i : Inbound) (s : State) : State :=
  match i.sig with
  | none => s
  | some (op, v, a) =>
    if i.ledger ≠ i.bytes then s
    else
      let s := s.setStream n .free
      let ok := (s.wordChk a).isNone && (!s.fenced || s.inRings a 8)
      let s := if ok then (s.syncApply op a v 1 (syncFrom i.stream)).2 else s
      s.respond i.ep i.stream (if ok then 0 else 4) i.ack []

/-- RWR_RECEIVE (R275, R305–R307, R386): a signalled packet that finds no inbound entry waits in the port. -/
def execRwrReceive (lane : BitVec 3) (s0 : State) : Out := runFast s0 fun s0 =>
  match s0.takeRx lane.toNat 3 with
  | none => s0
  | some (f, s) =>
    let h := f.hdr
    let ep := linkEp f.link
    let stream := hfld h 108 20
    let a := hfld h 76 32
    let total := hfld h 0 48
    let len := nfld f.link.toNat 4 7 + 1
    let bs := (f.pay.take len) ++ List.replicate (len - f.pay.length) 0
    let sig := f.link.getLsbD 11
    let cont := f.link.getLsbD 13
    let poison := f.link.getLsbD 12
    let keep := fun (slots : List (Nat × Nat)) (s : State) =>
      s.setInLane lane.toNat { s.inLane lane.toNat with held := some (ep, stream, total, slots) }
    if sig && total = 0 then
      (if cont then keep [(64 * hfld h 50 26, len)] s else s.respond ep stream 0 [(64 * hfld h 50 26, len)] [])
    else
      let seat : Option (Nat × Inbound) :=
        if !sig || s.fenced then none
        else
          match s.ledgerOf ep stream with
          | some p => some p
          | none => (s.freeInbound).map fun n => (n, ⟨ep, stream, total, 0, none, []⟩)
      if sig && !s.fenced && seat.isNone then s0
      else
        let w := s.windowWrite a bs poison
        let k := w.2.ackSlots (hfld h 50 26) len
        let s := k.2
        let s := match seat with
          | some (n, i) =>
            let i := { i with ledger := i.ledger + (if w.1 = 0 then len else 0) }
            let s := s.setStream n (.inbound i)
            if i.bytes < i.ledger then s.abandon n i else s
          | none => s
        if cont && w.1 = 0 then keep k.1 s else s.respond ep stream w.1 k.1 []

/-- SIGX_RECEIVE (R305, R306, R387): the signal of the RWR before it on its lane. -/
def execSigxReceive (lane : BitVec 3) (s : State) : Out := runFast s fun s =>
  match s.takeRx lane.toNat 4 with
  | none => s
  | some (f, s) =>
    let n := s.inLane lane.toNat
    let op := hfld f.hdr 124 4
    let v := w32 (hfld f.hdr 92 32)
    let a := hfld f.hdr 60 32
    match n.held with
    | none => s
    | some (ep, stream, total, slots) =>
      let s := s.setInLane lane.toNat { n with held := none }
      if total = 0 then
        let ok := (s.wordChk a).isNone && (!s.fenced || s.inRings a 8)
        let s := if ok then (s.syncApply op a v 1 (syncFrom stream)).2 else s
        s.respond ep stream (if ok then 0 else 4) slots []
      else
        match s.ledgerOf ep stream with
        | none => s
        | some (k, i) =>
          let i := { i with sig := some (op, v, a), ack := slots }
          let s := s.setStream k (.inbound i)
          if i.ledger = i.bytes then s.ledgerApply k i else s.count 0x60308 1

/-- LEDGER_SIGNAL_APPLY (R306). -/
def execLedgerSignalApply (stream : Nat) (s : State) : Out := runFast s fun s =>
  match s.stream stream with
  | .inbound i => s.ledgerApply stream i
  | _ => s

/-- LEDGER_ABANDONED (R307). -/
def execLedgerAbandoned (stream : Nat) (s : State) : Out := runFast s fun s =>
  match s.stream stream with
  | .inbound i => s.abandon stream i
  | _ => s

/-! SYNC and BAR flits (R310, R391) -/

/-- SYNC_FLIT_RECEIVE (R292–R294, R343, R391): the answer is OK also when the word stays as it was. -/
def execSyncFlitReceive (lane : BitVec 3) (s : State) : Out := runFast s fun s =>
  match s.takeRx lane.toNat 6 with
  | none => s
  | some (f, s) =>
    let op := hfld f.hdr 124 4
    let a := hfld f.hdr 28 64
    let ep := linkEp f.link
    let stream := hfld f.hdr 8 20
    if (s.wordChk a).isSome || (s.fenced && !s.inRings a 8) then s.respond ep stream 4 [(0, 8)] []
    else
      let old := s.bytes a 8
      let s := (s.syncApply op a (w32 (hfld f.hdr 92 32)) 2 (syncFrom stream)).2
      s.respond ep stream 0 [(0, 8)] (if op = 3 then old else [])

/-- BAR_FLIT_RECEIVE (R310, R343, R391). -/
def execBarFlitReceive (lane : BitVec 3) (s : State) : Out := runFast s fun s =>
  match s.takeRx lane.toNat 7 with
  | none => s
  | some (f, s) => if !s.fenced then s.release (hfld f.hdr 124 4) (w32 (hfld f.hdr 92 32)) else s

end Sys2Proof.Machine
end

