-- ==== Sys2Proof/Machine/Power.lean ====
section
/-! DEFINITION. Supplies, clocks and power control (chapter 13): the voltage-frequency table, the caps on N, budget,
thermal and ageing loops, droop and pulse skipping, Sillage and telemetry. Voltages are in units of 0.25 mV, powers in 1/64 W. -/

namespace Sys2Proof.Machine

def State.setPwr (p : Pwr) (s : State) : State := { s with pwr := p }

/-! The voltage-frequency table (R419) -/

/-- VF_FUSE of point p. -/
def State.vfFuse (s : State) (p : Nat) : Nat := fld (Tab.get 0 s.sys.shadow (65 + p)) 0 12
/-- VF_USER of point p. -/
def State.vfUser (s : State) (p : Nat) : Int := signedOf 8 (s.regFld (0x03040 + 4 * p) 0 8)
/-- AGE_OFFSET and AGE_NMAX. -/
def State.ageOffset (s : State) : Nat := s.regFld 0x03080 0 5
def State.ageNmax (s : State) : Nat := s.regFld 0x03084 16 5
/-- The sum of the three layers. -/
def State.vRaw (s : State) (p : Nat) : Int := s.vfFuse p + 10 * s.vfUser p + 10 * s.ageOffset
/-- Whether point p is disabled. -/
def State.disabled (s : State) (p : Nat) : Bool := decide (3600 < s.vRaw p)
/-- v_eff of point p; a disabled point shows the sum of its layers. -/
def State.vEff (s : State) (p : Nat) : Nat := (max (s.vRaw p) 2400).toNat
/-- The highest enabled operating point at or below n; 7 when there is none. -/
def State.enabledAt (s : State) (n : Nat) : Nat :=
  ((List.range 16).filter fun p => decide (p + 7 ≤ n) && !s.disabled p).foldl (fun _ p => p + 7) 7

/-- A write of VF_USER_p (R420). -/
def State.vfUserWrite (p : Nat) (v : Word) (s : State) : State :=
  let o := signedOf 8 (fld v 0 8)
  if o < -20 ∨ 20 < o then s else s.setReg (0x03040 + 4 * p) (v &&& 0xFF)
/-- VF_USER_WRITE (R420). -/
def execVfUserWrite (p : BitVec 4) (v : Word) (s : State) : Out := runSlow s (State.vfUserWrite p.toNat v)

/-- A write of AGE_OFFSET, or of AGE_STATUS.NMAX (R423). -/
def State.ageWrite (nmax : Bool) (v : Word) (s : State) : State :=
  if nmax then
    let n := fld v 16 5
    if n < s.ageNmax ∧ 7 ≤ n then s.setRegFld 0x03084 16 5 n else s
  else
    let n := fld v 0 5
    if s.ageOffset < n ∧ n ≤ 16 then s.setReg 0x03080 (w32 n) else s
/-- AGE_REGISTER_WRITE (R423). -/
def execAgeRegisterWrite (nmax : Bool) (v : Word) (s : State) : Out := runSlow s (State.ageWrite nmax v)

/-- Whether PWR_MODE takes a value (R428). -/
def pwrModeOk (v : Word) : Bool := fld v 0 2 ≠ 3 && !(fld v 0 2 == 2 && (fld v 16 5 < 7 || 22 < fld v 16 5))
/-- A write of PWR_MODE (R428). -/
def State.pwrModeWrite (v : Word) (s : State) : State := if pwrModeOk v then s.setReg 0x02000 (v &&& 0x001F0003) else s
/-- PWR_MODE_WRITE (R428). -/
def execPwrModeWrite (v : Word) (s : State) : Out := runSlow s (State.pwrModeWrite v)

/-! Pulse skipping (R430, R431, R436) -/

/-- PWR_MODE.MODE and FIXED_N in force: those of the last evaluation (R428). -/
def State.mode (s : State) : Nat := s.pwr.mode
def State.fixedN (s : State) : Nat := s.pwr.fixedN

/-- The skip count of a droop level (R430). -/
def levelSkip (l : Nat) : Nat := match l with | 0 => 0 | 1 => 4 | 2 => 8 | _ => 15
/-- The highest level that the detectors hold. -/
def State.heldLevel (s : State) : Nat := (s.pwr.held.map Prod.snd).foldl max 0
/-- The skip count of the release ramp, which is off in FIXED mode (R436, R438). -/
def State.rampSkip (s : State) : Nat := if s.mode = 2 then 0 else match s.pwr.ramp with | some l => 16 - 16 * l / 100 | none => 0
/-- The skip count in force (R431). -/
def State.skipNow (s : State) : Nat := max (max s.pwr.droop s.pwr.skipReq) (max (if s.pwr.trip then 15 else 0) s.rampSkip)
/-- A change that may start skipping: a skip event is a change from 0 to a nonzero count (R431). -/
def skipping (f : State → State) (s : State) : State :=
  let t := f s
  if s.skipNow = 0 && decide (0 < t.skipNow) then
    (t.setPwr { t.pwr with frameSkips := t.pwr.frameSkips + 1 }).count 0x02100 1
  else t

/-- The level of a detector from its reading, against the v_eff of the current point and the thresholds of DROOP_CFG, in mV; a
high DROOP_IN is an L2 detector (R430). -/
def State.droopLevel (det : Nat) (s : State) : Nat :=
  match Tab.get none s.pwr.readings det with
  | none => 0
  | some v =>
    if det = 8 then (if v = 0 then 0 else 2)
    else
      let at' := fun (k : Nat) => decide (v.toNat + 4 * s.regFld 0x02014 (8 * k) 8 ≤ s.vEff (s.pwr.n - 7))
      if at' 2 then 3 else if at' 1 then 2 else if at' 0 then 1 else 0
/-- One detector reports the level of its reading; it acts at once when it is above the level held (R430). -/
def State.droopReport (det : Nat) (s : State) : State :=
  let lvl := s.droopLevel det
  let was := Tab.get 0 s.pwr.reported det
  let held := max (Tab.get 0 s.pwr.held det) lvl
  let s := s.setPwr { s.pwr with
    reported := Tab.set 0 s.pwr.reported det lvl, held := Tab.set 0 s.pwr.held det held, droop := max s.pwr.droop (levelSkip held) }
  let s := if was < lvl then s.count 0x02118 1 else s
  if was < 3 ∧ lvl = 3 then (s.raise { code := 0x7001, unit := 14, index := det, d0 := w32 det }).count 0x02120 1 else s
/-- Whether the block's fast clocks run with its resets released. -/
def State.running (s : State) : Bool := !(s.sys.poreset || s.sys.lost || s.sys.scanned || !s.sys.lock || s.sys.coreReset)

/-- DROOP_DETECT (R430): a detector's reading, in 0.25 mV, or the level of DROOP_IN, has crossed a threshold. The pin and the
supply keep their levels while the core is in reset. -/
def execDroopDetect (det : Nat) (v : Half) (s : State) : Out :=
  if 8 < det then .next s
  else
    let t := s.setPwr { s.pwr with readings := Tab.set none s.pwr.readings det (some v) }
    .next (if s.running then skipping (State.droopReport det) t else t)

/-- DROOP_HOLD_EXPIRE (R430): DROOP_HOLD ACLK after a detector's reading returned, it reads v and holds the level it then
reports; s falls at the window boundaries that follow. -/
def execDroopHoldExpire (det : Nat) (v : Half) (s : State) : Out := runFast s fun s =>
  let t := s.setPwr { s.pwr with readings := Tab.set none s.pwr.readings det (some v) }
  let lvl := t.droopLevel det
  if 8 < det || Tab.get 0 s.pwr.held det ≤ lvl then s
  else t.setPwr { t.pwr with reported := Tab.set 0 t.pwr.reported det lvl, held := Tab.set 0 t.pwr.held det lvl }

/-- SKIP_REQ_CHANGE (R404, R431): the level of the pin, whatever the core's resets and clocks do. -/
def execSkipReqChange (v : BitVec 4) (s : State) : Out :=
  let set := fun (s : State) => s.setPwr { s.pwr with skipReq := v.toNat }
  .next (if s.running then skipping set s else set s)

/-- Every detector reports against the thresholds in force: after a change of N, and as the clocks start or the resets end
(R430). -/
def State.droopAll (s : State) : State := if s.running then skipping (fun s => (List.range 9).foldl (fun s d => s.droopReport d) s) s else s

/-- One window of 16 ACLK pulses (R28, R430, R431, R434): log entry 11. -/
def State.window16 (s : State) : State :=
  let k := s.skipNow
  let s := s.setCtr 0x00010 (s.aclk + w64 (16 - k))
  let s := (s.count 0x02108 k).count 0x02110 (min k s.rampSkip)
  let s := match s.pwr.sillage with | some g => s.count 0x02130 (min g.slices (16 - k)) | none => s
  let floor := levelSkip s.heldLevel
  if floor < s.pwr.droop then s.setPwr { s.pwr with droop := s.pwr.droop - 1 } else s

/-! Budget and operating point (R424–R428) -/

/-- The budget in force (R426). -/
def State.budgetNow (s : State) : Nat :=
  let b := s.pwr.budget.getD (s.regFld 0x02008 0 12)
  if s.mode = 1 then min b 2304 else b
/-- The mode cap. -/
def State.modeCap (s : State) : Nat := match s.mode with | 0 => 20 | 1 => 22 | _ => s.fixedN
/-- The highest point whose voltage the supply carries with the guard; 7 when there is none. -/
def State.voltCap (s : State) : Nat :=
  ((List.range 16).filter fun p => !s.disabled p && decide (s.vEff p + 4 * s.regFld 0x02008 24 8 ≤ s.regFld 0x03140 0 16)).foldl (fun _ p => p + 7) 7
/-- The voltage of an operating point; above the table a free value (log entry 14). -/
def State.vOf (s : State) (n : Nat) : Nat := if n ≤ 22 then s.vEff (n - 7) else Config.voltAbove
/-- The new n_budget for an estimate and a leakage power (R426). -/
def State.budgetStep (p pLeak : Nat) (s : State) : Nat :=
  let b := s.budgetNow
  let n := s.pwr.n
  let lo := n * (s.vOf n) ^ 2
  let up : Int := (pLeak : Int) * lo + ((p : Int) - pLeak) * (((n + 1) * (s.vOf (n + 1)) ^ 2 : Nat) : Int)
  if b < p then max (s.pwr.nBudget - 1) 7
  else if 100 * up ≤ 97 * (b : Int) * lo && s.pwr.sillage.isNone then min (s.pwr.nBudget + 1) 22
  else s.pwr.nBudget

/-- PWR_MODE takes effect; a release ramp under way ends in FIXED mode (R428, R438). -/
def State.modeTake (s : State) : State :=
  let m := s.regFld 0x02000 0 2
  s.setPwr { s.pwr with mode := m, fixedN := s.regFld 0x02000 16 5, ramp := if m = 2 then none else s.pwr.ramp }

/-- OPERATING_POINT_EVAL (R418, R421, R424–R426, R428, R438): the lowest of the caps, raised by one step at most; from a point
that has become disabled to the highest enabled one below it. P is kept for telemetry. -/
def execOperatingPointEval (p pLeak : Nat) (s : State) : Out := runSlow s fun s =>
  if !s.sys.lock then s
  else
    let s := s.modeTake
    let b := s.budgetNow
    let s := s.setPwr { s.pwr with nBudget := s.budgetStep p pLeak, power := p }
    let fixed := s.mode = 2
    let unmet := !fixed && decide (s.pwr.nBudget = 7 ∧ b < p)
    let s := if unmet && !s.pwr.excBudget then s.raise { code := 0x7006, unit := 14, d0 := w32 p, d1 := w32 b } else s
    let s := s.setPwr { s.pwr with excBudget := unmet }
    let base := [(0, s.modeCap), (1, s.ageNmax), (2, s.enabledAt 22)]
    let caps := if fixed then base else base ++ [(3, s.voltCap), (4, s.pwr.nTherm), (5, s.pwr.nBudget)]
    let low := (caps.map Prod.snd).foldl min 22
    let others := ((caps.filter fun c => c.1 ≠ 3).map Prod.snd).foldl min 22
    let cur := s.pwr.nNext.getD s.pwr.n
    let next := s.enabledAt (if cur < low then (if s.disabled (cur - 7) then cur else cur + 1) else low)
    let reason := ((caps.filter fun c => c.2 = low).map fun c => 2 ^ c.1).sum
    let broken := fixed && decide (min s.ageNmax (s.enabledAt s.fixedN) < s.fixedN)
    let limited := reason / 32 % 2 = 1 || unmet || (fixed && decide (b < p))
    let s := s.setRegFld 0x02004 0 6 reason
    let s := (s.setRegFld 0x0200C 16 12 (s.vEff (s.enabledAt others - 7))).setRegFld 0x0200C 2 1 (bit limited)
    let s := (if broken then s.orReg 0x0200C 0x100 else s).setRegFld 0x0200C 0 1 (bit fixed)
    let s := s.count 0x02140 (reason / 32 % 2)
    s.setPwr { s.pwr with nNext := if next = s.pwr.n then none else some next }

/-- ACLK_POINT_CHANGE (R28, R430): the droop thresholds move to the new v_eff. -/
def execAclkPointChange (s : State) : Out := runSlow s fun s =>
  match s.pwr.nNext with
  | none => s
  | some n =>
    if s.sys.lock then ((s.setPwr { s.pwr with n := n, nNext := none }).count 0x02128 1).droopAll else s

/-- PWR_BUDGET_TOGGLE (R404, R426). -/
def execPwrBudgetToggle (b : BitVec 12) (s : State) : Out := runSlow s fun s => s.setPwr { s.pwr with budget := some b.toNat }

/-! Sensors -/

/-- Signed sensor readings. -/
def temps (l : List Half) : List Int := (l.take 12).map BitVec.toInt
/-- THERMAL_SENSOR_READ (R427). -/
def execThermalSensorRead (l : List Half) (s : State) : Out := runSlow s fun s =>
  match temps l with
  | [] => s
  | t0 :: t =>
    let hot := t.foldl max t0
    let cold := t.foldl min t0
    let s := (l.take 12).zipIdx.foldl (fun (s : State) (p : Half × Nat) => s.setReg (0x03100 + 4 * p.2) (p.1.setWidth 32)) s
    let thr : Int := 16 * s.regFld 0x02020 0 8
    let trip : Int := 16 * s.regFld 0x02020 8 8
    let n := s.pwr.nTherm
    let n := if thr ≤ hot then max (n - 1) 7 else if hot ≤ thr - 80 && s.pwr.sillage.isNone then min (n + 1) 22 else n
    let s := s.setPwr { s.pwr with nTherm := n }
    let was := s.pwr.trip
    let now := decide (trip ≤ hot) || (was && decide (trip - 160 ≤ hot))
    let s := skipping (fun s => s.setPwr { s.pwr with trip := now }) s
    let s := if now && !was then s.raise { code := 0x7003, unit := 14, d0 := BitVec.ofInt 32 hot } else s
    let wide := decide (480 < hot - cold)
    let s := if wide && !s.pwr.excGradient then
        (s.raise { code := 0x7004, unit := 14, d0 := BitVec.ofInt 32 hot, d1 := BitVec.ofInt 32 cold }).orReg 0x0200C 0x40 else s
    s.setPwr { s.pwr with excGradient := wide }

/-- Local memory, the replay store and instruction memory lose their contents (R415): they read as memory that nothing has
written (log entry 8). -/
def State.loseSram (s : State) : State :=
  { s with mem := s.mem.filter fun (p : Nat × Byte) => isAcc p.1, eccBad := [], eccCorr := [] }

/-- RAIL_MONITOR_SAMPLE (R414–R416): each case logs once per excursion. -/
def execRailMonitorSample (core sram port vdda : Half) (s : State) : Out := runSlow s fun s =>
  let put := fun (k : Nat) (v : Half) (s : State) => s.setReg (0x03140 + 4 * k) (v.setWidth 32)
  let s := put 3 vdda (put 2 port (put 1 sram (put 0 core s)))
  let s := if sram.toNat < 3104 ∨ 3296 < sram.toNat then s.loseSram else s
  let off := fun (v : Half) (lo hi : Nat) => decide (v.toNat < lo ∨ hi < v.toNat)
  let cases : List (Bool × Half) := [(off core 2400 3600, core), (off sram 3104 3296, sram), (off port 2850 3150, port),
    (off vdda 4560 5040, vdda), (decide (sram.toNat + 400 < core.toNat), core)]
  let was := s.pwr.excSupply
  let s := cases.zipIdx.foldl (fun (s : State) (c : (Bool × Half) × Nat) =>
    if c.1.1 && !was.getLsbD c.2 then
      (s.raise { code := 0x7005, unit := 14, index := c.2, cond := c.2 + 1, d0 := w32 c.2, d1 := c.1.2.setWidth 32 }).orReg 0x0200C 0x80
    else s) s
  s.setPwr { s.pwr with excSupply := BitVec.ofNat 5 ((cases.zipIdx.map fun c => bit c.1.1 * 2 ^ c.2).sum) }

/-- AGEING_MEASUREMENT (R422): a measurement falls due only while ACLK runs and the core is not FENCED, in CORE_RESET_N too. -/
def execAgeingMeasurement (margins : List Byte) (s : State) : Out := runSlow s fun s =>
  match (margins.take 8).map BitVec.toInt with
  | [] => s
  | m0 :: t =>
    if s.fenced || !s.sys.lock || s.sys.lost || s.sys.scanned then s
    else
      let m := t.foldl min m0
      let deficit : Int := (s.regFld 0x03088 0 4 : Int) - m
      let raise := min deficit.toNat (16 - s.ageOffset)
      let s := s.setRegFld 0x03084 0 8 (m % 256).toNat
      let s := s.setReg 0x03080 (w32 (s.ageOffset + raise))
      let s := if raise < deficit.toNat then
          let s := s.setRegFld 0x03084 31 1 1
          if 7 < s.ageNmax then (s.setRegFld 0x03084 16 5 (s.ageNmax - 1)).raise { code := 0x7002, unit := 14, d0 := w32 (s.ageNmax - 1) } else s
        else s
      let entry := w32 ((m % 256).toNat * 2 ^ 24 + s.ageOffset * 2 ^ 16 + s.ageNmax * 2 ^ 8)
      s.setPwr { s.pwr with minutes := s.pwr.minutes + 10, ageHist := (entry :: s.pwr.ageHist).take 16 }

/-! Sillage (R433–R436) -/

/-- Whether the core waits at a barrier with no fill pending (R433). -/
def State.sillageWait (s : State) : Bool :=
  let release := fun (q : Nat) =>
    match (s.headCmd q).map EngCmd.op with
    | some (.wait a t _) => s.releaseWait 4 (oVal a) (oWord t)
    | _ => false
  let barrier := match s.cc.dispExe.cur with | some m => (match m.kind with | .barrier _ => true | _ => false) | none => false
  let fills := fun (q : Nat) => (s.queue q).items.any fun c => isFill c.op
  s.regBit 0x0201C 31 && s.inService && (barrier || release 17 || release 18) &&
    s.fillRuns.isEmpty && !fills 17 && !fills 18
/-- FILL_LEVEL, FILL_SLOPE and FILL_HOLD. -/
def State.fillLevel (s : State) : Nat := min 100 (s.regFld 0x0201C 16 8)
def State.fillSlope (s : State) : Nat := s.regFld 0x0201C 8 8
def State.fillHold (s : State) : Nat := s.regFld 0x0201C 0 8

/-- The power that filler holds P at, for a level in percent of P_ref: never above the budget in force (R434). -/
def State.fillTarget (pRef level : Nat) (s : State) : Nat := min (level * pRef / 100) s.budgetNow
/-- The filler slices of a window: the controller's number, 16 at most, and none towards a target of 0 (R434). -/
def State.fillSlices (pRef level slices : Nat) (s : State) : Nat := if s.fillTarget pRef level = 0 then 0 else min slices 16

/-- SILLAGE_ENGAGE (R433, R434): P_ref is the estimate of the last microsecond, and filler begins with the number of slices that
the controller sets. -/
def execSillageEngage (slices : Nat) (s : State) : Out := runFast s fun s =>
  if s.pwr.sillage.isSome || !s.sillageWait then s
  else
    let g : Sillage := ⟨s.pwr.power, s.fillLevel, 0, s.fillSlices s.pwr.power s.fillLevel slices⟩
    (s.setPwr { s.pwr with sillage := some g }).count 0x02138 1

/-- SILLAGE_LEVEL_STEP (R434, R435): one microsecond. After FILL_HOLD the level falls until no filler remains; a FILL_SLOPE of 0
holds it. -/
def execSillageLevelStep (slices : Nat) (s : State) : Out := runFast s fun s =>
  match s.pwr.sillage with
  | none => s
  | some g =>
    let us := g.us + 1
    let falls := decide (s.fillHold ≤ us) && s.fillSlope ≠ 0
    let level := if falls then (if slices = 0 then 0 else g.level - s.fillSlope) else g.level
    s.setPwr { s.pwr with sillage := some { g with level := level, us := us, slices := s.fillSlices g.pRef level slices } }

/-- SILLAGE_DISENGAGE (R433, R436). -/
def execSillageDisengage (s : State) : Out := runFast s fun s =>
  match s.pwr.sillage with
  | none => s
  | some g =>
    if s.sillageWait then s
    else
      let ramp := if s.regBit 0x0201C 30 && s.mode ≠ 2 && decide (g.level < 100) then some g.level else none
      skipping (fun s => s.setPwr { s.pwr with sillage := none, ramp := ramp }) s

/-- RELEASE_RAMP_STEP (R436). -/
def execReleaseRampStep (s : State) : Out := runFast s fun s =>
  match s.pwr.ramp with
  | none => s
  | some l =>
    let m := l + s.fillSlope
    skipping (fun s => s.setPwr { s.pwr with ramp := if 100 ≤ m then none else some m }) s

/-! Status and telemetry -/

/-- PWR_STATUS (R440): what the evaluations set, and what is in force. -/
def State.pwrStatus (s : State) : Word :=
  let live := bit s.pwr.trip * 32 + bit (decide (s.pwr.nTherm < s.modeCap)) * 16 + bit (s.regBit 0x03084 31) * 8 + bit s.pwr.sillage.isSome * 2
  (s.reg 0x0200C &&& 0x0FFF01C5) ||| w32 live

/-- TELEMETRY_FRAME (R404, R426); word 3, the slack of the last barrier, is a time and comes with the command (log entry 19). -/
def execTelemetryFrame (slack : Word) (s : State) : Out := runSlow s fun s =>
  let ts := (List.range 12).map fun k => ((s.reg (0x03100 + 4 * k)).setWidth 16 : Half).toInt
  let hot := ts.foldl max ((s.reg 0x03100).setWidth 16 : Half).toInt
  let f : List Word := [w32 (2 ^ 28 + s.pwr.frames % 2 ^ 16), w32 s.pwr.power, BitVec.ofInt 32 hot, slack,
    w32 (s.pwr.n * 2 ^ 16 + min s.pwr.frameSkips 65535), w32 s.budgetNow, s.pwrStatus, 0]
  s.setPwr { s.pwr with frame := f, frames := s.pwr.frames + 1, frameSkips := 0 }

end Sys2Proof.Machine
end

