-- ==== Sys2Proof/Machine/Mailbox.lean ====
section
/-! DEFINITION. The register mailbox and the fabric mailbox of the management controller (R450–R452, R469). -/

namespace Sys2Proof.Machine

/-- MBOX_STATUS.OVERRUN is set; a lost word or slot logs MBOX_OVERRUN. -/
def mboxOverrun : Err := { code := 0x8005, unit := 0 }
def State.setOverrun (s : State) : State := { s with mgmt := { s.mgmt with overrun := true } }

/-- A write of MBOX_REQ (R450 item 1). -/
def State.mboxReqWrite (v : Word) (s : State) : State :=
  if 1027 ≤ s.mgmt.req.length then (s.setOverrun).raise mboxOverrun
  else { s with mgmt := { s.mgmt with req := s.mgmt.req ++ [v] } }
/-- MBOX_REQ_WRITE (R450). -/
def execMboxReqWrite (v : Word) (s : State) : Out := runSlow s (State.mboxReqWrite v)

/-- MBOX_CTRL.SUBMIT (R450 items 2 and 3). -/
def State.mboxSubmit (s : State) : State :=
  if s.mgmt.busy then s.setOverrun
  else ({ s with mgmt := { s.mgmt with submitted := some s.mgmt.req, req := [], busy := true } }).takeMail
/-- MBOX_SUBMIT (R450). -/
def execMboxSubmit (s : State) : Out := runSlow s State.mboxSubmit

/-- MBOX_CTRL.DISCARD (R450 item 5). -/
def State.mboxDiscard (s : State) : State := { s with mgmt := { s.mgmt with req := [] } }
/-- MBOX_DISCARD (R450). -/
def execMboxDiscard (s : State) : Out := runSlow s State.mboxDiscard

/-- A read of MBOX_RSP (R450 items 4 and 6): the word, and the state after. -/
def State.mboxRspRead (s : State) : Word × State :=
  match s.mgmt.replies with
  | [] => (0, s)
  | [] :: t => (0, { s with mgmt := { s.mgmt with replies := t } })
  | [w] :: t => (w, ({ s with mgmt := { s.mgmt with replies := t } }).placeReplies.takeMail)
  | (w :: ws) :: t => (w, { s with mgmt := { s.mgmt with replies := ws :: t } })
/-- MBOX_RSP_READ (R450). -/
def execMboxRspRead (s : State) : Out := runSlow s fun s => { s.mboxRspRead.2 with rdata := s.mboxRspRead.1 }

/-! The rings -/

/-- Whether a ring's place and header are good (R451, R452). -/
def State.ringGood (s : State) (base slots : Nat) : Bool :=
  s.inTiers base (0x40 + 0x1040 * slots) && s.ringHdrOk base
/-- Read both ring headers (R452). -/
def State.mringStart (s : State) : State :=
  let ok := s.ringGood s.reqBase s.reqSlots && s.ringGood s.rspBase s.rspSlots
  let s := (s.touch 14 (s.reqBase + 16) 48).touch 14 (s.rspBase + 16) 48
  if ok then ({ s with mgmt := { s.mgmt with ringOk := true, ringErr := false } }).placeReplies.takeMail else s.mringInvalid

/-- MRING_CFG as written: slot counts above 2^6 read back 2^6 (R469). -/
def mringCfg (v : Word) : Word :=
  let v := v &&& 0x8000773F
  let v := if fld v 8 3 = 7 then setFld v 8 3 6 else v
  if fld v 12 3 = 7 then setFld v 12 3 6 else v

/-- A write of MRING_CFG (R452): while EN is 1 only EN changes. -/
def State.mringCfgWrite (v : Word) (s : State) : State :=
  if s.regBit 0x01010 31 then
    (if v.getLsbD 31 then s
    else { s.setRegFld 0x01010 31 1 0 with mgmt := { s.mgmt with ringOk := false, ringErr := false } })
  else
    let s := s.setReg 0x01010 (mringCfg v)
    if v.getLsbD 31 then s.mringStart else s
/-- MRING_CFG_WRITE (R452). -/
def execMringCfgWrite (v : Word) (s : State) : Out := runSlow s (State.mringCfgWrite v)

/-- MRING_STATUS.ERR cleared (R452). -/
def State.mringErrClear (s : State) : State :=
  if !s.mgmt.ringErr then s
  else
    let s := { s with mgmt := { s.mgmt with ringErr := false } }
    if s.regBit 0x01010 31 then s.mringStart else s
/-- MRING_ERR_CLEAR (R452). -/
def execMringErrClear (s : State) : Out := runSlow s State.mringErrClear

/-- Take request slot HEAD mod 2^n (R452), when it is the ring's turn (R449). -/
def State.mringTake (s : State) : State :=
  let b := s.reqBase
  let bad := s.poisonedIn b 16
  let s := if s.ringServed then s.touch 14 b 16 else s
  if !s.ringServed || bad then s
  else if !s.ringWordsOk b then s.mringInvalid
  else if s.reqSlots < s.reqHeld then ({ s with mgmt := { s.mgmt with ringErr := true } }).raise mboxOverrun
  else if !s.ringHas || !s.mayTake then s
  else if s.mgmt.last == .ring && s.mgmt.submitted.isSome then s.takeMail
  else
    let a := b + 0x40 + 0x1040 * ((s.word (b + 8)).toNat % s.reqSlots)
    let word := fun (i : Nat) => s.word (a + 4 * i)
    let len := fld (word 1) 0 8 * 256 + fld (word 0) 24 8
    let n := if len ≤ 1024 then 2 + len + bit ((word 0).getLsbD 17) else 2
    let ws := (List.range n).map word
    let bad := s.poisonedIn a (4 * n)
    (((s.touch 14 a (4 * n)).bumpWord (b + 8)).takePacket .ring ws bad).takeMail
/-- MRING_REQUEST_TAKE (R449, R452). -/
def execMringRequestTake (s : State) : Out := runSlow s State.mringTake

end Sys2Proof.Machine
end

