-- ==== Sys2Proof/Machine/Regs.lean ====
section
/-! DEFINITION. The register window (R17, R18, R113, R402, R473): what a read of an offset returns and does, and what a
write does. -/

namespace Sys2Proof.Machine

/-! 64-bit registers (R113) -/

/-- Whether an offset is the low word of a 64-bit register that R113 reads as a pair; the PARAM banks are not such. -/
def isPair (off : Nat) : Bool :=
  off % 8 == 0 &&
    ((cntBlocks.any fun b => decide (b.1 ≤ off ∧ off < b.2.1)) ||
     off == 0x00010 || off == 0x01040 || off == 0x01048 || off == 0x04018 || off == 0x45008 || off == 0x45018 || off == 0x61600 ||
     off == 0x90010 || off == 0x90018 || off == 0x90220 ||
     (decide (0x20000 ≤ off ∧ off < 0x24000) && off % 0x1000 == 0x90) ||
     (decide (0x30000 ≤ off ∧ off < 0x38000) && (off % 0x80 == 0x20 || off % 0x80 == 0x28 || off % 0x80 == 0x30)) ||
     (decide (0x38400 ≤ off ∧ off < 0x38800) && decide (off % 0x20 < 0x18)) ||
     (decide (0x41000 ≤ off ∧ off < 0x41100) && off % 0x10 == 0) ||
     (decide (0x70000 ≤ off ∧ off < 0x70400) && decide (8 ≤ off % 0x40 ∧ off % 0x40 < 0x38)))

/-- A summary register. -/
def State.sumReg (s : State) (i : Nat) : Sum := Tab.get Sum.reset s.vec.sums i
def State.setSumReg (i : Nat) (v : Sum) (s : State) : State := { s with vec := { s.vec with sums := Tab.set Sum.reset s.vec.sums i v } }

/-- The value of a 64-bit register. -/
def State.pairVal (s : State) (off : Nat) : DWord :=
  if 0x30000 ≤ off ∧ off < 0x38000 then
    let v := s.slot ((off - 0x30000) / 0x80)
    if off % 0x80 = 0x20 then w64 v.ovf else if off % 0x80 = 0x28 then w64 v.van else w64 v.tot
  else if 0x41000 ≤ off ∧ off < 0x410F0 then (s.sumReg ((off - 0x41000) / 0x10)).val
  else if off = 0x410F0 then w64 (bit s.vec.nonfinite)
  else if 0x70000 ≤ off ∧ off < 0x70400 ∧ off % 0x40 = 0x28 then s.cvuResult ((off - 0x70000) / 0x40)
  else s.ctr off

/-! Identity and capabilities (R6–R8) -/

def State.capVal (s : State) (n : Nat) : Word :=
  let st := s.sys.straps
  match n with
  | 0 => w32 (0x10300700 + (s.usable).length)
  | 1 => 0x7FFF
  | 2 => w32 (s.mEff 0 + s.mEff 1 * 2 ^ 8 + s.mEff 2 * 2 ^ 16 + s.mEff 3 * 2 ^ 24)
  | 3 => w32 (8 * 2 ^ 25 + 8 * 2 ^ 20 + 12 * 2 ^ 15 + 13 * 2 ^ 10 + 12 * 2 ^ 5 + 15)
  | 4 => w32 (9 * 2 ^ 25 + 8 * 2 ^ 20 + 5 * 2 ^ 15 + 18 * 2 ^ 10 + 4 * 2 ^ 5 + 4)
  | 5 => w32 ((if st.tier then 80 else 0) * 2 ^ 8 + 16)
  | 6 => w32 (s.lanes * 2 ^ 16 + 9 * 2 ^ 12 + 5 * 2 ^ 8 + 3 * 2 ^ 4 + 6)
  | _ => 0
/-- Blocks 0x0_0000. -/
def State.idVal (s : State) (off : Nat) : Word :=
  let st := s.sys.straps
  if off = 0 then 0x01020000
  else if off = 4 then w32 (bit st.tier * 2 ^ 20 + bit st.portGen * 2 ^ 19 + bit st.leader * 2 ^ 18 + st.feedDomain.toNat * 2 ^ 8 + st.coreInst.toNat)
  else if 0x20 ≤ off ∧ off < 0x40 then s.capVal ((off - 0x20) / 4)
  else 0

/-- Block 0x0_1000 (R469). -/
def State.mgmtVal (s : State) (off : Nat) : Word :=
  let m := s.mgmt
  match off with
  | 0x01000 => w32 (bit s.mgmtReady * 2 ^ 31 + bit m.busy * 2 ^ 30 + bit (!m.replies.isEmpty) * 2 ^ 29 + bit m.overrun * 2 ^ 28 +
      m.req.length * 2 ^ 12 + (m.replies.headD []).length)
  | 0x0100C => (m.replies.headD []).headD 0
  | 0x01010 => s.reg off
  | 0x01014 => s.reg off
  | 0x01018 => s.reg off
  | 0x0101C => w32 (bit m.ringErr * 2 ^ 31)
  | 0x01020 => w32 (coreNum s.sys.core)
  | 0x01024 => w32 (s.sys.bootStage * 2 ^ 28 + s.sys.bootCause.toNat)
  | 0x01028 => w32 (Config.romVersion.toNat * 2 ^ 16 + m.patchVer.toNat)
  | _ => 0

/-- CLK_STATUS (R440). -/
def State.clkStatus (s : State) : Word := w32 (bit s.sys.lock * 2 ^ 31 + s.pwr.n * 2 ^ 16 + s.regFld 0x02004 0 6)
/-- Blocks 0x0_2000 and 0x0_3000 (R440). -/
def State.pwrVal (s : State) (off : Nat) : Word :=
  if off = 0x02004 then s.clkStatus
  else if off = 0x0200C then s.pwrStatus
  else if off = 0x02010 then w32 s.budgetNow
  else if 0x03000 ≤ off ∧ off < 0x03040 then w32 (s.vfFuse ((off - 0x03000) / 4))
  else if 0x030C0 ≤ off ∧ off < 0x03100 then
    let p := (off - 0x030C0) / 4
    w32 (bit (s.disabled p) * 2 ^ 31 + s.vEff p % 2 ^ 12)
  else s.reg off

/-- Word w of an error-log entry (R467). -/
def errWord (e : ErrEntry) (w : Nat) : Word :=
  match w with
  | 0 => w32 (e.code.toNat * 2 ^ 16 + e.tag.toNat)
  | 1 => w32 (e.unit % 2 ^ 8 * 2 ^ 24 + e.index % 2 ^ 8 * 2 ^ 16 + e.thread % 2 ^ 4 * 2 ^ 12 + e.cond % 2 ^ 8)
  | 2 => e.d0
  | 3 => e.d1
  | 4 => e.d2
  | 5 => lo32 e.aclk
  | 6 => hi32 e.aclk
  | _ => e.seq
/-- Whether HOSTSIG_PEND and HOSTSIG_EN have a bit in common (R314). -/
def State.hostsigOn (s : State) : Bool := decide (s.reg 0x60020 &&& s.reg 0x60024 ≠ 0)
/-- The level of a line that follows INT_STATUS and INT_ENABLE (R403): 0 IRQ_ERR, 1 IRQ_EVENT, 2 IRQ_MGMT. -/
def State.irqLine (s : State) (b : Nat) : Bool := s.regBit 0x04000 b && s.regBit 0x04004 b
/-- IRQ_HOSTSIG follows R314 alone, and is held low while FENCED (R343, R403). -/
def State.irqHostsig (s : State) : Bool := s.hostsigOn && !s.fenced
/-- Block 0x0_4000 (R403, R470). -/
def State.intVal (s : State) (off : Nat) : Word :=
  if off = 0x04000 then s.reg off ||| w32 (bit s.hostsigOn * 8)
  else if off = 0x04010 then w32 (bit (decide (512 ≤ s.logs.errs.length)) * 2 ^ 31 + s.logs.errs.length)
  else if 0x04040 ≤ off ∧ off < 0x04060 then
    (match s.logs.errs[s.regFld 0x04020 0 9]? with | some e => errWord e ((off - 0x04040) / 4) | none => 0)
  else s.reg off

/-! Control core (R210, R250) -/

def State.qstat (s : State) (q : Nat) : Word :=
  let v := s.queue q
  w32 (bit (decide (v.wait ≠ .none)) * 2 ^ 9 + bit v.halted * 2 ^ 8 + v.items.length)
def State.tqstat (s : State) (i : Nat) : Word :=
  s.reg (0x10300 + 4 * i) ||| w32 (((s.tq i).filter fun e => e.2.1).length * 2 ^ 8 + (s.tq i).length)
/-- Whether a SWAP waits (R242, R250). -/
def State.swapPending (s : State) : Bool :=
  ([s.cc.dispAcc.cur, s.cc.dispExe.cur] : List (Option Macro)).any fun m => (m.map Macro.kind) == some .swap
def State.imemStatus (s : State) : Word :=
  w32 (bit s.swapPending * 8 + bit s.cc.valid1 * 4 + bit s.cc.valid0 * 2 + bit s.cc.inService)
/-- ATOM_STATUS. -/
def State.atomStatus (s : State) : Word :=
  let src := if s.hostMode then 2 else if s.leading then 1 else 0
  (s.reg 0x10028 &&& 0x20000) ||| w32 (bit (s.sys.straps.leader && !s.hostMode) * 2 ^ 16 + src * 2 ^ 14 + s.cc.runahead.length)
/-- The bits of a TILE word that are not reserved: those of FORMAT but [4:0], and words 0–8 (R14, R236). -/
def tileMask (off : Nat) : Word := if off % 0x40 = 0x14 then 0xFFFFFFE0 else if off % 0x40 < 0x24 then 0xFFFFFFFF else 0
/-- Blocks 0x1_0000 to 0x1_4000; reserved bits read 0 (R14; log entry 78). -/
def State.ccVal (s : State) (off : Nat) : Word :=
  if off = 0x10004 then (s.reg off &&& 0x100) ||| w32 (s.ctxState .e1 * 2 ^ 6 + s.ctxState .e0 * 2 ^ 4 + s.ctxState .acc)
  else if off = 0x10010 then w32 (s.cc.pl.toNat * 2 ^ 8 + s.cc.p.toNat)
  else if off = 0x10028 then s.atomStatus
  else if off = 0x10040 then s.imemStatus
  else if 0x10200 ≤ off ∧ off < 0x1025C then s.qstat ((off - 0x10200) / 4)
  else if 0x10300 ≤ off ∧ off < 0x10320 then s.tqstat ((off - 0x10300) / 4)
  else if 0x11000 ≤ off ∧ off < 0x13000 then s.reg off &&& tileMask off
  else if 0x13000 ≤ off ∧ off < 0x13400 then (if off % 8 = 0 then lo32 (s.ctr off) else hi32 (s.ctr (off - 4)))
  else if off = 0x14004 then w32 (bit s.cc.e1.run * 2 + bit s.cc.e0.run)
  else s.reg off

/-! Stills, slots and engines -/

/-- The active and shadow tile of still i. -/
def State.activeOf (s : State) (i : Nat) : Option StatTile := if s.still.split && decide (2 ≤ i) then s.still.actB else s.still.actA
def State.shadowOf (s : State) (i : Nat) : Option StatTile := if s.still.split && decide (2 ≤ i) then s.still.shaB else s.still.shaA
/-- STILL_STATUS (R112). -/
def State.stillStatus (s : State) (i : Nat) : Word :=
  let on := !s.stillFenced i
  let runs := s.fillRuns.filter fun (r : FillRun) => r.stills.contains i
  let half := fun (h : Nat) => bit (runs.any fun r => r.halves.contains h)
  w32 (s.mEff i * 2 ^ 24 + s.cubeFence i * 2 ^ 16 + bit (s.stillFenced i) * 2 ^ 8 + bit (on && (s.activeOf i).isSome) * 16 +
    bit (on && (s.shadowOf i).isSome) * 8 + bit (!runs.isEmpty) * 4 + half 1 * 2 + half 0)
/-- Blocks 0x2_0000 to 0x2_8000. -/
def State.stillVal (s : State) (off : Nat) : Word :=
  if off < 0x24000 ∧ off % 0x1000 = 0 then s.stillStatus ((off - 0x20000) / 0x1000)
  else if off = 0x24004 then
    w32 (s.cc.pack.length * 2 ^ 8 + ((s.usable.map fun i => 2 ^ i).sum) * 2 ^ 4 + bit s.still.split)
  else if off = 0x24008 then s.still.mask
  else s.reg off
/-- Blocks 0x3_0000 to 0x3_8000 (R140, R141). -/
def State.slotVal (s : State) (off : Nat) : Word :=
  if off < 0x38000 then slotWord (s.slot ((off - 0x30000) / 0x80)) (off % 0x80 / 4)
  else if 0x38020 ≤ off ∧ off < 0x38040 then
    w32 (((List.range 32).map fun b => bit (s.slot (8 * (off - 0x38020) + b)).promoted * 2 ^ b).sum)
  else if off = 0x38050 then ((List.range 8).foldl (fun (f : Flags) e => f ||| s.flags e) 0).setWidth 32
  else s.reg off
/-- The number of a row-engine operation, from 1 in the order of R163. -/
def rowNum : RowKind → Nat
  | .lnFwd => 1
  | .rmsFwd => 2
  | .softmaxFwd => 3
  | .lnBwd => 4
  | .rmsBwd => 5
  | .softmaxBwd => 6
  | .merge => 7
  | .finalise => 8
/-- Blocks 0x4_0000 to 0x4_6000 (R171, R210, R339). -/
def State.engVal (s : State) (off : Nat) : Word :=
  if off = 0x40000 then w32 (bit s.vec.drain.isSome * 2 ^ 16 + s.cc.e0.vlen)
  else if 0x41000 ≤ off ∧ off < 0x410F0 then
    let v := s.sumReg ((off - 0x41000) / 0x10)
    if off % 0x10 = 8 then v.idx else w32 (bit v.empty * 8 + v.kind.toNat)
  else if off = 0x410F8 then Sum.reset.idx
  else if 0x410F0 ≤ off ∧ off < 0x41100 then 0
  else if 0x41100 ≤ off ∧ off < 0x4113C then (s.sumReg ((off - 0x41100) / 4)).cnt
  else if off = 0x42000 then (match s.row with | some r => w32 (2 ^ 16 + rowNum r.op.kind) | none => 0)
  else s.reg off

/-! DMA and sync -/

/-- STATE of a transfer's stream-table entry (R276). -/
def Xfer.state (x : Xfer) : Nat :=
  if x.timedOut then 5 else if x.err.any fun e => decide (2 ≤ e) then 6 else if x.fault.isSome then 3 else if x.placed then 2 else 1
/-- Word w of a stream-table entry (R276); the entry of Flacon's writes names no channel, tag or kind (log entry 42). -/
def State.streamWord (s : State) (i w : Nat) : Word :=
  match s.stream i with
  | .free => 0
  | .xfer ch =>
    (match (s.xfersOf ch).find? fun x => x.stream == some i with
    | none => 0
    | some x =>
      let k := fun (n : Nat) => getAt 0 x.indices n % 2 ^ 16
      match w with
      | 0 => w32 (x.state * 2 ^ 28 + x.kind * 2 ^ 24 + ch * 2 ^ 16 + x.cmd.tag.toNat)
      | 1 => w32 (k 1 * 2 ^ 16 + k 0)
      | 2 => w32 (k 3 * 2 ^ 16 + k 2)
      | 3 => w32 (k 5 * 2 ^ 16 + k 4)
      | 4 => w32 (bit x.stale * 2 ^ 31 + bit x.poisoned * 2 ^ 30 + bit x.err.isSome * 2 ^ 29 + x.outst.length)
      | 5 => w32 (x.doneBits / 8)
      | 6 => w32 (x.doneBits / 8 / 2 ^ 32 % 2 ^ 16)
      | _ => 0)
  | .inbound n =>
    (match w with
    | 0 => w32 (4 * 2 ^ 28)
    | 1 => w32 (n.ep % 2 ^ 24)
    | 2 => w32 (n.stream % 2 ^ 20)
    | 3 => w32 (n.bytes / 2 ^ 32 % 2 ^ 16)
    | 4 => w32 (bit n.sig.isSome * 2 ^ 28)
    | 5 => w32 n.ledger
    | 6 => w32 (n.ledger / 2 ^ 32 % 2 ^ 16)
    | _ => w32 n.bytes)
  | .sync o =>
    (match w with
    | 0 => w32 ((if o.timedOut then 5 else 2) * 2 ^ 28 + ((o.cmd.map EngCmd.tag).getD 0).toNat)
    | 4 => 1
    | _ => 0)
  | .flacon =>
    (match w with
    | 0 => w32 ((if s.flacon.wlate then 5 else if s.flacon.wr.isEmpty then 2 else 1) * 2 ^ 28)
    | 4 => w32 s.flacon.wout.length
    | _ => 0)
/-- Block 0x5_0000 (R288). FAULTED: the transfer that heads the channel's requests waits for RESUME, whether or not earlier
transfers still drain. -/
def State.dmaVal (s : State) (off : Nat) : Word :=
  if off = 0x50004 then w32 s.dma.outstanding
  else if off = 0x50018 then w32 (bit (!s.dma.faults.isEmpty))
  else if 0x500A0 ≤ off ∧ off < 0x500C0 then s.streamWord (s.regFld 0x50080 0 20) ((off - 0x500A0) / 4)
  else if 0x50100 ≤ off ∧ off < 0x50140 then
    let l := s.xfersOf ((off - 0x50100) / 4)
    s.reg off ||| w32 (bit (!l.isEmpty) * 2 ^ 31 + bit (l.any fun x => x.state == 3) * 2 ^ 30)
  else if 0x50140 ≤ off ∧ off < 0x50180 then w32 (Tab.get [] s.cc.afifo ((off - 0x50140) / 4)).length
  else s.reg off
/-- Block 0x6_0000 (R320). -/
def State.syncVal (s : State) (off : Nat) : Word :=
  if off = 0x60004 then w32 (s.sync.polls.length * 2 ^ 16 + s.sync.watch.length)
  else if 0x60400 ≤ off ∧ off < 0x61400 then
    let w := s.watch ((off - 0x60400) / 0x10)
    match off % 0x10 with
    | 0 => if w.owner = 0 then 0 else w32 (2 ^ 31 + w.owner * 2 ^ 29 + w.hostsig.toNat * 2 ^ 24 + bit w.sem * 2 ^ 20 + w.party)
    | 4 => w.addr
    | 8 => w.target
    | _ => 0
  else s.reg off

/-! Resilience, debug and port -/

/-- Block 0x7_0000 (R376). -/
def State.cvuVal (s : State) (off : Nat) : Word :=
  if off < 0x70400 ∧ off % 0x40 = 4 then
    let h := s.cvuHold ((off - 0x70000) / 0x40)
    s.reg off ||| w32 (bit (decide (h ≠ .free)) * 2 ^ 31 + bit (decide (h = .flacon)) * 2 ^ 30)
  else s.reg off
/-- FENCE_STATUS (R377). -/
def fenceNum : FenceState → Nat
  | .inService => 0
  | .fencing => 1
  | .fenced => 2
def State.fenceStatus (s : State) : Word :=
  w32 (bit (s.sys.fuseBad || (Tab.get 0 s.sys.shadow 81).getLsbD 20) * 2 ^ 8 + s.sys.fenceCause * 2 ^ 4 + fenceNum s.sys.fence)
/-- Block 0x8_0000 (R377). -/
def State.flaconVal (s : State) (off : Nat) : Word :=
  if off = 0x80000 then s.fenceStatus
  else if off = 0x80008 then (s.reg off &&& 0x1E) ||| w32 (bit s.flaconBusy * 2 ^ 31 + bit s.flacon.live * 2 ^ 30)
  else if off = 0x800A4 then Tab.get 0 s.flacon.tol (s.regFld 0x800A0 0 12)
  else s.reg off

/-- Word w of a Blotter record (R465). -/
def blotWord (r : BlotRec) (w : Nat) : Word :=
  match w with
  | 0 => r.data
  | 1 => w32 (r.type * 2 ^ 24 + r.source % 16 * 2 ^ 20 + r.tag.toNat)
  | 2 => lo32 r.aclk
  | _ => hi32 r.aclk
/-- Block 0x9_0000 (R471): under DEBUG_LOCK only LOCKED reads (R460). -/
def State.debugVal (s : State) (off : Nat) : Word :=
  if s.debugLocked then (if off = 0x90000 then 0x80000000 else 0)
  else if off = 0x90000 then (s.reg off &&& 0xF00) ||| w32 (bit s.cc.dispExe.stopped * 2 + bit s.cc.dispAcc.stopped)
  else if off = 0x90204 then w32 s.logs.blot.length
  else if 0x90210 ≤ off ∧ off < 0x90220 then
    (match s.logs.blot[s.regFld 0x90208 0 12]? with | some r => blotWord r ((off - 0x90210) / 4) | none => 0)
  else s.reg off

/-- PORT_STATUS (R412). -/
def State.portStatus (s : State) : Word :=
  let ups := fun (f : Nat → Bool) => ((List.range 8).map fun i => bit (f i) * 2 ^ i).sum
  w32 (s.port.fclk % 2 ^ 12 * 2 ^ 20 + s.port.state * 2 ^ 18 + ups (fun i => (s.inLane i).up) * 2 ^ 8 + ups fun i => (s.outLane i).up)
/-- Block 0xA_0000 (R289, R412). -/
def State.portVal (s : State) (off : Nat) : Word :=
  if off = 0xA0000 then w32 (bit (s.port.state == 1 || s.port.state == 2))
  else if off = 0xA0004 then s.portStatus
  else if off = 0xA0020 then w32 (bit s.cc.bcOpen * 2 ^ 16 + s.cc.granted)
  else if 0xA0080 ≤ off ∧ off < 0xA00A0 then
    let c := (s.outLane ((off - 0xA0080) / 4)).cr
    w32 (getCr c 3 * 2 ^ 24 + getCr c 2 * 2 ^ 16 + getCr c 1 * 2 ^ 8 + getCr c 0)
  else s.reg off

/-! Reads -/

/-- The value of a 32-bit register at a word-aligned offset; an unassigned one reads 0 (R18). -/
def State.regVal (s : State) (off : Nat) : Word :=
  match off / 0x10000 with
  | 0x0 =>
    (match off / 0x1000 with
    | 0 => s.idVal off
    | 1 => s.mgmtVal off
    | 2 => s.pwrVal off
    | 3 => s.pwrVal off
    | 4 => s.intVal off
    | _ => 0)
  | 0x1 => s.ccVal off
  | 0x2 => s.stillVal off
  | 0x3 => s.slotVal off
  | 0x4 => s.engVal off
  | 0x5 => s.dmaVal off
  | 0x6 => s.syncVal off
  | 0x7 => s.cvuVal off
  | 0x8 => s.flaconVal off
  | 0x9 => s.debugVal off
  | 0xA => s.portVal off
  | 0xF => Tab.get 0 s.sys.shadow ((off - 0xF0000) / 4 + (if off < 0xF0200 then 0 else 2 ^ 20))
  | _ => 0

/-- Whether a register is hidden by DEBUG_LOCK (R460). -/
def State.hidden (s : State) (off : Nat) : Bool := s.debugLocked && decide (0x90000 ≤ off ∧ off < 0xA0000)

/-- A read through the register access port (R113, R402, R450): the value, and the state after. -/
def State.regRead (off0 : Nat) (s : State) : Word × State :=
  let off := off0 % 0x100000 / 4 * 4
  if off = 0x0100C then s.mboxRspRead
  else if s.hidden off then (s.debugVal off, s)
  else if isPair off then (lo32 (s.pairVal off), { s with latch := Tab.insert s.latch off (hi32 (s.pairVal off)) })
  else if 4 ≤ off && isPair (off - 4) then
    (match s.latch.find? fun e => e.1 == off - 4 with
    | some e => (e.2, { s with latch := s.latch.erase (off - 4) })
    | none => (hi32 (s.pairVal (off - 4)), s))
  else (s.regVal off, s)
/-- A read, its value on REG_RDATA. -/
def State.readOut (off : Nat) (s : State) : State := { (s.regRead off).2 with rdata := (s.regRead off).1 }

/-- COUNTER_LOW_READ (R113, R402): a read through the register access port. -/
def execCounterLowRead (off : BitVec 20) (s : State) : Out := runSlow s (State.readOut off.toNat)

/-! Writes -/

/-- A write that takes the bits of a mask (RW fields; the rest is reserved). -/
def State.putMasked (off : Nat) (mask v : Word) (s : State) : State := s.setReg off ((s.reg off &&& ~~~mask) ||| (v &&& mask))
/-- The 64-bit registers that take effect when their high word is written (R225, R373): the low word is held. -/
def State.putPair (off : Nat) (v : Word) (s : State) : State :=
  if off % 8 = 0 then { s with lowHeld := Tab.insert s.lowHeld off v }
  else
    let lo := ((s.lowHeld.find? fun e => e.1 == off - 4).map Prod.snd).getD (lo32 (s.ctr (off - 4)))
    { s.setCtr (off - 4) (mk64 v lo) with lowHeld := s.lowHeld.erase (off - 4) }
/-- One word of a 64-bit register that is written word by word. -/
def halfPut (d : DWord) (off : Nat) (v : Word) : DWord := if off % 8 = 0 then mk64 (hi32 d) v else mk64 v (lo32 d)

/-- Block 0x0_1000. -/
def State.mgmtPut (off : Nat) (v : Word) (s : State) : State :=
  match off with
  | 0x01000 => if v.getLsbD 28 then { s with mgmt := { s.mgmt with overrun := false } } else s
  | 0x01004 =>
    let s := if v.getLsbD 0 then s.mboxSubmit else s
    if v.getLsbD 1 then s.mboxDiscard else s
  | 0x01008 => s.mboxReqWrite v
  | 0x01010 => s.mringCfgWrite v
  | 0x01014 => if s.regBit 0x01010 31 then s else s.setReg off (v &&& 0xFFFFFFC0)
  | 0x01018 => if s.regBit 0x01010 31 then s else s.setReg off (v &&& 0xFFFFFFC0)
  | 0x0101C => if v.getLsbD 31 then s.mringErrClear else s
  | _ => s

/-- A write of a register that a block holds without an effect of its own, kept by its mask. -/
def State.pwrPut (off : Nat) (v : Word) (s : State) : State :=
  match off with
  | 0x02000 => s.pwrModeWrite v
  | 0x02008 => s.putMasked off 0xFF000FFF v
  | 0x0200C => s.clrReg off (v &&& 0x1C0)
  | 0x02014 => if fld v 0 8 < fld v 8 8 ∧ fld v 8 8 < fld v 16 8 then s.putMasked off 0x00FFFFFF v else s
  | 0x02018 => s.putMasked off 0xFFFF v
  | 0x0201C => s.putMasked off 0xC0FFFFFF v
  | 0x02020 => if fld v 0 8 < fld v 8 8 then s.putMasked off 0xFFFF v else s
  | 0x03080 => s.ageWrite false v
  | 0x03084 => s.ageWrite true v
  | 0x03088 => s.putMasked off 0xF v
  | n => if 0x03040 ≤ n ∧ n < 0x03080 then s.vfUserWrite ((n - 0x03040) / 4) v else s

/-- ERRLOG_CTRL (R468): remove the oldest entry, or every entry. -/
def State.errPop (n : Nat) (s : State) : State := { s with logs := { s.logs with errs := s.logs.errs.drop n } }
def State.errClear (s : State) : State := { s with logs := { s.logs with errs := [] } }
/-- ERRLOG_POP (R468). -/
def execErrlogPop (s : State) : Out := runSlow s (State.errPop 1)
/-- ERRLOG_CLEAR (R468). -/
def execErrlogClear (s : State) : Out := runSlow s State.errClear

/-- Block 0x0_4000. -/
def State.intPut (off : Nat) (v : Word) (s : State) : State :=
  match off with
  | 0x04000 => s.clrReg off (v &&& 7)
  | 0x04004 => s.putMasked off 7 v
  | 0x04014 => if v.getLsbD 1 then s.errClear else if v.getLsbD 0 then s.errPop 1 else s
  | 0x04020 => s.putMasked off 0x1FF v
  | _ => s

/-- A field outside [lo, hi] reads back as d. -/
def within (lo hi d n : Nat) : Nat := if lo ≤ n ∧ n ≤ hi then n else d

/-- Blocks 0x1_0000 to 0x1_4000 (R210, R225, R238, R250). -/
def State.ccPut (off : Nat) (v : Word) (s : State) : State :=
  match off with
  | 0x10000 => s.putMasked off 1 v
  | 0x10004 => s.clrReg off (v &&& 0x100)
  | 0x10008 =>
    let s := if v.getLsbD 0 then s.skipAcc else s
    if v.getLsbD 1 then s.skipExe else s
  | 0x10010 => { s with cc := { s.cc with p := v.setWidth 8 } }
  | 0x10020 => if s.cc.atomStarted then s else s.setReg off (w32 (within 4 15 4 (fld v 0 4)))
  | 0x10024 => if s.cc.atomStarted then s else s.setReg off (v &&& 0xFFFFFFC0)
  | 0x10028 => if v.getLsbD 17 then s.ringErrClear else s
  | 0x14000 => s.putMasked off (if s.regBit 0x14000 0 then 0xFFFF0000 else 0xFFFF0001) v
  | n =>
    if 0x10300 ≤ n ∧ n < 0x10320 then s.tqBind ((n - 0x10300) / 4) v
    else if 0x10400 ≤ n ∧ n < 0x10800 then s.setReg n v
    else if 0x11000 ≤ n ∧ n < 0x13000 then s.setReg n (v &&& tileMask n)
    else if 0x13000 ≤ n ∧ n < 0x13400 then s.putPair n v
    else if 0x13800 ≤ n ∧ n < 0x14000 ∧ n % 0x80 < 0x60 ∧ n % 16 ≠ 12 then s.setReg n (if n % 16 = 0 then v &&& 0xFFF1FFFF else v)
    else s

/-- Blocks 0x2_0000 to 0x2_8000. -/
def State.stillPut (off : Nat) (v : Word) (s : State) : State :=
  if off < 0x24000 ∧ off % 0x1000 = 0x80 then s.clearFlags ((off - 0x20000) / 0x1000) (v.setWidth 4)
  else if off = 0x24000 then s.stillCfgWrite v
  else if 0x28000 ≤ off ∧ off < 0x28400 then s.setReg off v
  else s

/-- A write of a slot's registers (R140). HIST_VALID holds what is written, 17–31 too, for which the spec gives no effect (log
entry 79). -/
def State.slotPut (n o : Nat) (v : Word) (s : State) : State :=
  let t := s.slot n
  match o with
  | 0x00 => s.setSlot n { t with cfg := v &&& 0xF90F0700 }
  | 0x04 => s.setSlot n { t with ptr := fld v 20 4, valid := fld v 15 5, promVan := t.promVan && !v.getLsbD 1, promOvf := t.promOvf && !v.getLsbD 0 }
  | 0x08 => s.setFactor n false v 0 15
  | 0x0C => s.setFactor n true v 0 15
  | 0x10 => s.setSlot n { t with maxCur := v }
  | 0x14 => s.setSlot n { t with ovfT := v &&& 0x1FFFFF }
  | 0x18 => s.setSlot n { t with vanT := v &&& 0x1FFFFF }
  | 0x1C =>
    let t := if v.getLsbD 2 then t.resetHist else t
    let t := if v.getLsbD 1 then t.clearCounts else t
    s.setSlot n (if v.getLsbD 0 then t.commit else t)
  | k => if 0x40 ≤ k then s.setSlot n { t with hist := Tab.set 0 t.hist ((k - 0x40) / 4) v } else s
/-- Blocks 0x3_0000 to 0x3_8000. -/
def State.scalePut (off : Nat) (v : Word) (s : State) : State :=
  if off < 0x38000 then s.slotPut ((off - 0x30000) / 0x80) (off % 0x80) v
  else if 0x38020 ≤ off ∧ off < 0x38040 then
    (List.range 32).foldl (fun s b =>
      if v.getLsbD b then s.setSlot (8 * (off - 0x38020) + b) (s.slot (8 * (off - 0x38020) + b)).promoteClear else s) s
  else if 0x38040 ≤ off ∧ off < 0x38050 then s.clearFlags (4 + (off - 0x38040) / 4) (v.setWidth 4)
  else s

/-- Summary registers 0–14, for restore (R171). -/
def State.sumPut (off : Nat) (v : Word) (s : State) : State :=
  let i := (off - 0x41000) / 0x10
  let t := s.sumReg i
  match off % 0x10 with
  | 8 => s.setSumReg i { t with idx := v, empty := false }
  | 0xC => s
  | _ => s.setSumReg i { t with val := halfPut t.val off v, empty := false }

/-- Blocks 0x4_0000 to 0x4_6000 (R171, R210, R339). -/
def State.engPut (off : Nat) (v : Word) (s : State) : State :=
  match off with
  | 0x40004 => s.putMasked off 1 v
  | 0x43000 => if s.cc.seedLocked then s else s.setReg off v
  | 0x43004 => if s.cc.seedLocked then s else s.setReg off v
  | 0x43008 => s.setReg off v
  | 0x4300C => { s.putMasked off 1 v with cc := { s.cc with seedLocked := s.cc.seedLocked || v.getLsbD 0 } }
  | 0x45000 => s.setReg off v
  | 0x45004 =>
    let c := s.reg 0x45000
    let n := signedOf 8 (fld v 0 8)
    if signedOf 8 (fld c 0 8) ≤ n ∧ n ≤ signedOf 8 (fld c 8 8) then s.putMasked off 0xFF v else s
  | 0x45008 => s.setCtr 0x45008 (halfPut (s.ctr 0x45008) off v)
  | 0x4500C => s.setCtr 0x45008 (halfPut (s.ctr 0x45008) off v)
  | 0x45010 => s.clrReg off (v &&& 0xC)
  | n =>
    if 0x41000 ≤ n ∧ n < 0x410F0 then s.sumPut n v
    else if n = 0x410F0 then (if v.getLsbD 0 then { s with vec := { s.vec with nonfinite := false } } else s)
    else if 0x41100 ≤ n ∧ n < 0x4113C then s.setSumReg ((n - 0x41100) / 4) { s.sumReg ((n - 0x41100) / 4) with cnt := v }
    else if 0x46000 ≤ n ∧ n < 0x46400 then
      (match n % 0x10 with
      | 0 => s.setReg n (w32 (fld v 31 1 * 2 ^ 31 + within 8 256 32 (fld v 0 9)))
      | 4 => s.setReg n v
      | 0xC => s.clrReg n (v &&& 2)
      | _ => s)
    else s

/-- Whether the RWL fields that the enable of the fabric port locks are locked (R288, R289, R397). -/
def State.portLocked (s : State) : Bool := s.port.state == 1 || s.port.state == 2
/-- Block 0x5_0000 (R288). -/
def State.dmaPut (off : Nat) (v : Word) (s : State) : State :=
  match off with
  | 0x50000 =>
    let t := w32 (within 16 30 24 (fld v 8 5) * 2 ^ 8)
    s.setReg off ((if s.portLocked then s.reg off &&& 0x1FFF0000 else v &&& 0x1FFF0000) ||| t)
  | 0x50010 => if s.portLocked then s else s.setReg off (v &&& 0xFFFFFFC0)
  | 0x50014 => if s.portLocked then s else s.setReg off (w32 (within 4 12 6 (fld v 0 4)))
  | 0x50020 => if fld v 30 2 = 1 then s.streamResume (fld v 0 20) else if fld v 30 2 = 2 then s.streamAbort (fld v 0 20) else s
  | 0x50030 => if s.portLocked then s else s.setReg off (v &&& 0xFFFF0001)
  | 0x50034 => if v.getLsbD 0 then s.atcInv else s
  | 0x50040 => s.putMasked off 0x1F01 v
  | 0x50080 => s.putMasked off 0xFFFFF v
  | n => if 0x50100 ≤ n ∧ n < 0x50140 then s.clrReg n (v &&& 0xE0000) else s

/-- A register of barrier context b (R308, R320). -/
def State.barPut (b o : Nat) (v : Word) (s : State) : State :=
  let off := 0x60100 + 0x20 * b + o
  if s.outstanding b then s
  else
    match o with
    | 0x00 => s.setReg off (v &&& 0xF000FFFF)
    | 0x04 => s.setReg off v
    | 0x08 => s.setReg off v
    | 0x0C => s.setReg off v
    | 0x10 => s.setReg off (v &&& 0x3FFF1FFF)
    | 0x14 => s.setReg off v
    | _ => s
/-- SYNC_CFG as it reads back (R320). -/
def syncCfg (n : Nat) : Nat := if n = 0 then 0 else within 16 40 30 n
/-- Block 0x6_0000. -/
def State.syncPut (off : Nat) (v : Word) (s : State) : State :=
  match off with
  | 0x60000 => s.setReg off (w32 (syncCfg (fld v 0 6)))
  | 0x60008 => s.setReg off v
  | 0x6000C => if v.getLsbD 0 then s.clrReg 0x60010 0x100 else s
  | 0x60020 => s.clrReg off v
  | 0x60024 => s.setReg off v
  | 0x60030 => s.setReg off v
  | 0x60034 => s.setReg off v
  | 0x60038 =>
    let s := s.setReg off (v &&& 0x1F100000)
    if v.getLsbD 0 then s.watchArm else s
  | n =>
    if 0x60100 ≤ n ∧ n < 0x60300 then s.barPut ((n - 0x60100) / 0x20) (n % 0x20) v
    else if 0x60400 ≤ n ∧ n < 0x61400 ∧ n % 16 = 0 ∧ v.getLsbD 31 then s.watchFree ((n - 0x60400) / 16)
    else s

/-- A register of CVU context c (R373, R376). -/
def State.cvuPut (c o : Nat) (v : Word) (s : State) : State :=
  let off := cvuBase c + o
  let free := decide (s.cvuHold c = .free)
  match o with
  | 0x00 => s.cvuWriteCfg c v
  | 0x04 => s.clrReg off (v &&& 6)
  | 0x30 => s.putPair off v
  | 0x34 => s.putPair off v
  | 0x38 => s.putMasked off 0xFFFF v
  | k => if free && decide (8 ≤ k ∧ k < 0x28) then s.putPair off v else s

/-- Block 0x8_0000 (R377). -/
def State.flaconPut (off : Nat) (v : Word) (s : State) : State :=
  match off with
  | 0x80004 =>
    let v := v &&& 0xFFFFFEFF
    s.setReg off (if fld v 16 4 = 0 then setFld v 16 4 4 else v)
  | 0x80008 => s.clrReg off (v &&& 0x1C)
  | 0x8000C => s.setReg off v
  | 0x80010 => s.setReg off v
  | 0x80014 => s.setReg off v
  | 0x80018 => s.setReg off v
  | 0x8001C => s.putMasked off 0xFF v
  | 0x80020 => s.putMasked off 0xFFF v
  | 0x80024 =>
    let s := if v.getLsbD 0 then s.registryWrite else s
    if v.getLsbD 1 then s.registryRead else s
  | 0x80080 => s.putMasked off 0x1FFF v
  | 0x80084 =>
    let s := if v.getLsbD 0 then s.gtWrite else s
    if v.getLsbD 1 then s.gtRead else s
  | 0x800A0 => s.putMasked off 0xFFF v
  | n => if (0x80040 ≤ n ∧ n < 0x80080) ∨ (0x80090 ≤ n ∧ n < 0x800A0) then s.setReg n v else s

/-- BP_CFG as written: THREAD 3 reads back 0 (R471). -/
def bpCfg (v : Word) : Word :=
  let v := v &&& 0xF8
  if fld v 4 2 = 3 then setFld v 4 2 0 else v
/-- A stopped thread goes on without matching the command it stopped at (R464). -/
def State.dbgResume (t : Thread) (s : State) : State :=
  let d := s.disp t
  if d.stopped then (s.setDisp t { d with stopped := false, skipBp := true }).settleCredits else s
/-- DBG_RESUME_ACC (R464). -/
def execDbgResumeAcc (s : State) : Out := runSlow s fun s => if s.hidden 0x90004 then s else s.dbgResume .acc
/-- DBG_RESUME_EXE (R464). -/
def execDbgResumeExe (s : State) : Out := runSlow s fun s => if s.hidden 0x90004 then s else s.dbgResume .exe
/-- Empty the Blotter (R466). -/
def State.blotClear (s : State) : State := { s with logs := { s.logs with blot := [] } }
/-- BLOT_CLEAR (R466, R471). -/
def execBlotClear (s : State) : Out := runSlow s fun s => if s.hidden 0x90228 then s else s.blotClear

/-- Block 0x9_0000 (R471). -/
def State.debugPut (off : Nat) (v : Word) (s : State) : State :=
  if s.debugLocked then s
  else
    match off with
    | 0x90000 => s.clrReg off (v &&& 0xF00)
    | 0x90004 =>
      let s := if v.getLsbD 0 then s.dbgResume .acc else s
      if v.getLsbD 1 then s.dbgResume .exe else s
    | 0x90200 => s.putMasked off 0xC000FFFF v
    | 0x90208 => s.putMasked off 0xFFF v
    | 0x90228 => if v.getLsbD 0 then s.blotClear else s
    | n =>
      if 0x90100 ≤ n ∧ n < 0x90180 then
        (match n % 0x20 with
        | 0x0 => s.setReg n (bpCfg v)
        | 0x4 => s.setReg n v
        | 0x8 => s.setReg n v
        | 0xC => s.setReg n (v &&& 0xFFFF)
        | _ => s)
      else s

/-- Block 0xA_0000 (R289, R412). -/
def State.portPut (off : Nat) (v : Word) (s : State) : State :=
  match off with
  | 0xA0000 => if v.getLsbD 0 then s.portEnable else s
  | 0xA0008 => s.setReg off (w32 (within 1 15 8 (fld v 0 4)))
  | 0xA000C => if s.portLocked then s else s.setReg off (v &&& 0xFFFFFF)
  | 0xA0010 => if s.portLocked then s else s.setReg off (v &&& 0xFFFFF)
  | 0xA0014 => if s.portLocked then s else s.setReg off (w32 (within 1 5 3 (fld v 0 3)))
  | 0xA0018 => if s.portLocked then s else s.setReg off (w32 (within 6 30 12 (fld v 0 5)))
  | _ => s

/-- A write of a block's CNT_CTRL (R112): FREEZE, then CLEAR. -/
def State.cntCtrlPut (off : Nat) (v : Word) (s : State) : State :=
  let s := s.putMasked off 1 v
  if v.getLsbD 1 then s.clearCounters off else s

/-- A write through the register access port (R17, R18, R402). -/
def State.regWrite (off0 : Nat) (v : Word) (s : State) : State :=
  let off := off0 % 0x100000 / 4 * 4
  if isCntCtrl off then s.cntCtrlPut off v
  else
    match off / 0x10000 with
    | 0x0 =>
      (match off / 0x1000 with
      | 1 => s.mgmtPut off v
      | 2 => s.pwrPut off v
      | 3 => s.pwrPut off v
      | 4 => s.intPut off v
      | _ => s)
    | 0x1 => s.ccPut off v
    | 0x2 => s.stillPut off v
    | 0x3 => s.scalePut off v
    | 0x4 => s.engPut off v
    | 0x5 => s.dmaPut off v
    | 0x6 => s.syncPut off v
    | 0x7 => if off < 0x70400 then s.cvuPut ((off - 0x70000) / 0x40) (off % 0x40) v else s
    | 0x8 => s.flaconPut off v
    | 0x9 => s.debugPut off v
    | 0xA => s.portPut off v
    | _ => s

/-- REGISTER_WRITE (R17). -/
def execRegisterWrite (off : BitVec 20) (v : Word) (s : State) : Out := runSlow s (State.regWrite off.toNat v)

end Sys2Proof.Machine
end

