-- ==== Sys2Proof/Machine/Reset.lean ====
section
/-! DEFINITION. What CORE_RESET_N, the RESET opcode and UNFENCE leave (R250, R288, R320, R345, R376, R405, R412, R440,
R442, R457). -/

namespace Sys2Proof.Machine

/-- The registers that a core reset leaves unchanged: identity, the management controller's (R442), VF_USER and
AGE_OFFSET (R440), the interrupt and error-log block, GEN_SEED (R210), and the debug block's settings (R464). -/
def keepReg (off : Nat) : Bool :=
  decide (off < 0x02000) || decide (0x03040 ≤ off ∧ off < 0x03084) || decide (0x04000 ≤ off ∧ off < 0x05000) ||
  off == 0x43000 || off == 0x43004 ||
  (decide (0x90000 ≤ off ∧ off < 0xA0000) && off ≠ 0x90010 && off ≠ 0x90018)

/-- The power controller after a core reset (R420, R423, R440): the pins, the last budget taken, the telemetry frames and
the ageing history are kept. -/
def Pwr.coreReset (p : Pwr) : Pwr := { p with
  n := 7, nNext := none, nBudget := 7, nTherm := 22, trip := false, ramp := none, sillage := none, droop := 0
  excSupply := 0, excGradient := false, excBudget := false, hint := 0, reported := [], held := [], mode := 0, fixedN := 20 }
/-- The resilience block after a core reset (R367, R376): the group table and LIVE are kept. -/
def Flacon.coreReset (f : Flacon) : Flacon := { Flacon.reset with gt := f.gt, live := f.live }

/-- The blocks after a core reset (R405): local memory with its check bits, the replay store, instruction memory, the
accumulators and the vector registers are kept; IMEM_STATUS goes to its reset value with the control core's other registers
(R250). -/
def State.blockReset (s : State) : State :=
  let nmax := s.ageNmax
  let keep : {α : Type} → Tab α → Tab α := fun t => t.filter fun e => keepReg e.1
  let s := { s with
    regs := keep s.regs, ctrs := keep s.ctrs, latch := keep s.latch, lowHeld := keep s.lowHeld
    cc := Cc.reset, still := StillArr.reset, slots := [], row := none, upd := none
    vec := { Vec.reset with v := s.vec.v }, dma := Dma.reset, sync := { Sync.reset with lineAck := s.sync.lineAck }
    flacon := s.flacon.coreReset, port := Port.reset, pwr := s.pwr.coreReset }
  s.setRegFld 0x03084 16 5 nmax

/-- RESET has the effects of CORE_RESET_N stated block by block; a fence is kept; CORE_STATE becomes 2, unless it was 5
(R442, R457). -/
def State.coreReset (s : State) : State :=
  let s := s.blockReset
  let s := { s with mgmt := { s.mgmt with joined := false, modeNext := none } }
  if s.sys.core == .bootFailed then s else s.setCore .mgmtReady

/-- The pin CORE_RESET_N asserted: it also ends a running deferred operation, a FENCE with OK and the core FENCED, any other
with STATE (R457). -/
def State.pinReset (s : State) : State :=
  let s :=
    if s.sys.fence == .fencing then (s.fenceDone 1).complete 0 0xFFFF 0 []
    else s.overtake
  s.coreReset

/-- CORE_RESET_N (R405): nothing beyond the level of the pin while PORESET_N is asserted; as it ends the droop detectors act
again (R430). -/
def execCoreResetN (level : Bool) (s : State) : Out :=
  let t := { s with sys := { s.sys with coreReset := !level } }
  if level then .next t.droopAll
  else if s.sys.poreset || s.sys.coreReset then .next t
  else .next t.pinReset.takeMail

/-- RESET (R457): the reply is sent when the reset is complete. -/
def execReset (s : State) : Out := withPacket 0x02 s fun p s => s.coreReset.ok p []

/-- Write ATOM_RING.BASE and ATOM_CFG.SIZE_LOG2 (R250, R458). -/
def State.setRing (base : Word) (size : Nat) (s : State) : State :=
  (s.setReg 0x10024 (base &&& 0xFFFFFFC0)).setReg 0x10020 (w32 (within 4 15 4 size))

/-- The core goes to a mode at the next macro-command boundary (R243, R458). -/
def State.nextMode (c : CoreState) (s : State) : State := ({ s with mgmt := { s.mgmt with modeNext := some c } }).settleMode
/-- The Atomiser starts in host-stream mode: its RWL fields lock, and it reads the ring's header (R215, R243, R458). -/
def State.startStream (s : State) : State :=
  (({ s with cc := { s.cc with atomStarted := true } }).ringHeader).nextMode .hostStream

/-- UNFENCE (R345). -/
def execUnfence (s : State) : Out := withPacket 0x06 s fun p s =>
  let size := fld (p.w 1) 0 4
  if s.sys.fence ≠ .fenced || s.sys.fenceCause ≠ 1 then s.refuse p 6
  else if size < 4 then s.refuse p 4 1
  else
    let s := s.coreReset
    let s := ({ s with sys := { s.sys with fenceCause := 0 } }).setFence .inService
    ((s.setRing (p.w 0) size).startStream).ok p []

end Sys2Proof.Machine
end

