-- ==== Sys2Proof/Machine/Mgmt.lean ====
section
/-! DEFINITION. The opcodes of the management controller (R453–R460). -/

namespace Sys2Proof.Machine

/-- The values of a list of registers. -/
def State.regVals (offs : List Nat) (s : State) : List Word := offs.map s.regVal

/-- GET_INFO (R453). -/
def execGetInfo (s : State) : Out := withPacket 0x01 s fun p s =>
  s.ok p (s.regVals ([0x00000, 0x00004] ++ ((List.range 8).map fun i => 0x00020 + 4 * i) ++
    [0x01028, 0x01020, 0x01024, 0x80000, 0x10040]) ++ [3])

/-- READ_FUSE (R453). -/
def execReadFuse (s : State) : Out := withPacket 0x07 s fun p s =>
  let first := (p.w 0).toNat
  let n := (p.w 1).toNat
  if 127 < first then s.refuse p 4 0
  else if n = 0 || 128 < n || 128 < first + n then s.refuse p 4 1
  else s.ok p ((List.range n).map fun i => Tab.get 0 s.sys.shadow (first + i))

/-- The offset that SET_VF_OFFSETS carries for a point. -/
def vfOffset (p : Packet) (i : Nat) : Nat := fld (p.w (1 + i / 4)) (8 * (i % 4)) 8
/-- The points it names. -/
def vfPoints (p : Packet) : List Nat := (List.range 16).filter fun i => (p.w 0).getLsbD i
/-- SET_VF_OFFSETS (R420, R453). -/
def execSetVfOffsets (s : State) : Out := withPacket 0x08 s fun p s =>
  let bad := fun (i : Nat) => decide (signedOf 8 (vfOffset p i) < -20 ∨ 20 < signedOf 8 (vfOffset p i))
  match (vfPoints p).find? bad with
  | some i => s.refuse p 4 (1 + i / 4)
  | none =>
    let s := (vfPoints p).foldl (fun s i => s.vfUserWrite i (w32 (vfOffset p i))) s
    s.ok p (s.regVals ((List.range 16).map fun i => 0x030C0 + 4 * i))

/-- READ_SENSORS (R453), with the power estimate of telemetry word 1 (R426). -/
def execReadSensors (_p : Unit) (s : State) : Out := withPacket 0x09 s fun p s =>
  s.ok p (s.regVals ((List.range 12).map fun i => 0x03100 + 4 * i) ++ s.regVals [0x03140, 0x03144, 0x03148, 0x0314C] ++
    [w32 s.pwr.power] ++ s.regVals [0x02004, 0x0200C, 0xA0004])

/-- Whether SET_POWER_MODE takes a value (R428). -/
def State.modeOk (v : Word) (s : State) : Bool :=
  pwrModeOk v && !(fld v 0 2 == 2 && (s.disabled (fld v 16 5 - 7) || decide (s.ageNmax < fld v 16 5)))
/-- SET_POWER_MODE (R428, R453). -/
def execSetPowerMode (s : State) : Out := withPacket 0x0A s fun p s =>
  if !s.modeOk (p.w 0) then s.refuse p 4 0
  else
    let s := s.pwrModeWrite (p.w 0)
    s.ok p [s.regVal 0x02000]

/-- CLEAR_ERRORS (R453). -/
def execClearErrors (s : State) : Out := withPacket 0x14 s fun p s =>
  let held := s.logs.errs.length
  let n := if p.w 0 = 0 then held else min (p.w 0).toNat held
  let s := s.errPop n
  let s := if held = n then s.clrReg 0x04000 3 else s
  s.ok p [w32 n, w32 (held - n)]

/-- AGEING_REPORT (R422, R453). -/
def execAgeingReport (s : State) : Out := withPacket 0x15 s fun p s =>
  s.ok p (s.regVals [0x03080, 0x03084] ++ [w32 s.pwr.minutes, w32 (s.pwr.minutes / 2 ^ 32)] ++
    (List.range 16).map fun i => getAt 0 s.pwr.ageHist i)

/-! Images (R455, R456) -/

/-- Word i of the image header at an address. -/
def State.head (s : State) (a i : Nat) : Word := s.word (a + 4 * i)
/-- Whether an image header is accepted: FMT_VER and the reserved bits, GEN and MAJOR, and the conditions of R10 for a
program or of R456 for a patch. -/
def State.headOk (patch : Bool) (a : Nat) (s : State) : Bool :=
  let h := s.head a
  fld (h 0) 28 4 == 1 && fld (h 0) 24 4 == 0 && fld (h 1) 0 20 == 0 && h 13 == 0 && h 14 == 0 && h 15 == 0 &&
  fld (h 0) 16 8 == fld (s.idVal 0) 24 8 && fld (h 0) 8 8 == fld (s.idVal 0) 16 8 &&
  (if patch then
    fld (h 0) 0 8 == 0 && ((List.range 8).all fun n => h (4 + n) == 0) && fld (h 12) 16 16 == Config.romVersion.toNat
  else
    decide (fld (h 0) 0 8 < 8) && (s.capVal 0).getLsbD (8 + fld (h 0) 0 8) &&
      ((List.range 8).all fun n => s.capVal n &&& h (4 + n) == h (4 + n)))

/-- The refusal of a LOAD_IMAGE, in the order of R455: status, offending word, code. -/
def State.loadRefusal (p : Packet) (s : State) : Option (Nat × Nat × Nat) :=
  let a := (p.w 0).toNat
  let total := (p.w 1).toNat
  let target := (p.w 2).getLsbD 0
  let body := (s.head a 2).toNat
  if p.w 2 = 0 && s.swapPending then some (6, 0xFFFF, 0)
  else if a % 64 ≠ 0 then some (4, 0, 0)
  else if total < 65 || 262208 < total || !s.inTiers a total then some (4, 1, 0)
  else if 1 < p.w 2 then some (4, 2, 0)
  else if s.poisonedIn a 64 then some (7, 0xFFFF, 0x5001)
  else if !s.headOk target a then some (8, 0xFFFF, 0)
  else if fld (s.head a 1) 20 4 ≠ bit target then some (4, 2, 0)
  else if total ≠ 64 + body || body < 1 || (if target then 32768 else 262144) < body then some (4, 1, 0)
  else none

/-- The bank that a program load fills. -/
def State.standby (s : State) : Nat := if s.cc.inService then 0 else 1
def State.setValid (bank : Nat) (v : Bool) (s : State) : State :=
  if bank = 0 then { s with cc := { s.cc with valid0 := v } } else { s with cc := { s.cc with valid1 := v } }

/-- LOAD_IMAGE (R455, R456): the checks, and the start of the copy. -/
def execLoadImage (s : State) : Out := withPacket 0x03 s fun p s =>
  let a := (p.w 0).toNat
  match s.loadRefusal p with
  | some r => (if r.1 = 6 || r.1 = 4 then s else s.touch 14 a 64).refuse p r.1 r.2.1 r.2.2
  | none =>
    let bank := if (p.w 2).getLsbD 0 then 2 else s.standby
    let d : Deferred := ⟨p, bank, a, (s.head a 2).toNat, false, s.head a 3, (s.head a 12).setWidth 16⟩
    let s := s.touch 14 a 64
    let s := if bank = 2 then s else s.setValid bank false
    s.accept p d []

/-- LOAD_IMAGE_COMPLETE (R455, R456): the copy ends. -/
def execLoadImageComplete (s : State) : Out := runFast s fun s =>
  match s.mgmt.deferred with
  | none => s
  | some d =>
    if d.pkt.op ≠ 0x03 then s
    else
      let bs := s.bytes (d.src + 64) d.bytes
      let good := !s.poisonedIn (d.src + 64) d.bytes && w32 (crc32.of bs) == d.crc
      let s := s.touch 14 (d.src + 64) d.bytes
      let done := fun (st : Nat) (s : State) => (s.complete st 0xFFFF 0 [w32 d.bank]).takeMail
      if d.bank = 2 then
        let patch : Tab Byte := if good then putBytes [] 0 bs else []
        let ver : Half := if good then d.patchVer else 0
        done (if good then 0 else 7) { s with mgmt := { s.mgmt with patch := patch, patchVer := ver } }
      else
        let s := s.write 14 (0x0A000000 + 0x40000 * d.bank) bs
        if d.disturbed then done 6 s
        else if !good then done 7 s
        else done 0 (s.setValid d.bank true)

/-! Swap and host streaming (R458) -/

/-- Whether a thread dispatches nothing. -/
def State.dispatchIdle (s : State) : Bool :=
  (([.acc, .exe] : List Thread).all fun t => (s.disp t).cur.isNone && (s.disp t).replay.isNone) &&
  (([.acc, .e0, .e1] : List Ctx).all fun c => !(s.ctxt c).run)

/-- SWAP_BANK (R458). -/
def execSwapBank (s : State) : Out := withPacket 0x04 s fun p s =>
  let valid := if s.standby = 0 then s.cc.valid0 else s.cc.valid1
  if !valid then s.refuse p 6 0xFFFF 0x3009
  else if !s.dispatchIdle || !s.queuesIdle || s.swapPending then s.refuse p 6
  else
    let s := { s with cc := { s.cc with inService := !s.cc.inService } }
    (s.blotter 5 3 0 (w32 (bit s.cc.inService))).ok p [w32 (bit s.cc.inService)]

/-- HOSTSTREAM_START (R458). -/
def execHoststreamStart (s : State) : Out := withPacket 0x0B s fun p s =>
  let keep := (p.w 1).getLsbD 31
  let valid := if s.cc.inService then s.cc.valid1 else s.cc.valid0
  let size := within 4 15 4 (fld (p.w 1) 0 4)
  if !valid then s.refuse p 6
  else if keep then s.startStream.ok p []
  else if s.cc.atomStarted then
    (if s.reg 0x10024 ≠ p.w 0 &&& 0xFFFFFFC0 then s.refuse p 4 0
    else if s.regFld 0x10020 0 4 ≠ size then s.refuse p 4 1
    else s.startStream.ok p [])
  else ((s.setRing (p.w 0) size).startStream).ok p []

/-- HOSTSTREAM_STOP (R399, R458): the mode ends at the next macro-command boundary; the first stop since the last reset or
UNFENCE is the gang join. -/
def execHoststreamStop (s : State) : Out := withPacket 0x0C s fun p s =>
  let b := s.ringBase
  let t := s.touch 15 b 16
  if s.poisonedIn b 16 || s.word b ≠ s.word (b + 8) then t.refuse p 6
  else
    let join := !t.mgmt.joined
    let t := ({ t with mgmt := { t.mgmt with joined := true } }).nextMode .gang
    let t := if join then ({ t with cc := { t.cc with bcOpen := true } }).settleCredits else t
    (if t.sys.straps.leader && join then t.ringHeader else t).ok p [w32 (bit join)]

/-! Debug access (R459, R460, R463) -/

/-- DEBUG_BREAK_SET (R453, R463). -/
def execDebugBreakSet (s : State) : Out := withPacket 0x0D s fun p s =>
  let b := 0x90100 + 0x20 * fld (p.w 0) 0 2
  (((((s.setReg b (bpCfg (w32 (fld (p.w 0) 8 8)))).setReg (b + 4) (p.w 1)).setReg (b + 8) (p.w 2)).setReg (b + 12) (p.w 3 &&& 0xFFFF))).ok p []

/-- The context that a THREAD address names. -/
def threadCtx (t : Nat) : Ctx := if t = 0 then .acc else if t = 1 then .e0 else .e1
/-- Item k of a context: X registers, the program counter, loop counts and iterations (R459). -/
def State.item (c : Ctx) (k : Nat) (s : State) : Word :=
  if k < 64 then
    let v := s.x c (BitVec.ofNat 5 (k / 2))
    if k % 2 = 0 then lo32 v else hi32 v
  else if k = 64 then (s.ctxt c).pc
  else if k % 2 = 1 then Tab.get 0 (s.ctxt c).counts ((k - 65) / 2)
  else w32 (s.loopIter c ((k - 66) / 2))
/-- Write item k of a context. -/
def State.setItem (c : Ctx) (k : Nat) (v : Word) (s : State) : State :=
  let x := s.ctxt c
  let u := (k - 65) / 2
  let loop := fun (f : LoopRec → LoopRec) => x.loops.map fun (r : LoopRec) => if r.unit = u then f r else r
  if k < 64 then
    let r : BitVec 5 := BitVec.ofNat 5 (k / 2)
    let was := s.x c r
    s.setX c r (if k % 2 = 0 then mk64 (hi32 was) v else mk64 v (lo32 was))
  else if k = 64 then s.setCtxt c { x with pc := v }
  else if k % 2 = 1 then s.setCtxt c { x with counts := Tab.set 0 x.counts u v, loops := loop fun r => { r with count := v.toNat } }
  else s.setCtxt c { x with loops := loop fun r => { r with iter := v.toNat } }

/-- Whether an address and count lie in a debug space other than LOCAL (R459). -/
def debugRange (space a n : Nat) : Bool :=
  match space with
  | 1 => decide (a / 4 * 4 + 4 * n ≤ 0x100000) && !(decide (a / 4 * 4 < 0x2000) && decide (0x1000 < a / 4 * 4 + 4 * n))
  | 2 => decide (a / 256 ≤ 2 ∧ a % 256 + n ≤ 73)
  | 3 => decide (a + n ≤ 512 * 32)
  | 4 => decide (a + n ≤ 4 * 4096)
  | _ => false

/-- Read n registers in turn, with what the reads do. -/
def State.debugRegs : Nat → Nat → State → List Word × State
  | 0, _, s => ([], s)
  | n + 1, a, s =>
    let r := s.regRead a
    let q := State.debugRegs n (a + 4) r.2
    (r.1 :: q.1, q.2)
/-- Write registers in turn. -/
def State.debugPuts : List Word → Nat → State → State
  | [], _, s => s
  | v :: t, a, s => State.debugPuts t (a + 4) (s.regWrite a v)

/-- A read of space LOCAL: a word read with an uncorrectable error ends it (R459). -/
def State.debugLocal (p : Packet) (a n : Nat) (s : State) : State :=
  if a % 4 ≠ 0 || (s.spaceOf a (4 * n)).isNone then s.refuse p 4 1
  else
    match (List.range n).find? fun i => s.poisonedIn (a + 4 * i) 4 with
    | some i => (s.touch 14 a (4 * (i + 1))).refuse p 7 i 0x5001
    | none =>
      let s := s.touch 14 a (4 * n)
      s.ok p ((List.range n).map fun i => w32 (s.seenLe (a + 4 * i) 4))

/-- DEBUG_READ (R459). -/
def execDebugRead (s : State) : Out := withPacket 0x0E s fun p s =>
    let space := fld (p.w 0) 0 4
    let a := (p.w 1).toNat
    let n := (p.w 2).toNat
    if 4 < space then s.refuse p 4 0
    else if n = 0 || 1022 < n then s.refuse p 4 2
    else if space = 0 then s.debugLocal p a n
    else if !debugRange space a n then s.refuse p 4 1
    else
      match space with
      | 1 =>
        let q := s.debugRegs n (a / 4 * 4)
        q.2.ok p q.1
      | 2 => s.ok p ((List.range n).map fun i => s.item (threadCtx (a / 256)) (a % 256 + i))
      | 3 => s.ok p ((List.range n).map fun i => Tab.get 0 s.vec.v (a + i))
      | _ => s.ok p ((List.range n).map fun i =>
          match s.logs.blot[(a + i) / 4]? with | some r => blotWord r ((a + i) % 4) | none => 0)

/-- Whether the thread that a THREAD address names is stopped by a breakpoint (R459). -/
def State.stoppedAt (t : Nat) (s : State) : Bool := if t = 0 then s.cc.dispAcc.stopped else s.cc.dispExe.stopped

/-- A write of space LOCAL: where R30 allows the inbound window (R31, R459). -/
def State.debugLocalPut (p : Packet) (a : Nat) (ws : List Word) (s : State) : State :=
  if a % 4 ≠ 0 then s.refuse p 4 1
  else
    match s.spaceOf a (4 * ws.length) with
    | none => s.refuse p 4 1
    | some (.acc _) => s.refuse p 4 1 0x1001
    | some (.imem b) =>
      if b = s.cc.inService then (s.raise { code := 0x3001, unit := 1, d0 := w32 a }).refuse p 4 1 0x3001
      else (s.write 14 a (wordBytes ws)).ok p []
    | some _ => (s.write 14 a (wordBytes ws)).ok p []

/-- DEBUG_WRITE (R459). -/
def execDebugWrite (s : State) : Out := withPacket 0x0F s fun p s =>
  let space := fld (p.w 0) 0 4
  let a := (p.w 1).toNat
  let ws := p.pay.drop 2
  let n := ws.length
  let vecBusy := !(s.queue 19).items.isEmpty || s.vec.drain.isSome
  if 3 < space then s.refuse p 4 0
  else if space = 0 then s.debugLocalPut p a ws
  else if (space = 2 && decide (a / 256 ≤ 2) && !s.stoppedAt (a / 256)) || (space = 3 && vecBusy) then s.refuse p 6
  else if !debugRange space a n then s.refuse p 4 1
  else
    match space with
    | 1 => (s.debugPuts ws (a / 4 * 4)).ok p []
    | 2 => (ws.zipIdx.foldl (fun s e => s.setItem (threadCtx (a / 256)) (a % 256 + e.2) e.1) s).ok p []
    | _ => (ws.zipIdx.foldl (fun s e => s.setLane ((a + e.2) / 512) ((a + e.2) % 512) e.1) s).ok p []

/-- DEBUG_LOCK takes effect: every BP_CFG.EN is cleared, and stopped threads resume (R460). -/
def State.closeDebug (s : State) : State :=
  let s := (List.range 4).foldl (fun s b => s.clrReg (0x90100 + 0x20 * b) 0x80) s
  let free : Disp → Disp := fun d => { d with stopNext := false }
  let s := { s with cc := { s.cc with dispAcc := free s.cc.dispAcc, dispExe := free s.cc.dispExe } }
  (s.dbgResume .acc).dbgResume .exe
/-- LOCK_DEBUG (R460): `readback` says whether the blown bit then reads 1. -/
def execLockDebug (readback : Bool) (s : State) : Out := withPacket 0x16 s fun p s =>
  if p.w 0 ≠ 0x4C4F434B then s.refuse p 4 0
  else if s.debugLocked then s.ok p [Tab.get 0 s.sys.fuses 127]
  else if !readback then (s.raise { code := 0x8006, unit := 0 }).refuse p 7 0xFFFF 0x8006
  else
    let blow := fun (t : Tab Word) => Tab.set 0 t 127 (Tab.get 0 t 127 ||| 1)
    let s := { s with sys := { s.sys with fuses := blow s.sys.fuses, shadow := blow s.sys.shadow } }
    s.closeDebug.ok p [Tab.get 0 s.sys.fuses 127]

/-! BIST (R453) and the group table -/

/-- Leave [lo, hi) of local memory zero with good check bits. -/
def State.clearMem (lo hi : Nat) (s : State) : State :=
  let out := fun (a : Nat) => !(decide (lo ≤ a) && decide (a < hi))
  ({ s with
    mem := s.mem.filter fun e => out e.1, eccBad := s.eccBad.filter out, eccCorr := s.eccCorr.filter out
    parBad := s.parBad.filter out, poison := s.poison.filter fun e => out (accAddr e.1 (8 * e.2) 0) }).watchMark lo (hi - lo)
/-- Leave the small arrays zero: accumulators, statistics store, both instruction-memory banks, replay store, vector
registers and Blotter. -/
def State.clearSmall (s : State) : State :=
  let s := s.clearMem 0x08000000 0x0C000000
  { s with
    cc := { s.cc with valid0 := false, valid1 := false }
    vec := { s.vec with v := [] }, logs := { s.logs with blot := [] } }
/-- What BIST leaves of each selected set: near tier, stacked tier, small arrays. -/
def State.clearSets (near stacked small : Bool) (s : State) : State :=
  let s := if near then s.clearMem 0 0x01000000 else s
  let s := if stacked then s.clearMem 0x01000000 0x06000000 else s
  if small then s.clearSmall else s

/-- Whether no DMA transfer is queued or in progress. -/
def State.dmaIdle (s : State) : Bool :=
  (s.dma.xfers.all fun x => x.2.isEmpty) && decide (s.dma.outstanding = 0) && (List.range 16).all fun c => (s.queue c).items.isEmpty

/-- BIST_RUN (R453). -/
def execBistRun (s : State) : Out := withPacket 0x10 s fun p s =>
  if !s.coreIdle || !s.dmaIdle then s.refuse p 6
  else if fld (p.w 0) 0 3 = 0 then s.refuse p 4 0
  else s.accept p (plainDeferred p) []

/-- BIST_RUN_COMPLETE (R453): found, repaired and unrepaired faults of each selected set. -/
def execBistRunComplete (results : List (Word × Word × Word)) (s : State) : Out := runSlow s fun s =>
  match s.mgmt.deferred with
  | none => s
  | some d =>
    if d.pkt.op ≠ 0x10 then s
    else
      let sel := d.pkt.w 0
      let rs := (List.range (popcount4 (fld sel 0 3))).map fun i => getAt (0, 0, 0) results i
      let bad := rs.any fun r => r.2.2 ≠ 0
      let s := s.clearSets (sel.getLsbD 0) (sel.getLsbD 1) (sel.getLsbD 2)
      let s := if bad then s.raise { code := 0x8003, unit := 0 } else s
      (s.complete (if bad then 7 else 0) 0xFFFF (if bad then 0x8003 else 0) (rs.flatMap fun r => [r.1, r.2.1, r.2.2])).takeMail

/-- Entry i of a GROUP_TABLE_WRITE payload. -/
def gtOf (p : Packet) (i : Nat) : Nat := (List.range 4).foldr (fun j acc => (p.w (2 + 4 * i + j)).toNat + 2 ^ 32 * acc) 0
/-- GROUP_TABLE_WRITE (R366, R453). -/
def execGroupTableWrite (s : State) : Out := withPacket 0x13 s fun p s =>
  let first := fld (p.w 0) 0 13
  let n := (p.w 1).toNat
  if n = 0 || 255 < n || 8192 < first + n then s.refuse p 4 1
  else
    match (List.range n).find? fun i => (gtBad (gtOf p i)).isSome with
    | some i => (s.gtRefuse (first + i) ((gtBad (gtOf p i)).getD 0)).refuse p 4 (2 + 4 * i) 0x9009
    | none => ((List.range n).foldl (fun s i => s.setGt (first + i) (BitVec.ofNat 128 (gtOf p i))) s).ok p []

end Sys2Proof.Machine
end

