-- ==== Sys2Proof/Machine/Stills.lean ====
section
/-! DEFINITION. The stills: the checks of a fill (R68), the numeric pipeline (R75–R82), tiles and masks (R73, R188–R191),
gating (R96–R98), packed fills (R99–R102), pairing (R83, R86) and the KLUT4 and mask operations. -/

namespace Sys2Proof.Machine

/-! Operand pairs (R46) -/

/-- The operand classes of R46; a transposed block container enters as an exact 16-bit operand (R175). -/
inductive OpClass where
  | narrow | wide | int8 | int4
  deriving DecidableEq, Repr

def opClass (t : Tile) : Option OpClass :=
  if tExpand t ≠ 0 then some .wide
  else
    let f := tFmt t
    if decide (5 ≤ f ∧ f ≤ 7) then (if tTrans t && tCont t ≠ 0 then some .wide else some .narrow)
    else if decide (1 ≤ f ∧ f ≤ 4) then some .wide
    else if f = 8 then (if tCont t = 1 then some .wide else some .int8)
    else if f = 9 then some .int4
    else none

/-- The path of a pair, and its K depth: (integer, depth). -/
def pairOf : OpClass → OpClass → Option (Bool × Nat)
  | .narrow, .narrow => some (false, 64)
  | .int4, .int4 => some (true, 64)
  | .int8, .int8 => some (true, 32)
  | .int8, .int4 => some (true, 32)
  | .int4, .int8 => some (true, 32)
  | .wide, .wide => some (false, 32)
  | .wide, .narrow => some (false, 32)
  | .narrow, .wide => some (false, 32)
  | _, _ => none
def pairTiles (a b : Tile) : Option (Bool × Nat) :=
  match opClass a, opClass b with
  | some x, some y => pairOf x y
  | _, _ => none

/-! The numeric pipeline -/

/-- The cause of a NaN birth in a group, 0 for none (R137). -/
def groupCause (a b : List XVal) : Nat :=
  let ps := a.zip b
  let prods := ps.map fun p => p.1.mul p.2
  if a.any XVal.isNan then 1
  else if b.any XVal.isNan then 2
  else if prods.any XVal.isNan then 3
  else if prods.any (fun p => p.isInf && p.sign) && prods.any (fun p => p.isInf && !p.sign) then 4
  else 0

/-- floor(p / 2^q) of an exact value, and whether a nonzero bit was lost (R76). -/
def floorAt (p : Ex) (q : Int) : Int × Bool :=
  let r := p.ratio q
  let n := r.1 / r.2
  let lost := decide (r.1 % r.2 ≠ 0)
  (if p.neg then (if lost then -((n : Int) + 1) else -(n : Int)) else (n : Int), lost)

/-- The nonzero finite products of a group. -/
def nzProds (a b : List XVal) : List Ex :=
  ((a.zip b).map fun p => p.1.mul p.2).filterMap fun p => match p with | .fin v => if v.num = 0 then none else some v | _ => none

/-- The largest leading exponent. -/
def maxLog : List Ex → Int
  | [] => 0
  | [v] => v.log2
  | v :: t => max v.log2 (maxLog t)

/-- The group sum of one chunk: value, flags and the cause of a birth (R75, R76, R79). -/
def groupSum (a b : List XVal) : XVal × Flags × Nat :=
  let cause := groupCause a b
  if cause ≠ 0 then (.nan, fInv, cause) else
  match ((a.zip b).map fun p => p.1.mul p.2).find? XVal.isInf with
  | some v => (v, 0, 0)
  | none =>
    let nz := nzProds a b
    if nz = [] then (.fin (Ex.zero false), 0, 0) else
    let q := maxLog nz - 32
    let fs := nz.map fun p => floorAt p q
    let sum := (fs.map Prod.fst).sum
    (.fin (Ex.ofInt sum q), if fs.any Prod.snd then fInx else 0, 0)

/-- The previous accumulator value as the float path takes it: a subnormal reads as a zero of its sign, with UNDERFLOW
and INEXACT (R78, R82). -/
def prevVal (w : Word) : XVal × Flags :=
  let r := in32 w
  (r.1, if r.2 then fUnd ||| fInx else 0)

/-- Round a finite sum into the accumulator (R78): truncated to 24 bits, infinity from 2^128 on, flushed below
2^−126. -/
def accRound (t : Ex) : Word × Flags :=
  if t.num = 0 then (0, 0)
  else if !(t.magLt (Ex.pow2 128)) then (bits32 (.inf t.neg), fOvf ||| fInx)
  else
    let r := t.roundP .trunc 24
    if r.1.magLt fp32Min then (bits32 (.fin (Ex.zero t.neg)), fUnd ||| fInx)
    else (bits32 (.fin r.1), if r.2 then fInx else 0)

/-- The float path's accumulator add (R78, R79): bits, flags and the cause of a birth. `prev` none is OVERWRITE. -/
def addGroup (prev : Option Word) (a b : List XVal) : Word × Flags × Nat :=
  let g := groupSum a b
  let p := match prev with | none => (XVal.fin (Ex.zero false), (0 : Flags)) | some w => prevVal w
  match g.1, p.1 with
  | .nan, _ => (0x7FC00000, g.2.1 ||| p.2, g.2.2)
  | _, .nan => (0x7FC00000, g.2.1 ||| p.2, 0)
  | .inf x, .inf y => if x = y then (bits32 (.inf x), g.2.1, 0) else (0x7FC00000, g.2.1 ||| fInv, 5)
  | .inf x, .fin _ => (bits32 (.inf x), g.2.1 ||| p.2, 0)
  | .fin _, .inf y => (bits32 (.inf y), g.2.1, 0)
  | .fin x, .fin y =>
    let r := accRound (x.add y)
    (r.1, g.2.1 ||| p.2 ||| r.2, 0)

/-- The integer an integer-path operand holds. -/
def xInt (x : XVal) : Int := match x with | .fin v => (if v.neg then -(v.num : Int) else v.num) * 2 ^ v.exp.toNat | _ => 0

/-- The integer path (R80). -/
def addInt (prev : Option Word) (a b : List XVal) : Word × Flags × Nat :=
  let sum := ((a.zip b).map fun p => xInt p.1 * xInt p.2).sum
  let t := match prev with | none => sum | some w => w.toInt + sum
  if 2 ^ 31 - 1 < t then (0x7FFFFFFF, fOvf, 0)
  else if t < -(2 ^ 31) then (0x80000000, fOvf, 0)
  else (BitVec.ofInt 32 t, 0, 0)

/-! The fill -/

/-- One real row of a fill: where it goes, its A row, its values, the request it belongs to, and whether its row-mask
bit lets it write. -/
structure PRow where
  still : Nat
  row : Nat
  m : Nat
  vals : List XVal
  tag : Half
  stat : Nat
  on : Bool
  deriving DecidableEq, Repr

/-- The mask a fill obeys: PAIR_B fills and JOINT fills with MASKED set (R188). -/
def maskedFill (f : FillOp) : Bool := f.target ≠ .pairA && (tMasked f.stat.t || tMasked f.strm.t)

/-- The row-mask bit of A row m of a fill of M rows (R188). -/
def rowOn (mask : Word) (mtot m : Nat) : Bool := mask.getLsbD (m / ((mtot + 31) / 32))

/-- The block-mask table in force for a fill (R189). -/
def maskTable (s : State) (f : FillOp) : Option TRef := if maskedFill f then s.still.table else none

/-- The checks of a block-mask table (R190). -/
def tableChk (s : State) (f : FillOp) : Option Rej :=
  match maskTable s f with
  | none => none
  | some r =>
    let a := r.t.base.toNat
    let w := s.dword a
    let rb := fld64 w 16 16
    let cb := fld64 w 0 16
    failIf (fld64 w 60 4 ≠ 1 || fld64 w 32 28 ≠ 0 || rb = 0 || cb = 0 || r.t.extent.toNat < 8 + (rb * cb + 63) / 64 * 8 || s.poisonedIn a 8)
      (some { code := 0x3006, cond := if fld64 w 60 4 ≠ 1 then 1 else if fld64 w 32 28 ≠ 0 then 2 else if rb = 0 || cb = 0 then 3 else 4, unit := 2, d0 := r.t.base })

/-- The table bit of element (A row m, column n) (R189, R190). -/
def tableOn (s : State) (f : FillOp) (m n : Nat) : Bool :=
  match maskTable s f with
  | none => true
  | some r =>
    let w := s.dword r.t.base.toNat
    let cb := fld64 w 0 16
    let i := (s.still.row0 + m) / 32
    let j := (s.still.col0 + n) / 128
    if i < fld64 w 16 16 ∧ j < cb then
      ((s.byte (r.t.base.toNat + 8 + (i * cb + j) / 8)).getLsbD ((i * cb + j) % 8))
    else false

/-- The active or shadow tile a KEEP fill of a target would reuse: the newest one. -/
def newestTile (s : State) (t : Target) : Option StatTile :=
  match t with
  | .pairB => if s.still.shaB.isSome then s.still.shaB else s.still.actB
  | _ => if s.still.shaA.isSome then s.still.shaA else s.still.actA

/-- The FORMAT fields that a KEEP must match (R73). -/
def keepFmt (t : Tile) : Word := w32 (tFmt t * 2 ^ 11 + tCont t * 2 ^ 9 + bit (tTrans t) * 2 ^ 8 + bit (tMasked t) * 2 ^ 7 + tExpand t * 2 ^ 5 + tKlut t)

/-- Whether a tile is what a KEEP fill asks for (R73). -/
def keepMatch (f : FillOp) (v : StatTile) : Bool :=
  v.rows == f.stat.t.rows && v.cols == f.stat.t.cols && v.fmt == keepFmt f.stat.t && v.m == oVal f.m && v.k == oVal f.k

/-- Whether a target exists in the pairing mode in force and has a still (R83, R110). -/
def targetExists (s : State) (t : Target) : Bool := (s.still.split == (t ≠ .joint)) && !(targetStills s t).isEmpty

/-- The shape cases of R68 for one request of M = m rows, in the order listed. Where the target has several stills, the
entry names its first usable one, 0xFF when it has none (DESIGN CHOICE, log entry 69: R114 says "the still"). -/
def shapeChk (s : State) (f : FillOp) (depth m cap : Nat) : Option Rej :=
  let i := (targetStills s f.target).headD 0xFF
  let k := oVal f.k
  let n := oVal f.n
  let c0 := oVal f.c0
  firstRej [
    failIf (cap < m) (shapeInvalid 1 i),
    failIf (depth < k || f.stat.t.cols ≠ f.strm.t.rows) (shapeInvalid 2 i),
    failIf (4096 < n) (shapeInvalid 3 i),
    failIf (c0 % 8 ≠ 0 || 4096 < c0 + 8 * ((n + 7) / 8)) (shapeInvalid 4 i),
    failIf (!targetExists s f.target) (shapeInvalid 5 i),
    failIf (f.keep && !((newestTile s f.target).any fun v => keepMatch f v)) (shapeInvalid 6 i),
    failIf (f.stat.t.rows.toNat < m || f.stat.t.cols.toNat < k || f.strm.t.rows.toNat < k || f.strm.t.cols.toNat < n) (shapeInvalid 7 i)]

/-- The checks of a fill command over its requests (R68, R99). `packed` limits each request to 8 rows and their number to
the slots. One failing request rejects the whole packed fill under its oldest tag (DESIGN CHOICE, log entry 69: the spec
does not say what becomes of the others). -/
def fillChk (s : State) (packed : Bool) (fs : List FillOp) : Option Rej :=
  match fs with
  | [] => none
  | f :: _ =>
    let stats := fs.map FillOp.stat
    let tiles := stats ++ [f.strm]
    let cap := if packed then (if (packSlots s f.target).length < fs.length then 0 else 8) else capacity s f.target
    let box := fun (g : FillOp) => [(⟨0, oVal g.m, 0, oVal g.k⟩ : Box)]
    firstRej [
      failIf (fs.any fun g => opdBad g.m || opdBad g.k || opdBad g.n || opdBad g.c0) (operandInvalid 1),
      firstRej (tiles.map tStage1),
      firstRej (tiles.map tStage2),
      firstRej (stats.map fun t => match pairTiles t.t f.strm.t with
        | none => formatUnsupported 10
        | some p => failIf (f.neg && p.1) (formatUnsupported 11)),
      firstRej (fs.map fun g => shapeChk s g ((pairTiles g.stat.t f.strm.t).map Prod.snd |>.getD 0) (oVal g.m) cap),
      firstRej ((if f.keep then [] else fs.map fun g => (g.stat, box g)).map fun p => firstRej (p.2.map fun b => tStage3 s .gen false p.1 b)),
      tStage3 s .gen false f.strm ⟨0, oVal f.k, 0, oVal f.n⟩,
      tableChk s f]

/-- The stationary rows a fill reads from memory. -/
def readRows (s : State) (t : Tile) (m k : Nat) : List (List XVal) :=
  (List.range m).map fun i => (List.range k).map fun j => readElem s t i j

/-- The real rows of an unpacked fill, from its latched tile (R84, R188). -/
def placeRows (s : State) (f : FillOp) (tag : Half) (data : List (List XVal)) (mask : Word) : List PRow :=
  let msk := maskedFill f
  (List.range data.length).filterMap fun m =>
    (placeRow s (targetStills s f.target) m).map fun p =>
      ⟨p.1, p.2, m, getAt [] data m, tag, f.stat.idx.toNat, !msk || rowOn mask (oVal f.m) m⟩

/-- The real rows of a packed fill (R99, R100). -/
def placePacked (s : State) (fs : List (FillOp × Half)) : List PRow :=
  match fs with
  | [] => []
  | (f0, _) :: _ =>
    (fs.zip (packSlots s f0.target)).flatMap fun p =>
      let f := p.1.1
      (List.range (oVal f.m)).map fun m =>
        ⟨p.2.1, p.2.2 + m, m, (List.range (oVal f.k)).map fun j => readElem s f.stat.t m j, p.1.2, f.stat.idx.toNat,
          !maskedFill f || rowOn s.still.mask (oVal f.m) m⟩

/-- Column n of the streamed operand with NEG applied (R67, R72). -/
def streamCol (s : State) (f : FillOp) (n : Nat) : List XVal :=
  (List.range (oVal f.k)).map fun j => let v := readElem s f.strm.t j n; if f.neg then v.negate else v

/-- What a fill writes to one still so far: flags and the first birth, beside the state. -/
structure FillAcc where
  flags : Flags
  birth : Option Birth
  deriving DecidableEq, Repr

/-- Write one accumulator word with good parity. -/
def State.putAcc (i c m : Nat) (w : Word) (s : State) : State :=
  { s with mem := putBytes s.mem (accAddr i c m) (leBytes 4 w.toNat), parBad := s.parBad.filter fun a => a != accAddr i c m }

/-- Compute one element and write it (R67, R70). -/
def fillElem (isInt ovw : Bool) (k : Nat) (f : FillOp) (i c : Nat) (r : PRow) (col : List XVal) (p : State × FillAcc) : State × FillAcc :=
  let prev := if ovw then none else some (p.1.word (accAddr i c r.row))
  if k = 0 then (if ovw then p.1.putAcc i c r.row 0 else p.1, p.2)
  else
    let v := if isInt then addInt prev r.vals col else addGroup prev r.vals col
    let b := if v.2.2 ≠ 0 && p.2.birth.isNone then some ⟨c, r.row, v.2.2, r.tag, r.stat, f.strm.idx.toNat⟩ else p.2.birth
    (p.1.putAcc i c r.row v.1, ⟨p.2.flags ||| v.2.1, b⟩)

/-- One slice of a fill on one still: parity and poison of the tile first (R94, R95), then its columns. An ACCUMULATE fill
with K = 0 reads, and so checks, the words it leaves unchanged (DESIGN CHOICE, log entry 69: R70 does not say). -/
def fillSlice (isInt ovw : Bool) (k : Nat) (f : FillOp) (i : Nat) (rows : List PRow) (tab : Nat → Nat → Bool)
    (c0 : Nat) (cols : List (Nat × List XVal)) (p : State × FillAcc) : State × FillAcc :=
  let live := fun (r : PRow) (n : Nat) => r.on && tab r.m n
  let s := if ovw then p.1 else
    cols.foldl (fun s c => rows.foldl (fun s r => if live r c.1 then s.accCheck (accAddr i (c0 + c.1) r.row) 4 else s) s) p.1
  let tile := (i, (c0 + (cols.headD (0, [])).1) / 8)
  if !ovw && s.poison.contains tile then (s, p.2) else
  let p := cols.foldl (fun p c => rows.foldl (fun p r =>
    if live r c.1 then fillElem isInt ovw k f i (c0 + c.1) r c.2 p else p) p) (s, p.2)
  let full := ovw && decide (cols.length = 8) &&
    (List.range (p.1.mEff i)).all fun m => cols.all fun c => rows.any fun r => r.row == m && live r c.1
  if !full then p else
  let s := cols.foldl (fun s c => (List.range (32 - s.mEff i)).foldl (fun s m => s.putAcc i (c0 + c.1) (s.mEff i + m) 0) s) p.1
  ({ s with poison := s.poison.filter fun t => t != tile }, p.2)

/-- Slices of 8 columns. -/
def slices (cols : List (Nat × List XVal)) : List (List (Nat × List XVal)) := blocksOf 8 cols.length cols

/-- A still's part of a fill. -/
def fillStill (isInt : Bool) (f : FillOp) (tab : Nat → Nat → Bool) (cols : List (Nat × List XVal)) (all : List PRow) (i : Nat) (s : State) : State :=
  let rows := all.filter fun r => r.still == i
  if rows = [] then s else
  let p := (slices cols).foldl (fun p sl => fillSlice isInt f.overwrite (oVal f.k) f i rows tab (oVal f.c0) sl p) (s, ⟨0, none⟩)
  p.1.stillFlags i p.2.flags p.2.birth

/-! Gating (R96, R97) -/

/-- Whether every value of a list is a zero, and whether one is a NaN or an infinity. -/
def allZero (l : List XVal) : Bool := l.all XVal.isZero
def anyNonfin (l : List XVal) : Bool := l.any XVal.nonfinite

/-- Gated cube steps of one still over a fill: four cube rows by four K rows per slice (R97). A still that receives no row
gates its whole array (R84). -/
def gatedSteps (depth : Nat) (rows : List PRow) (cols : List (Nat × List XVal)) : Nat :=
  let kw := depth / 4
  let statAt := fun (cr kr : Nat) =>
    (rows.filter fun r => r.on && r.row / 8 == cr).flatMap fun r => (r.vals.drop (kw * kr)).take kw
  ((slices cols).map fun sl =>
    (([0, 1, 2, 3] : List Nat).map fun kr =>
      let st := sl.flatMap fun c => (c.2.drop (kw * kr)).take kw
      let zs := allZero st
      let ns := anyNonfin st
      (([0, 1, 2, 3] : List Nat).map fun cr =>
        let a := statAt cr kr
        if rows.isEmpty || (allZero a && !ns) || (zs && !anyNonfin a) then 1 else 0).sum).sum).sum

/-! Counters and reads -/

/-- The transposer tiles and source bytes of a read of a transposed operand (R174, R210); `c` is the counter of its
requester. -/
def countTransposer (c : Nat) (t : Tile) (lb : Box) (s : State) : State :=
  let b := sBox t lb
  if !tTrans t || decide (b.r1 ≤ b.r0 ∨ b.c1 ≤ b.c0) then s else
  let s := s.count c (((b.r1 + 31) / 32 - b.r0 / 32) * ((b.c1 + 31) / 32 - b.c0 / 32))
  s.count 0x44028 ((b.r1 - b.r0) * (colEnd t b.c1 - colByte t b.c0 + (if tCont t = 0 then 0 else (b.c1 - b.c0) / blockSize (tCont t))))

/-- What the reads of an operand do to the state: the requester is the transposers when the tile is transposed. -/
def fillReads (c : Nat) (t : Tile) (b : Box) (s : State) : State :=
  countTransposer c t b (touchBox (if tTrans t then 1 else 0) t b s)

/-- Counters of one still for a fill (R112, R191). -/
def fillCounts (packed gate : Bool) (depth : Nat) (f : FillOp) (tab : Nat → Nat → Bool) (all : List PRow) (cols : List (Nat × List XVal)) (i : Nat) (s : State) : State :=
  let o := 0x20000 + 0x1000 * i
  let rows := all.filter fun r => r.still == i
  let useful := (rows.map fun r => if r.on then (cols.filter fun c => tab r.m c.1).length * oVal f.k else 0).sum
  let s := s.count (o + 0x38) 1
  let s := if packed then s.count (o + 0x40) 1 else s
  let s := s.count (o + 0x18) useful
  if rows = [] && decide (all = []) then s else
  let s := s.count (o + 0x10) (slices cols).length
  if gate then s.count (o + 0x20) (gatedSteps depth rows cols) else s

/-! Issue of a fill -/

/-- Latch a new stationary tile: in the shadow while an earlier fill of the target is in flight (R65). -/
def latchTile (t : Target) (v : StatTile) (s : State) : State :=
  match t with
  | .joint => if s.still.runA = [] then { s with still := { s.still with actA := some v, actB := some v } }
              else { s with still := { s.still with shaA := some v } }
  | .pairA => if s.still.runA = [] then { s with still := { s.still with actA := some v } } else { s with still := { s.still with shaA := some v } }
  | .pairB => if s.still.runB = [] then { s with still := { s.still with actB := some v } } else { s with still := { s.still with shaB := some v } }

/-- Record an issued fill for R22, with the groups of its completion token (R101). -/
def startRun (c : EngCmd) (t : Target) (hs : List (Nat × Nat)) (groups : List Group) (s : State) : State :=
  let r : FillRun := ⟨c.seq, (hs.map Prod.fst).eraseDups, (hs.map Prod.snd).eraseDups, decide (t = .joint), c.ctx, c.tag, groups⟩
  if t = .pairB then { s with still := { s.still with runB := s.still.runB ++ [r] } }
  else { s with still := { s.still with runA := s.still.runA ++ [r] } }

/-- The packed groups of a packed fill, in slot order (R99, R101). -/
def packGroups (s : State) (fs : List (FillOp × Half)) : List Group :=
  match fs with
  | [] => []
  | (f, _) :: _ => (fs.zip (packSlots s f.target)).map fun q => ⟨q.1.2, q.2.1, q.2.2, oVal q.1.1.m⟩
/-- Enter groups in the directory of 64 entries, the oldest ones giving way (R101). -/
def State.enterGroups (l : List Group) (s : State) : State :=
  let all := s.still.groups ++ l
  { s with still := { s.still with groups := all.drop (all.length - 64) } }

/-- The effect of a fill that passed its checks (R67–R71, R101). `had` says which operands, STAT and STRM, the other fill of
a fan-out pair has read already (R85). -/
def fillEffect (c : EngCmd) (packed : Bool) (fs : List (FillOp × Half)) (had : Bool × Bool) (s : State) : State :=
  match fs with
  | [] => s
  | (f, tag) :: _ =>
    let tgt := targetStills s f.target
    let p := (pairTiles f.stat.t f.strm.t).getD (false, 32)
    let gate := s.regBit 0x24000 0
    let old := newestTile s f.target
    let k := oVal f.k
    let n := oVal f.n
    let groups := if packed then packGroups s fs else []
    if oVal f.m = 0 ∨ n = 0 then
      { (tgt.foldl (fun s i => fillCounts packed gate p.2 f (fun _ _ => true) [] [] i s) s).enterGroups groups with
        still := { (s.enterGroups groups).still with token := groups } }
    else
      let data := if packed then [] else if f.keep then (old.map StatTile.data).getD [] else readRows s f.stat.t (oVal f.m) k
      let mask := if f.keep then (old.map StatTile.mask).getD s.still.mask else s.still.mask
      let rows := if packed then placePacked s fs else placeRows s f tag data mask
      let rows := rows.map fun r => if r.on then r else { r with vals := r.vals.map fun _ => XVal.fin (Ex.zero false) }
      let cols := (List.range n).map fun j => (j, streamCol s f j)
      let tab := fun (m j : Nat) => tableOn s f m j
      let hs := fillHalves s c.op
      let tile : StatTile := ⟨f.stat.t.rows, f.stat.t.cols, keepFmt f.stat.t, if packed then 2 ^ 32 else oVal f.m, k, mask, data⟩
      let s1 := if f.keep || had.1 then s else fs.foldl (fun s g => fillReads 0x44018 g.1.stat.t ⟨0, oVal g.1.m, 0, k⟩ s) s
      let s2 := if had.2 then s1 else fillReads 0x44010 f.strm.t ⟨0, k, 0, n⟩ s1
      let s3 := match maskTable s f with
        | some r => s2.touch 0 r.t.base.toNat (8 + (fld64 (s.dword r.t.base.toNat) 16 16 * fld64 (s.dword r.t.base.toNat) 0 16 + 63) / 64 * 8)
        | none => s2
      let s4 := tgt.foldl (fun s i => fillStill p.1 f tab cols rows i s) s3
      let s5 := tgt.foldl (fun s i => fillCounts packed gate p.2 f tab rows cols i s) s4
      let s6 := if f.keep then s5 else latchTile f.target tile s5
      startRun c f.target hs groups (s6.enterGroups groups)

/-- Whether a fill that loads a tile must wait: one tile already waits in the shadow latches of its target (R65). -/
def shadowBusy (s : State) (f : FillOp) : Bool :=
  !f.keep && (match f.target with | .pairB => s.still.shaB.isSome | _ => s.still.shaA.isSome)

/-- The check of a mask table reads its header (R190, R253), also when it rejects the fill. -/
def touchTable (f : FillOp) (r : Option Rej) (s : State) : State :=
  match maskTable s f, r with
  | some t, some r => if r.code = 0x3006 then s.touch 0 t.t.base.toNat 8 else s
  | _, _ => s

/-- Issue the fill command c at the head of queue q, or reject it; `had` as in `fillEffect`. -/
def issueFill (q : Nat) (c : EngCmd) (had : Bool × Bool) (s : State) : State :=
  match c.op with
  | .fill f =>
    if shadowBusy s f then s else
    issueOr q c (fillChk s false [f]) (fillEffect c false [(f, c.tag)] had) (touchTable f (fillChk s false [f]) s)
  | .packed fs =>
    match fs with
    | [] => s.issued q c
    | (f, _) :: _ =>
      if shadowBusy s f then s else
      issueOr q c (fillChk s true (fs.map Prod.fst)) (fillEffect c true fs had) (touchTable f (fillChk s true (fs.map Prod.fst)) s)
  | _ => s

/-- Whether two fills form a fan-out pair: one operand is STAT of one and STRM of the other (R85). -/
def fanMatch (a b : FillOp) : Bool := b.fanout && (a.stat.idx == b.strm.idx || a.strm.idx == b.stat.idx)

/-- The rejection of a fan-out fill without its match (R85), logged with a still as `shapeChk` logs one. -/
def fanReject (q : Nat) (c : EngCmd) (f : FillOp) (s : State) : State :=
  s.reject q c ((shapeInvalid 8 ((targetStills s f.target).headD 0xFF)).getD { code := 0x4002 })

/-- A fan-out fill at the head of queue q: it issues together with the next fill of the other pair in execute-thread order,
or is rejected when that fill does not match it, or has left its queue already (R85). The match is tested before the
operand and format checks of R68 (DESIGN CHOICE, log entry 69: R68's list does not hold this case). -/
def fanFill (q : Nat) (c : EngCmd) (f : FillOp) (s : State) : State :=
  if f.target = .joint || decide (c.seq < (if q = 17 then s.still.lastB else s.still.lastA)) then fanReject q c f s
  else
    match s.headCmd (35 - q) with
    | none => s
    | some d =>
      match d.op with
      | .fill g =>
        if fanMatch f g && g.target ≠ f.target && g.target ≠ .joint then
          if mustWait s d || shadowBusy s f || shadowBusy s g || decide (d.seq < (if q = 17 then s.still.lastA else s.still.lastB)) then s
          else if (fillChk s false [f]).isSome then s.reject q c ((fillChk s false [f]).getD { code := 0 })
          else if (fillChk s false [g]).isSome then s.reject (35 - q) d ((fillChk s false [g]).getD { code := 0 })
          else issueFill (35 - q) d (f.strm.idx == g.stat.idx, f.stat.idx == g.strm.idx) (issueFill q c (false, false) s)
        else if d.seq < c.seq then s
        else fanReject q c f s
      | .packed _ => if d.seq < c.seq then s else fanReject q c f s
      | _ => s

/-- FILL (R67): the fill at the head of FILL_A (b false) or FILL_B issues. A JOINT fill heads both queues (R230). -/
def fillHead (q : Nat) (c : EngCmd) (s : State) : State :=
  let joint := fun (f : FillOp) => decide (f.target = .joint) && (s.headCmd (35 - q)).map EngCmd.seq != some c.seq
  match c.op with
  | .fill f => if f.fanout then fanFill q c f s else if joint f then s else issueFill q c (false, false) s
  | .packed ((f, _) :: _) => if joint f then s else issueFill q c (false, false) s
  | .packed [] => s.issued q c
  | _ => s

def execFill (b : Bool) (s : State) : Out := runFast s fun s => let q := if b then 18 else 17; withHead q s (fillHead q)

/-- The oldest fill in flight of one target writes its last column: R22 is released, its completion token carries its groups
(R101), and the waiting tile moves to the active latches as the next fill's first slice enters (R65, R89). -/
def execFillComplete (b : Bool) (s : State) : Out := runFast s fun s =>
  let st := s.still
  let headJoint := match st.runA with | r :: _ => r.joint | [] => false
  if b && !headJoint then
    match st.runB with
    | [] => s
    | r :: t => { s with still := { st with token := r.groups, runB := t, actB := if st.shaB.isSome then st.shaB else st.actB, shaB := none } }
  else
    match st.runA with
    | [] => s
    | r :: t =>
      let act := if st.shaA.isSome then st.shaA else st.actA
      { s with still := { st with token := r.groups, runA := t, actA := act, actB := if r.joint then act else st.actB, shaA := none } }

/-- PAIRING (R83, R86, R101): the mode is set, every tile is invalid and the group directory is empty. -/
def execPairing (s : State) : Out := runFast s fun s => withHead 22 s fun c s =>
  match c.op with
  | .pairing m => issueOr 22 c none (fun s => { s with still := { s.still with split := m, actA := none, actB := none, shaA := none, shaB := none, groups := [] } }) s
  | _ => s

/-- KLUT_LOAD (R44): table t from 32 bytes of local memory. -/
def execKlutLoad (s : State) : Out := runFast s fun s => withHead 22 s fun c s =>
  match c.op with
  | .klutLoad t addr =>
    let a := (oWord addr).toNat
    let chk := firstRej [
      failIf (31 < t.toNat) (operandInvalid 1 t.toNat), failIf (opdBad addr) (operandInvalid 2), spaceChk s .gen false a 32 1]
    issueOr 22 c chk (fun s =>
      let v := fun (w : Nat) => if s.poisonedIn (a + 4 * w) 4 then (0x7FC07FC0 : Word) else s.word (a + 4 * w)
      (List.range 8).foldl (fun s' w => s'.setReg (0x28000 + 0x20 * t.toNat + 4 * w) (v w)) (s.touch 0 a 32)) s
  | _ => s

/-- DW_MASK (R188, R189): the row mask, its origins and the optional table for the fills that follow. -/
def execDwMask (s : State) : Out := runFast s fun s => withHead 22 s fun c s =>
  match c.op with
  | .dwMask m r0 c0 tab =>
    let chk := firstRej [
      failIf (opdBad r0 || opdBad c0) (operandInvalid 1),
      (match tab with | some r => firstRej [tStage1 r, tStage2 r] | none => none),
      (match tab with | some r => firstRej [failIf (r.t.base.toNat % 8 ≠ 0) (descBounds 1 r.t.base.toNat), spaceChk s .gen false r.t.base.toNat r.t.extent.toNat 2] | none => none)]
    issueOr 22 c chk (fun s => { s with still := { s.still with mask := m, row0 := oVal r0, col0 := oVal c0, table := tab } }) s
  | _ => s

end Sys2Proof.Machine
end

