-- ==== Sys2Proof/Machine/Sys.lean ====
section
/-! DEFINITION. Power-on reset, start-up, loss of lock, and the IEEE 1500 wrapper (R26, R405–R410, R417, R461, R462). -/

namespace Sys2Proof.Machine

/-! Reset and start-up -/

/-- PORESET_N asserted: every part returns to its power-on state (R405); the fuse bank, the levels of the pins and the
waiting commands are not the core's to reset. -/
def State.powerOn (s : State) : State := { State.reset with
  sys := { Sys.reset with coreReset := s.sys.coreReset, fuses := s.sys.fuses }
  sync := { Sync.reset with lineAck := s.sync.lineAck }
  pwr := { Pwr.reset with readings := s.pwr.readings, skipReq := s.pwr.skipReq }
  freeCtr := s.freeCtr, pending := s.pending }
/-- PORESET_N (R3, R405, R461 stage 2): the straps are sampled when it deasserts. -/
def execPoresetN (level : Bool) (straps : Straps) (s : State) : Out :=
  if !level then .next s.powerOn
  else if !s.sys.poreset then .next s
  else .next { s with sys := { s.sys with poreset := false, straps := straps, bootStage := 2 } }

/-- Whether the synthesiser's first lock is awaited (R461 stage 2, R462). -/
def State.awaitsLock (s : State) : Bool := s.sys.bootStage == 2 && !s.sys.lock && !s.sys.lost && s.sys.core != .bootFailed
/-- SYNTH_LOCK (R26, R443): the clocks start, and the droop detectors act (R430). -/
def execSynthLock (s : State) : Out := runSlow s fun s =>
  if s.awaitsLock then (({ s with sys := { s.sys with lock := true } }).setCore .boot).droopAll else s

/-- A start-up failure (R462). -/
def State.bootFail (code : Half) (s : State) : State :=
  let s := s.raise { code := code, unit := 0 }
  (({ s with sys := { s.sys with bootCause := code } }).setCore .bootFailed).takeMail

/-- PLL_LOCK_TIMEOUT (R462): no lock within 1 ms. -/
def execPllLockTimeout (s : State) : Out := runSlow s fun s => if s.awaitsLock then s.bootFail 0x8001 else s

/-- PLL_UNLOCK (R417). -/
def execPllUnlock (s : State) : Out := runSlow s fun s =>
  if !s.sys.lock then s
  else ({ s with sys := { s.sys with lock := false, lost := true } }).raise { code := 0x7007, unit := 14 }

/-- A start-up stage that follows stage k − 1 (R461). -/
def stage (k : Nat) (s : State) (f : State → State) : Out := runSlow s fun s =>
  if s.sys.core == .bootFailed || !s.sys.lock || s.sys.bootStage + 1 ≠ k then s
  else f { s with sys := { s.sys with bootStage := k } }

/-- Whether the fuse words pass their check: FMT_VER of word 0, and the CRC-32 of words 0–81 (R407, R408). -/
def fusesGood (t : Tab Word) : Bool :=
  fld (Tab.get 0 t 0) 28 4 == 1 && w32 (crc32.of (wordBytes ((List.range 82).map fun i => Tab.get 0 t i))) == Tab.get 0 t 82
/-- STARTUP_FUSE_LOAD (R408, R461 stage 3). -/
def execStartupFuseLoad (s : State) : Out := stage 3 s fun s =>
  let good := fusesGood s.sys.fuses
  let s := { s with sys := { s.sys with shadow := s.sys.fuses, fuseBad := !good } }
  if good then s else s.raise { code := 0x8002, unit := 0 }

/-- STARTUP_BIST (R93, R461 stage 4, R462). -/
def execStartupBist (r : BistResult) (s : State) : Out := stage 4 s fun s =>
  let s := ({ s with sys := { s.sys with tierAnswers := r.tierAnswers } }).clearSets true r.tierAnswers true
  if r.unrepairable then s.bootFail 0x8003 else s

/-- TIER_CHECK (R4, R5, R461 stage 5, R462). -/
def execTierCheck (ok : Bool) (s : State) : Out := stage 5 s fun s =>
  if s.sys.straps.tier then (if ok && s.sys.tierAnswers then s else s.bootFail 0x8004)
  else if s.sys.tierAnswers then s.raise { code := 0x8004, unit := 0 }
  else s

/-- The fence that the fuses ask for: a whole-core record (cause 2), or two or more fenced stills (cause 3) (R111, R341,
R408); cause 2 when both hold (log entry 82). -/
def State.fuseFence (s : State) : Nat :=
  if s.sys.fuseBad || (Tab.get 0 s.sys.shadow 81).getLsbD 20 then 2 else if 2 ≤ s.fencedStills.length then 3 else 0
/-- MGMT_READY (R341, R461 stage 6). -/
def execMgmtReady (s : State) : Out := stage 6 s fun s =>
  let c := s.fuseFence
  let f : FenceState := if c = 0 then .inService else .fenced
  ((({ s with sys := { s.sys with fence := f, fenceCause := c } }).setCore .mgmtReady).interrupt 4).takeMail

/-- What happens when no command waits: one window of 16 ACLK pulses while ACLK runs (R26, R28, R343, R417; log entry
11). CORE_RESET_N does not stop the clock; CYCLE_ACLK counts on (R405, R442). -/
def State.idle (s : State) : State :=
  if s.sys.poreset || !s.sys.lock || s.sys.lost || s.sys.scanned then s
  else if s.sys.coreReset then s.setCtr 0x00010 (s.aclk + 16)
  else if s.fenced then s.idleFlits
  else s.idleFlits.window16

/-! The wrapper (R409, R410) -/

/-- What the boundary cells do under a WIR instruction; a code with none of its own acts as WS_BYPASS (R409). -/
def cellsOf (wir : Byte) : Cells := if wir = 1 then .drive else if wir = 2 then .isolate else .through
/-- A WIR instruction is loaded. -/
def State.setWir (c : Byte) (s : State) : State := { s with wsp := { s.wsp with wir := c, cells := cellsOf c } }
/-- WS_BYPASS (R409): the bypass register is selected. -/
def execWsBypass (s : State) : Out :=
  let t := s.setWir 0
  .next { t with wsp := { t.wsp with bypass := Config.bypassBit s.freeCtr }, freeCtr := s.freeCtr + 1 }
/-- WS_EXTEST (R409). -/
def execWsExtest (s : State) : Out := .next (s.setWir 1)
/-- WS_INTEST (R409). -/
def execWsIntest (s : State) : Out := .next (s.setWir 2)
/-- Every scan flop reset: the memory arrays lie on no scan chain (R410). -/
def State.flopReset (s : State) : State := { s.powerOn with
  mem := s.mem, eccBad := s.eccBad, eccCorr := s.eccCorr, parBad := s.parBad, poison := s.poison
  sys := { s.powerOn.sys with poreset := s.sys.poreset, lock := s.sys.lock, lost := s.sys.lost }
  wsp := s.wsp }
/-- WS_SCAN (R409, R410): core state is lost until PORESET_N; under DEBUG_LOCK the flops are reset before the first shift. -/
def execWsScan (s : State) : Out :=
  let t := s.setWir 3
  if s.sys.poreset then .next t
  else
    let u := if s.debugLocked then t.flopReset else t
    .next { u with sys := { u.sys with scanned := true } }
/-- WS_MBIST (R409): the memory BIST of start-up on both tiers; the result is a free value (log entry 14). -/
def execWsMbist (r : BistResult) (s : State) : Out :=
  let t := (s.setWir 4).clearSets true r.tierAnswers false
  .next { t with wsp := { t.wsp with dr := Config.mbistResult s.freeCtr }, freeCtr := s.freeCtr + 1 }
/-- WS_FUSE_READ (R409). -/
def execWsFuseRead (s : State) : Out :=
  let t := s.setWir 5
  .next { t with wsp := { t.wsp with out := (List.range 128).map fun i => Tab.get 0 s.sys.fuses i } }
/-- WS_FUSE_PROG (R408, R409): blows bits of a word; refused while FUSE_LOCK is 1. A DEBUG_LOCK blown so acts at once (R460;
log entry 81). -/
def execWsFuseProg (word : BitVec 7) (bits : Word) (s : State) : Out :=
  let t := s.setWir 6
  if (Tab.get 0 s.sys.fuses 127).getLsbD 1 then .next t
  else
    let u := { t with sys := { t.sys with fuses := Tab.set 0 s.sys.fuses word.toNat (Tab.get 0 s.sys.fuses word.toNat ||| bits) } }
    .next (if u.debugLocked && !s.debugLocked && !s.sys.poreset then u.closeDebug else u)

/-- WS_FUNC_ACCESS (R409, R410): one register-window access; under DEBUG_LOCK none, and the data register captures 0. -/
def execWsFuncAccess (d : BitVec 53) (s : State) : Out :=
  let t := s.setWir 7
  let off := nfld d.toNat 32 20
  if s.debugLocked then .next { t with wsp := { t.wsp with dr := 0 } }
  else
    let t := { t with wsp := { t.wsp with dr := d.setWidth 64 } }
    if d.getLsbD 52 then runSlow t (State.regWrite off (d.setWidth 32))
    else runSlow t fun s =>
      let r := s.regRead off
      { r.2 with wsp := { r.2.wsp with dr := (d.setWidth 64 &&& 0xFFFFFFFF00000000) ||| r.1.setWidth 64 } }

end Sys2Proof.Machine
end

