-- ==== Sys2Proof/Machine/Dispatch.lean ====
section
/-! DEFINITION. The dispatch: one arm per command, each a call of its meaning. -/

namespace Sys2Proof.Machine

def exec (i : Instr) (s : State) : Host.Outcome State Fault Refusal :=
  match i with
  | .poresetN level straps => Sys2Proof.Machine.execPoresetN level straps s
  | .coreResetN level => Sys2Proof.Machine.execCoreResetN level s
  | .synthLock => Sys2Proof.Machine.execSynthLock s
  | .pllLockTimeout => Sys2Proof.Machine.execPllLockTimeout s
  | .pllUnlock => Sys2Proof.Machine.execPllUnlock s
  | .startupFuseLoad => Sys2Proof.Machine.execStartupFuseLoad s
  | .startupBist r => Sys2Proof.Machine.execStartupBist r s
  | .tierCheck ok => Sys2Proof.Machine.execTierCheck ok s
  | .mgmtReady => Sys2Proof.Machine.execMgmtReady s
  | .aclkPointChange => Sys2Proof.Machine.execAclkPointChange s
  | .operatingPointEval p pLeak => Sys2Proof.Machine.execOperatingPointEval p pLeak s
  | .thermalSensorRead temps => Sys2Proof.Machine.execThermalSensorRead temps s
  | .railMonitorSample core sram port vdda => Sys2Proof.Machine.execRailMonitorSample core sram port vdda s
  | .ageingMeasurement margins => Sys2Proof.Machine.execAgeingMeasurement margins s
  | .droopDetect det v => Sys2Proof.Machine.execDroopDetect det v s
  | .droopHoldExpire det v => Sys2Proof.Machine.execDroopHoldExpire det v s
  | .skipReqChange v => Sys2Proof.Machine.execSkipReqChange v s
  | .pwrBudgetToggle b => Sys2Proof.Machine.execPwrBudgetToggle b s
  | .sillageEngage slices => Sys2Proof.Machine.execSillageEngage slices s
  | .sillageLevelStep slices => Sys2Proof.Machine.execSillageLevelStep slices s
  | .sillageDisengage => Sys2Proof.Machine.execSillageDisengage s
  | .releaseRampStep => Sys2Proof.Machine.execReleaseRampStep s
  | .telemetryFrame slack => Sys2Proof.Machine.execTelemetryFrame slack s
  | .vfUserWrite p v => Sys2Proof.Machine.execVfUserWrite p v s
  | .ageRegisterWrite nmax v => Sys2Proof.Machine.execAgeRegisterWrite nmax v s
  | .pwrModeWrite v => Sys2Proof.Machine.execPwrModeWrite v s
  | .bcastCommandAccept w par => Sys2Proof.Machine.execBcastCommandAccept w par s
  | .bcastCreditGrant => Sys2Proof.Machine.execBcastCreditGrant s
  | .atomiserRingTake => Sys2Proof.Machine.execAtomiserRingTake s
  | .macroDispatch t => Sys2Proof.Machine.execMacroDispatch t s
  | .config t => Sys2Proof.Machine.execConfig t s
  | .start t => Sys2Proof.Machine.execStart t s
  | .patch t => Sys2Proof.Machine.execPatch t s
  | .replay t => Sys2Proof.Machine.execReplay t s
  | .syncBarrier => Sys2Proof.Machine.execSyncBarrier s
  | .syncLatch => Sys2Proof.Machine.execSyncLatch s
  | .syncSwap => Sys2Proof.Machine.execSyncSwap s
  | .powerHint src => Sys2Proof.Machine.execPowerHint src s
  | .traceHint t => Sys2Proof.Machine.execTraceHint t s
  | .traceMark c mark => Sys2Proof.Machine.execTraceMark c mark s
  | .scalarInstruction c op => Sys2Proof.Machine.execScalarInstruction c op s
  | .branch c b target => Sys2Proof.Machine.execBranch c b target s
  | .loop c u count endPc => Sys2Proof.Machine.execLoop c u count endPc s
  | .predSet q => Sys2Proof.Machine.execPredSet q s
  | .paramSet c p v => Sys2Proof.Machine.execParamSet c p v s
  | .tileSet c t words => Sys2Proof.Machine.execTileSet c t words s
  | .engineCommandEnqueue c q op => Sys2Proof.Machine.execEngineCommandEnqueue c q op s
  | .e1StarveIssue => Sys2Proof.Machine.execE1StarveIssue s
  | .tqPush tq v q => Sys2Proof.Machine.execTqPush tq v q s
  | .tqTokenVisible q => Sys2Proof.Machine.execTqTokenVisible q s
  | .tqPop c tq x => Sys2Proof.Machine.execTqPop c tq x s
  | .addrPush => Sys2Proof.Machine.execAddrPush s
  | .fill b => Sys2Proof.Machine.execFill b s
  | .fillComplete b => Sys2Proof.Machine.execFillComplete b s
  | .fillWalk c f w => Sys2Proof.Machine.execFillWalk c f w s
  | .packHoldExpire => Sys2Proof.Machine.execPackHoldExpire s
  | .packFlush => Sys2Proof.Machine.execPackFlush s
  | .pairing => Sys2Proof.Machine.execPairing s
  | .klutLoad => Sys2Proof.Machine.execKlutLoad s
  | .dwMask => Sys2Proof.Machine.execDwMask s
  | .stillArrayCfgWrite v => Sys2Proof.Machine.execStillArrayCfgWrite v s
  | .cntCtrlClear off => Sys2Proof.Machine.execCntCtrlClear off s
  | .counterLowRead off => Sys2Proof.Machine.execCounterLowRead off s
  | .scaleCommit => Sys2Proof.Machine.execScaleCommit s
  | .slotCommit n => Sys2Proof.Machine.execSlotCommit n s
  | .clearCounts n => Sys2Proof.Machine.execClearCounts n s
  | .resetHist n => Sys2Proof.Machine.execResetHist n s
  | .scaleSet => Sys2Proof.Machine.execScaleSet s
  | .scaleRegisterWrite n dec v => Sys2Proof.Machine.execScaleRegisterWrite n dec v s
  | .promoteClear => Sys2Proof.Machine.execPromoteClear s
  | .promotePred => Sys2Proof.Machine.execPromotePred s
  | .flagClear => Sys2Proof.Machine.execFlagClear s
  | .flagRead => Sys2Proof.Machine.execFlagRead s
  | .vsetlen => Sys2Proof.Machine.execVsetlen s
  | .vop => Sys2Proof.Machine.execVop s
  | .vsplit => Sys2Proof.Machine.execVsplit s
  | .vload => Sys2Proof.Machine.execVload s
  | .vstore => Sys2Proof.Machine.execVstore s
  | .drain => Sys2Proof.Machine.execDrain s
  | .drainBeat => Sys2Proof.Machine.execDrainBeat s
  | .sumRead => Sys2Proof.Machine.execSumRead s
  | .sumIndexRead => Sys2Proof.Machine.execSumIndexRead s
  | .sumClear => Sys2Proof.Machine.execSumClear s
  | .predCopy => Sys2Proof.Machine.execPredCopy s
  | .lnFwd => Sys2Proof.Machine.execLnFwd s
  | .rmsFwd => Sys2Proof.Machine.execRmsFwd s
  | .softmaxFwd => Sys2Proof.Machine.execSoftmaxFwd s
  | .lnBwd => Sys2Proof.Machine.execLnBwd s
  | .rmsBwd => Sys2Proof.Machine.execRmsBwd s
  | .softmaxBwd => Sys2Proof.Machine.execSoftmaxBwd s
  | .merge => Sys2Proof.Machine.execMerge s
  | .finalise => Sys2Proof.Machine.execFinalise s
  | .genStep q => Sys2Proof.Machine.execGenStep q s
  | .updateApply => Sys2Proof.Machine.execUpdateApply s
  | .updateRecord => Sys2Proof.Machine.execUpdateRecord s
  | .updateReduce => Sys2Proof.Machine.execUpdateReduce s
  | .updateEnd => Sys2Proof.Machine.execUpdateEnd s
  | .bucketAccount => Sys2Proof.Machine.execBucketAccount s
  | .bucketFlush => Sys2Proof.Machine.execBucketFlush s
  | .bucketReset => Sys2Proof.Machine.execBucketReset s
  | .mode => Sys2Proof.Machine.execMode s
  | .ccSkipAcc => Sys2Proof.Machine.execCcSkipAcc s
  | .ccSkipExe => Sys2Proof.Machine.execCcSkipExe s
  | .paramRegisterWrite exe p hi v => Sys2Proof.Machine.execParamRegisterWrite exe p hi v s
  | .tqBindWrite tq v => Sys2Proof.Machine.execTqBindWrite tq v s
  | .ringErrClear => Sys2Proof.Machine.execRingErrClear s
  | .dma ch => Sys2Proof.Machine.execDma ch s
  | .dmaRequestPlace ch => Sys2Proof.Machine.execDmaRequestPlace ch s
  | .dmaResponse lane => Sys2Proof.Machine.execDmaResponse lane s
  | .dmaComplete ch => Sys2Proof.Machine.execDmaComplete ch s
  | .dmaTimeout stream => Sys2Proof.Machine.execDmaTimeout stream s
  | .streamQuarantineExpire stream => Sys2Proof.Machine.execStreamQuarantineExpire stream s
  | .pageFault stream => Sys2Proof.Machine.execPageFault stream s
  | .faultRecordWrite => Sys2Proof.Machine.execFaultRecordWrite s
  | .streamResume stream => Sys2Proof.Machine.execStreamResume stream s
  | .streamAbort stream => Sys2Proof.Machine.execStreamAbort stream s
  | .atcInvAll => Sys2Proof.Machine.execAtcInvAll s
  | .xrespReceive lane => Sys2Proof.Machine.execXrespReceive lane s
  | .xreqTimeout xid => Sys2Proof.Machine.execXreqTimeout xid s
  | .xinvReceive lane => Sys2Proof.Machine.execXinvReceive lane s
  | .scrubRead => Sys2Proof.Machine.execScrubRead s
  | .rdReqReceive lane => Sys2Proof.Machine.execRdReqReceive lane s
  | .rwrReceive lane => Sys2Proof.Machine.execRwrReceive lane s
  | .sigxReceive lane => Sys2Proof.Machine.execSigxReceive lane s
  | .ledgerSignalApply stream => Sys2Proof.Machine.execLedgerSignalApply stream s
  | .ledgerAbandoned stream => Sys2Proof.Machine.execLedgerAbandoned stream s
  | .syncFlitReceive lane => Sys2Proof.Machine.execSyncFlitReceive lane s
  | .barFlitReceive lane => Sys2Proof.Machine.execBarFlitReceive lane s
  | .wait q => Sys2Proof.Machine.execWait q s
  | .take q => Sys2Proof.Machine.execTake q s
  | .signal q => Sys2Proof.Machine.execSignal q s
  | .dec q => Sys2Proof.Machine.execDec q s
  | .arrive q => Sys2Proof.Machine.execArrive q s
  | .watchWake n => Sys2Proof.Machine.execWatchWake n s
  | .waitPoll party => Sys2Proof.Machine.execWaitPoll party s
  | .watchArm => Sys2Proof.Machine.execWatchArm s
  | .watchCancel n => Sys2Proof.Machine.execWatchCancel n s
  | .barArriveAck lvl => Sys2Proof.Machine.execBarArriveAck lvl s
  | .barRelTgl gen => Sys2Proof.Machine.execBarRelTgl gen s
  | .deadlock => Sys2Proof.Machine.execDeadlock s
  | .dlRearm => Sys2Proof.Machine.execDlRearm s
  | .partnerTimeout party => Sys2Proof.Machine.execPartnerTimeout party s
  | .fence => Sys2Proof.Machine.execFence s
  | .fenceComplete timedOut => Sys2Proof.Machine.execFenceComplete timedOut s
  | .unfence => Sys2Proof.Machine.execUnfence s
  | .snapshotBegin => Sys2Proof.Machine.execSnapshotBegin s
  | .flaconChunkDrain r => Sys2Proof.Machine.execFlaconChunkDrain r s
  | .parityPubPoll r timedOut => Sys2Proof.Machine.execParityPubPoll r timedOut s
  | .snapshotComplete => Sys2Proof.Machine.execSnapshotComplete s
  | .restoreVerify r => Sys2Proof.Machine.execRestoreVerify r s
  | .restoreRebuild r => Sys2Proof.Machine.execRestoreRebuild r s
  | .restoreState r => Sys2Proof.Machine.execRestoreState r s
  | .restoreComplete => Sys2Proof.Machine.execRestoreComplete s
  | .registryWrite => Sys2Proof.Machine.execRegistryWrite s
  | .registryRead => Sys2Proof.Machine.execRegistryRead s
  | .gtWrite => Sys2Proof.Machine.execGtWrite s
  | .gtRead => Sys2Proof.Machine.execGtRead s
  | .cvuEnable c cfg => Sys2Proof.Machine.execCvuEnable c cfg s
  | .cvuAbsorb c => Sys2Proof.Machine.execCvuAbsorb c s
  | .linkNakReceive lane ackSeq => Sys2Proof.Machine.execLinkNakReceive lane ackSeq s
  | .linkAckTimeout lane => Sys2Proof.Machine.execLinkAckTimeout lane s
  | .linkFlitReceive lane f => Sys2Proof.Machine.execLinkFlitReceive lane f s
  | .portEnable => Sys2Proof.Machine.execPortEnable s
  | .laneTrained inbound lane => Sys2Proof.Machine.execLaneTrained inbound lane s
  | .laneTrainFailed inbound lane => Sys2Proof.Machine.execLaneTrainFailed inbound lane s
  | .fclkMeasure mhz => Sys2Proof.Machine.execFclkMeasure mhz s
  | .wsBypass => Sys2Proof.Machine.execWsBypass s
  | .wsExtest => Sys2Proof.Machine.execWsExtest s
  | .wsIntest => Sys2Proof.Machine.execWsIntest s
  | .wsScan => Sys2Proof.Machine.execWsScan s
  | .wsMbist r => Sys2Proof.Machine.execWsMbist r s
  | .wsFuseRead => Sys2Proof.Machine.execWsFuseRead s
  | .wsFuseProg word bits => Sys2Proof.Machine.execWsFuseProg word bits s
  | .wsFuncAccess dr => Sys2Proof.Machine.execWsFuncAccess dr s
  | .mboxReqWrite v => Sys2Proof.Machine.execMboxReqWrite v s
  | .mboxSubmit => Sys2Proof.Machine.execMboxSubmit s
  | .mboxDiscard => Sys2Proof.Machine.execMboxDiscard s
  | .mboxRspRead => Sys2Proof.Machine.execMboxRspRead s
  | .mringRequestTake => Sys2Proof.Machine.execMringRequestTake s
  | .mringCfgWrite v => Sys2Proof.Machine.execMringCfgWrite v s
  | .mringErrClear => Sys2Proof.Machine.execMringErrClear s
  | .mgmtReplyPlace => Sys2Proof.Machine.execMgmtReplyPlace s
  | .getInfo => Sys2Proof.Machine.execGetInfo s
  | .reset => Sys2Proof.Machine.execReset s
  | .loadImage => Sys2Proof.Machine.execLoadImage s
  | .loadImageComplete => Sys2Proof.Machine.execLoadImageComplete s
  | .swapBank => Sys2Proof.Machine.execSwapBank s
  | .readFuse => Sys2Proof.Machine.execReadFuse s
  | .setVfOffsets => Sys2Proof.Machine.execSetVfOffsets s
  | .readSensors p => Sys2Proof.Machine.execReadSensors p s
  | .setPowerMode => Sys2Proof.Machine.execSetPowerMode s
  | .hoststreamStart => Sys2Proof.Machine.execHoststreamStart s
  | .hoststreamStop => Sys2Proof.Machine.execHoststreamStop s
  | .debugBreakSet => Sys2Proof.Machine.execDebugBreakSet s
  | .debugRead => Sys2Proof.Machine.execDebugRead s
  | .debugWrite => Sys2Proof.Machine.execDebugWrite s
  | .bistRun => Sys2Proof.Machine.execBistRun s
  | .bistRunComplete results => Sys2Proof.Machine.execBistRunComplete results s
  | .groupTableWrite => Sys2Proof.Machine.execGroupTableWrite s
  | .clearErrors => Sys2Proof.Machine.execClearErrors s
  | .ageingReport => Sys2Proof.Machine.execAgeingReport s
  | .lockDebug readback => Sys2Proof.Machine.execLockDebug readback s
  | .dbgResumeAcc => Sys2Proof.Machine.execDbgResumeAcc s
  | .dbgResumeExe => Sys2Proof.Machine.execDbgResumeExe s
  | .blotClear => Sys2Proof.Machine.execBlotClear s
  | .errlogPop => Sys2Proof.Machine.execErrlogPop s
  | .errlogClear => Sys2Proof.Machine.execErrlogClear s
  | .registerWrite off v => Sys2Proof.Machine.execRegisterWrite off v s
  | .rowOperationComplete => Sys2Proof.Machine.execRowOperationComplete s
  | .updateApplyComplete => Sys2Proof.Machine.execUpdateApplyComplete s

end Sys2Proof.Machine
end

