-- ==== Sys2Proof/WellFormed.lean ====
section
/-! DEFINITION. Well-formed commands: the operands that an operand's type does not bound lie in the range the spec gives
what they name. -/

namespace Sys2Proof

/-- An engine command queue (R230). -/
def queueOk (q : Nat) : Bool := decide (q ≤ 22)
/-- A stream index (R276). -/
def streamOk (n : Nat) : Bool := decide (n < 2 ^ 20)
/-- A waiting party: an engine queue or a dispatch stage (R302, R320). -/
def partyOk (n : Nat) : Bool := decide (n ≤ 31)
/-- Remote memory as a Flacon operation meets it: group-table entries with 32-bit addresses, or fabric memory (R259). -/
def remoteOk (r : Remote) : Bool :=
  r.spans.all fun e => decide (e.gt ≤ 8192) && (e.gt == 8192 || decide (e.addr.toNat + e.data.length ≤ 2 ^ 32))

/-- Whether a command is well formed. -/
def Instr.wf (i : Instr) : Bool :=
  match i with
  | .poresetN _ _ => true
  | .coreResetN _ => true
  | .synthLock => true
  | .pllLockTimeout => true
  | .pllUnlock => true
  | .startupFuseLoad => true
  | .startupBist _ => true
  | .tierCheck _ => true
  | .mgmtReady => true
  | .aclkPointChange => true
  | .operatingPointEval p pLeak => decide (pLeak ≤ p ∧ p < 2 ^ 32)
  | .thermalSensorRead l => decide (l.length = 12)
  | .railMonitorSample _ _ _ _ => true
  | .ageingMeasurement l => decide (l.length = 8)
  | .droopDetect det _ => decide (det ≤ 8)
  | .droopHoldExpire det _ => decide (det ≤ 8)
  | .skipReqChange _ => true
  | .pwrBudgetToggle _ => true
  | .sillageEngage slices => decide (slices ≤ 16)
  | .sillageLevelStep n => decide (n ≤ 16)
  | .sillageDisengage => true
  | .releaseRampStep => true
  | .telemetryFrame _ => true
  | .vfUserWrite _ _ => true
  | .ageRegisterWrite _ _ => true
  | .pwrModeWrite _ => true
  | .bcastCommandAccept _ _ => true
  | .bcastCreditGrant => true
  | .atomiserRingTake => true
  | .macroDispatch _ => true
  | .config _ => true
  | .start _ => true
  | .patch _ => true
  | .replay _ => true
  | .syncBarrier => true
  | .syncLatch => true
  | .syncSwap => true
  | .powerHint _ => true
  | .traceHint _ => true
  | .traceMark _ _ => true
  | .scalarInstruction _ _ => true
  | .branch _ _ _ => true
  | .loop _ _ _ _ => true
  | .predSet q => queueOk q
  | .paramSet _ _ _ => true
  | .tileSet _ _ ws => ws.all fun w => decide (w.1 ≤ 15)
  | .engineCommandEnqueue _ q _ => queueOk q
  | .e1StarveIssue => true
  | .tqPush _ _ q => queueOk q
  | .tqTokenVisible q => queueOk q
  | .tqPop _ _ _ => true
  | .addrPush => true
  | .fill _ => true
  | .fillComplete _ => true
  | .fillWalk _ _ _ => true
  | .packHoldExpire => true
  | .packFlush => true
  | .pairing => true
  | .klutLoad => true
  | .dwMask => true
  | .stillArrayCfgWrite _ => true
  | .cntCtrlClear _ => true
  | .counterLowRead _ => true
  | .scaleCommit => true
  | .slotCommit _ => true
  | .clearCounts _ => true
  | .resetHist _ => true
  | .scaleSet => true
  | .scaleRegisterWrite _ _ _ => true
  | .promoteClear => true
  | .promotePred => true
  | .flagClear => true
  | .flagRead => true
  | .vsetlen => true
  | .vop => true
  | .vsplit => true
  | .vload => true
  | .vstore => true
  | .drain => true
  | .drainBeat => true
  | .sumRead => true
  | .sumIndexRead => true
  | .sumClear => true
  | .predCopy => true
  | .lnFwd => true
  | .rmsFwd => true
  | .softmaxFwd => true
  | .lnBwd => true
  | .rmsBwd => true
  | .softmaxBwd => true
  | .merge => true
  | .finalise => true
  | .genStep q => queueOk q
  | .updateApply => true
  | .updateRecord => true
  | .updateReduce => true
  | .updateEnd => true
  | .bucketAccount => true
  | .bucketFlush => true
  | .bucketReset => true
  | .mode => true
  | .ccSkipAcc => true
  | .ccSkipExe => true
  | .paramRegisterWrite _ _ _ _ => true
  | .tqBindWrite _ _ => true
  | .ringErrClear => true
  | .dma _ => true
  | .dmaRequestPlace _ => true
  | .dmaResponse _ => true
  | .dmaComplete _ => true
  | .dmaTimeout n => streamOk n
  | .streamQuarantineExpire n => streamOk n
  | .pageFault n => streamOk n
  | .faultRecordWrite => true
  | .streamResume _ => true
  | .streamAbort _ => true
  | .atcInvAll => true
  | .xrespReceive _ => true
  | .xreqTimeout _ => true
  | .xinvReceive _ => true
  | .scrubRead => true
  | .rdReqReceive _ => true
  | .rwrReceive _ => true
  | .sigxReceive _ => true
  | .ledgerSignalApply n => streamOk n
  | .ledgerAbandoned n => streamOk n
  | .syncFlitReceive _ => true
  | .barFlitReceive _ => true
  | .wait q => queueOk q
  | .take q => queueOk q
  | .signal q => queueOk q
  | .dec q => queueOk q
  | .arrive q => queueOk q
  | .watchWake _ => true
  | .waitPoll n => partyOk n
  | .watchArm => true
  | .watchCancel _ => true
  | .barArriveAck _ => true
  | .barRelTgl _ => true
  | .deadlock => true
  | .dlRearm => true
  | .partnerTimeout n => partyOk n
  | .fence => true
  | .fenceComplete _ => true
  | .unfence => true
  | .snapshotBegin => true
  | .flaconChunkDrain r => remoteOk r
  | .parityPubPoll r _ => remoteOk r
  | .snapshotComplete => true
  | .restoreVerify r => remoteOk r
  | .restoreRebuild r => remoteOk r
  | .restoreState r => remoteOk r
  | .restoreComplete => true
  | .registryWrite => true
  | .registryRead => true
  | .gtWrite => true
  | .gtRead => true
  | .cvuEnable _ _ => true
  | .cvuAbsorb _ => true
  | .linkNakReceive _ _ => true
  | .linkAckTimeout _ => true
  | .linkFlitReceive _ f => decide (f.pay.length ≤ 64)
  | .portEnable => true
  | .laneTrained _ _ => true
  | .laneTrainFailed _ _ => true
  | .fclkMeasure _ => true
  | .wsBypass => true
  | .wsExtest => true
  | .wsIntest => true
  | .wsScan => true
  | .wsMbist _ => true
  | .wsFuseRead => true
  | .wsFuseProg _ _ => true
  | .wsFuncAccess _ => true
  | .mboxReqWrite _ => true
  | .mboxSubmit => true
  | .mboxDiscard => true
  | .mboxRspRead => true
  | .mringRequestTake => true
  | .mringCfgWrite _ => true
  | .mringErrClear => true
  | .mgmtReplyPlace => true
  | .getInfo => true
  | .reset => true
  | .loadImage => true
  | .loadImageComplete => true
  | .swapBank => true
  | .readFuse => true
  | .setVfOffsets => true
  | .readSensors _ => true
  | .setPowerMode => true
  | .hoststreamStart => true
  | .hoststreamStop => true
  | .debugBreakSet => true
  | .debugRead => true
  | .debugWrite => true
  | .bistRun => true
  | .bistRunComplete l => decide (l.length ≤ 3)
  | .groupTableWrite => true
  | .clearErrors => true
  | .ageingReport => true
  | .lockDebug _ => true
  | .dbgResumeAcc => true
  | .dbgResumeExe => true
  | .blotClear => true
  | .errlogPop => true
  | .errlogClear => true
  | .registerWrite _ _ => true
  | .rowOperationComplete => true
  | .updateApplyComplete => true

end Sys2Proof
end

