-- ==== Sys2Proof/Safety.lean ====
section
/-! DEFINITION. What counts as a safe run, in the terms statements use: the invariant that every step keeps, and what it
means that a step leaves a kind of state unchanged. -/

namespace Sys2Proof.Machine

/-- Memory is in its canonical form. -/
abbrev State.MemOk (s : State) : Prop := Memory.wf s.mem = true
/-- The stores that the spec bounds hold no more than they can: error log (R468), Blotter (R466), request buffer and reply
queue (R450), run-ahead queue (R216). -/
abbrev State.StoresOk (s : State) : Prop :=
  s.logs.errs.length ≤ 512 ∧ s.logs.blot.length ≤ 4096 ∧ s.mgmt.req.length ≤ 1027 ∧ s.mgmt.replies.length ≤ 2 ∧
    s.cc.runahead.length ≤ 512
/-- ACLK runs, and is about to run, only at the points N = 7 to 22 (R418). -/
def State.PointOk (s : State) : Prop :=
  7 ≤ s.pwr.n ∧ s.pwr.n ≤ 22 ∧ ∀ n, s.pwr.nNext = some n → 7 ≤ n ∧ n ≤ 22

/-- A state whose blocks are defined: no loss of lock and no scan since PORESET_N (R409, R417). -/
abbrev State.Defined (s : State) : Prop := s.sys.lost = false ∧ s.sys.scanned = false
/-- Every block takes steps: the clocks run and no reset is asserted (R26, R405). -/
abbrev State.Clocked (s : State) : Prop :=
  s.sys.poreset = false ∧ s.sys.coreReset = false ∧ s.sys.lock = true ∧ s.sys.lost = false ∧ s.sys.scanned = false
/-- The management controller and the register access port take steps, and every block is defined (R26, R417). -/
abbrev State.Served (s : State) : Prop := s.sys.poreset = false ∧ s.Defined

/-- No byte of [a, a + n) lies in an ECC word with a correctable error. -/
abbrev State.Clean (a n : Nat) (s : State) : Prop := (s.eccCorr.any fun e => eccOverlap e a n) = false
/-- A context may execute its next instruction: it runs a handler, nothing holds it but a stall in one of the ways `ks`
(R231, R233), and the instruction's word has no error. -/
abbrev State.MayRunAs (c : Ctx) (ks : List (Nat × Nat)) (s : State) : Prop :=
  s.Clocked ∧ s.threadGo c = true ∧ ((s.ctxt c).stall.all fun k => ks.contains k) = true ∧
    s.poisonedAt (s.fetchAddr c) = false ∧ s.eccCorr.contains (eccBase (s.fetchAddr c)) = false
/-- The same of a context that does not stall. -/
abbrev State.MayRun (c : Ctx) (s : State) : Prop := s.MayRunAs c []
/-- Command c heads queue q, which is not halted, and nothing holds it there. -/
abbrev State.AtHead (q : Nat) (c : EngCmd) (s : State) : Prop :=
  s.Clocked ∧ s.headCmd q = some c ∧ s.modeFirst c = false ∧ mustWait s c = false
/-- Thread t is dispatching macro-command m. -/
abbrev State.AtMacro (t : Thread) (m : Macro) (s : State) : Prop :=
  s.Clocked ∧ s.inService = true ∧ (s.disp t).cur = some m ∧ (s.disp t).halted = false

/-- Transfer x is the oldest of channel ch that has a request, a run or a closing access to place, in service or LOCAL (R342). -/
abbrev State.Places (ch : Nat) (x : Xfer) (s : State) : Prop :=
  s.Clocked ∧ x.ch = ch ∧
    (s.xfersOf ch).find? (fun x => x.err.isNone && x.fault.isNone && (!x.placed || s.closing x ≠ 0) && (s.inService || x.kind == 2)) = some x
/-- Transfer x of channel ch holds stream-table entry i, and is the only one that does. -/
abbrev State.Streams (ch i : Nat) (x : Xfer) (s : State) : Prop :=
  s.Clocked ∧ x.ch = ch ∧ s.stream i = .xfer ch ∧ (s.xfersOf ch).find? (fun x => x.stream == some i) = some x
/-- Inbound lane i holds flit f as the next of its virtual channel, and is the lane without it, its credit due, in u. -/
abbrev State.Receives (s : State) (i op : Nat) (f : Flit) (u : State) : Prop := s.Clocked ∧ s.takeRx i op = some (f, u)

/-- Every byte of local memory reads the same in both states. -/
def SameMem (s t : State) : Prop := ∀ a, t.byte a = s.byte a
/-- Every byte outside [a, a + n) reads the same in both states. -/
def SameMemOutside (a n : Nat) (s t : State) : Prop := ∀ x, x < a ∨ a + n ≤ x → t.byte x = s.byte x
/-- Every 32-bit register but the listed ones reads the same as stored. -/
def SameRegsBut (offs : List Nat) (s t : State) : Prop := ∀ o, o ∉ offs → t.reg o = s.reg o
/-- Every 64-bit register and counter but the listed ones holds the same. -/
def SameCtrsBut (offs : List Nat) (s t : State) : Prop := ∀ o, o ∉ offs → t.ctr o = s.ctr o

/-- Byte x holds bits of the code, or is the scale byte, of the stored element (sr, sc) of a tile. -/
def OnStored (t : Tile) (sr sc x : Nat) : Prop :=
  (codeAddr t sr sc ≤ x ∧ x < codeAddr t sr sc + (fmtWidth (tFmt t) * sc % 8 + fmtWidth (tFmt t) + 7) / 8) ∨
    (tCont t ≠ 0 ∧ x = scaleAddr t sr sc)
/-- Byte x belongs to no stored element of a tile. -/
def OffTile (t : Tile) (x : Nat) : Prop := ∀ sr sc, sr < tSRows t → sc < tSCols t → ¬ OnStored t sr sc x
/-- No stored row of a tile begins below address 0: what R237 checks of every operand. -/
abbrev RowsOk (t : Tile) : Prop := ∀ sr : Nat, sr < tSRows t → 0 ≤ (t.base.toNat : Int) + sr * t.stride.toInt
/-- Elements lie inside a tile. -/
abbrev InTile (t : Tile) (l : List Elem) : Prop := ∀ e ∈ l, e.sr < tSRows t ∧ e.sc < tSCols t
/-- Every byte that belongs to none of these tiles reads the same in both states. -/
def SameMemOff (l : List Tile) (s t : State) : Prop := ∀ x, (∀ k ∈ l, OffTile k x) → t.byte x = s.byte x

end Sys2Proof.Machine
end

