-- ==== Sys2Proof/Certificates/Slice0/Obligations.lean ====
section
/-! DEFINITION. The statements for the provers, one definition each; OBLIGATIONS.json lists them. -/

open Sys2Proof Sys2Proof.Machine

/-- The command at the front of the queue is what a step runs, on the state with the queue's rest. On an empty queue one
window of 16 ACLK pulses passes (the model's choice, log entry 11): CYCLE_ACLK advances by the pulses delivered (R28). -/
def Obligations.StepRunsFrontCommand : Prop :=
  (∀ (c : Instr) (rest : List Instr) (s : State), step { s with pending := c :: rest } = exec c { s with pending := rest }) ∧
  ∀ s : State, s.pending = [] → ∃ t, step s = .next t ∧ t.pending = [] ∧ t.mem = s.mem ∧ t.cc = s.cc ∧ t.logs = s.logs ∧
    (s.Clocked → s.sys.fence ≠ .fenced → t.aclk = s.aclk + w64 (16 - s.skipNow)) ∧
    (s.sys.poreset = true ∨ s.sys.lock = false → t = s)

/-- PORESET_N asserted returns every part to its power-on state (R405, R443); what memory then reads is the model's choice (log
entry 9), and so is that the fuse bank and the waiting commands are no part of it. Deasserted, the straps are sampled and stage
2 has begun (R3, R461). R417: lock is lost and the error logged, the clocks are stopped, and the register access port and the
management controller serve on, in a state that is free (log entry 15) but for the controller's. -/
def Obligations.PowerAndLockResetTheFastBlocks : Prop :=
  ((∀ (st : Straps) (s : State), ∃ t : State, exec (.poresetN false st) s = .next t ∧ t.sys.core = .powerOn ∧ t.sys.poreset = true ∧
    t.sys.lock = false ∧ t.sys.fence = .inService ∧ (∀ off, t.reg off = regReset t.sys.straps.portGen off) ∧
    (∀ off, t.ctr off = 0) ∧ (∀ n, t.slot n = Slot.reset) ∧ (∀ a, t.byte a = memDefault) ∧ t.eccBad = [] ∧ t.logs = Logs.reset ∧
    t.cc = Cc.reset ∧ t.mgmt = Mgmt.reset ∧ t.vec = Vec.reset ∧ t.dma = Dma.reset ∧ t.flacon = Flacon.reset ∧ t.port = Port.reset ∧
    t.sys.fuses = s.sys.fuses ∧ t.pending = s.pending) ∧
  (∀ (st : Straps) (s : State), s.sys.poreset = true →
    exec (.poresetN true st) s = .next { s with sys := { s.sys with poreset := false, straps := st, bootStage := 2 } }) ∧
  ∀ (st : Straps) (s : State), s.sys.poreset = false → exec (.poresetN true st) s = .next s) ∧
  ((∀ s : State, s.Served → s.sys.lock = true → ∃ t : State, exec .pllUnlock s = .next t ∧
    t.sys = { s.sys with lock := false, lost := true } ∧ t.regBit 0x04000 0 = true ∧
    (s.logs.errs.length < 512 → ∃ e, t.logs.errs = s.logs.errs ++ [e] ∧ e.code = 0x7007 ∧ e.unit = 14) ∧
    SameRegsBut [0x04000] s t ∧ t.mem = s.mem ∧ t.cc = s.cc ∧ t.mgmt = s.mgmt ∧ t.pwr = s.pwr) ∧
  (∀ s : State, s.sys.poreset = false → s.sys.lost = true → s.sys.scanned = false →
    exec .vop s = .next s ∧ exec .scrubRead s = .next s ∧
    ∃ u : State, (∀ off v, exec (.registerWrite off v) s = .next ((s.scramble u).regWrite off.toNat v)) ∧
      (∀ off, exec (.counterLowRead off) s = .next ((s.scramble u).readOut off.toNat)) ∧
      ∀ v, exec (.mboxReqWrite v) s = .next ((s.scramble u).mboxReqWrite v)) ∧
  ∀ (s u : State), (s.scramble u).mgmt = s.mgmt ∧ (s.scramble u).logs = s.logs ∧ (s.scramble u).sys = s.sys ∧
    (s.scramble u).pending = s.pending ∧ (∀ off, ctrlReg off = true → (s.scramble u).reg off = s.reg off ∧ (s.scramble u).ctr off = s.ctr off) ∧
    (s.MemOk ∨ Memory.wf u.mem = true → (s.scramble u).MemOk))

/-- The stages of start-up in the order of R461, each on the state that the one before it left. -/
def Obligations.StartUpStagesRunInOrder : Prop :=
  (∀ s : State, s.Served → s.awaitsLock = true → ∃ t : State, exec .synthLock s = .next t ∧
    t.sys = { s.sys with lock := true, core := .boot } ∧ SameRegsBut [0x04000] s t ∧
    t = { s with sys := t.sys, pwr := t.pwr, regs := t.regs, logs := t.logs, ctrs := t.ctrs }) ∧
  (∀ s : State, s.Served → s.sys.core ≠ .bootFailed → s.sys.lock = true → s.sys.bootStage = 2 →
    ∃ t : State, exec .startupFuseLoad s = .next t ∧
      t.sys = { s.sys with bootStage := 3, shadow := s.sys.fuses, fuseBad := !fusesGood s.sys.fuses } ∧
      (fusesGood s.sys.fuses = true → t = { s with sys := t.sys })) ∧
  (∀ (r : BistResult) (s : State), s.Served → s.sys.core ≠ .bootFailed → s.sys.lock = true → s.sys.bootStage = 3 →
    r.unrepairable = false →
    ∃ t : State, exec (.startupBist r) s = .next t ∧ t.sys = { s.sys with bootStage := 4, tierAnswers := r.tierAnswers } ∧
      (∀ a, t.byte a = if a < 0x01000000 ∨ (r.tierAnswers = true ∧ a < 0x06000000) ∨ (0x08000000 ≤ a ∧ a < 0x0C000000)
        then 0 else s.byte a) ∧
      (∀ e, e ∈ t.eccBad → e ∈ s.eccBad ∧ 0x01000000 ≤ e ∧ ¬(0x08000000 ≤ e ∧ e < 0x0C000000)) ∧
      (∀ i v, Tab.get 0 t.vec.v (512 * i + v) = 0) ∧ t.logs.blot = [] ∧ t.logs.errs = s.logs.errs ∧
      t.cc.valid0 = false ∧ t.cc.valid1 = false ∧ t.regs = s.regs ∧ t.ctrs = s.ctrs) ∧
  (∀ (ok : Bool) (s : State), s.Served → s.sys.core ≠ .bootFailed → s.sys.lock = true → s.sys.bootStage = 4 →
    s.sys.tierAnswers = s.sys.straps.tier → (s.sys.straps.tier = true → ok = true) →
    exec (.tierCheck ok) s = .next { s with sys := { s.sys with bootStage := 5 } }) ∧
  (∀ s : State, s.Served → s.sys.core ≠ .bootFailed → s.sys.lock = true → s.sys.bootStage = 5 →
    ∃ t : State, exec .mgmtReady s = .next t.takeMail ∧ t.sys.core = .mgmtReady ∧ t.sys.bootStage = 6 ∧ t.regBit 0x04000 2 = true ∧
      t.sys.fenceCause = s.fuseFence ∧ (t.sys.fence = .fenced ↔ s.fuseFence ≠ 0) ∧ t.mem = s.mem ∧ t.mgmt = s.mgmt ∧ t.cc = s.cc)

/-- The failures of R462 and what does not fail start-up (R4, R408). -/
def Obligations.StartUpFailuresAreLogged : Prop :=
  (∀ s : State, s.Served → s.awaitsLock = true → ∃ t : State, exec .pllLockTimeout s = .next t.takeMail ∧
    t.sys = { s.sys with core := .bootFailed, bootCause := 0x8001 } ∧ t.logs.raised = s.logs.raised + 1 ∧
    t.mem = s.mem ∧ t.mgmt = s.mgmt ∧ t.cc = s.cc ∧
    (s.logs.errs.length < 512 → ∃ e, t.logs.errs = s.logs.errs ++ [e] ∧ e.code = 0x8001 ∧ e.unit = 0)) ∧
  (∀ (r : BistResult) (s : State), s.Served → s.sys.core ≠ .bootFailed → s.sys.lock = true → s.sys.bootStage = 3 → r.unrepairable = true →
    ∃ t : State, exec (.startupBist r) s = .next t.takeMail ∧ t.sys.core = .bootFailed ∧ t.sys.bootCause = 0x8003 ∧
      (s.logs.errs.length < 512 → ∃ e, t.logs.errs = s.logs.errs ++ [e] ∧ e.code = 0x8003)) ∧
  (∀ (ok : Bool) (s : State), s.Served → s.sys.core ≠ .bootFailed → s.sys.lock = true → s.sys.bootStage = 4 →
    s.sys.straps.tier = true → (ok = false ∨ s.sys.tierAnswers = false) →
    ∃ t : State, exec (.tierCheck ok) s = .next t.takeMail ∧ t.sys.core = .bootFailed ∧ t.sys.bootCause = 0x8004 ∧
      (s.logs.errs.length < 512 → ∃ e, t.logs.errs = s.logs.errs ++ [e] ∧ e.code = 0x8004)) ∧
  (∀ (ok : Bool) (s : State), s.Served → s.sys.core ≠ .bootFailed → s.sys.lock = true → s.sys.bootStage = 4 →
    s.sys.straps.tier = false → s.sys.tierAnswers = true →
    ∃ t : State, exec (.tierCheck ok) s = .next t ∧ t.sys = { s.sys with bootStage := 5 } ∧
      (s.logs.errs.length < 512 → ∃ e, t.logs.errs = s.logs.errs ++ [e] ∧ e.code = 0x8004)) ∧
  (∀ s : State, s.Served → s.sys.core ≠ .bootFailed → s.sys.lock = true → s.sys.bootStage = 2 → fusesGood s.sys.fuses = false →
    ∃ t : State, exec .startupFuseLoad s = .next t ∧ t.sys = { s.sys with bootStage := 3, shadow := s.sys.fuses, fuseBad := true } ∧
      t.fuseFence = 2 ∧ (s.logs.errs.length < 512 → ∃ e, t.logs.errs = s.logs.errs ++ [e] ∧ e.code = 0x8002))

/-- What a core reset does and keeps, on the pin and by the opcode (R405, R442, R457). `keepReg` is the model's reading of
what the chapters keep (log entry 16). -/
def Obligations.CoreResetKeepsManagementAndMemory : Prop :=
  (∀ s : State, s.sys.poreset = false → s.sys.coreReset = false → s.sys.fence ≠ .fencing → s.mgmt.deferred = none →
    exec (.coreResetN false) s = .next ({ s with sys := { s.sys with coreReset := true } }).coreReset.takeMail) ∧
  (∀ s : State, ∃ t : State, exec (.coreResetN true) s = .next t ∧ t.sys = { s.sys with coreReset := false } ∧
    SameRegsBut [0x04000] s t ∧ t = { s with sys := t.sys, pwr := t.pwr, regs := t.regs, logs := t.logs, ctrs := t.ctrs }) ∧
  (∀ (p : Packet) (s : State), s.Served → s.mgmt.cur = some p → p.op = 0x02 →
    exec .reset s = .next (s.coreReset.ok p []).takeMail) ∧
  (∀ (s : State) (off : Nat), keepReg off = false → off ≠ 0x03084 → s.coreReset.reg off = regReset s.sys.straps.portGen off) ∧
  (∀ (s : State) (off : Nat), keepReg off = true → s.coreReset.reg off = s.reg off) ∧
  (∀ (s : State) (off : Nat), off ≠ 0x90220 → s.coreReset.ctr off = if keepReg off = true then s.ctr off else 0) ∧
  ∀ s : State, s.coreReset.ageNmax = s.ageNmax ∧ SameMem s s.coreReset ∧ s.coreReset.eccBad = s.eccBad ∧
    s.coreReset.vec.v = s.vec.v ∧ s.coreReset.cc = Cc.reset ∧ s.coreReset.slots = [] ∧ s.coreReset.still = StillArr.reset ∧
    s.coreReset.logs.errs = s.logs.errs ∧ s.coreReset.sys.fence = s.sys.fence ∧ s.coreReset.sys.fuses = s.sys.fuses ∧
    s.coreReset.flacon.gt = s.flacon.gt ∧ s.coreReset.pwr.n = 7 ∧ s.coreReset.port.state = 0 ∧
    s.coreReset.mgmt = { s.mgmt with joined := false, modeNext := none } ∧
    (s.sys.core ≠ .bootFailed → s.coreReset.sys.core = .mgmtReady) ∧
    (s.sys.core = .bootFailed → s.coreReset.sys.core = .bootFailed)

/-- R419: v_eff of each point from its three layers as they stand, what VF_EFF shows of it, and that no disabled point is chosen
(unless no point at all is enabled: the model then stays at N = 7, log entry 18). R422 for every state and every eight margins. -/
def Obligations.VoltageFollowsLayersAndAgeing : Prop :=
  ((∀ (s : State) (p : Nat), p < 16 →
    let sum : Int := (s.vfFuse p : Int) + 10 * s.vfUser p + 10 * (s.ageOffset : Int)
    (s.regVal (0x030C0 + 4 * p)).getLsbD 31 = decide (3600 < sum) ∧
    (sum ≤ 3600 → (fld (s.regVal (0x030C0 + 4 * p)) 0 12 : Int) = max sum 2400)) ∧
  (∀ (s : State) (n : Nat), s.enabledAt n ≠ 7 → s.enabledAt n ≤ n ∧ s.disabled (s.enabledAt n - 7) = false) ∧
  ∀ (s : State) (n p : Nat), p < 16 → p + 7 ≤ n → s.disabled p = false → p + 7 ≤ s.enabledAt n) ∧
  (∀ (l : List Byte) (m : Int) (s : State), s.Clocked → s.sys.fence ≠ .fenced → l.length = 8 →
    (∃ v ∈ l, v.toInt = m) → (∀ v ∈ l, m ≤ v.toInt) →
    let deficit : Nat := ((s.regFld 0x03088 0 4 : Int) - m).toNat
    ∃ t : State, exec (.ageingMeasurement l) s = .next t ∧
      t.ageOffset = s.ageOffset + min deficit (16 - s.ageOffset) ∧
      t.ageNmax = (if min deficit (16 - s.ageOffset) < deficit ∧ 7 < s.ageNmax then s.ageNmax - 1 else s.ageNmax) ∧
      (min deficit (16 - s.ageOffset) < deficit → t.regBit 0x03084 31 = true) ∧
      (t.logs.raised = if min deficit (16 - s.ageOffset) < deficit ∧ 7 < s.ageNmax then s.logs.raised + 1 else s.logs.raised) ∧
      t.pwr.minutes = s.pwr.minutes + 10 ∧ t.pwr.ageHist.length ≤ 16 ∧ SameRegsBut [0x03080, 0x03084, 0x04000] s t ∧
      t.mem = s.mem ∧ t.cc = s.cc)

/-- R420, through the register and through the opcode. -/
def Obligations.VfUserOffsetsStayInRange : Prop :=
  (∀ (p : BitVec 4) (v : Word) (s : State), s.Served → ∃ t : State, exec (.vfUserWrite p v) s = .next t ∧
    t.vfUser p.toNat = (if -20 ≤ signedOf 8 (fld v 0 8) ∧ signedOf 8 (fld v 0 8) ≤ 20 then signedOf 8 (fld v 0 8) else s.vfUser p.toNat) ∧
    SameRegsBut [0x03040 + 4 * p.toNat] s t ∧ t = { s with regs := t.regs }) ∧
  (∀ (p : Packet) (s : State), s.Served → s.mgmt.cur = some p → p.op = 0x08 →
    (∀ i ∈ vfPoints p, -20 ≤ signedOf 8 (vfOffset p i) ∧ signedOf 8 (vfOffset p i) ≤ 20) →
    ∃ (u : State) (pay : List Word), exec .setVfOffsets s = .next (u.ok p pay).takeMail ∧
      (∀ i, i < 16 → u.vfUser i = if i ∈ vfPoints p then signedOf 8 (vfOffset p i) else s.vfUser i) ∧
      SameRegsBut ((List.range 16).map fun i => 0x03040 + 4 * i) s u ∧ u = { s with regs := u.regs } ∧
      pay = (List.range 16).map fun i => u.regVal (0x030C0 + 4 * i)) ∧
  (∀ (p : Packet) (s : State) (i : Nat), s.Served → s.mgmt.cur = some p → p.op = 0x08 → i ∈ vfPoints p →
    (signedOf 8 (vfOffset p i) < -20 ∨ 20 < signedOf 8 (vfOffset p i)) →
    ∃ j, exec .setVfOffsets s = .next (s.refuse p 4 j).takeMail) ∧
  ∀ (s : State) (i : Nat), i < 16 → s.coreReset.vfUser i = s.vfUser i ∧ s.powerOn.vfUser i = 0

/-- R423, both registers, and what PORESET_N leaves. -/
def Obligations.AgeRegistersOnlyMoveOneWay : Prop :=
  (∀ (v : Word) (s : State), s.Served → ∃ t : State, exec (.ageRegisterWrite false v) s = .next t ∧
    t.ageOffset = (if s.ageOffset < fld v 0 5 ∧ fld v 0 5 ≤ 16 then fld v 0 5 else s.ageOffset) ∧
    SameRegsBut [0x03080] s t ∧ t = { s with regs := t.regs }) ∧
  (∀ (v : Word) (s : State), s.Served → ∃ t : State, exec (.ageRegisterWrite true v) s = .next t ∧
    t.ageNmax = (if fld v 16 5 < s.ageNmax ∧ 7 ≤ fld v 16 5 then fld v 16 5 else s.ageNmax) ∧
    SameRegsBut [0x03084] s t ∧ t = { s with regs := t.regs }) ∧
  ∀ (st : Straps) (s t : State), exec (.poresetN false st) s = .next t → t.ageOffset = 0 ∧ t.ageNmax = 22

/-- R428 of both paths to PWR_MODE, and R418, R421 and R424 to R426 of each evaluation. -/
def Obligations.PointsAreRefusedOrReachedByOneStep : Prop :=
  ((∀ (v : Word) (s : State), s.Served → ∃ t : State, exec (.pwrModeWrite v) s = .next t ∧
    t.reg 0x02000 = (if fld v 0 2 = 3 ∨ (fld v 0 2 = 2 ∧ (fld v 16 5 < 7 ∨ 22 < fld v 16 5)) then s.reg 0x02000 else v &&& 0x001F0003) ∧
    SameRegsBut [0x02000] s t ∧ t = { s with regs := t.regs }) ∧
  (∀ (p : Packet) (s : State), s.Served → s.mgmt.cur = some p → p.op = 0x0A → s.modeOk (p.w 0) = true →
    ∃ u : State, exec .setPowerMode s = .next (u.ok p [p.w 0 &&& 0x001F0003]).takeMail ∧ u.reg 0x02000 = p.w 0 &&& 0x001F0003 ∧
      SameRegsBut [0x02000] s u ∧ u = { s with regs := u.regs }) ∧
  (∀ (p : Packet) (s : State), s.Served → s.mgmt.cur = some p → p.op = 0x0A →
    (fld (p.w 0) 0 2 = 3 ∨ (fld (p.w 0) 0 2 = 2 ∧ (fld (p.w 0) 16 5 < 7 ∨ 22 < fld (p.w 0) 16 5 ∨
      s.disabled (fld (p.w 0) 16 5 - 7) = true ∨ s.ageNmax < fld (p.w 0) 16 5))) →
    exec .setPowerMode s = .next (s.refuse p 4 0).takeMail)) ∧
  ((∀ (p pLeak : Nat) (s : State), s.Served → s.sys.lock = true → s.PointOk → 7 ≤ s.pwr.nBudget ∧ s.pwr.nBudget ≤ 22 →
    ∃ t : State, exec (.operatingPointEval p pLeak) s = .next t ∧
      let n := t.pwr.nNext.getD t.pwr.n
      let cur := s.pwr.nNext.getD s.pwr.n
      t.pwr.n = s.pwr.n ∧ t.PointOk ∧ n ≤ cur + 1 ∧ (s.disabled (cur - 7) = true → n ≤ cur) ∧ 7 ≤ t.pwr.nBudget ∧ t.pwr.nBudget ≤ 22 ∧
      t.mode = s.regFld 0x02000 0 2 ∧ t.fixedN = s.regFld 0x02000 16 5 ∧ t.pwr.power = p ∧ (t.mode = 2 → t.logs = s.logs) ∧
      (n ≠ 7 → n ≤ t.modeCap ∧ n ≤ s.ageNmax ∧ s.disabled (n - 7) = false) ∧
      (n ≠ 7 → t.mode ≠ 2 → n ≤ s.pwr.nTherm ∧ n ≤ t.pwr.nBudget ∧ n ≤ s.voltCap) ∧
      (s.pwr.nBudget = t.pwr.nBudget ∨ s.pwr.nBudget + 1 = t.pwr.nBudget ∨ s.pwr.nBudget = t.pwr.nBudget + 1) ∧
      (t.budgetNow < p → t.pwr.nBudget = max (s.pwr.nBudget - 1) 7) ∧
      SameRegsBut [0x02004, 0x0200C, 0x04000] s t ∧ t.mem = s.mem ∧ t.cc = s.cc) ∧
  (∀ (n : Nat) (s : State), s.Served → s.sys.lock = true → s.pwr.nNext = some n → ∃ t : State, exec .aclkPointChange s = .next t ∧
    t.pwr.n = n ∧ t.pwr.nNext = none ∧ s.pwr.droop ≤ t.pwr.droop ∧
    t.ctr 0x02128 = (if s.frozen 0x02128 then s.ctr 0x02128 else s.ctr 0x02128 + 1) ∧ SameRegsBut [0x04000] s t ∧
    t = { s with pwr := t.pwr, regs := t.regs, logs := t.logs, ctrs := t.ctrs }))

/-- R430, R431 and R404: the detectors, the holds, SKIP_REQ and PWR_BUDGET. -/
def Obligations.DroopAndPowerPinsAct : Prop :=
  (∀ (det : Nat) (v : Half) (s : State), s.Clocked → det ≤ 8 →
    let at' := fun (k : Nat) => v.toNat + 4 * s.regFld 0x02014 (8 * k) 8 ≤ s.vEff (s.pwr.n - 7)
    let lvl := if det = 8 then (if v = 0 then 0 else 2) else if at' 2 then 3 else if at' 1 then 2 else if at' 0 then 1 else 0
    ∃ t : State, exec (.droopDetect det v) s = .next t ∧
      t.pwr.droop ≥ levelSkip lvl ∧ s.pwr.droop ≤ t.pwr.droop ∧ t.skipNow ≥ s.skipNow ∧ t.pwr.n = s.pwr.n ∧
      (Tab.get 0 s.pwr.reported det < 3 → lvl = 3 → s.logs.errs.length < 512 →
        ∃ e, t.logs.errs = s.logs.errs ++ [e] ∧ e.code = 0x7001 ∧ e.unit = 14) ∧
      (lvl < 3 → t.logs = s.logs) ∧ SameRegsBut [0x04000] s t ∧ t.mem = s.mem ∧ t.cc = s.cc) ∧
  (∀ (det : Nat) (v : Half) (s : State), s.running = false → det ≤ 8 → exec (.droopDetect det v) s =
    .next { s with pwr := { s.pwr with readings := Tab.set none s.pwr.readings det (some v) } }) ∧
  (∀ (det : Nat) (v : Half) (s : State), s.Clocked → det ≤ 8 →
    let lvl := (s.setPwr { s.pwr with readings := Tab.set none s.pwr.readings det (some v) }).droopLevel det
    lvl < Tab.get 0 s.pwr.held det → ∃ t : State, exec (.droopHoldExpire det v) s = .next t ∧ Tab.get 0 t.pwr.held det = lvl ∧
      t.pwr.droop = s.pwr.droop ∧ t = { s with pwr := t.pwr }) ∧
  (∀ (v : BitVec 4) (s : State), s.running = false →
    exec (.skipReqChange v) s = .next { s with pwr := { s.pwr with skipReq := v.toNat } }) ∧
  (∀ (v : BitVec 4) (s : State), s.Clocked → ∃ t : State, exec (.skipReqChange v) s = .next t ∧ t.pwr.skipReq = v.toNat ∧
    v.toNat ≤ t.skipNow ∧ t.pwr.droop = s.pwr.droop ∧
    t.ctr 0x02100 = (if s.skipNow = 0 ∧ 0 < t.skipNow ∧ s.frozen 0x02100 = false then s.ctr 0x02100 + 1 else s.ctr 0x02100) ∧
    SameCtrsBut [0x02100] s t ∧ t.regs = s.regs ∧ t.logs = s.logs ∧ t.mem = s.mem ∧ t.cc = s.cc) ∧
  ∀ (b : BitVec 12) (s : State), s.Served → ∃ t : State, exec (.pwrBudgetToggle b) s = .next t ∧
    t.budgetNow = (if s.mode = 1 then min b.toNat 2304 else b.toNat) ∧ t = { s with pwr := { s.pwr with budget := some b.toNat } }

/-- R427 and R416: where the readings go and what they move; the frame of R404, whose word 3, a time, comes with
the command (log entry 19). -/
def Obligations.SensorsReachRegistersAndFrames : Prop :=
  ((∀ (l : List Half) (hot : Int) (s : State), s.Served → l.length = 12 → (∃ v ∈ l, v.toInt = hot) → (∀ v ∈ l, v.toInt ≤ hot) →
    ∃ t : State, exec (.thermalSensorRead l) s = .next t ∧
      (∀ k, k < 12 → t.reg (0x03100 + 4 * k) = (getAt 0 l k).setWidth 32) ∧
      t.pwr.nTherm = (if 16 * (s.regFld 0x02020 0 8 : Int) ≤ hot then max (s.pwr.nTherm - 1) 7
        else if hot ≤ 16 * (s.regFld 0x02020 0 8 : Int) - 80 ∧ s.pwr.sillage = none then min (s.pwr.nTherm + 1) 22
        else s.pwr.nTherm) ∧
      t.pwr.trip = decide (16 * (s.regFld 0x02020 8 8 : Int) ≤ hot ∨ (s.pwr.trip = true ∧ 16 * (s.regFld 0x02020 8 8 : Int) - 160 ≤ hot)) ∧
      (t.pwr.trip = true → 15 ≤ t.skipNow) ∧ t.pwr.n = s.pwr.n ∧ t.mem = s.mem ∧ t.cc = s.cc ∧
      SameRegsBut ([0x0200C, 0x04000] ++ (List.range 12).map fun k => 0x03100 + 4 * k) s t) ∧
  (∀ (core sram port vdda : Half) (s : State), s.Served → ∃ t : State, exec (.railMonitorSample core sram port vdda) s = .next t ∧
    t.reg 0x03140 = core.setWidth 32 ∧ t.reg 0x03144 = sram.setWidth 32 ∧ t.reg 0x03148 = port.setWidth 32 ∧
    t.reg 0x0314C = vdda.setWidth 32 ∧ t.cc = s.cc ∧
    (∀ a, t.byte a = if isAcc a = true ∨ (3104 ≤ sram.toNat ∧ sram.toNat ≤ 3296) then s.byte a else memDefault) ∧
    SameRegsBut [0x0200C, 0x04000, 0x03140, 0x03144, 0x03148, 0x0314C] s t ∧
    (2400 ≤ core.toNat ∧ core.toNat ≤ 3600 → 3104 ≤ sram.toNat ∧ sram.toNat ≤ 3296 → 2850 ≤ port.toNat ∧ port.toNat ≤ 3150 →
      4560 ≤ vdda.toNat ∧ vdda.toNat ≤ 5040 → core.toNat ≤ sram.toNat + 400 → t.logs = s.logs ∧ t.pwr.excSupply = 0))) ∧
  (∀ (slack : Word) (s : State), s.Served → ∃ t : State, exec (.telemetryFrame slack) s = .next t ∧ t.pwr.frame.length = 8 ∧
    fld (getAt 0 t.pwr.frame 0) 28 4 = 1 ∧ fld (getAt 0 t.pwr.frame 0) 0 16 = s.pwr.frames % 2 ^ 16 ∧
    getAt 0 t.pwr.frame 1 = w32 s.pwr.power ∧ getAt 0 t.pwr.frame 3 = slack ∧ (s.pwr.n ≤ 22 → fld (getAt 0 t.pwr.frame 4) 16 5 = s.pwr.n) ∧
    fld (getAt 0 t.pwr.frame 4) 0 16 = min s.pwr.frameSkips 65535 ∧ getAt 0 t.pwr.frame 5 = w32 s.budgetNow ∧
    getAt 0 t.pwr.frame 6 = s.regVal 0x0200C ∧ getAt 0 t.pwr.frame 7 = 0 ∧ t.pwr.frames = s.pwr.frames + 1 ∧
    t.pwr.frameSkips = 0 ∧ t = { s with pwr := t.pwr })

/-- R433, R434 and R436. -/
def Obligations.SillageFollowsItsLevels : Prop :=
  (∀ (n : Nat) (s : State), s.Clocked → s.pwr.sillage = none → s.sillageWait = true →
    ∃ t : State, exec (.sillageEngage n) s = .next t ∧
      t.pwr = { s.pwr with sillage := some ⟨s.pwr.power, s.fillLevel, 0,
        if min (s.fillLevel * s.pwr.power / 100) s.budgetNow = 0 then 0 else min n 16⟩ } ∧
      t = { s with pwr := t.pwr, ctrs := t.ctrs } ∧ SameCtrsBut [0x02138] s t) ∧
  (∀ (g : Sillage) (n : Nat) (s : State), s.Clocked → s.pwr.sillage = some g →
    ∃ (t : State) (h : Sillage), exec (.sillageLevelStep n) s = .next t ∧ t.pwr = { s.pwr with sillage := some h } ∧
      h.us = g.us + 1 ∧ h.pRef = g.pRef ∧ (g.us + 1 < s.fillHold → h.level = g.level) ∧
      (s.fillSlope = 0 → h.level = g.level) ∧ (s.fillHold ≤ g.us + 1 → 0 < n → h.level = g.level - s.fillSlope) ∧
      (s.fillHold ≤ g.us + 1 → 0 < s.fillSlope → n = 0 → h.level = 0) ∧
      h.slices ≤ 16 ∧ (h.level = 0 → h.slices = 0) ∧ t = { s with pwr := t.pwr }) ∧
  (∀ (g : Sillage) (s : State), s.Clocked → s.pwr.sillage = some g → s.sillageWait = false →
    ∃ t : State, exec .sillageDisengage s = .next t ∧ t.pwr.sillage = none ∧
      t.pwr.ramp = (if s.regBit 0x0201C 30 = true ∧ s.mode ≠ 2 ∧ g.level < 100 then some g.level else none) ∧
      t = { s with pwr := t.pwr, ctrs := t.ctrs } ∧ SameCtrsBut [0x02100] s t) ∧
  (∀ (l : Nat) (s : State), s.Clocked → s.pwr.ramp = some l → ∃ t : State, exec .releaseRampStep s = .next t ∧
    t.pwr.ramp = (if 100 ≤ l + s.fillSlope then none else some (l + s.fillSlope)) ∧
    t = { s with pwr := t.pwr, ctrs := t.ctrs } ∧ SameCtrsBut [0x02100] s t)

/-- R467, R468 and R403 of every error that is raised, and the two ways of removing entries; R466 of every record, and
BLOT_CTRL.CLEAR. -/
def Obligations.LogAndBlotterKeepTheirBounds : Prop :=
  ((∀ (e : Err) (s : State), s.logs.errs.length < 512 → (s.raise e).logs.errs = s.logs.errs ++
    [⟨e.code, e.tag, e.unit, e.index, e.thread, e.cond, e.d0, e.d1, e.d2, s.aclk, w32 (s.logs.raised + 1)⟩] ∧
    (s.raise e).ctr 0x04018 = s.ctr 0x04018) ∧
  (∀ (e : Err) (s : State), 512 ≤ s.logs.errs.length → (s.raise e).logs.errs = s.logs.errs ∧
    (s.raise e).ctr 0x04018 = s.ctr 0x04018 + 1) ∧
  (∀ (e : Err) (s : State), (s.raise e).logs.raised = s.logs.raised + 1 ∧
    (s.raise e).reg 0x04000 = s.reg 0x04000 ||| (if e.code = 0x1002 ∨ e.code = 0x2002 ∨ e.code = 0x2003 then 2 else 1) ∧
    SameRegsBut [0x04000] s (s.raise e) ∧ (s.raise e).mem = s.mem ∧ (s.raise e).cc = s.cc) ∧
  (∀ s : State, s.Served → exec .errlogPop s = .next { s with logs := { s.logs with errs := s.logs.errs.tail } }) ∧
  ∀ s : State, s.Served → exec .errlogClear s = .next { s with logs := { s.logs with errs := [] } }) ∧
  ((∀ (ty src : Nat) (tag : Half) (d : Word) (s : State), s.regBit 0x90200 31 = true → s.regBit 0x90200 ty = true →
    (s.logs.blot.length < 4096 → s.blotter ty src tag d = { s with logs := { s.logs with blot := s.logs.blot ++ [⟨s.aclk, ty, src, tag, d⟩] } }) ∧
    (4096 ≤ s.logs.blot.length → s.regBit 0x90200 30 = false →
      s.blotter ty src tag d = { s with logs := { s.logs with blot := s.logs.blot.tail ++ [⟨s.aclk, ty, src, tag, d⟩] } }) ∧
    (4096 ≤ s.logs.blot.length → s.regBit 0x90200 30 = true →
      (s.blotter ty src tag d).logs = s.logs ∧ (s.blotter ty src tag d).ctr 0x90220 = s.ctr 0x90220 + 1)) ∧
  (∀ (ty src : Nat) (tag : Half) (d : Word) (s : State), s.regBit 0x90200 31 = false ∨ s.regBit 0x90200 ty = false →
    s.blotter ty src tag d = s) ∧
  (∀ s : State, s.Served → s.debugLocked = false → exec .blotClear s = .next { s with logs := { s.logs with blot := [] } }) ∧
  ∀ s : State, s.Served → s.debugLocked = true → exec .blotClear s = .next s)

/-- R450 items 1, 2, 4 and 5. -/
def Obligations.MailboxTakesWordsAndSubmits : Prop :=
  (∀ (v : Word) (s : State), s.Served → s.mgmt.req.length < 1027 →
    exec (.mboxReqWrite v) s = .next { s with mgmt := { s.mgmt with req := s.mgmt.req ++ [v] } }) ∧
  (∀ (v : Word) (s : State), s.Served → 1027 ≤ s.mgmt.req.length → ∃ t : State, exec (.mboxReqWrite v) s = .next t ∧
    t.mgmt = { s.mgmt with overrun := true } ∧ t.regBit 0x04000 0 = true ∧ t.mem = s.mem ∧ t.cc = s.cc ∧
    (s.logs.errs.length < 512 → ∃ e, t.logs.errs = s.logs.errs ++ [e] ∧ e.code = 0x8005)) ∧
  (∀ s : State, s.Served → s.mgmt.busy = false → ∃ t : State, exec .mboxSubmit s = .next t.takeMail ∧
    t = { s with mgmt := { s.mgmt with submitted := some s.mgmt.req, req := [], busy := true } }) ∧
  (∀ s : State, s.Served → s.mgmt.busy = true → exec .mboxSubmit s = .next { s with mgmt := { s.mgmt with overrun := true } }) ∧
  (∀ s : State, s.Served → exec .mboxDiscard s = .next { s with mgmt := { s.mgmt with req := [] } }) ∧
  (∀ (w v : Word) (ws : List Word) (rs : List (List Word)) (s : State), s.Served → s.mgmt.replies = (w :: v :: ws) :: rs →
    exec .mboxRspRead s = .next { s with mgmt := { s.mgmt with replies := (v :: ws) :: rs }, rdata := w }) ∧
  (∀ (w : Word) (rs : List (List Word)) (s : State), s.Served → s.mgmt.replies = [w] :: rs → s.mgmt.out = [] → s.mgmt.submitted = none →
    exec .mboxRspRead s = .next { s with mgmt := { s.mgmt with replies := rs }, rdata := w }) ∧
  ∀ s : State, s.Served → s.mgmt.replies = [] → exec .mboxRspRead s = .next { s with rdata := 0 }

/-- The order of R447 up to BAD_LENGTH, and what a refusal and an acceptance leave. -/
def Obligations.PacketRefusalsFollowPrecedence : Prop :=
  (∀ (s : State) (p : Packet) (ws : List Word) (bad : Bool), 2 ≤ ws.length →
    let h := getAt 0 ws 0
    let crcBad := bad = true ∨ (h.getLsbD 17 = true ∧ 2 < ws.length ∧ w32 (crc32.of (wordBytes ws.dropLast)) ≠ ws.getLastD 0)
    let verBad := (p.ver ≠ 1 ∧ p.ver ≠ 2) ∨ (h.getLsbD 17 = true ∧ p.ver = 1) ∨ fld h 18 6 ≠ 0 ∨ fld h 0 16 ≠ 0 ∨
      payloadReserved p.op p.pay = true
    let opBad := p.op = 0 ∨ 0x16 < p.op
    let fenceBad := s.sys.fence = .fenced ∧ p.op ∉ fencedOps
    let lockBad := s.debugLocked = true ∧ 0x0D ≤ p.op ∧ p.op ≤ 0x0F
    (crcBad → s.packetTest p ws bad = some 7) ∧
    (¬crcBad → verBad → s.packetTest p ws bad = some 8) ∧
    (¬crcBad → ¬verBad → opBad → s.packetTest p ws bad = some 2) ∧
    (¬crcBad → ¬verBad → ¬opBad → fenceBad → s.packetTest p ws bad = some 9) ∧
    (¬crcBad → ¬verBad → ¬opBad → ¬fenceBad → lockBad → s.packetTest p ws bad = some 5) ∧
    (s.packetTest p ws bad = none → ¬crcBad ∧ ¬verBad ∧ ¬opBad ∧ ¬fenceBad ∧ ¬lockBad)) ∧
  (∀ (s : State) (src : Transport) (ws : List Word) (bad : Bool), s.packetTest (packetOf src ws) ws bad = none →
    (s.takePacket src ws bad).mgmt.cur = some (packetOf src ws) ∧ (s.takePacket src ws bad).ctr 0x01040 = s.ctr 0x01040 + 1 ∧
    s.takePacket src ws bad = { s with mgmt := (s.takePacket src ws bad).mgmt, ctrs := (s.takePacket src ws bad).ctrs }) ∧
  ∀ (s : State) (src : Transport) (ws : List Word) (bad : Bool) (st : Nat), s.packetTest (packetOf src ws) ws bad = some st →
    (s.takePacket src ws bad).mgmt.cur = s.mgmt.cur ∧ (s.takePacket src ws bad).ctr 0x01040 = s.ctr 0x01040 + 1 ∧
    (s.takePacket src ws bad).cc.queues = s.cc.queues ∧ (s.takePacket src ws bad).sys = s.sys

/-- R450 and R452: the rings' start, one slot taken, one reply placed. -/
def Obligations.MailboxRingsServeSlots : Prop :=
  (∀ (v : Word) (s : State), s.Served → s.regBit 0x01010 31 = false → v.getLsbD 31 = false →
    exec (.mringCfgWrite v) s = .next (s.setReg 0x01010 (mringCfg v))) ∧
  (∀ (v : Word) (s : State), s.Served → s.regBit 0x01010 31 = false → v.getLsbD 31 = true →
    let u := s.setReg 0x01010 (mringCfg v)
    let good := u.ringGood u.reqBase u.reqSlots = true ∧ u.ringGood u.rspBase u.rspSlots = true
    (good → ∃ t : State, exec (.mringCfgWrite v) s = .next t.placeReplies.takeMail ∧ t.ringServed = true ∧
      t.reg 0x01010 = mringCfg v ∧ t.mem = s.mem ∧ t.cc = s.cc) ∧
    (¬good → ∃ t : State, exec (.mringCfgWrite v) s = .next t ∧ t.mgmt.ringErr = true ∧ t.ringServed = false ∧ t.mem = s.mem)) ∧
  (∀ (v : Word) (s : State), s.Served → s.regBit 0x01010 31 = true → v.getLsbD 31 = true → exec (.mringCfgWrite v) s = .next s) ∧
  (∀ (v : Word) (s : State), s.Served → s.regBit 0x01010 31 = true → v.getLsbD 31 = false →
    ∃ t : State, exec (.mringCfgWrite v) s = .next t ∧ t.ringServed = false ∧ t.regBit 0x01010 31 = false ∧
      SameRegsBut [0x01010] s t ∧ t.mem = s.mem ∧ t.cc = s.cc) ∧
  (∀ s : State, s.Served → s.mgmt.ringErr = true → s.regBit 0x01010 31 = false →
    exec .mringErrClear s = .next { s with mgmt := { s.mgmt with ringErr := false } }) ∧
  (∀ s : State, s.Served → s.mgmt.ringErr = true → s.regBit 0x01010 31 = true →
    s.ringGood s.reqBase s.reqSlots = true → s.ringGood s.rspBase s.rspSlots = true →
    ∃ t : State, exec .mringErrClear s = .next t.placeReplies.takeMail ∧ t.ringServed = true ∧ t.mem = s.mem ∧ t.cc = s.cc) ∧
  (∀ s : State, s.Served → s.ringServed = true → s.poisonedIn s.reqBase 16 = false → 0 < s.reqHeld → s.reqHeld ≤ s.reqSlots →
    s.ringWordsOk s.reqBase = true → s.replyRoom .ring = true → s.mayTake = true → (s.mgmt.last = .ring → s.mgmt.submitted = none) →
    ∃ (u : State) (ws : List Word) (bad : Bool), exec .mringRequestTake s = .next (u.takePacket .ring ws bad).takeMail ∧ 2 ≤ ws.length ∧
      (∀ i, i < ws.length → getAt 0 ws i = s.word (s.reqBase + 0x40 + 0x1040 * ((s.word (s.reqBase + 8)).toNat % s.reqSlots) + 4 * i)) ∧
      u.word (s.reqBase + 8) = s.word (s.reqBase + 8) + 1 ∧ SameMemOutside (s.reqBase + 8) 8 s u ∧ u.mgmt.cur = s.mgmt.cur) ∧
  (∀ s : State, s.Served → s.ringServed = true → s.poisonedIn s.reqBase 16 = false → 0 < s.reqHeld → s.reqHeld ≤ s.reqSlots →
    s.ringWordsOk s.reqBase = true → s.replyRoom .ring = true → s.mayTake = true → s.mgmt.last = .ring → s.mgmt.submitted ≠ none →
    ∃ u : State, exec .mringRequestTake s = .next u.takeMail ∧ u.mgmt = s.mgmt ∧ u.mem = s.mem ∧ u.cc = s.cc) ∧
  ∀ (r : Reply) (s : State), s.Served → s.mgmt.out = [r] → r.dest = .mailbox → s.mgmt.replies.length < 2 → s.mgmt.submitted = none →
    ∃ t : State, exec .mgmtReplyPlace s = .next t ∧ t.mgmt.replies = s.mgmt.replies ++ [r.words] ∧ t.mgmt.out = [] ∧
      t.mgmt.busy = (s.mgmt.busy && r.notice) ∧ t.mem = s.mem ∧ SameRegsBut [0x04000] s t

/-- R453: the opcodes that answer with information. -/
def Obligations.InformationOpcodesAnswer : Prop :=
  (∀ (p : Packet) (s : State), s.Served → s.mgmt.cur = some p → p.op = 0x01 →
    ∃ pay : List Word, exec .getInfo s = .next (s.ok p pay).takeMail ∧ pay.length = 16 ∧ getAt 0 pay 0 = s.regVal 0 ∧
      getAt 0 pay 1 = s.regVal 4 ∧ (∀ i, i < 8 → getAt 0 pay (2 + i) = s.capVal i) ∧ getAt 0 pay 11 = w32 (coreNum s.sys.core) ∧
      getAt 0 pay 13 = s.fenceStatus ∧ getAt 0 pay 15 = 3) ∧
  (∀ (p : Packet) (s : State), s.Served → s.mgmt.cur = some p → p.op = 0x07 → 1 ≤ (p.w 1).toNat → (p.w 0).toNat + (p.w 1).toNat ≤ 128 →
    ∃ pay : List Word, exec .readFuse s = .next (s.ok p pay).takeMail ∧ pay.length = (p.w 1).toNat ∧
      ∀ i, i < pay.length → getAt 0 pay i = Tab.get 0 s.sys.shadow ((p.w 0).toNat + i)) ∧
  (∀ (p : Packet) (s : State), s.Served → s.mgmt.cur = some p → p.op = 0x09 →
    ∃ pay : List Word, exec (.readSensors ()) s = .next (s.ok p pay).takeMail ∧ pay.length = 20 ∧
      (∀ i, i < 12 → getAt 0 pay i = s.reg (0x03100 + 4 * i)) ∧ (∀ i, i < 4 → getAt 0 pay (12 + i) = s.reg (0x03140 + 4 * i)) ∧
      getAt 0 pay 16 = w32 s.pwr.power ∧ getAt 0 pay 17 = s.clkStatus ∧ getAt 0 pay 18 = s.pwrStatus ∧ getAt 0 pay 19 = s.portStatus) ∧
  (∀ (p : Packet) (s : State), s.Served → s.mgmt.cur = some p → p.op = 0x15 →
    ∃ pay : List Word, exec .ageingReport s = .next (s.ok p pay).takeMail ∧ pay.length = 20 ∧ getAt 0 pay 0 = s.reg 0x03080 ∧
      getAt 0 pay 1 = s.reg 0x03084 ∧ getAt 0 pay 2 = w32 s.pwr.minutes ∧ ∀ i, i < 16 → getAt 0 pay (4 + i) = getAt 0 s.pwr.ageHist i) ∧
  (∀ (p : Packet) (s : State), s.Served → s.mgmt.cur = some p → p.op = 0x14 →
    ∃ (u : State) (n : Nat), exec .clearErrors s = .next (u.ok p [w32 n, w32 (s.logs.errs.length - n)]).takeMail ∧
      n = (if p.w 0 = 0 then s.logs.errs.length else min (p.w 0).toNat s.logs.errs.length) ∧ u.logs.errs = s.logs.errs.drop n ∧
      u.reg 0x04000 = (if n = s.logs.errs.length then s.reg 0x04000 &&& ~~~3 else s.reg 0x04000) ∧ SameRegsBut [0x04000] s u ∧
      u = { s with logs := u.logs, regs := u.regs }) ∧
  ∀ (p : Packet) (s : State), s.Served → s.mgmt.cur = some p → p.op = 0x0D → ∃ u : State,
    exec .debugBreakSet s = .next (u.ok p []).takeMail ∧
      u.reg (0x90100 + 0x20 * fld (p.w 0) 0 2) = bpCfg (w32 (fld (p.w 0) 8 8)) ∧ u.reg (0x90104 + 0x20 * fld (p.w 0) 0 2) = p.w 1 ∧
      u.reg (0x90108 + 0x20 * fld (p.w 0) 0 2) = p.w 2 ∧ u.reg (0x9010C + 0x20 * fld (p.w 0) 0 2) = p.w 3 &&& 0xFFFF ∧
      SameRegsBut ((List.range 4).map fun k => 0x90100 + 0x20 * fld (p.w 0) 0 2 + 4 * k) s u ∧ u = { s with regs := u.regs }

/-- R455 and R456: acceptance, and the end of the copy in each case. -/
def Obligations.ImageLoadChecksThenCopies : Prop :=
  (∀ (p : Packet) (s : State), s.Served → s.mgmt.cur = some p → p.op = 0x03 → s.loadRefusal p = none →
    ∃ (u : State) (d : Deferred), exec .loadImage s = .next (u.accept p d []).takeMail ∧ d.pkt = p ∧ d.disturbed = false ∧
      d.src = (p.w 0).toNat ∧ d.bytes + 64 = (p.w 1).toNat ∧ d.crc = s.word ((p.w 0).toNat + 12) ∧ u.mem = s.mem ∧
      ((p.w 2).getLsbD 0 = true → d.bank = 2 ∧ u.cc = s.cc) ∧
      ((p.w 2).getLsbD 0 = false → d.bank = s.standby ∧ (if s.standby = 0 then u.cc.valid0 else u.cc.valid1) = false ∧
        u.cc.inService = s.cc.inService)) ∧
  (∀ (d : Deferred) (s : State), s.Clocked → s.mgmt.deferred = some d → d.pkt.op = 0x03 → d.bank ≤ 1 → ∃ u : State,
    let good := s.poisonedIn (d.src + 64) d.bytes = false ∧ w32 (crc32.of (s.bytes (d.src + 64) d.bytes)) = d.crc
    exec .loadImageComplete s =
      .next (u.complete (if d.disturbed then 6 else if good then 0 else 7) 0xFFFF 0 [w32 d.bank]).takeMail ∧
    SameMemOutside (0x0A000000 + 0x40000 * d.bank) d.bytes s u ∧
    (∀ i, i < d.bytes → u.byte (0x0A000000 + 0x40000 * d.bank + i) = s.byte (d.src + 64 + i)) ∧
    (d.disturbed = false → good → (if d.bank = 0 then u.cc.valid0 else u.cc.valid1) = true) ∧
    (d.bytes ≠ 0 → d.bytes ≤ 0x40000 → (d.disturbed = true ∨ ¬good) → (if d.bank = 0 then u.cc.valid0 else u.cc.valid1) = false)) ∧
  ∀ (d : Deferred) (s : State), s.Clocked → s.mgmt.deferred = some d → d.pkt.op = 0x03 → d.bank = 2 → ∃ u : State,
    let good := s.poisonedIn (d.src + 64) d.bytes = false ∧ w32 (crc32.of (s.bytes (d.src + 64) d.bytes)) = d.crc
    exec .loadImageComplete s = .next (u.complete (if good then 0 else 7) 0xFFFF 0 [2]).takeMail ∧ u.mem = s.mem ∧ u.cc = s.cc ∧
    u.mgmt.patchVer = (if good then d.patchVer else 0) ∧
    (good → ∀ i, i < d.bytes → Tab.get 0 u.mgmt.patch i = s.byte (d.src + 64 + i)) ∧ (¬good → u.mgmt.patch = [])

/-- R458. -/
def Obligations.BanksSwapAndStreamingStarts : Prop :=
  (∀ (p : Packet) (s : State), s.Served → s.mgmt.cur = some p → p.op = 0x04 →
    (if s.cc.inService then s.cc.valid0 else s.cc.valid1) = true → s.dispatchIdle = true → s.queuesIdle = true → s.swapPending = false →
    ∃ u : State, exec .swapBank s = .next (u.ok p [w32 (bit !s.cc.inService)]).takeMail ∧
      u.cc = { s.cc with inService := !s.cc.inService } ∧ u = { s with cc := u.cc, logs := u.logs, ctrs := u.ctrs }) ∧
  (∀ (p : Packet) (s : State), s.Served → s.mgmt.cur = some p → p.op = 0x04 →
    (if s.cc.inService then s.cc.valid0 else s.cc.valid1) = false →
    exec .swapBank s = .next (s.refuse p 6 0xFFFF 0x3009).takeMail) ∧
  (∀ (p : Packet) (s : State), s.Served → s.mgmt.cur = some p → p.op = 0x0B →
    (if s.cc.inService then s.cc.valid1 else s.cc.valid0) = true →
    ((p.w 1).getLsbD 31 = true ∨ s.cc.atomStarted = false) →
    ∃ u : State, exec .hoststreamStart s = .next (u.ok p []).takeMail ∧ u.cc.atomStarted = true ∧
      (s.atBoundary = true → u.sys.core = .hostStream) ∧
      (s.atBoundary = false → u.sys.core = s.sys.core ∧ u.mgmt.modeNext = some .hostStream) ∧
      u.reg 0x10024 = (if (p.w 1).getLsbD 31 then s.reg 0x10024 else p.w 0 &&& 0xFFFFFFC0) ∧
      u.reg 0x10020 = (if (p.w 1).getLsbD 31 then s.reg 0x10020 else w32 (within 4 15 4 (fld (p.w 1) 0 4))) ∧
      u.mem = s.mem ∧ u.cc.queues = s.cc.queues ∧ u.cc.runahead = s.cc.runahead) ∧
  (∀ (p : Packet) (s : State), s.Served → s.mgmt.cur = some p → p.op = 0x0B →
    (if s.cc.inService then s.cc.valid1 else s.cc.valid0) = false → exec .hoststreamStart s = .next (s.refuse p 6).takeMail) ∧
  (∀ (p : Packet) (s : State), s.Served → s.mgmt.cur = some p → p.op = 0x0C →
    s.poisonedIn s.ringBase 16 = false → s.word s.ringBase = s.word (s.ringBase + 8) →
    ∃ u : State, exec .hoststreamStop s = .next (u.ok p [w32 (bit !s.mgmt.joined)]).takeMail ∧
      (s.atBoundary = true → u.sys.core = .gang) ∧
      (s.atBoundary = false → u.sys.core = s.sys.core ∧ u.mgmt.modeNext = some .gang) ∧
      u.mgmt.joined = true ∧ (s.mgmt.joined = false → u.cc.bcOpen = true) ∧ u.mem = s.mem ∧ u.cc.queues = s.cc.queues) ∧
  ∀ (p : Packet) (s : State), s.Served → s.mgmt.cur = some p → p.op = 0x0C →
    s.word s.ringBase ≠ s.word (s.ringBase + 8) → ∃ u : State, exec .hoststreamStop s = .next (u.refuse p 6).takeMail ∧
      u.mem = s.mem ∧ u.cc = s.cc ∧ u.sys = s.sys ∧ u.mgmt = s.mgmt

/-- R459 and R453: debug access, BIST_RUN and GROUP_TABLE_WRITE. -/
def Obligations.DebugSpacesReadAndWrite : Prop :=
  (∀ (p : Packet) (s : State), s.Served → s.mgmt.cur = some p → p.op = 0x0E → fld (p.w 0) 0 4 = 0 →
    1 ≤ (p.w 2).toNat → (p.w 2).toNat ≤ 1022 → (p.w 1).toNat % 4 = 0 → s.spaceOf (p.w 1).toNat (4 * (p.w 2).toNat) = some .near →
    s.eccBad = [] → s.parBad = [] → ∃ (u : State) (pay : List Word), exec .debugRead s = .next (u.ok p pay).takeMail ∧ pay.length = (p.w 2).toNat ∧
      (∀ i, i < pay.length → getAt 0 pay i = s.word ((p.w 1).toNat + 4 * i)) ∧ u.mem = s.mem ∧ u.regs = s.regs ∧ u.cc = s.cc) ∧
  (∀ (p : Packet) (s : State), s.Served → s.mgmt.cur = some p → p.op = 0x0E → fld (p.w 0) 0 4 = 2 →
    p.w 1 = 64 → p.w 2 = 1 → exec .debugRead s = .next (s.ok p [s.cc.acc.pc]).takeMail) ∧
  (∀ (p : Packet) (ws : List Word) (s : State), s.Served → s.mgmt.cur = some p → p.op = 0x0F →
    p.pay.drop 2 = ws → ws ≠ [] → fld (p.w 0) 0 4 = 0 → (p.w 1).toNat % 4 = 0 →
    s.spaceOf (p.w 1).toNat (4 * ws.length) = some .near →
    ∃ u : State, exec .debugWrite s = .next (u.ok p []).takeMail ∧ SameMemOutside (p.w 1).toNat (4 * ws.length) s u ∧
      (∀ i, i < ws.length → u.word ((p.w 1).toNat + 4 * i) = getAt 0 ws i) ∧ u.cc.inService = s.cc.inService) ∧
  (∀ (p : Packet) (v : Word) (s : State), s.Served → s.mgmt.cur = some p → p.op = 0x0F → p.pay.drop 2 = [v] →
    fld (p.w 0) 0 4 = 2 → p.w 1 = 64 → s.cc.dispAcc.stopped = true →
    exec .debugWrite s = .next (({ s with cc := { s.cc with acc := { s.cc.acc with pc := v } } }).ok p []).takeMail) ∧
  (∀ (p : Packet) (s : State), s.Served → s.mgmt.cur = some p → p.op = 0x10 → s.coreIdle = true → s.dmaIdle = true →
    fld (p.w 0) 0 3 ≠ 0 → ∃ d : Deferred, exec .bistRun s = .next (s.accept p d []).takeMail ∧ d.pkt = p) ∧
  (∀ (p : Packet) (s : State), s.Served → s.mgmt.cur = some p → p.op = 0x13 →
    1 ≤ (p.w 1).toNat → (p.w 1).toNat ≤ 255 → fld (p.w 0) 0 13 + (p.w 1).toNat ≤ 8192 →
    (∀ i, i < (p.w 1).toNat → gtBad (gtOf p i) = none) →
    ∃ u : State, exec .groupTableWrite s = .next (u.ok p []).takeMail ∧
      (∀ e, Tab.get 0 u.flacon.gt e = if fld (p.w 0) 0 13 ≤ e ∧ e < fld (p.w 0) 0 13 + (p.w 1).toNat
        then BitVec.ofNat 128 (gtOf p (e - fld (p.w 0) 0 13)) else Tab.get 0 s.flacon.gt e) ∧
      u = { s with flacon := { s.flacon with gt := u.flacon.gt } }) ∧
  ∀ (p : Packet) (i : Nat) (s : State), s.Served → s.mgmt.cur = some p → p.op = 0x13 →
    1 ≤ (p.w 1).toNat → (p.w 1).toNat ≤ 255 → fld (p.w 0) 0 13 + (p.w 1).toNat ≤ 8192 → i < (p.w 1).toNat → gtBad (gtOf p i) ≠ none →
    ∃ (u : State) (j : Nat), exec .groupTableWrite s = .next (u.refuse p 4 j 0x9009).takeMail ∧ u.flacon = s.flacon ∧
      u.regBit 0x80084 31 = true ∧ u.mem = s.mem ∧
      (s.logs.errs.length < 512 → ∃ e, u.logs.errs = s.logs.errs ++ [e] ∧ e.code = 0x9009 ∧ e.unit = 12)

/-- What BIST_RUN leaves (R453). -/
def Obligations.BistLeavesArraysZero : Prop :=
  ∀ (rs : List (Word × Word × Word)) (d : Deferred) (s : State), s.Served → s.mgmt.deferred = some d →
    d.pkt.op = 0x10 → rs.length = popcount4 (fld (d.pkt.w 0) 0 3) →
    ∃ (u : State) (pay : List Word),
      let bad := rs.any fun r => r.2.2 ≠ 0
      exec (.bistRunComplete rs) s = .next (u.complete (if bad then 7 else 0) 0xFFFF (if bad then 0x8003 else 0) pay).takeMail ∧
      pay = rs.flatMap (fun r => [r.1, r.2.1, r.2.2]) ∧
      (∀ a, u.byte a = if ((d.pkt.w 0).getLsbD 0 = true ∧ a < 0x01000000) ∨ ((d.pkt.w 0).getLsbD 1 = true ∧ 0x01000000 ≤ a ∧ a < 0x06000000) ∨
        ((d.pkt.w 0).getLsbD 2 = true ∧ 0x08000000 ≤ a ∧ a < 0x0C000000) then 0 else s.byte a) ∧
      ((d.pkt.w 0).getLsbD 2 = true → u.cc.valid0 = false ∧ u.cc.valid1 = false ∧ u.vec.v = [] ∧ (bad = false → u.logs.blot = [])) ∧
      ((d.pkt.w 0).getLsbD 0 = true → ∀ e ∈ u.eccBad, 0x01000000 ≤ e) ∧
      (bad = false → u.logs.errs = s.logs.errs) ∧ u.mgmt = s.mgmt ∧ u.cc.queues = s.cc.queues

/-- R460 and R464. -/
def Obligations.DebugLockClosesDebug : Prop :=
  (∀ (p : Packet) (s : State), s.Served → s.mgmt.cur = some p → p.op = 0x16 → p.w 0 = 0x4C4F434B → s.debugLocked = false →
    ∃ (u : State) (w : Word), exec (.lockDebug true) s = .next (u.ok p [w]).takeMail ∧ u.debugLocked = true ∧
      (Tab.get 0 u.sys.fuses 127).getLsbD 0 = true ∧ (∀ i, i ≠ 127 → Tab.get 0 u.sys.fuses i = Tab.get 0 s.sys.fuses i) ∧
      (∀ b, b < 4 → u.regBit (0x90100 + 0x20 * b) 7 = false) ∧ u.cc.dispAcc.stopped = false ∧ u.cc.dispExe.stopped = false ∧
      (∀ off, 0x90000 < off → off < 0xA0000 → u.regVal off = 0) ∧ u.regVal 0x90000 = 0x80000000 ∧ u.mem = s.mem ∧ u.logs = s.logs) ∧
  (∀ (b : Bool) (p : Packet) (s : State), s.Served → s.mgmt.cur = some p → p.op = 0x16 → p.w 0 ≠ 0x4C4F434B →
    exec (.lockDebug b) s = .next (s.refuse p 4 0).takeMail) ∧
  (∀ (b : Bool) (p : Packet) (s : State), s.Served → s.mgmt.cur = some p → p.op = 0x16 → p.w 0 = 0x4C4F434B → s.debugLocked = true →
    ∃ w : Word, exec (.lockDebug b) s = .next (s.ok p [w]).takeMail) ∧
  (∀ s : State, s.Served → s.debugLocked = false → s.cc.dispAcc.stopped = true →
    ∃ t : State, exec .dbgResumeAcc s = .next t ∧ t.cc.dispAcc = { s.cc.dispAcc with stopped := false, skipBp := true } ∧
      t.cc.dispExe = s.cc.dispExe ∧ t.cc.runahead = s.cc.runahead ∧ t = { s with cc := t.cc }) ∧
  ∀ s : State, s.Served → s.debugLocked = false → s.cc.dispExe.stopped = true →
    ∃ t : State, exec .dbgResumeExe s = .next t ∧ t.cc.dispExe = { s.cc.dispExe with stopped := false, skipBp := true } ∧
      t.cc.dispAcc = s.cc.dispAcc ∧ t.cc.runahead = s.cc.runahead ∧ t = { s with cc := t.cc }

/-- R409 and R410. -/
def Obligations.WrapperInstructionsAct : Prop :=
  (∀ s : State, (∃ b, exec .wsBypass s =
      .next { s with wsp := { s.wsp with wir := 0, cells := .through, bypass := b }, freeCtr := s.freeCtr + 1 }) ∧
    exec .wsExtest s = .next { s with wsp := { s.wsp with wir := 1, cells := .drive } } ∧
    exec .wsIntest s = .next { s with wsp := { s.wsp with wir := 2, cells := .isolate } }) ∧
  (∀ s : State, s.sys.poreset = false → s.debugLocked = false → exec .wsScan s =
    .next { s with wsp := { s.wsp with wir := 3, cells := .through }, sys := { s.sys with scanned := true } }) ∧
  (∀ s : State, s.sys.poreset = false → s.debugLocked = true → ∃ t : State, exec .wsScan s = .next t ∧ t.sys.scanned = true ∧
    t.regs = [] ∧ t.ctrs = [] ∧ t.cc = Cc.reset ∧ t.mgmt = Mgmt.reset ∧ t.logs = Logs.reset ∧ t.dma = Dma.reset ∧
    t.mem = s.mem ∧ t.sys.fuses = s.sys.fuses ∧ t.pending = s.pending) ∧
  (∀ (r : BistResult) (s : State), ∃ t : State, exec (.wsMbist r) s = .next t ∧
    (∀ a, t.byte a = if a < 0x01000000 ∨ (r.tierAnswers = true ∧ a < 0x06000000) then 0 else s.byte a) ∧ t.regs = s.regs ∧ t.cc = s.cc ∧
      t.wsp.wir = 4 ∧ t.logs = s.logs) ∧
  (∀ s : State, ∃ t : State, exec .wsFuseRead s = .next t ∧ t.wsp.out.length = 128 ∧ (∀ i, i < 128 → getAt 0 t.wsp.out i = Tab.get 0 s.sys.fuses i) ∧
    t = { s with wsp := t.wsp }) ∧
  (∀ (w : BitVec 7) (b : Word) (s : State), (Tab.get 0 s.sys.fuses 127).getLsbD 1 = false → ∃ t : State, exec (.wsFuseProg w b) s = .next t ∧
    (∀ i, Tab.get 0 t.sys.fuses i = if i = w.toNat then Tab.get 0 s.sys.fuses i ||| b else Tab.get 0 s.sys.fuses i) ∧
    t.mem = s.mem ∧ t.logs = s.logs ∧
    (w.toNat ≠ 127 ∨ b.getLsbD 0 = false ∨ s.debugLocked = true →
      t = { s with wsp := { s.wsp with wir := 6, cells := .through }, sys := { s.sys with fuses := t.sys.fuses } }) ∧
    (w.toNat = 127 → b.getLsbD 0 = true → t.debugLocked = true ∧
      (s.sys.poreset = false → s.debugLocked = false → ∀ k, k < 4 → t.regBit (0x90100 + 0x20 * k) 7 = false))) ∧
  (∀ (w : BitVec 7) (b : Word) (s : State), (Tab.get 0 s.sys.fuses 127).getLsbD 1 = true →
    exec (.wsFuseProg w b) s = .next { s with wsp := { s.wsp with wir := 6, cells := .through } }) ∧
  (∀ (d : BitVec 53) (s : State), s.debugLocked = true → exec (.wsFuncAccess d) s =
    .next { s with wsp := { s.wsp with wir := 7, cells := .through, dr := 0 } }) ∧
  (∀ (d : BitVec 53) (s : State), s.Served → s.debugLocked = false → d.getLsbD 52 = false →
    ∃ t : State, exec (.wsFuncAccess d) s = .next t ∧ t.wsp.wir = 7 ∧ t.wsp.dr.setWidth 32 = (s.regRead (d.toNat / 2 ^ 32 % 2 ^ 20)).1) ∧
  ∀ (d : BitVec 53) (s : State), s.Served → s.debugLocked = false → d.getLsbD 52 = true →
    ∃ u : State, u = { s with wsp := { s.wsp with wir := 7, cells := .through, dr := d.setWidth 64 } } ∧
      exec (.wsFuncAccess d) s = .next (u.regWrite (d.toNat / 2 ^ 32 % 2 ^ 20) (d.setWidth 32))

/-- R215, R216, R398 to R400: the two sources of macro-commands. The parity that a leader finds is a free value (log entry
73). -/
def Obligations.BroadcastAndRingFillTheRunAhead : Prop :=
  (∀ (w : BitVec 256) (par : Byte) (s : State), s.Clocked → s.cc.bcOpen = true → s.inService = true → s.leading = false →
    s.hostMode = false → s.cc.runahead.length < 512 →
    ∃ t : State, exec (.bcastCommandAccept w par) s = .next t ∧
      t.cc = { s.cc with runahead := s.cc.runahead ++ [⟨w, Config.decodeMacro w, decide (par ≠ parityByte w), false, false⟩], credits := s.cc.credits - 1 } ∧
      t.ctr 0xA0138 = (if s.frozen 0xA0138 then s.ctr 0xA0138 else s.ctr 0xA0138 + 1) ∧ t.mem = s.mem ∧ SameRegsBut [0x04000] s t ∧
      (par = parityByte w → t.logs = s.logs) ∧
      (par ≠ parityByte w → s.logs.errs.length < 512 → ∃ e, t.logs.errs = s.logs.errs ++ [e] ∧ e.code = 0x6007)) ∧
  (∀ s : State, s.Clocked → exec .bcastCreditGrant s =
    .next { s with cc := { s.cc with granted := if s.sys.straps.leader then s.cc.granted + 1 else s.cc.granted } }) ∧
  (∀ s : State, s.Clocked → s.inService = true → (s.hostMode = true ∨ (s.leading = true ∧ 0 < s.cc.granted)) → s.cc.ringGo = true →
    s.regBit 0x10028 17 = false → s.poisonedIn s.ringBase 16 = false → s.ringWordsOk s.ringBase = true →
    let head := (s.word (s.ringBase + 8)).toNat
    let a := s.ringBase + 0x40 + 32 * (head % s.ringSize)
    let w : BitVec 256 := BitVec.ofNat 256 (s.le a 32)
    let par := Config.ringParity s.freeCtr w
    let bad := s.leading && par != parityByte w
    0 < (s.word s.ringBase - s.word (s.ringBase + 8)).toNat → (s.word s.ringBase - s.word (s.ringBase + 8)).toNat ≤ s.ringSize →
    s.cc.runahead.length < 512 → ∃ t : State, exec .atomiserRingTake s = .next t ∧
      t.cc.runahead = s.cc.runahead ++ [⟨w, if s.poisonedIn a 32 then none else Config.decodeMacro w, bad, false, false⟩] ∧
      t.dword (s.ringBase + 8) = w64 ((head + 1) % 2 ^ 32) ∧ SameMemOutside (s.ringBase + 8) 8 s t ∧
      (s.leading = true → t.cc.granted = s.cc.granted - 1 ∧ t.cc.bcOut = some (w, par)) ∧ t.cc.queues = s.cc.queues ∧
      (s.poisonedIn a 32 = false → s.logs.errs.length < 512 →
        ∃ e, t.logs.errs = s.logs.errs ++ (if bad then [e] else []) ∧ e.code = 0x6007)) ∧
  (∀ s : State, s.Served → s.regBit 0x10028 17 = false → exec .ringErrClear s = .next s) ∧
  ∀ s : State, s.Served → s.regBit 0x10028 17 = true →
    ∃ t : State, exec .ringErrClear s = .next t ∧ t.mem = s.mem ∧ t.cc.queues = s.cc.queues ∧
      (s.inService = false ∨ (s.hostMode = false ∧ s.leading = false) → t = s.clrReg 0x10028 0x20000) ∧
      (s.inService = true → s.hostMode = true ∨ s.leading = true → s.inTiers s.ringBase (0x40 + 32 * s.ringSize) = true →
        s.ringHdrOk s.ringBase = true →
        t.cc.ringGo = true ∧ t.regBit 0x10028 17 = false)

/-- R217, R221 and R463 for an entry of the run-ahead queue. -/
def Obligations.DispatchTakesTheNextCommand : Prop :=
  ∀ (t : Thread) (e : RunEntry) (m : Macro) (s : State), s.Clocked → s.mayDispatch t = true → (s.disp t).replay = none →
    (s.cc.runahead.find? fun e => !doneBy t e) = some e → e.m = some m → e.parBad = false →
    (((s.disp t).skipBp = true ∨ ∀ b, b < 4 → s.bpMatch t m.tag b = false) → (s.disp t).stopNext = true →
      exec (.macroDispatch t) s = .next (s.setDisp t { s.disp t with stopped := true, stopNext := false })) ∧
    (((s.disp t).skipBp = true ∨ ∀ b, b < 4 → s.bpMatch t m.tag b = false) → (s.disp t).stopNext = false →
      ∃ u : State, exec (.macroDispatch t) s = .next u ∧ u.mem = s.mem ∧ u.regs = s.regs ∧ u.cc.queues = s.cc.queues ∧
        u.ctr (0x90010 + 8 * stageNum t) = s.ctr (0x90010 + 8 * stageNum t) + 1 ∧
        (s.selected m.pred = true → (t = .exe ∨ ∀ k, m.kind ≠ .powerHint k) →
          (u.disp t).cur = some m ∧ (u.disp t).inBody = false ∧ u.cc.runahead = s.cc.runahead) ∧
        (s.selected m.pred = false → (u.disp t).cur = none ∧ u.cc.runahead = dropDone (markNext t s.cc.runahead))) ∧
    ((s.disp t).skipBp = false → (∃ b, b < 4 ∧ s.bpMatch t m.tag b = true) →
      ∃ u : State, exec (.macroDispatch t) s = .next u ∧ (u.disp t).stopped = true ∧ (u.disp t).cur = none ∧
        u.regBit 0x04000 2 = true ∧ (∀ b, b < 4 → s.bpMatch t m.tag b = true → u.regBit 0x90000 (8 + b) = true) ∧
        u.cc.runahead = s.cc.runahead ∧ u.cc.queues = s.cc.queues ∧ u.mem = s.mem ∧
        (∀ o, o < 0x90220 → u.ctr o = s.ctr o))

/-- R213, R225, R223, R244, R437 and R465: what each macro-command does. -/
def Obligations.MacroCommandsHaveTheirEffect : Prop :=
  (∀ (t : Thread) (m : Macro) (idx : BitVec 8) (ws : List (Nat × Word × Option (BitVec 8))) (s : State), s.AtMacro t m →
    m.kind = .config false idx ws → idx.toNat ≤ 63 → (∀ w ∈ ws, w.1 < 16 ∧ w.2.2 = none) →
    ∃ u : State, exec (.config t) s = .next (u.endMacro t) ∧
      (∀ k, k < 16 → u.tileWord t idx.toNat k = ((ws.reverse.find? fun w => w.1 == k).map fun w => w.2.1).getD (s.tileWord t idx.toNat k)) ∧
      SameRegsBut ((List.range 16).map fun k => tileBank t + 0x40 * idx.toNat + 4 * k) s u ∧ u = { s with regs := u.regs }) ∧
  (∀ (t : Thread) (m : Macro) (h : Nat) (s : State), s.AtMacro t m → m.kind = .start h →
    let c : Ctx := if t = .acc then .acc else if m.ctx = 1 ∧ s.regBit 0x14000 0 = true then .e1 else .e0
    (1 < m.ctx.toNat → exec (.start t) s = .next (s.rejectMacro t { code := 0x3005, cond := 2 } m.tag)) ∧
    (m.ctx.toNat ≤ 1 → (s.ctxt c).run = false →
    ∀ pc, Config.handlerEntry s.bankBytes h = some pc → ∃ u : State, exec (.start t) s = .next (u.endMacro t) ∧ u = { s with cc := u.cc } ∧
      u.ctxt c = { s.ctxt c with run := true, tag := m.tag, pc := pc, loops := [], walk := none, stall := none } ∧
      (∀ d, d ≠ c → u.ctxt d = s.ctxt d) ∧ u.cc.queues = s.cc.queues ∧ u.cc.p = s.cc.p) ∧
    (m.ctx.toNat ≤ 1 → Config.handlerEntry s.bankBytes h = none → exec (.start t) s = .next (s.rejectMacro t { code := 0x300A, cond := 2 } m.tag))) ∧
  (∀ (t : Thread) (m : Macro) (ps : List (BitVec 8 × DWord)) (s : State), s.AtMacro t m → m.kind = .patch ps → (∀ p ∈ ps, p.1.toNat ≤ 63) →
    ∃ u : State, exec (.patch t) s = .next (u.endMacro t) ∧
      (∀ k, k < 64 → u.param t k = ((ps.reverse.find? fun p => p.1.toNat == k).map Prod.snd).getD (s.param t k)) ∧
      u = { s with ctrs := u.ctrs }) ∧
  (∀ (t : Thread) (m : Macro) (i : BitVec 10) (s : State), s.AtMacro t m → m.kind = .replay i → i.toNat ≤ 255 →
    let e := s.reg (0x10400 + 4 * i.toNat)
    e.getLsbD 31 = true → fld e 16 15 + fld e 0 16 ≤ 32768 → fld e 0 16 ≠ 0 → (s.disp t).inBody = false →
    ∃ u : State, exec (.replay t) s = .next u ∧ u.disp t = { s.disp t with cur := none, replay := some ⟨i.toNat, fld e 16 15, fld e 0 16, 0⟩ } ∧
      u.cc.runahead = s.cc.runahead ∧ u = { s with cc := u.cc, ctrs := u.ctrs }) ∧
  (∀ (m : Macro) (k : Byte) (s : State), s.AtMacro .exe m → m.kind = .powerHint k →
    exec (.powerHint none) s = .next (State.endMacro .exe { s with pwr := { s.pwr with hint := k } })) ∧
  (∀ (c : Ctx) (k : Byte) (s : State), s.MayRun c →
    exec (.powerHint (some (c, k))) s = .next (State.advance c { s with pwr := { s.pwr with hint := if c = .acc then s.pwr.hint else k } })) ∧
  ∀ (t : Thread) (m : Macro) (k : Word) (s : State), s.AtMacro t m → m.kind = .traceHint k →
    ∃ u : State, exec (.traceHint t) s = .next (u.endMacro t) ∧ u = { s with logs := u.logs, ctrs := u.ctrs } ∧
      (s.regBit 0x90200 31 = true → s.regBit 0x90200 2 = true → s.logs.blot.length < 4096 →
        u.logs.blot = s.logs.blot ++ [⟨s.aclk, 2, stageNum t, m.tag, k⟩])

/-- R220, R242 and R311 (a context on the barrier lines; the fetch-add forms are in the statements of arrivals). -/
def Obligations.SyncMacrosMeetOnBothThreads : Prop :=
  (∀ (m : Macro) (s : State), s.Clocked → s.bothAt = some m → m.kind = .latch → s.predsOwed = false →
    exec .syncLatch s = .next ((({ s with cc := { s.cc with pl := s.cc.p } } : State).endMacro .acc).endMacro .exe)) ∧
  (∀ (m : Macro) (s : State), s.Clocked → s.bothAt = some m → m.kind = .swap → s.exeQuiet = true →
    (if s.cc.inService then s.cc.valid0 else s.cc.valid1) = true →
    ∃ u : State, exec .syncSwap s = .next ((u.endMacro .acc).endMacro .exe) ∧ u.cc = { s.cc with inService := !s.cc.inService } ∧
      u = { s with cc := u.cc, logs := u.logs, ctrs := u.ctrs }) ∧
  (∀ (m : Macro) (s : State), s.Clocked → s.bothAt = some m → m.kind = .swap → s.exeQuiet = true →
    (if s.cc.inService then s.cc.valid0 else s.cc.valid1) = false →
    exec .syncSwap s = .next (s.rejectBoth { code := 0x3009, cond := 1 } m.tag)) ∧
  ∀ (m : Macro) (s : State), s.Clocked → s.bothAt = some m → m.kind = .barrier 0 → s.cc.dispExe.arrived = none →
    s.sync.barWait = none → s.allQuiet = true → s.regBit 0x60100 31 = true → s.regFld 0x60100 28 3 = 3 →
    s.wordChk (s.releaseAddr 0) = none → s.sync.lineReq = false → s.sync.lineAck = false →
    s.readWord (s.releaseAddr 0) 6 = .ok false (s.reg 0x60114) → s.Clean (s.releaseAddr 0) 8 →
    ∃ t : State, exec .syncBarrier s = .next t ∧ t.sync.lineReq = true ∧ t.sync.lineGen = s.reg 0x60114 ∧
      t.reg 0x60114 = s.reg 0x60114 + 1 ∧ t.cc.dispExe.arrived = some (0, s.reg 0x60114) ∧ t.cc.dispExe.cur = some m ∧
      t.cc.dispAcc = s.cc.dispAcc ∧ Tab.get none t.sync.arrived 0 = some (s.reg 0x60114) ∧ SameRegsBut [0x60114] s t ∧ t.mem = s.mem

/-- R227, R228 and the trace mark of R465. A shift by 64 or more gives a free value (log entry 6); nothing is said of it. -/
def Obligations.ScalarInstructionsWriteOneRegister : Prop :=
  (∀ (c : Ctx) (f : Alu) (d a : BitVec 5) (b : Opd) (s : State), s.MayRun c → opdBad (s.capOpd c b) = false →
    ∃ u : State, exec (.scalarInstruction c (.alu f d a b)) s = .next (u.advance c) ∧ u = { s with cc := u.cc } ∧
      (∀ r, u.x c r = if r = d ∧ d ≠ 0 then aluVal f (s.x c a) (s.capOpd c b).imm else s.x c r) ∧ u.x c 0 = 0 ∧
      (∀ e, e ≠ c → u.ctxt e = s.ctxt e) ∧ (u.ctxt c).pc = (s.ctxt c).pc ∧ u.cc.queues = s.cc.queues ∧ u.cc.p = s.cc.p) ∧
  (∀ (c : Ctx) (d : BitVec 5) (p : BitVec 8) (s : State), s.MayRun c → p.toNat ≤ 63 →
    ∃ u : State, exec (.scalarInstruction c (.param d p)) s = .next (u.advance c) ∧ u = { s with cc := u.cc } ∧
      ∀ r, u.x c r = if r = d ∧ d ≠ 0 then s.param c.thread p.toNat else s.x c r) ∧
  (∀ (c : Ctx) (d : BitVec 5) (k : BitVec 2) (s : State), s.MayRun c →
    ∃ u : State, exec (.scalarInstruction c (.iter d k)) s = .next (u.advance c) ∧ u = { s with cc := u.cc } ∧
      ∀ r, u.x c r = if r = d ∧ d ≠ 0 then w64 (s.loopIter c k.toNat) else s.x c r) ∧
  (∀ (c : Ctx) (k : BitVec 2) (a : BitVec 5) (s : State), s.MayRun c →
    ∃ u : State, exec (.scalarInstruction c (.setCount k a)) s = .next (u.advance c) ∧ u = { s with cc := u.cc } ∧
      (∀ r, u.x c r = s.x c r) ∧ (∀ j, Tab.get 0 (u.ctxt c).counts j = if j = k.toNat then lo32 (s.x c a) else Tab.get 0 (s.ctxt c).counts j) ∧
      (u.ctxt c).written.getLsbD k.toNat = true) ∧
  (∀ (c : Ctx) (d : BitVec 5) (b : BitVec 4) (s : State), s.MayRun c →
    ∃ u : State, exec (.scalarInstruction c (.barGen d b)) s = .next (u.advance c) ∧ u = { s with cc := u.cc } ∧
      ∀ r, u.x c r = if r = d ∧ d ≠ 0 then (s.reg (0x60114 + 0x20 * b.toNat)).setWidth 64 else s.x c r) ∧
  (∀ (c : Ctx) (s : State), s.MayRun c → ∃ t : State, exec (.scalarInstruction c .fin) s = .next t.settleMode ∧
    t.ctxt c = { s.ctxt c with run := false, loops := [], stall := none } ∧ t = { s with cc := t.cc } ∧ ∀ e, e ≠ c → t.ctxt e = s.ctxt e) ∧
  (∀ a b : DWord, aluVal .add a b = a + b ∧ aluVal .sub a b = a - b ∧ aluVal .mul a b = a * b ∧
    aluVal .lt a b = (if a.toInt < b.toInt then 1 else 0) ∧ aluVal .ltu a b = (if a.toNat < b.toNat then 1 else 0) ∧
    aluVal .le a b = (if a.toInt ≤ b.toInt then 1 else 0) ∧ aluVal .leu a b = (if a.toNat ≤ b.toNat then 1 else 0) ∧
    aluVal .eq a b = (if a = b then 1 else 0) ∧ aluVal .ne a b = (if a = b then 0 else 1) ∧
    (b.toNat < 64 → (aluVal .sll a b).toNat = a.toNat * 2 ^ b.toNat % 2 ^ 64 ∧ (aluVal .srl a b).toNat = a.toNat / 2 ^ b.toNat ∧
      (aluVal .sra a b).toInt = a.toInt / 2 ^ b.toNat)) ∧
  (∀ (c : Ctx) (k : Word) (s : State), s.MayRun c → ∃ u : State, exec (.traceMark c k) s = .next (u.advance c) ∧
    u = { s with logs := u.logs, ctrs := u.ctrs } ∧
    (s.regBit 0x90200 31 = true → s.regBit 0x90200 2 = true → s.logs.blot.length < 4096 →
      u.logs.blot = s.logs.blot ++ [⟨s.aclk, 2, ctxNum c, (s.ctxt c).tag, k⟩])) ∧
  (∀ (c : Ctx) (op : ScalarOp) (s : State), s.Clocked → s.threadGo c = true → (s.ctxt c).stall = none → s.poisonedAt (s.fetchAddr c) = false →
    exec (.scalarInstruction c op) s = exec (.scalarInstruction c op) (s.fetched c)) ∧
  ∀ (c : Ctx) (op : ScalarOp) (s : State), s.Clocked → s.threadGo c = true → (s.ctxt c).stall = none → s.poisonedAt (s.fetchAddr c) = true →
    exec (.scalarInstruction c op) s = .next ((s.fetched c).dropInstr c)

/-- R229: branches, LOOP, and what advancing does at the end of a body. -/
def Obligations.BranchesAndLoopsMoveThePc : Prop :=
  (∀ (c : Ctx) (b : BrCond) (target : Word) (s : State), s.MayRun c → s.taken c b = true → (∀ r ∈ (s.ctxt c).loops, r.stop ≠ target) →
    ∃ t : State, exec (.branch c b target) s = .next t ∧ (t.ctxt c).pc = target ∧
      (∀ r, r ∈ (t.ctxt c).loops → r ∈ (s.ctxt c).loops) ∧ t = { s with cc := t.cc } ∧ (∀ r, t.x c r = s.x c r) ∧
      (∀ e, e ≠ c → t.ctxt e = s.ctxt e) ∧ t.cc.queues = s.cc.queues) ∧
  (∀ (c : Ctx) (b : BrCond) (target : Word) (s : State), s.MayRun c → s.taken c b = false →
    exec (.branch c b target) s = .next (s.advance c)) ∧
  (∀ (c : Ctx) (k : BitVec 2) (n : Opd) (e : Word) (s : State), s.MayRun c → opdBad (s.capOpd c n) = false →
    let count := if (s.ctxt c).written.getLsbD k.toNat then Tab.get 0 (s.ctxt c).counts k.toNat else lo32 (s.capOpd c n).imm
    (s.ctxt c).loops.length < 4 → count ≠ 0 →
    ∃ t : State, exec (.loop c k n e) s = .next t ∧ (t.ctxt c).pc = Config.nextPc (s.ctxt c).pc ∧
      (t.ctxt c).loops = ⟨k.toNat, count.toNat, 0, Config.nextPc (s.ctxt c).pc, e⟩ :: (s.ctxt c).loops ∧
      Tab.get 0 (t.ctxt c).counts k.toNat = count ∧ (t.ctxt c).written.getLsbD k.toNat = false ∧
      t = { s with cc := t.cc } ∧ ∀ r, t.x c r = s.x c r) ∧
  (∀ (c : Ctx) (k : BitVec 2) (n : Opd) (e : Word) (s : State), s.MayRun c → opdBad (s.capOpd c n) = false →
    (s.ctxt c).loops.length < 4 →
    (if (s.ctxt c).written.getLsbD k.toNat then Tab.get 0 (s.ctxt c).counts k.toNat else lo32 (s.capOpd c n).imm) = 0 → (∀ r ∈ (s.ctxt c).loops, r.stop ≠ e) →
    ∃ t : State, exec (.loop c k n e) s = .next t ∧ (t.ctxt c).pc = e ∧ (t.ctxt c).loops = (s.ctxt c).loops ∧ t = { s with cc := t.cc }) ∧
  (∀ (c : Ctx) (k : BitVec 2) (n : Opd) (e : Word) (s : State), s.MayRun c → opdBad (s.capOpd c n) = false →
    4 ≤ (s.ctxt c).loops.length → exec (.loop c k n e) s = .next (s.rejectInstr c { code := 0x3008, unit := 1, cond := 1 })) ∧
  (∀ (c : Ctx) (r : LoopRec) (l : List LoopRec) (s : State), (s.ctxt c).loops = r :: l → Config.nextPc (s.ctxt c).pc = r.stop →
    r.iter + 1 < r.count → ((s.advance c).ctxt c).pc = r.start ∧ ((s.advance c).ctxt c).loops = { r with iter := r.iter + 1 } :: l) ∧
  (∀ (c : Ctx) (r : LoopRec) (l : List LoopRec) (s : State), (s.ctxt c).loops = r :: l → Config.nextPc (s.ctxt c).pc = r.stop →
    r.count ≤ r.iter + 1 → (∀ q ∈ l, q.stop ≠ r.stop) → ((s.advance c).ctxt c).pc = r.stop ∧ ((s.advance c).ctxt c).loops = l) ∧
  ∀ (c : Ctx) (s : State), (∀ r ∈ (s.ctxt c).loops, r.stop ≠ Config.nextPc (s.ctxt c).pc) →
    ((s.advance c).ctxt c).pc = Config.nextPc (s.ctxt c).pc ∧ ((s.advance c).ctxt c).loops = (s.ctxt c).loops ∧
    (s.advance c).cc.queues = s.cc.queues ∧ s.advance c = { s with cc := (s.advance c).cc }

/-- R225 and R235: the writes of the PARAM and TILE banks. -/
def Obligations.BanksTakeTheirWords : Prop :=
  (∀ (c : Ctx) (p : BitVec 8) (v : Opd) (s : State), s.MayRun c → p.toNat ≤ 63 → opdBad (s.capOpd c v) = false →
    ∃ u : State, exec (.paramSet c p v) s = .next (u.advance c) ∧ u.param c.thread p.toNat = (s.capOpd c v).imm ∧
      SameCtrsBut [paramBank c.thread + 8 * p.toNat] s u ∧ u = { s with ctrs := u.ctrs }) ∧
  (∀ (c : Ctx) (p : BitVec 8) (v : Opd) (s : State), s.MayRun c → (63 < p.toNat ∨ opdBad (s.capOpd c v) = true) →
    exec (.paramSet c p v) s = .next (s.rejectInstr c (badIndex 1 p.toNat))) ∧
  (∀ (c : Ctx) (i : BitVec 8) (ws : List (Nat × Word)) (s : State), s.MayRun c → i.toNat ≤ 63 → (∀ w ∈ ws, w.1 < 16) →
    ∃ u : State, exec (.tileSet c i ws) s = .next (u.advance c) ∧
      (∀ k, k < 16 → u.tileWord c.thread i.toNat k = ((ws.reverse.find? fun w => w.1 == k).map Prod.snd).getD (s.tileWord c.thread i.toNat k)) ∧
      SameRegsBut ((List.range 16).map fun k => tileBank c.thread + 0x40 * i.toNat + 4 * k) s u ∧ u = { s with regs := u.regs }) ∧
  (∀ (c : Ctx) (i : BitVec 8) (ws : List (Nat × Word)) (s : State), s.MayRun c → 63 < i.toNat →
    exec (.tileSet c i ws) s = .next (s.rejectInstr c (badIndex 1 i.toNat))) ∧
  ∀ (exe : Bool) (p : BitVec 6) (lo hi : Word) (s : State), s.Served →
    ∃ t u : State, exec (.paramRegisterWrite exe p false lo) s = .next t ∧ t = { s with lowHeld := t.lowHeld } ∧
      exec (.paramRegisterWrite exe p true hi) t = .next u ∧ u.param (if exe then .exe else .acc) p.toNat = mk64 hi lo ∧
      SameCtrsBut [paramBank (if exe then .exe else .acc) + 8 * p.toNat] s u ∧ u.regs = s.regs ∧ u.mem = s.mem ∧ u.cc = s.cc

/-- R211, R230 and R231 (a thin request that the packing stage holds is in the statement of packing); R204. -/
def Obligations.EnqueueCapturesItsOperands : Prop :=
  (∀ (c : Ctx) (q : Nat) (op : EngOp) (s : State), s.MayRunAs c [(6, q)] → s.yields c = false → queueTakes c q op = true → s.cc.pack = [] →
    (∀ f, s.capture c op = .fill f → c ≠ .acc → isThin f = true → s.packOn = false) →
    (∀ k ∈ entersQueues q (s.capture c op), s.room k = true) →
    ∃ u : State, exec (.engineCommandEnqueue c q op) s = .next (u.advance c) ∧
      (∀ k, u.queue k = if k ∈ entersQueues q (s.capture c op) then { s.queue k with items := (s.queue k).items ++ [⟨s.capture c op,
        (match s.capture c op with | .fill f => f.tag.getD (s.ctxt c).tag | _ => (s.ctxt c).tag), c, s.cc.seq⟩] } else s.queue k) ∧
      u.cc.seq = s.cc.seq + 1 ∧ u.cc.pack = [] ∧ (∀ e, u.ctxt e = s.ctxt e) ∧ (c = .e1 → u.cc.e1Next = false) ∧ u = { s with cc := u.cc, ctrs := u.ctrs }) ∧
  (∀ (c : Ctx) (q : Nat) (op : EngOp) (s : State), s.MayRunAs c [(6, q)] → s.yields c = false → queueTakes c q op = true → s.cc.pack = [] →
    (∀ f, s.capture c op = .fill f → c ≠ .acc → isThin f = true → s.packOn = false) →
    (∃ k ∈ entersQueues q (s.capture c op), s.room k = false) →
    exec (.engineCommandEnqueue c q op) s = .next (s.stalled c 6 q)) ∧
  (∀ (c : Ctx) (v : Opd) (s : State), (∀ p, v.p = some p → p.toNat ≤ 63) → s.capOpd c v = ⟨v.imm +
    (match v.x with | some r => s.x c r | none => 0) + (match v.p with | some p => s.param c.thread p.toNat | none => 0), none, none⟩) ∧
  (∀ (q : Nat) (op : EngOp) (s : State), s.MayRunAs .e1 [(6, q)] → s.cc.e1Next = false → s.atIssue .e0 = true → s.offers .e0 = true →
    exec (.engineCommandEnqueue .e1 q op) s = .next s) ∧
  (∀ (q : Nat) (op : EngOp) (s : State), s.MayRunAs .e0 [(6, q)] → s.cc.e1Next = true → s.offers .e1 = true →
    exec (.engineCommandEnqueue .e0 q op) s = .next s) ∧
  ∀ s : State, s.Clocked → s.regBit 0x14000 0 = true → s.regFld 0x14000 16 16 ≠ 0 → s.offers .e1 = true → s.cc.e1Next = false →
    ∃ t : State, exec .e1StarveIssue s = .next t ∧  t.cc = { s.cc with e1Next := true } ∧ t = { s with cc := t.cc, ctrs := t.ctrs } ∧
      SameCtrsBut [0x14020] s t

/-- R233, R234 and R240. -/
def Obligations.TileQueuesCarryTokens : Prop :=
  (∀ (i : BitVec 4) (v : Opd) (q : Nat) (s : State), s.MayRunAs .acc [(4, i.toNat), (6, q)] → q ≤ 16 → i.toNat ≤ 7 →
    (s.tq i.toNat).length < 64 → s.room q = true →
    ∃ u : State, exec (.tqPush i v q) s = .next (u.advance .acc) ∧
      u.tq i.toNat = s.tq i.toNat ++ [(s.cc.seq, false, lo32 (s.capOpd .acc v).imm)] ∧ (∀ j, j ≠ i.toNat → u.tq j = s.tq j) ∧
      (∀ k, u.queue k = if k = q then { s.queue k with items := (s.queue k).items ++
        [⟨.tqPush i (s.capOpd .acc v), s.cc.acc.tag, .acc, s.cc.seq⟩] } else s.queue k) ∧
      u.cc.seq = s.cc.seq + 1 ∧ u = { s with cc := u.cc, ctrs := u.ctrs }) ∧
  (∀ (i : BitVec 4) (v : Opd) (q : Nat) (s : State), s.MayRunAs .acc [(4, i.toNat), (6, q)] → q ≤ 16 → i.toNat ≤ 7 →
    64 ≤ (s.tq i.toNat).length → exec (.tqPush i v q) s = .next (s.stalled .acc 4 i.toNat)) ∧
  (∀ (q : Nat) (c : EngCmd) (i : BitVec 4) (v : Opd) (s : State), s.AtHead q c → c.op = .tqPush i v → s.queueQuiet q = true → i.toNat ≤ 7 → opdBad v = false →
    ∃ u : State, exec (.tqTokenVisible q) s = .next u ∧
      u.tq i.toNat = ((s.tq i.toNat).map fun e => if e.1 = c.seq then (e.1, true, e.2.2) else e) ∧ (∀ j, j ≠ i.toNat → u.tq j = s.tq j) ∧
      (q ≠ 17 → q ≠ 18 → (u.queue q).items = (s.queue q).items.drop 1) ∧ u = { s with cc := u.cc, ctrs := u.ctrs }) ∧
  (∀ (c : Ctx) (i : BitVec 4) (x : BitVec 5) (k : Nat) (v : Word) (l : List (Nat × Bool × Word)) (s : State), s.MayRunAs c [(5, i.toNat)] → c ≠ .acc →
    i.toNat ≤ 7 → s.regBit (0x10300 + 4 * i.toNat) 16 = (c == .e1) → s.tq i.toNat = (k, true, v) :: l →
    ∃ u : State, exec (.tqPop c i x) s = .next (u.advance c) ∧ u.tq i.toNat = l ∧ (∀ j, j ≠ i.toNat → u.tq j = s.tq j) ∧
      (∀ r, u.x c r = if r = x ∧ x ≠ 0 then v.setWidth 64 else s.x c r) ∧ u = { s with cc := u.cc }) ∧
  (∀ (c : Ctx) (i : BitVec 4) (x : BitVec 5) (s : State), s.MayRunAs c [(5, i.toNat)] → c ≠ .acc → i.toNat ≤ 7 →
    s.regBit (0x10300 + 4 * i.toNat) 16 = (c == .e1) → s.tq i.toNat = [] →
    ∃ t : State, exec (.tqPop c i x) s = .next t ∧ (t.ctxt c).stall = some (5, i.toNat) ∧ (t.ctxt c).pc = (s.ctxt c).pc ∧
      (∀ j, t.tq j = s.tq j) ∧ ∀ r, t.x c r = s.x c r) ∧
  (∀ (i : BitVec 3) (v : Word) (s : State), s.Served → exec (.tqBindWrite i v) s =
    .next (if s.tq i.toNat = [] then s.setReg (0x10300 + 4 * i.toNat) (v &&& 0x10000) else s)) ∧
  ∀ (c : EngCmd) (ch : BitVec 6) (a : Opd) (s : State), s.AtHead 16 c → c.op = .addrPush ch a → ch.toNat ≤ 15 → opdBad a = false →
    (Tab.get [] s.cc.afifo ch.toNat).length < 64 →
    ∃ t : State, exec .addrPush s = .next t ∧ Tab.get [] t.cc.afifo ch.toNat = Tab.get [] s.cc.afifo ch.toNat ++ [a.imm] ∧
      (∀ j, j ≠ ch.toNat → Tab.get [] t.cc.afifo j = Tab.get [] s.cc.afifo j) ∧ (t.queue 16).items = (s.queue 16).items.drop 1 ∧
      t = { s with cc := t.cc, ctrs := t.ctrs }

/-- R245 for a queue other than the two fill queues, and R247 for both threads. -/
def Obligations.RejectionHoldsTheHead : Prop :=
  (∀ (q : Nat) (c : EngCmd) (r : Rej) (s : State), s.headCmd q = some c → q ≠ 17 → q ≠ 18 → r.logged = false →
    (s.reject q c r).ctr 0x10120 = (if s.frozen 0x10120 then s.ctr 0x10120 else s.ctr 0x10120 + 1) ∧
    (s.reject q c r).regBit 0x10004 8 = true ∧ SameRegsBut [0x10004, 0x04000] s (s.reject q c r) ∧
    (s.logs.errs.length < 512 → ∃ e, (s.reject q c r).logs.errs = s.logs.errs ++ [e] ∧ e.code = r.code ∧ e.tag = c.tag ∧ e.index = q ∧
      e.thread = ctxNum c.ctx ∧ e.cond = r.cond ∧ e.d0 = r.d0) ∧
    (s.reject q c r).mem = s.mem ∧ (s.reject q c r).slots = s.slots ∧ (s.reject q c r).vec = s.vec ∧ (s.reject q c r).cc.p = s.cc.p ∧
    (s.regBit 0x10000 0 = true → ((s.reject q c r).queue q).items = (s.queue q).items ∧ ((s.reject q c r).queue q).halted = true ∧
      (s.reject q c r).halted c.ctx.thread = true) ∧
    (s.regBit 0x10000 0 = false → ((s.reject q c r).queue q).items = (s.queue q).items.drop 1 ∧
      (s.reject q c r).halted c.ctx.thread = s.halted c.ctx.thread)) ∧
  (∀ s : State, s.Served → ∃ t : State, exec .ccSkipAcc s = .next t ∧
    (∀ q, q < 17 → t.queue q = if (s.queue q).halted then { s.queue q with items := (s.queue q).items.drop 1, halted := false } else s.queue q) ∧
    (∀ q, 17 ≤ q → t.queue q = s.queue q) ∧ t.cc.haltAcc = false ∧ t.cc.haltExe = s.cc.haltExe ∧ t.cc.dispAcc.halted = false ∧
    (∀ q, q < 17 → (s.queue q).halted = true → ∀ w ∈ t.sync.watch, ¬ (w.2.owner = 1 ∧ w.2.party = q)) ∧
    t = { s with cc := t.cc, sync := t.sync }) ∧
  ∀ s : State, s.Served → ∃ t : State, exec .ccSkipExe s = .next t ∧
    (∀ q, 17 ≤ q → q ≤ 22 → t.queue q = if (s.queue q).halted then { s.queue q with items := (s.queue q).items.drop 1, halted := false } else s.queue q) ∧
    (∀ q, q < 17 → t.queue q = s.queue q) ∧ t.cc.haltExe = false ∧ t.cc.haltAcc = s.cc.haltAcc ∧ t.cc.dispExe.halted = false ∧
    (∀ q, 17 ≤ q → q ≤ 22 → (s.queue q).halted = true → ∀ w ∈ t.sync.watch, ¬ (w.2.owner = 1 ∧ w.2.party = q)) ∧
    t = { s with cc := t.cc, sync := t.sync }

/-- R17, R18, R112 and R113 through the register access port. -/
def Obligations.CountersReadAsPairsAndClear : Prop :=
  (∀ (off : BitVec 20) (s : State), s.Served → isPair off.toNat = true → s.hidden off.toNat = false →
    ∃ t : State, exec (.counterLowRead off) s = .next t ∧ t.rdata = lo32 (s.pairVal off.toNat) ∧ t = { s with latch := t.latch, rdata := t.rdata } ∧
      ∀ u : State, u.latch = t.latch → u.hidden (off.toNat + 4) = false → (u.regRead (off.toNat + 4)).1 = hi32 (s.pairVal off.toNat)) ∧
  (∀ (off : Nat) (s : State), off < 0x100000 → isPair off = true → s.hidden (off + 4) = false → s.latch.find? (fun e => e.1 == off) = none →
    s.regRead (off + 4) = (hi32 (s.pairVal off), s)) ∧
  (∀ (off : BitVec 20) (s : State), s.Served → isCntCtrl off.toNat = true →
    ∃ t : State, exec (.cntCtrlClear off) s = .next t ∧ (∀ o, t.ctr o = if cntCtrlOf o = some off.toNat then 0 else s.ctr o) ∧
      t = { s with ctrs := t.ctrs }) ∧
  (∀ (off : BitVec 20) (s : State), s.Served → isCntCtrl off.toNat = false → exec (.cntCtrlClear off) s = .next s) ∧
  (∀ (o n : Nat) (s : State), s.frozen o = true → s.count o n = s) ∧
  (∀ (p : Nat × Word) (v : Word) (s : State), s.Served →
    p ∈ ([(0x04004, 7), (0x10000, 1), (0x40004, 1), (0x43008, 0xFFFFFFFF), (0x60008, 0xFFFFFFFF), (0x60024, 0xFFFFFFFF), (0x02018, 0xFFFF),
      (0x50040, 0x1F01), (0x04020, 0x1FF), (0x8000C, 0xFFFFFFFF)] : List (Nat × Word)) →
    ∃ t : State, exec (.registerWrite (BitVec.ofNat 20 p.1) v) s = .next t ∧ t.reg p.1 = (s.reg p.1 &&& ~~~p.2) ||| (v &&& p.2) ∧
      SameRegsBut [p.1] s t ∧ t = { s with regs := t.regs }) ∧
  ∀ (off : BitVec 20) (v : Word) (s : State), s.Served → off.toNat < 0x1000 ∨ (0xB0000 ≤ off.toNat ∧ off.toNat < 0xF0000) →
    exec (.registerWrite off v) s = .next s ∧ (0xB0000 ≤ off.toNat → (s.regRead off.toNat).1 = 0)

/-- R121 to R124 and R128, for both ways to commit. -/
def Obligations.CommitFollowsItsSteps : Prop :=
  (∀ (c : EngCmd) (n : BitVec 10) (s : State), s.AtHead 22 c → c.op = .scaleCommit n → n.toNat ≤ 255 →
    ∃ t : State, exec .scaleCommit s = .next t ∧ t.slot n.toNat = (s.slot n.toNat).commit ∧ (∀ k, k ≠ n.toNat → t.slot k = s.slot k) ∧
      t = { s.issued 22 c with slots := t.slots }) ∧
  (∀ (n : Byte) (s : State), s.Served →
    ∃ t : State, exec (.slotCommit n) s = .next t ∧ t.slot n.toNat = (s.slot n.toNat).commit ∧ (∀ k, k ≠ n.toNat → t.slot k = s.slot k) ∧
      t = { s with slots := t.slots }) ∧
  (∀ v : Slot,
    (∀ i, Tab.get 0 v.commit.hist i = if i = v.ptr then v.maxCur else Tab.get 0 v.hist i) ∧ v.commit.ptr = (v.ptr + 1) % 16 ∧
    v.commit.valid = min (v.valid + 1) 16 ∧ v.commit.maxCur = 0 ∧
    (v.commit.promOvf = true ↔ v.promOvf = true ∨
      (0 < v.tot - v.tot0 ∧ v.ovfT.toNat ≤ 2 ^ 20 ∧ v.ovfT.toNat * (v.tot - v.tot0) < (v.ovf - v.ovf0) * 2 ^ 20)) ∧
    (v.commit.promVan = true ↔ v.promVan = true ∨
      (0 < v.tot - v.tot0 ∧ v.vanT.toNat ≤ 2 ^ 20 ∧ v.vanT.toNat * (v.tot - v.tot0) < (v.van - v.van0) * 2 ^ 20)) ∧
    v.commit.ovf0 = v.ovf ∧ v.commit.van0 = v.van ∧ v.commit.tot0 = v.tot ∧ v.commit.ovf = v.ovf ∧ v.commit.van = v.van ∧
    v.commit.tot = v.tot ∧ v.commit.cfg = v.cfg ∧
    (v.cfg.getLsbD 24 = false → v.commit.enc = v.enc ∧ v.commit.dec = v.dec ∧ v.commit.held = v.held)) ∧
  (∀ v : Slot, (match v.histMax with | .fin h => h.num = 0 ∨ h.neg = true ∨ 10 < fld v.cfg 27 5 | _ => True) →
    v.policy.held = true ∧ v.policy.enc = v.enc ∧ v.policy.dec = v.dec) ∧
  (∀ (v : Slot) (h : Ex), v.histMax = .fin h → h.num ≠ 0 → h.neg = false → fld v.cfg 27 5 ≤ 10 →
    ∃ k : Int, k = min (max (((fmaxOf (fld v.cfg 27 5)).div h).log2 - (fld v.cfg 8 3 : Int)) (-126)) 126 ∧
      v.policy.held = false ∧ (v.policy.enc.toNat : Int) = (k + 127) * 2 ^ 23 ∧ (v.policy.dec.toNat : Int) = (127 - k) * 2 ^ 23) ∧
  ∀ v w : Slot, v.cfg.getLsbD 24 = true →
    w = ({ v with hist := Tab.set 0 v.hist v.ptr v.maxCur, ptr := (v.ptr + 1) % 16, valid := min (v.valid + 1) 16, maxCur := 0 } : Slot).policy →
    v.commit.held = w.held ∧ v.commit.enc = w.enc ∧ v.commit.dec = w.dec

/-- R125, through the command and through the registers; the log entry is made while the log has room (R468). -/
def Obligations.FactorsTakePositiveNormals : Prop :=
  (∀ (c : EngCmd) (n : BitVec 10) (dec : Bool) (v : Opd) (s : State), s.AtHead 22 c → c.op = .scaleSet n dec v → n.toNat ≤ 255 → opdBad v = false →
    ∃ t : State, exec .scaleSet s = .next t ∧ (∀ k, k ≠ n.toNat → t.slot k = s.slot k) ∧
      (0 < fld (oWord v) 23 8 → fld (oWord v) 23 8 < 255 → (oWord v).getLsbD 31 = false →
        t.slot n.toNat = (if dec then { s.slot n.toNat with dec := oWord v } else { s.slot n.toNat with enc := oWord v }) ∧
        t = { s.issued 22 c with slots := t.slots }) ∧
      (fld (oWord v) 23 8 = 0 ∨ fld (oWord v) 23 8 = 255 ∨ (oWord v).getLsbD 31 = true →
        t.slot n.toNat = s.slot n.toNat ∧ (s.logs.errs.length < 512 → ∃ e, t.logs.errs = s.logs.errs ++ [e] ∧ e.code = 0x3004 ∧
          e.d0 = w32 n.toNat ∧ e.d1 = oWord v ∧ e.tag = c.tag))) ∧
  (∀ (n : Byte) (dec : Bool) (v : Word) (s : State), s.Served →
    ∃ t : State, exec (.scaleRegisterWrite n dec v) s = .next t ∧ (∀ k, k ≠ n.toNat → t.slot k = s.slot k) ∧ t.mem = s.mem ∧ t.cc = s.cc ∧
      (0 < fld v 23 8 → fld v 23 8 < 255 → v.getLsbD 31 = false →
        t.slot n.toNat = (if dec then { s.slot n.toNat with dec := v } else { s.slot n.toNat with enc := v }) ∧ t = { s with slots := t.slots }) ∧
      (fld v 23 8 = 0 ∨ fld v 23 8 = 255 ∨ v.getLsbD 31 = true →
        t.slot n.toNat = s.slot n.toNat ∧ (s.logs.errs.length < 512 → ∃ e, t.logs.errs = s.logs.errs ++ [e] ∧ e.code = 0x3004 ∧
          e.d0 = w32 n.toNat ∧ e.d1 = v))) ∧
  ∀ (v : Slot) (e d : Word), v.cfg.getLsbD 24 = true → v.commit.held = false →
    ({ v with enc := e, dec := d } : Slot).commit.enc = v.commit.enc ∧ ({ v with enc := e, dec := d } : Slot).commit.dec = v.commit.dec

/-- R127, R130 and R131. -/
def Obligations.SlotClearsAndPromoteBits : Prop :=
  (∀ (n : Byte) (s : State), s.Served → ∃ t : State, exec (.clearCounts n) s = .next t ∧
    t.slot n.toNat = { s.slot n.toNat with ovf := 0, van := 0, tot := 0, ovf0 := 0, van0 := 0, tot0 := 0 } ∧
    (∀ k, k ≠ n.toNat → t.slot k = s.slot k) ∧ t = { s with slots := t.slots }) ∧
  (∀ (n : Byte) (s : State), s.Served → ∃ t : State, exec (.resetHist n) s = .next t ∧
    (∀ i, Tab.get 0 (t.slot n.toNat).hist i = 0) ∧
    t.slot n.toNat = { s.slot n.toNat with hist := [], ptr := 0, valid := 0, maxCur := 0 } ∧
    (∀ k, k ≠ n.toNat → t.slot k = s.slot k) ∧ t = { s with slots := t.slots }) ∧
  (∀ (c : EngCmd) (n : BitVec 10) (s : State), s.AtHead 22 c → c.op = .promoteClear n → n.toNat ≤ 255 →
    ∃ t : State, exec .promoteClear s = .next t ∧ t.slot n.toNat = { s.slot n.toNat with promVan := false, promOvf := false } ∧
      (∀ k, k ≠ n.toNat → t.slot k = s.slot k) ∧ t = { s.issued 22 c with slots := t.slots }) ∧
  ∀ (c : EngCmd) (n : BitVec 10) (p : BitVec 3) (s : State), s.AtHead 22 c → c.op = .promotePred n p → n.toNat ≤ 255 →
    ∃ t : State, exec .promotePred s = .next t ∧ (∀ q, t.pred q = if q = p then (s.slot n.toNat).promVan || (s.slot n.toNat).promOvf else s.pred q) ∧
      t = { s.issued 22 c with cc := { (s.issued 22 c).cc with p := t.cc.p } }

/-- R134, R135, R201 and R219. -/
def Obligations.FlagsPredicatesAndGeneratorStep : Prop :=
  (∀ (c : EngCmd) (e : Nat) (m : Flags) (s : State), s.AtHead 22 c → c.op = .flagClear e m → e ≤ 7 →
    ∃ t : State, exec .flagClear s = .next t ∧ t.flags e = s.flags e &&& ~~~m ∧ (∀ d, d ≤ 7 → d ≠ e → t.flags d = s.flags d) ∧
      (e < 4 → t.regBit (0x20084 + 0x1000 * e) 31 = (s.regBit (0x20084 + 0x1000 * e) 31 && !m.getLsbD 3)) ∧
      SameRegsBut [flagReg e, 0x20084 + 0x1000 * e] s t ∧ (4 ≤ e → t.reg (0x20084 + 0x1000 * e) = s.reg (0x20084 + 0x1000 * e)) ∧
      t = { s.issued 22 c with regs := t.regs }) ∧
  (∀ (c : EngCmd) (e : Nat) (x : BitVec 5) (s : State), s.AtHead 22 c → c.op = .flagRead e x → e ≤ 7 →
    ∃ t : State, exec .flagRead s = .next t ∧ (∀ r, t.x c.ctx r = if r = x ∧ x ≠ 0 then (s.flags e).setWidth 64 else s.x c.ctx r) ∧
      (∀ d, d ≠ c.ctx → t.ctxt d = s.ctxt d) ∧ t = (s.issued 22 c).setCtxt c.ctx (t.ctxt c.ctx)) ∧
  (∀ (c : EngCmd) (e : Nat) (m : Flags) (s : State), s.AtHead 22 c → c.op = .flagClear e m → 7 < e →
    exec .flagClear s = .next (s.reject 22 c { code := 0x3005, cond := 1, d0 := w32 e })) ∧
  (∀ (q : Nat) (c : EngCmd) (p : BitVec 3) (v : Opd) (s : State), s.AtHead q c → c.op = .predSet p v → opdBad v = false →
    ∃ t : State, exec (.predSet q) s = .next t ∧ (∀ r, t.pred r = if r = p then v.imm != 0 else s.pred r) ∧
      t = { s.issued q c with cc := { (s.issued q c).cc with p := t.cc.p } }) ∧
  (∀ (q : Nat) (c : EngCmd) (v : Opd) (s : State), s.AtHead q c → c.op = .genStep v → opdBad v = false →
    ∃ t : State, exec (.genStep q) s = .next t ∧ t.genStep = oWord v ∧ SameRegsBut [0x43008] s t ∧ t = { s.issued q c with regs := t.regs }) ∧
  ∀ (q : Nat) (c : EngCmd) (s : State), q ≠ 17 → q ≠ 18 →
    (s.issued q c).queue q = { s.queue q with items := (s.queue q).items.drop 1, wait := .none } ∧
    (∀ k, k ≠ q → (s.issued q c).queue k = s.queue k) ∧
    s.issued q c = { s with cc := { s.cc with queues := (s.issued q c).cc.queues }, ctrs := (s.issued q c).ctrs } ∧
    SameCtrsBut [0x14010, 0x14018] s (s.issued q c)

/-- R145, R161 and R162. What SUM_CLEAR does to SUM[0..14] is the model's choice and not said here. -/
def Obligations.SummariesReachTheControlCore : Prop :=
  (∀ (c : EngCmd) (i : BitVec 4) (x : BitVec 5) (s : State), s.AtHead 22 c → c.op = .sumRead i x →
    ∃ t : State, exec .sumRead s = .next t ∧
      (∀ r, t.x c.ctx r = if r = x ∧ x ≠ 0 then (if i = 15 then (if s.vec.nonfinite then 1 else 0) else (s.sum i.toNat).val) else s.x c.ctx r) ∧
      t = (s.issued 22 c).setCtxt c.ctx (t.ctxt c.ctx)) ∧
  (∀ (c : EngCmd) (i : BitVec 4) (x : BitVec 5) (s : State), s.AtHead 22 c → c.op = .sumIndexRead i x →
    ∃ t : State, exec .sumIndexRead s = .next t ∧
      (∀ r, t.x c.ctx r = if r = x ∧ x ≠ 0 then (s.sum i.toNat).idx.setWidth 64 else s.x c.ctx r) ∧
      t = (s.issued 22 c).setCtxt c.ctx (t.ctxt c.ctx)) ∧
  (∀ (c : EngCmd) (s : State), s.AtHead 22 c → c.op = .sumClear 15 →
    exec .sumClear s = .next { s.issued 22 c with vec := { s.vec with nonfinite := false } }) ∧
  (∀ (c : EngCmd) (i : BitVec 4) (s : State), s.AtHead 22 c → c.op = .sumClear i → i ≠ 15 →
    ∃ t : State, exec .sumClear s = .next t ∧ t.vec.nonfinite = s.vec.nonfinite ∧ (∀ k, k ≠ i.toNat → t.sum k = s.sum k) ∧
      t = { s.issued 22 c with vec := { s.vec with sums := t.vec.sums } }) ∧
  (∀ (c : EngCmd) (i : BitVec 4) (k : Cmp) (v : Opd) (p : BitVec 3) (s : State), s.AtHead 22 c → c.op = .predCopy i k v p → opdBad v = false →
    ∃ t : State, exec .predCopy s = .next t ∧ (∀ q, q ≠ p → t.pred q = s.pred q) ∧ (i = 15 → t.pred p = s.vec.nonfinite) ∧
      (i ≠ 15 → t.pred p = cmp64 k (val64 (s.sum i.toNat).val) (val64 v.imm)) ∧
      t = { s.issued 22 c with cc := { (s.issued 22 c).cc with p := t.cc.p } }) ∧
  (∀ (k : Cmp) (a b : XVal), a.isNan = true ∨ b.isNan = true → cmp64 k a b = decide (k = .unord)) ∧
  (∀ a b : XVal, a.isNan = false → b.isNan = false → cmp64 .unord a b = false ∧ cmp64 .ne a b = !cmp64 .eq a b ∧
    cmp64 .ge a b = !cmp64 .lt a b ∧ cmp64 .le a b = !cmp64 .gt a b ∧ cmp64 .gt a b = cmp64 .lt b a) ∧
  ∀ (c : EngCmd) (n : Opd) (x : BitVec 5) (s : State), s.AtHead 19 c → c.op = .vsetlen n x → opdBad n = false →
    ∃ t : State, exec .vsetlen s = .next t ∧ (t.ctxt c.ctx).vlen = min (oVal n) 512 ∧
      (∀ r, t.x c.ctx r = if r = x ∧ x ≠ 0 then w64 (min (oVal n) 512) else s.x c.ctx r) ∧
      (∀ d, d ≠ c.ctx → t.ctxt d = s.ctxt d) ∧ t = (s.issued 19 c).setCtxt c.ctx (t.ctxt c.ctx)

/-- R105, R146, R148, R149 and R158 (VLEN is at most 512, R145); a column operand is read from its tile, which may log and
count errors. -/
def Obligations.VectorOperationsActBelowVlen : Prop :=
  (∀ (c : EngCmd) (o : VOp) (s : State), s.AtHead 19 c → c.op = .vop o → o.packed = none → vopChk s (vlenOf s c) o = none → vlenOf s c ≤ 512 →
    let n := vlenOf s c
    let u := (vCols o n).foldl (fun s p => touchBox 2 p.1.t p.2 s) s
    let r := fun i => vElem o.f ((vSources o).map fun v => srcVal u none v i)
    ∃ t : State, exec .vop s = .next t ∧
      (∀ d i, i < 512 → t.lane d i = if d = o.dst.toNat ∧ i < n then bits32 (r i).1 else s.lane d i) ∧
      t.flags 4 = (List.range n).foldl (fun f i => f ||| (r i).2) (s.flags 4) ∧
      (∀ m, m ∉ o.reds.map RedAtt.reg → t.sum m.toNat = s.sum m.toNat) ∧
      (0 < n → ∀ a ∈ o.reds, t.sum a.reg.toNat = redBeat (if a.init then ⟨redEmpty a.kind, 0xFFFFFFFF, a.kind, true, 0⟩ else s.sum a.reg.toNat)
        ((List.range n).map fun i => some (r i).1)) ∧
      SameRegsBut [0x38040, 0x04000] s t ∧ t.mem = s.mem ∧
      ((∀ v ∈ vSources o, colTile v = none) →
        t = { s.issued 19 c with vec := { s.vec with v := t.vec.v, sums := t.vec.sums }, regs := t.regs, ctrs := t.ctrs } ∧ t.reg 0x04000 = s.reg 0x04000) ∧
      t = { s.issued 19 c with
        vec := { s.vec with v := t.vec.v, sums := t.vec.sums }, regs := t.regs, ctrs := t.ctrs, logs := t.logs
        eccCorr := t.eccCorr, poison := t.poison, dma := { s.dma with pf := t.dma.pf } } ∧
      (n = 0 → t = s.issued 19 c)) ∧
  (∀ (c : EngCmd) (o : VOp) (p : Packed) (s : State), s.AtHead 19 c → c.op = .vop o → o.packed = some p → vopChk s (vlenOf s c) o = none → vlenOf s c ≤ 512 →
    let u := (vCols o (vlenOf s c)).foldl (fun s p => touchBox 2 p.1.t p.2 s) s
    let r := fun i => vPackElem (s.regBit 0x40004 0) p o.f ((vSources o).map fun v => srcVal u (some p) v i)
    ∃ t : State, exec .vop s = .next t ∧
      (∀ d i, i < 1024 → t.packedEl d i = if d = o.dst.toNat ∧ i < 2 * vlenOf s c then (r i).1 % 65536 else s.packedEl d i) ∧
      t.flags 4 = (List.range (2 * vlenOf s c)).foldl (fun f i => f ||| (r i).2) (s.flags 4) ∧
      (∀ m, m ∉ o.reds.map RedAtt.reg → t.sum m.toNat = s.sum m.toNat) ∧
      SameRegsBut [0x38040, 0x04000] s t ∧ t.mem = s.mem ∧
      ((∀ v ∈ vSources o, colTile v = none) →
        t = { s.issued 19 c with vec := { s.vec with v := t.vec.v, sums := t.vec.sums }, regs := t.regs, ctrs := t.ctrs } ∧ t.reg 0x04000 = s.reg 0x04000) ∧
      t = { s.issued 19 c with
        vec := { s.vec with v := t.vec.v, sums := t.vec.sums }, regs := t.regs, ctrs := t.ctrs, logs := t.logs
        eccCorr := t.eccCorr, poison := t.poison, dma := { s.dma with pf := t.dma.pf } }) ∧
  (∀ (c : EngCmd) (o : VOp) (r : Rej) (s : State), s.AtHead 19 c → c.op = .vop o → vopChk s (vlenOf s c) o = some r →
    exec .vop s = .next (s.reject 19 c r)) ∧
  (∀ (c : EngCmd) (a d0 d1 d2 : BitVec 5) (s : State), s.AtHead 19 c → c.op = .vsplit a d0 d1 d2 → vlenOf s c ≤ 512 →
    let r := fun i => (splitVal (s.lane a.toNat i)).1
    ∃ t : State, exec .vsplit s = .next t ∧
      (∀ d i, i < 1024 → t.packedEl d i = if i < vlenOf s c then
        (if d = d2.toNat then (r i).2.2 % 65536 else if d = d1.toNat then (r i).2.1 % 65536 else if d = d0.toNat then (r i).1 % 65536 else s.packedEl d i)
        else s.packedEl d i) ∧
      SameRegsBut [0x38040] s t ∧ t = { s.issued 19 c with vec := { s.vec with v := t.vec.v }, regs := t.regs, ctrs := t.ctrs }) ∧
  (∀ a b : Ex, vElem .add [(.fin a, false), (.fin b, false)] = rne32 (.fin (a.add b))) ∧
  (∀ a b c : Ex, vElem .fma [(.fin a, false), (.fin b, false), (.fin c, false)] = rne32 (.fin ((a.mul b).add c))) ∧
  (∀ (f : VFun) (a b : XVal × Bool), f = .eq ∨ f = .lt ∨ f = .le → a.1.isNan = true ∨ b.1.isNan = true → vElem f [a, b] = (xZero, 0)) ∧
  ∀ (f : VFun) (xs : List (XVal × Bool)), vQuiet f = true → (vElem f xs).2 = 0

/-- R146 and R148 for loads and stores; `vloadChk` and `vstoreChk` hold the checks of R237 and R148. The premise RowsOk is
implied by those checks. -/
def Obligations.LoadsAndStoresMoveElements : Prop :=
  (∀ (c : EngCmd) (o : VMem) (s : State), s.AtHead 19 c → c.op = .vload o → vloadChk s c o = none → vlenOf s c ≤ 512 → 0 < vlenOf s c →
    let tl := (plainT o.tile).t
    let e0 := oVal o.first
    let u := (spanBoxes tl e0 (vspan s c o)).foldl (fun s b => touchBox 2 tl b s) ((s.issued 19 c).count 0x40010 1)
    let x := fun i => readElem u tl ((e0 + i) / tl.cols.toNat) ((e0 + i) % tl.cols.toNat)
    ∃ t : State, exec .vload s = .next t ∧
      (o.packed = none → ∀ d i, i < 512 → t.lane d i = if d = o.reg.toNat ∧ i < vlenOf s c then bits32 (rne32 (x i)).1 else s.lane d i) ∧
      (∀ p, o.packed = some p → ∀ d i, i < 1024 → t.packedEl d i = if d = o.reg.toNat ∧ i < 2 * vlenOf s c then
        (convElem (packFmt p) (s.regBit 0x40004 0) false .rne (flushIn (tFmt tl) (x i)).2 (flushIn (tFmt tl) (x i)).1).code % 65536 else s.packedEl d i) ∧
      t.mem = s.mem ∧ t.slots = s.slots ∧ t.cc = (s.issued 19 c).cc ∧ t.vec = { s.vec with v := t.vec.v } ∧ SameRegsBut [0x38040, 0x04000] s t) ∧
  (∀ (c : EngCmd) (o : VMem) (s : State), s.AtHead 19 c → c.op = .vstore o → vstoreChk s c o = none → 0 < vlenOf s c →
    RowsOk (plainT o.tile).t →
    let tl := (plainT o.tile).t
    let e0 := oVal o.first
    ∃ t : State, exec .vstore s = .next t ∧
      (∀ x, (∀ i, i < vspan s c o → let r := (e0 + i) / tl.cols.toNat; let k := (e0 + i) % tl.cols.toNat
        if tTrans tl then ¬ OnStored tl k r x else ¬ OnStored tl r k x) → t.byte x = s.byte x) ∧
      (∀ k, tSlot tl ≠ some k → t.slot k = s.slot k) ∧
      (∀ k, tSlot tl = some k → s.evalMode = false → (t.slot k).tot = (s.slot k).tot + vspan s c o) ∧
      t.vec = s.vec ∧ t.cc.queues = (s.issued 19 c).cc.queues ∧ t.cc.p = s.cc.p ∧ SameRegsBut [0x38040, 0x04000] s t ∧
      (o.packed = none → tFmt tl = 0 → tCont tl = 0 → tTrans tl = false → encOf s (tSlot tl) = one32 → e0 % tl.cols.toNat + vlenOf s c ≤ tl.cols.toNat →
        ∀ i, i < vlenOf s c → t.word (codeAddr tl (e0 / tl.cols.toNat) (e0 % tl.cols.toNat + i)) = s.lane o.reg.toNat i)) ∧
  (∀ (c : EngCmd) (o : VMem) (r : Rej) (s : State), s.AtHead 19 c → c.op = .vload o → vloadChk s c o = some r → exec .vload s = .next (s.reject 19 c r)) ∧
  (∀ (c : EngCmd) (o : VMem) (r : Rej) (s : State), s.AtHead 19 c → c.op = .vstore o → vstoreChk s c o = some r → exec .vstore s = .next (s.reject 19 c r)) ∧
  (∀ (c : EngCmd) (o : VMem) (s : State), s.AtHead 19 c → vlenOf s c = 0 →
    (c.op = .vload o → vloadChk s c o = none → exec .vload s = .next (s.issued 19 c)) ∧
    (c.op = .vstore o → vstoreChk s c o = none → exec .vstore s = .next (s.issued 19 c))) ∧
  ∀ (c : EngCmd) (o : VMem) (s : State), 0 < vspan s c o → o.tile.t.rows.toNat * o.tile.t.cols.toNat < oVal o.first + vspan s c o →
    (vloadChk s c o).isSome = true ∧ (vstoreChk s c o).isSome = true

/-- R51, R120, R151 and R152. For a beat, that its rows lie in the destination tiles is what the checks at issue left. -/
def Obligations.DrainsReadFactorsAtIssue : Prop :=
  (∀ (c : EngCmd) (o : DrainOp) (s : State), s.AtHead 19 c → c.op = .drain o → drainChk s o = none → vlenOf s c ≠ 0 →
    drainParts s o ≠ [] → 16 ≤ oVal o.cols →
    let g := (fpMul (val32 (decOf s (o.decA.map BitVec.toNat))) (val32 (decOf s (o.decB.map BitVec.toNat)))).1
    ∃ (t : State) (r : DrainRun), exec .drain s = .next t ∧ t.vec.drain = some r ∧ r.cmd = c ∧ r.op = o ∧ r.gdec = bits32 g ∧
      (drainVops o = true → r.enc = encOf s (tSlot o.dst.t)) ∧
      (drainVops o = false → r.enc = (rne32b (g.mul (val32 (encOf s (tSlot o.dst.t))))).1) ∧
      r.seed = s.genSeed ∧ r.step = s.genStep ∧ r.held = [] ∧ r.heldAux = [] ∧
      r.beats = (drainParts s o).flatMap (fun p => (List.range (oVal o.cols / 16)).map fun b => (p.1, oVal o.c0 + 16 * b, p.2.1, p.2.2.1, p.2.2.2)) ∧
      (∀ m, m ∉ o.reds.map RedAtt.reg → t.sum m.toNat = s.sum m.toNat) ∧
      t = { s.issued 19 c with vec := { s.vec with drain := some r, sums := t.vec.sums } }) ∧
  (∀ (c : EngCmd) (o : DrainOp) (s : State), s.AtHead 19 c → c.op = .drain o → drainChk s o = none → vlenOf s c = 0 →
    exec .drain s = .next (s.issued 19 c)) ∧
  (∀ (c : EngCmd) (o : DrainOp) (s : State), s.AtHead 19 c → c.op = .drain o → (∀ v ∈ [o.c0, o.cols, o.layer, o.base, o.pitch, o.auxOff], opdBad v = false) →
    oVal o.c0 % 16 ≠ 0 ∨ oVal o.cols % 16 ≠ 0 ∨ 4096 < oVal o.c0 + oVal o.cols →
    exec .drain s = .next (s.reject 19 c { code := 0x3005, cond := 2, d0 := w32 (oVal o.c0) })) ∧
  (∀ (d : DrainRun) (b : Nat × Nat × Nat × Nat × Nat) (l : List (Nat × Nat × Nat × Nat × Nat)) (s : State), s.Clocked →
    s.vec.drain = some d → d.beats = b :: l → writeWait s d.cmd (beatHalves d b) = false →
    let dst := (plainT d.op.dst).t
    let aux := (d.op.aux.map fun a => (plainT a.1).t).toList
    (∀ k ∈ dst :: aux, RowsOk k ∧ b.2.1 - oVal d.op.c0 + 16 ≤ k.cols.toNat) → InTile dst d.held → (∀ k ∈ aux, InTile k d.heldAux) →
    specContainer d.op.spec = tCont dst → (∀ a ∈ d.op.aux.toList, specContainer a.2 = tCont (plainT a.1).t) →
    ∃ t : State, exec .drainBeat s = .next t ∧ SameMemOff (dst :: aux) s t ∧
      t.vec.drain.map DrainRun.beats = (if l = [] then none else some l) ∧ t.vec.v = s.vec.v ∧ t.cc.queues = s.cc.queues ∧
      t.ctr 0x40018 = (if s.frozen 0x40018 then s.ctr 0x40018 else s.ctr 0x40018 + 1) ∧
      (∀ m, m ∉ d.op.reds.map RedAtt.reg → t.sum m.toNat = s.sum m.toNat) ∧
      (∀ k, k ∉ (dst :: aux).filterMap tSlot → t.slot k = s.slot k)) ∧
  (∀ (d : DrainRun) (w : Word) (s : State) (r k : Nat), drainVops d.op = false → d.op.accInt = false →
    (drainLane s d true false w r k).d2 = (fpMul (in32 w).1 (val32 d.gdec)).1 ∧
      (drainLane s d true false w r k).d6 = (drainLane s d true false w r k).d2) ∧
  (∀ (d : DrainRun) (full : Bool) (w : Word) (s : State) (r k : Nat), (drainLane s d full true w r k).acc = .nan) ∧
  (∀ (d : DrainRun) (w : Word) (s : State) (r k : Nat) (b res : TRef) (f : Sfu), d.op.accInt = false → d.op.bias = some b → d.op.act = some (.sfu f) →
    d.op.deriv = none → d.op.drop = none → d.op.resid = some res →
    let d2 := (fpMul (in32 w).1 (val32 d.gdec)).1
    let d3 := (fpAdd d2 (inEl s b 0 k).1).1
    (drainLane s d true false w r k).d2 = d2 ∧ (drainLane s d true false w r k).d3 = d3 ∧
      (drainLane s d true false w r k).d6 = (fpAdd (sfuVal f d3).1 (inEl s res r k).1).1) ∧
  ∀ (a : Nat) (s : State), isAcc a = true → a % 4 = 0 → s.poison.contains (accTile a) = true → s.seenLe a 4 = 0x7FC00000

/-- R163 to R169. That all rows but the last run at issue is the model's choice (log entry 1). -/
def Obligations.RowOperationsRunRowByRow : Prop :=
  (∀ (i : Instr) (k : RowKind), (i, k) ∈ ([(.lnFwd, .lnFwd), (.rmsFwd, .rmsFwd), (.softmaxFwd, .softmaxFwd), (.lnBwd, .lnBwd), (.rmsBwd, .rmsBwd),
      (.softmaxBwd, .softmaxBwd), (.merge, .merge), (.finalise, .finalise)] : List (Instr × RowKind)) →
    ∀ (c : EngCmd) (o : RowOp) (s : State), s.AtHead 20 c → c.op = .row o → o.kind = k → rowChk s o = none →
    (oVal o.rows = 0 → exec i s = .next (s.issued 20 c)) ∧
    (oVal o.rows ≠ 0 → (∀ r ∈ [o.out] ++ o.dgamma.toList ++ o.dbeta.toList, RowsOk (plainT r).t) →
      ∃ (t : State) (r : RowRun), exec i s = .next t ∧ t.row = some r ∧ r.cmd = c ∧ r.op = o ∧ r.next + 1 = oVal o.rows ∧
        r.enc = encOf s (tSlot o.out.t) ∧ r.seed = s.genSeed ∧ r.step = s.genStep ∧
        (∀ x, (∀ r ∈ [o.out] ++ o.dgamma.toList ++ o.dbeta.toList, OffTile (plainT r).t x) →
          (∀ st ∈ o.statOut.toList, x < st.t.base.toNat ∨ st.t.base.toNat + 8 * oVal o.rows ≤ x) → t.byte x = s.byte x) ∧
        t.vec = s.vec ∧ t.cc.queues = (s.issued 20 c).cc.queues ∧ t.cc.p = s.cc.p ∧ (∀ n, tSlot o.out.t ≠ some n → t.slot n = s.slot n))) ∧
  (∀ (r : RowRun) (s : State), s.Clocked → s.row = some r →
    r.next < (plainT r.op.out).t.rows.toNat → oVal r.op.n ≤ (plainT r.op.out).t.cols.toNat → RowsOk (plainT r.op.out).t → InTile (plainT r.op.out).t r.held → specContainer r.op.spec = tCont (plainT r.op.out).t →
    (∀ v ∈ r.op.dgamma.toList ++ r.op.dbeta.toList, RowsOk (plainT v).t ∧ 0 < v.t.rows.toNat ∧ oVal r.op.n ≤ v.t.cols.toNat) →
    ∃ t : State, exec .rowOperationComplete s = .next t ∧ t.row = none ∧
      (∀ x, (∀ v ∈ [r.op.out] ++ r.op.dgamma.toList ++ r.op.dbeta.toList, OffTile (plainT v).t x) →
        (∀ st ∈ r.op.statOut.toList, x < st.t.base.toNat + 8 * r.next ∨ st.t.base.toNat + 8 * r.next + 8 ≤ x) → t.byte x = s.byte x) ∧
      t.ctr 0x42010 = (if s.frozen 0x42010 then s.ctr 0x42010 else s.ctr 0x42010 + 1) ∧
      t.ctr 0x42018 = (if s.frozen 0x42018 then s.ctr 0x42018 else s.ctr 0x42018 + w64 (oVal r.op.n)) ∧
      t.vec = s.vec ∧ t.cc.queues = s.cc.queues ∧ (∀ n, tSlot r.op.out.t ≠ some n → t.slot n = s.slot n)) ∧
  (∀ i : RowIn, maskedRow i.xs = true → (rowSoftmax i).ys = i.xs.map (fun _ => xZero) ∧ (rowSoftmax i).stat = (.inf true, xZero) ∧ (rowSoftmax i).fl = 0) ∧
  (∀ (alpha l : XVal) (xs : List XVal), isPlusZero l = true → smOut alpha (.inf true) l xs = xs.map fun _ => (xZero, 0)) ∧
  (∀ (i : RowIn) (a b : XVal), i.st = some (.inf true, a) → i.st2 = (.inf true, b) →
    (rowMerge i).ys = i.xs.map (fun _ => xZero) ∧ (rowMerge i).stat = (.inf true, xZero) ∧ (rowMerge i).fl = 0) ∧
  (∀ (i : RowIn) (m l : XVal), i.st = some (m, l) → isPlusZero l = true → (rowFinal i).ys = i.xs.map (fun _ => xZero) ∧ (rowFinal i).fl = 0) ∧
  (∀ i : RowIn, i.g.length = i.xs.length → i.b.length = i.xs.length →
    let r := (sfuVal .rsqrt (fpAdd (fpRes (anyNan i.xs) (divN (sum64 (i.xs.map fun x => x.mul x)) i.xs.length)).1 i.fac).1).1
    (rowNorm true i).ys = (i.xs.zip i.g).map fun p => (fpMul (fpMul p.1 r).1 p.2).1) ∧
  ∀ (i : RowIn), i.g.length = i.xs.length → i.b.length = i.xs.length → ∃ mu r : XVal, (rowNorm false i).stat = (mu, r) ∧
    (rowNorm false i).ys = (i.xs.zip (i.g.zip i.b)).map fun p => (fpAdd (fpMul (fpMul (fpSub p.1 mu).1 r).1 p.2.1).1 p.2.2).1

/-- R65, R67 to R71, R73, R99 and R101 for fills without fan-out. For a KEEP fill the latched tile holds M rows. -/
def Obligations.FillsWriteTheirAccumulatorWords : Prop :=
  (∀ (b : Bool) (q : Nat) (c : EngCmd) (f : FillOp) (s : State), q = (if b then 18 else 17) → s.AtHead q c → c.op = .fill f → f.fanout = false →
    (f.target = .joint → (s.headCmd (35 - q)).map EngCmd.seq = some c.seq) → shadowBusy s f = false →
    (∀ r, fillChk s false [f] = some r → exec (.fill b) s = .next ((touchTable f (some r) s).reject q c r)) ∧
    (fillChk s false [f] = none →
      let tgt := targetStills s f.target
      let data := if f.keep then ((newestTile s f.target).map StatTile.data).getD [] else readRows s f.stat.t (oVal f.m) (oVal f.k)
      let isInt := ((pairTiles f.stat.t f.strm.t).map Prod.fst).getD false
      ∃ t : State, exec (.fill b) s = .next t ∧
        (∀ x, (∀ i n m, i ∈ tgt → oVal f.c0 ≤ n → n < oVal f.c0 + oVal f.n → m < 32 → x < accAddr i n m ∨ accAddr i n m + 4 ≤ x) → t.byte x = s.byte x) ∧
        (∀ m n i r, m < oVal f.m → n < oVal f.n → placeRow s tgt m = some (i, r) → maskedFill f = false →
          f.overwrite = true ∨ (s.poison = [] ∧ s.parBad = []) → f.keep = false ∨ data.length = oVal f.m →
          let a := accAddr i (oVal f.c0 + n) r
          let prev := if f.overwrite then none else some (s.word a)
          t.word a = if oVal f.k = 0 then prev.getD 0
            else if isInt then (addInt prev (getAt [] data m) (streamCol s f n)).1 else (addGroup prev (getAt [] data m) (streamCol s f n)).1) ∧
        (oVal f.m = 0 ∨ oVal f.n = 0 → t.mem = s.mem ∧ t.still = { ((s.issued q c).enterGroups []).still with token := [] }) ∧
        t.slots = s.slots ∧ t.vec = s.vec ∧ t.cc = (s.issued q c).cc ∧
        SameRegsBut (0x04000 :: [0, 1, 2, 3].flatMap fun i => [0x20080 + 0x1000 * i, 0x20084 + 0x1000 * i, 0x20088 + 0x1000 * i]) s t)) ∧
  (∀ (b : Bool) (q : Nat) (c : EngCmd) (f : FillOp) (tag : Half) (l : List (FillOp × Half)) (s : State), q = (if b then 18 else 17) → s.AtHead q c →
    c.op = .packed ((f, tag) :: l) → (f.target = .joint → (s.headCmd (35 - q)).map EngCmd.seq = some c.seq) → shadowBusy s f = false →
    fillChk s true (f :: l.map Prod.fst) = none →
    ∃ t : State, exec (.fill b) s = .next t ∧
      (∀ x, (∀ i n m, i ∈ targetStills s f.target → oVal f.c0 ≤ n → n < oVal f.c0 + oVal f.n → m < 32 → x < accAddr i n m ∨ accAddr i n m + 4 ≤ x) →
        t.byte x = s.byte x) ∧
      (∃ gs, gs = s.still.groups ++ ((((f, tag) :: l).zip (packSlots s f.target)).map fun p => (⟨p.1.2, p.2.1, p.2.2, oVal p.1.1.m⟩ : Group)) ∧
        t.still.groups = gs.drop (gs.length - 64)) ∧ t.slots = s.slots ∧ t.vec = s.vec ∧ t.cc = (s.issued q c).cc) ∧
  (∀ (r : FillRun) (l : List FillRun) (s : State), s.Clocked → s.still.runA = r :: l →
    ∃ t : State, exec (.fillComplete false) s = .next t ∧ t.still.runA = l ∧ t.still.runB = s.still.runB ∧ t.still.shaA = none ∧ t.still.token = r.groups ∧
      t.still.actA = (if s.still.shaA.isSome then s.still.shaA else s.still.actA) ∧ t = { s with still := t.still }) ∧
  ∀ (r : FillRun) (l : List FillRun) (s : State), s.Clocked → s.still.runB = r :: l → (∀ e ∈ s.still.runA.head?, e.joint = false) →
    ∃ t : State, exec (.fillComplete true) s = .next t ∧ t.still.runB = l ∧ t.still.runA = s.still.runA ∧ t.still.shaB = none ∧ t.still.token = r.groups ∧
      t.still.actB = (if s.still.shaB.isSome then s.still.shaB else s.still.actB) ∧ t = { s with still := t.still }

/-- R83, R44, R100, R188 and R239. -/
def Obligations.StillSettingsTakeEffectInOrder : Prop :=
  (∀ (c : EngCmd) (m : Bool) (s : State), s.AtHead 22 c → c.op = .pairing m →
    exec .pairing s = .next { s.issued 22 c with still := { s.still with split := m, actA := none, actB := none, shaA := none, shaB := none, groups := [] } }) ∧
  (∀ (c : EngCmd) (n : BitVec 8) (a : Opd) (s : State), s.AtHead 22 c → c.op = .klutLoad n a → n.toNat ≤ 31 → opdBad a = false →
    spaceChk s .gen false (oWord a).toNat 32 1 = none →
    ∃ t : State, exec .klutLoad s = .next t ∧
      (∀ w, w < 8 → t.reg (0x28000 + 0x20 * n.toNat + 4 * w) =
        if s.poisonedIn ((oWord a).toNat + 4 * w) 4 then 0x7FC07FC0 else s.word ((oWord a).toNat + 4 * w)) ∧
      SameRegsBut (0x04000 :: (List.range 8).map fun w => 0x28000 + 0x20 * n.toNat + 4 * w) s t ∧ t.mem = s.mem ∧ t.still = s.still ∧ t.cc = (s.issued 22 c).cc) ∧
  (∀ (c : EngCmd) (m : Word) (r0 c0 : Opd) (s : State), s.AtHead 22 c → c.op = .dwMask m r0 c0 none → opdBad r0 = false → opdBad c0 = false →
    exec .dwMask s = .next { s.issued 22 c with still := { s.still with mask := m, row0 := oVal r0, col0 := oVal c0, table := none } }) ∧
  (∀ (c : EngCmd) (m : Word) (r0 c0 : Opd) (r : TRef) (s : State), s.AtHead 22 c → c.op = .dwMask m r0 c0 (some r) → opdBad r0 = false → opdBad c0 = false →
    tStage1 r = none → tStage2 r = none → r.t.base.toNat % 8 = 0 → spaceChk s .gen false r.t.base.toNat r.t.extent.toNat 2 = none →
    exec .dwMask s = .next { s.issued 22 c with still := { s.still with mask := m, row0 := oVal r0, col0 := oVal c0, table := some r } }) ∧
  (∀ (f : FillOp) (tag : Half) (x : Ctx) (n : Nat) (l : List (FillOp × Half × Ctx × Nat)) (s : State), s.cc.pack = (f, tag, x, n) :: l →
    let e : EngCmd := ⟨.packed (((f, tag, x, n) :: l).map fun p => (p.1, p.2.1)), tag, x, n⟩
    let qs := entersQueues (fillQueue f) e.op
    (∀ q ∈ qs, s.room q = true) → ∃ u : State, s.packFlush = some u ∧ u.cc.pack = [] ∧
      (∀ q, u.queue q = if q ∈ qs then { s.queue q with items := (s.queue q).items ++ [e] } else s.queue q) ∧
      u = { s with cc := { s.cc with pack := [], queues := u.cc.queues }, ctrs := u.ctrs } ∧
      (s.Clocked → exec .packHoldExpire s = .next u) ∧
      (∀ (v : Word) (w : State), s.Served → w = s.setReg 0x24000 (v &&& 0xFFFF0003) → w.packOn = false →
        ∃ t : State, exec (.stillArrayCfgWrite v) s = .next t ∧ t.cc.pack = [] ∧ (∀ q, t.queue q = u.queue q) ∧
          t.reg 0x24000 = v &&& 0xFFFF0003 ∧ SameRegsBut [0x24000] s t)) ∧
  (∀ s : State, s.Clocked → s.cc.pack = [] → exec .packHoldExpire s = .next s) ∧
  (∀ (v : Word) (s : State), s.Served → s.cc.pack = [] ∨ (s.setReg 0x24000 (v &&& 0xFFFF0003)).packOn = true →
    exec (.stillArrayCfgWrite v) s = .next (s.setReg 0x24000 (v &&& 0xFFFF0003))) ∧
  (∀ (c : EngCmd) (s u : State), s.AtHead 22 c → c.op = .packFlush → (s.issued 22 c).packFlush = some u → exec .packFlush s = .next u) ∧
  (∀ (c : EngCmd) (s : State), s.AtHead 22 c → c.op = .packFlush → s.cc.pack = [] → exec .packFlush s = .next (s.issued 22 c)) ∧
  (∀ (c : Ctx) (f : FillOp) (w : BitVec 6) (l : Nat) (s : State), s.MayRun c → c ≠ .acc → w.toNat ≤ 15 → l < 6 →
    fld (s.reg (0x13800 + 0x80 * w.toNat + 16 * l)) 0 16 = 0 → exec (.fillWalk c f w) s = .next (s.advance c)) ∧
  ∀ (c : Ctx) (f g : FillOp) (w : BitVec 6) (s : State), s.MayRun c → c ≠ .acc → w.toNat ≤ 15 → s.capture c (.fill f) = .fill g →
    s.yields c = false → s.packOn = false → s.cc.pack = [] → g.target ≠ .joint →
    let word := fun i => s.reg (0x13800 + 0x80 * w.toNat + 4 * i)
    let n := fld (word 0) 0 16
    0 < n → (∀ l, l < 6 → 0 < l → fld (word (4 * l)) 0 16 = 1) → (s.queue (fillQueue g)).items.length + n ≤ 32 →
    ∃ u : State, exec (.fillWalk c f w) s = .next (u.advance c) ∧ u = { s with cc := u.cc, ctrs := u.ctrs } ∧ (u.ctxt c).walk = none ∧
      (∀ q, q ≠ fillQueue g → u.queue q = s.queue q) ∧ ∃ es : List EngCmd, (u.queue (fillQueue g)).items = (s.queue (fillQueue g)).items ++ es ∧ es.length = n ∧
        ∀ i, i < n → ∃ (e : EngCmd) (h : FillOp), es[i]? = some e ∧ e.op = .fill h ∧ e.ctx = c ∧ e.seq = s.cc.seq + i ∧
          h.stat.t.base = g.stat.t.base + BitVec.ofInt 32 (i * (word 1).toInt) ∧ h.strm.t.base = g.strm.t.base + BitVec.ofInt 32 (i * (word 2).toInt) ∧
          h.c0.imm = g.c0.imm + BitVec.ofInt 64 (8 * (i * ((word 0).extractLsb' 20 12).toInt)) ∧ h.k = g.k ∧ h.m = g.m ∧ h.n = g.n ∧
          h.stat.t.stride = g.stat.t.stride ∧ h.target = g.target

/-- R323 to R328 and R331. That all elements but the last are processed at issue is the model's choice (log entry 1). -/
def Obligations.ApplyStepsEveryElement : Prop :=
  (∀ (c : EngCmd) (o : ApplyOp) (s : State), s.AtHead 21 c → c.op = .apply o → applyHeld s o = false → applyChk s o = none →
    (applyCount o = 0 → exec .updateApply s = .next (s.issued 21 c)) ∧
    (applyCount o ≠ 0 → ∃ (t : State) (r : ApplyRun), exec .updateApply s = .next t ∧ t.upd = some r ∧ r.cmd = c ∧ r.op = o ∧ r.next + 1 = applyCount o ∧
      r.k = s.reg 0x45024 ∧ r.c1 = bits32 (biasFactor (in32 (oWord o.b1)).1 ((s.ctr 0x45008).toNat + 1)) ∧
      r.c2 = bits32 (biasFactor (in32 (oWord o.b2)).1 ((s.ctr 0x45008).toNat + 1)) ∧ (o.opt = .trustGiven → r.rho = oWord o.rho) ∧
      r.skip = (o.skipOnNf && s.regBit 0x45010 0) ∧ SameMemOff ((applyPairs o).map fun p => (plainT p.2).t) s t ∧ (applyWrites o = false → t.mem = s.mem) ∧
      t.vec = s.vec ∧ t.slots = s.slots ∧ t.cc.queues = (s.issued 21 c).cc.queues ∧ t.cc.p = s.cc.p)) ∧
  (∀ (r : ApplyRun) (s : State), s.Clocked → s.upd = some r → applyWrites r.op = true → r.next < applyCount r.op →
    (∀ p ∈ applyPairs r.op, p.2.t.rows = r.op.p.t.rows ∧ p.2.t.cols = r.op.p.t.cols) →
    ∃ t : State, exec .updateApplyComplete s = .next t ∧ t.upd = none ∧ SameMemOff ((applyPairs r.op).map fun p => (plainT p.2).t) s t ∧
      t.vec = s.vec ∧ t.slots = s.slots ∧ t.cc.queues = s.cc.queues ∧
      (r.skip = true → t.flags 6 = s.flags 6 ∧ t.ctr 0x45030 = s.ctr 0x45030 ∧ t.ctr 0x45040 = s.ctr 0x45040) ∧
      (r.skip = false →
        let g := (updEl s r.op.g (r.next / r.op.p.t.cols.toNat) (r.next % r.op.p.t.cols.toNat)).1
        (g.nonfinite = true → (t.flags 6).getLsbD 3 = true ∧ t.ctr 0x45040 = (if s.frozen 0x45040 then s.ctr 0x45040 else s.ctr 0x45040 + 1)) ∧
        (g.nonfinite = false → t.ctr 0x45030 = (if s.frozen 0x45030 then s.ctr 0x45030 else s.ctr 0x45030 + 1)))) ∧
  (∀ (r : ApplyRun) (s : State), s.Clocked → s.upd = some r → applyWrites r.op = false →
    ∃ t : State, exec .updateApplyComplete s = .next t ∧ t.upd = none ∧ t.mem = s.mem ∧ t.slots = s.slots ∧ t.cc = s.cc ∧
      (∀ m, m ≠ r.op.sumP.toNat → m ≠ r.op.sumD.toNat → t.sum m = s.sum m) ∧ (r.skip = true → t = { s with upd := none }) ∧
      (r.skip = false → let nf := ((trustSweep s r).filter Prod.fst).length
        t.ctr 0x45040 = (if s.frozen 0x45040 then s.ctr 0x45040 else s.ctr 0x45040 + w64 nf) ∧ (0 < nf → (t.flags 6).getLsbD 3 = true))) ∧
  (∀ (h : UpdPar) (x : UpdIn),
    let m := (fpAdd (fpMul h.mu x.m.1).1 (fpMul x.g.1 h.k).1).1
    (updStep .sgdm h x).2.1.1 = m ∧ (updStep .sgdm h x).1.1 = (fpSub x.p.1 (fpMul h.lr (fpAdd m (fpMul h.wd x.p.1).1).1).1).1) ∧
  ∀ (h : UpdPar) (x : UpdIn),
    let g := (fpMul x.g.1 h.k).1
    let m := (fpAdd (fpMul h.b1 x.m.1).1 (fpMul (fpSub xOne h.b1).1 g).1).1
    let v := (fpAdd (fpMul h.b2 x.v.1).1 (fpMul (fpMul (fpSub xOne h.b2).1 g).1 g).1).1
    let u := (fpDiv (fpMul m h.c1).1 (fpAdd (fpSqrt (fpMul v h.c2).1).1 h.eps).1).1
    (updStep .adamw h x).2.1.1 = m ∧ (updStep .adamw h x).2.2.1 = v ∧
      (updStep .adamw h x).1.1 = (fpSub x.p.1 (fpMul h.lr (fpAdd u (fpMul h.wd x.p.1).1).1).1).1

/-- R329, R330 and R332. -/
def Obligations.StepRecordsReduceAndEnd : Prop :=
  (∀ (c : EngCmd) (i : BitVec 4) (a : Opd) (s : State), s.AtHead 21 c → c.op = .record i a → s.evalMode = false → opdBad a = false →
    i ≠ 15 → (s.sum i.toNat).kind = 2 → oVal a % 16 = 0 → s.inTiers (oVal a) 16 = true →
    ∃ t : State, exec .updateRecord s = .next t ∧
      t.dword (oVal a) = w64 (2 ^ 60 + (if s.vec.nonfinite = true ∨ (val64 (s.sum i.toNat).val).nonfinite = true then 1 else 0)) ∧
      t.dword (oVal a + 8) = (s.sum i.toNat).val ∧ SameMemOutside (oVal a) 16 s t ∧ SameRegsBut [0x04000] s t ∧ t.vec = s.vec ∧
      t.cc.queues = (s.issued 21 c).cc.queues) ∧
  (∀ (c : EngCmd) (b n mx : Opd) (p : Option (BitVec 3)) (s : State), s.AtHead 21 c → c.op = .reduce b n mx p → s.evalMode = false →
    opdBad b = false → opdBad n = false → opdBad mx = false → maxNormBad (oWord mx) = false → 1 ≤ oVal n → oVal n ≤ 65536 →
    oVal b % 16 = 0 → s.inTiers (oVal b) (16 * oVal n) = true →
    (badRecord s (oVal b) (oVal n) = none →
      let g := (reduceRecords s (oVal b) (oVal n)).2
      let nf := (reduceRecords s (oVal b) (oVal n)).1 || g.nonfinite
      let k := clipOf nf g (val32 (oWord mx)) s.lsLog2
      ∃ t : State, exec .updateReduce s = .next t ∧ t.regBit 0x45010 0 = nf ∧ t.ctr 0x45018 = bits64 g ∧ t.reg 0x45020 = bits32 k.1 ∧ t.reg 0x45024 = bits32 k.2 ∧
        (∀ j, 0 < j → j < 32 → t.regBit 0x45010 j = s.regBit 0x45010 j) ∧ SameRegsBut [0x45010, 0x45020, 0x45024, 0x04000] s t ∧
        (∀ q, t.pred q = if p = some q then nf else s.pred q) ∧ t.mem = s.mem ∧ t.cc.queues = (s.issued 21 c).cc.queues ∧ t.slots = s.slots) ∧
    (∀ i, badRecord s (oVal b) (oVal n) = some i →
      exec .updateReduce s = .next ((s.touchBy (c.reader 4 21) (oVal b) (16 * (i + 1))).reject 21 c { code := 0x300D, cond := 1, unit := 8, d0 := w32 i }))) ∧
  (∀ (g mx : XVal) (ls : Int), clipOf true g mx ls = (xOne, (rne32 (xOne.mul (.fin (Ex.pow2 (-ls))))).1)) ∧
  (∀ (c : EngCmd) (slot : Option (BitVec 10)) (s : State), s.AtHead 21 c → c.op = .endStep slot → s.evalMode = false → (∀ n, slot = some n → n.toNat ≤ 255) →
    -126 ≤ s.lsLog2 → -126 ≤ s.lsMin →
    ∃ u : State, exec .updateEnd s = .next u.endTrigger ∧
      (s.regBit 0x45010 0 = true → u.lsLog2 = max (s.lsLog2 - 1) s.lsMin ∧ u.regFld 0x45004 16 16 = 0 ∧ u.regBit 0x45010 1 = true ∧ u.ctr 0x45008 = s.ctr 0x45008 ∧
        u.ctr 0x45048 = (if s.frozen 0x45048 then s.ctr 0x45048 else s.ctr 0x45048 + 1) ∧ (s.lsLog2 ≤ s.lsMin → u.regBit 0x45010 3 = true)) ∧
      (s.regBit 0x45010 0 = false → u.ctr 0x45008 = s.ctr 0x45008 + 1 ∧ u.regBit 0x45010 1 = false ∧
        (if s.regFld 0x45000 16 16 ≠ 0 ∧ s.regFld 0x45004 16 16 + 1 = s.regFld 0x45000 16 16
         then u.lsLog2 = min (s.lsLog2 + 1) s.lsMax ∧ u.regFld 0x45004 16 16 = 0
         else u.lsLog2 = s.lsLog2 ∧ u.regFld 0x45004 16 16 = (s.regFld 0x45004 16 16 + 1) % 65536)) ∧
      u.regBit 0x45010 0 = s.regBit 0x45010 0 ∧ SameRegsBut [0x45004, 0x45010, 0x04000] s u ∧ u.mem = s.mem ∧
      (∀ k, slot.map BitVec.toNat ≠ some k → u.slot k = s.slot k) ∧ (∀ n, slot = some n → -126 ≤ u.lsLog2 → u.lsLog2 ≤ 126 →
        (u.slot n.toNat).enc = bits32 (.fin (Ex.pow2 u.lsLog2)) ∧ (u.slot n.toNat).dec = bits32 (.fin (Ex.pow2 (-u.lsLog2)))))

/-- R333, R334, R337 and R338. -/
def Obligations.BucketsLaunchOnceAndModeSwitches : Prop :=
  (∀ (c : EngCmd) (b : BitVec 8) (s : State), s.AtHead 21 c → s.evalMode = false → b.toNat ≤ 63 → s.regBit (0x46000 + 0x10 * b.toNat) 31 = true →
    let o := 0x46000 + 0x10 * b.toNat
    let a := (s.reg (o + 4)).toNat
    let size := s.regFld o 0 9 * 2 ^ 20
    s.wordChk a = none → s.readWord a 1 = .ok false (s.word a) →
    (∀ n : Opd, c.op = .bktAccount b n → opdBad n = false → (s.reg (o + 8)).toNat + oVal n < 2 ^ 32 →
      let f := (s.reg (o + 8)).toNat + oVal n
      ∃ t : State, exec .bucketAccount s = .next t ∧ (t.reg (o + 8)).toNat = f ∧
        (if size ≤ f ∧ s.regBit (o + 12) 0 = false then t.word a = s.word a + 1 ∧ t.regBit (o + 12) 0 = true ∧ SameMemOutside a 8 s t else t.mem = s.mem ∧ t.regBit (o + 12) 0 = s.regBit (o + 12) 0) ∧
        (size < f → t.regBit (o + 12) 1 = true ∧ (s.logs.errs.length < 512 → ∃ e, t.logs.errs = s.logs.errs ++ [e] ∧ e.code = 0x300B)) ∧
        (f ≤ size → t.logs.errs = s.logs.errs ∧ t.regBit (o + 12) 1 = s.regBit (o + 12) 1) ∧
        SameRegsBut [o + 8, o + 12, 0x04000] s t ∧ t.cc.queues = (s.issued 21 c).cc.queues) ∧
    (c.op = .bktFlush b → ∃ t : State, exec .bucketFlush s = .next t ∧ t.regBit (o + 12) 0 = true ∧ t.reg (o + 8) = s.reg (o + 8) ∧
      (if s.regBit (o + 12) 0 = false then t.word a = s.word a + 1 ∧ SameMemOutside a 8 s t ∧
          t.ctr 0x45050 = (if s.frozen 0x45050 then s.ctr 0x45050 else s.ctr 0x45050 + 1) else t = s.issued 21 c) ∧
      SameRegsBut [o + 12, 0x04000] s t) ∧
    (c.op = .bktReset b → ∃ t : State, exec .bucketReset s = .next t ∧ t.reg (o + 8) = 0 ∧ t.regBit (o + 12) 0 = false ∧
      t.regBit (o + 12) 1 = s.regBit (o + 12) 1 ∧ SameRegsBut [o + 8, o + 12] s t ∧ t = { s.issued 21 c with regs := t.regs })) ∧
  (∀ (c : EngCmd) (b : BitVec 8) (s : State), s.AtHead 21 c → s.evalMode = false → b.toNat ≤ 63 → s.regBit (0x46000 + 0x10 * b.toNat) 31 = false →
    c.op = .bktFlush b → exec .bucketFlush s = .next (s.reject 21 c { code := 0x3005, cond := 3, d0 := w32 b.toNat })) ∧
  ∀ (c : EngCmd) (e : Bool) (s : State), s.AtHead 21 c → c.op = .mode e → ∃ t : State, exec .mode s = .next t ∧ t.evalMode = e ∧
    (∀ j, j ≠ 8 → t.regBit 0x45010 j = s.regBit 0x45010 j) ∧ SameRegsBut [0x45010] s t ∧
    t = { s.issued 21 c with regs := t.regs, logs := t.logs, ctrs := t.ctrs } ∧ t.sys = s.sys

/-- R257, R264 to R269, R272, R284 and R305: from issue to completion. -/
def Obligations.TransfersIssuePlaceAndComplete : Prop :=
  (∀ (c : EngCmd) (n : BitVec 6) (desc : Opd) (param : Option Opd) (bank : List Tile) (ch : BitVec 4) (s : State), s.AtHead ch.toNat c →
    c.op = .dma n desc param bank → s.inService = true →
    (∀ x ∈ s.xfersOf ch.toNat, x.placed = true ∧ (x.guard ≠ 0 ∨ s.guardTx x.desc = false ∨ dstLocal x.kind = true)) →
    n.toNat ≤ 15 → opdBad desc = false → (∀ p, param = some p → opdBad p = false) → s.inTiers (oVal desc) 128 = true →
    oVal desc % 128 = 0 → s.poisonedIn (oVal desc) 128 = false →
    let d := s.le (oVal desc) 128
    let u := s.touchBy (c.reader 7 ch.toNat) (oVal desc) 128
    let pv := match param with | some p => oVal p | none => 0
    let src := getAt Tile.zero bank (dSrcTile d)
    let dst := getAt Tile.zero bank (dDstTile d)
    let sAddr := if srcLocal (dKind d) then (src.base.toNat + dSrcAddr d) % 2 ^ 32
      else (dSrcAddr d + pv) % (if dKind d = 3 then 2 ^ 32 else 2 ^ 64)
    let dAddr := if dstLocal (dKind d) then (dst.base.toNat + dDstAddr d) % 2 ^ 32
      else (dDstAddr d + pv) % (if dKind d = 4 then 2 ^ 32 else 2 ^ 64)
    (∀ k, s.descCond bank d = some k →
      exec (.dma ch) s = .next (u.reject ch.toNat c { code := 0x1004, cond := k, unit := 9, d0 := w32 (oVal desc) })) ∧
    (s.descCond bank d = none →
      (∀ r, s.xferChk src dst sAddr dAddr d = some r → exec (.dma ch) s = .next (u.reject ch.toNat c r)) ∧
      (s.xferChk src dst sAddr dAddr d = none → dCount d 0 ≠ 0 → dRuns d ≠ 0 → s.fillRuns = [] → s.draining = none →
        (dCvu d = true → s.cvuHold (dCtx d) ≠ .free → exec (.dma ch) s = .next u) ∧
        ((dCvu d = true → s.cvuHold (dCtx d) = .free) →
          ∃ (t : State) (x : Xfer), exec (.dma ch) s = .next t ∧ t.xfersOf ch.toNat = s.xfersOf ch.toNat ++ [x] ∧ x.cmd = c ∧ x.ch = ch.toNat ∧
            x.desc = d ∧ x.kind = dKind d ∧ x.sAddr = sAddr ∧ x.dAddr = dAddr ∧ x.enc = encOf s (dSlot d) ∧ x.seed = s.genSeed ∧ x.step = s.genStep ∧
            x.run = 0 ∧ x.off = 0 ∧ x.outst = [] ∧ x.err = none ∧ x.fault = none ∧
            (dCvu d = true → t.cvuHold (dCtx d) = .xfer ch.toNat c.seq) ∧
            t.mem = s.mem ∧ t.slots = s.slots ∧ t.vec = s.vec ∧ t.cc.queues = (s.issued ch.toNat c).cc.queues)))) ∧
  (∀ (ch : BitVec 4) (x : Xfer) (s : State), s.Places ch.toNat x → x.placed = false → x.kind = 2 → dTrans x.desc = false →
    dAddrStream x.desc = false → (dVer x.desc = true → x.ver0.isSome = true) →
    ∃ (t : State) (y : Xfer), exec (.dmaRequestPlace ch) s = .next t ∧ y ∈ t.xfersOf ch.toNat ∧ y.cmd = x.cmd ∧ y.desc = x.desc ∧ y.run = x.run + 1 ∧
      y.doneBits = x.doneBits + dDw x.desc * dCount x.desc 0 ∧
      (∀ a, (a < x.dstAt x.run ∨ x.dstAt x.run + (dDw x.desc * dCount x.desc 0 + 7) / 8 ≤ a) →
        (specContainer (dConv x.desc) = 0 ∨ ∀ e, e < dCount x.desc 0 → a ≠ x.dst.scaleBase.toNat + (x.run * dCount x.desc 0 + e) / x.dstBlk) →
        t.byte a = s.byte a) ∧ t.vec = s.vec ∧ t.cc = { s.cc with valid0 := t.cc.valid0, valid1 := t.cc.valid1 }) ∧
  (∀ (ch : BitVec 4) (x x' : Xfer) (i ep route pa g : Nat) (s u : State), s.Places ch.toNat x → x.placed = false → x.stream = some i →
    dAddrStream x.desc = false → (dVer x.desc = true → x.ver0.isSome = true) → s.straddles x.ch < 1024 →
    (x.kind = 0 ∨ x.kind = 3 →
      let a := if x.kind = 3 then (x.srcAt x.run + x.off) % 2 ^ 32 else (x.srcAt x.run + x.off) % 2 ^ 64
      let n := min (dSrcBytes x.desc - x.off) (64 - a % 64)
      s.reach (if x.kind = 3 then some (nfld (dSrcAddr x.desc) 32 13) else none) a false true x = (.to ep route pa g x', u) →
      s.windowTakes g 1 = true → s.rdRoom ep route = true →
      ∃ (t : State) (y : Xfer) (q : Req), exec (.dmaRequestPlace ch) s = .next t ∧ y ∈ t.xfersOf ch.toNat ∧ y.cmd = x.cmd ∧ y.outst = x.outst ++ [q] ∧
        q.group = g ∧ q.run = x.run ∧ q.off = x.off ∧ q.len = n ∧ q.what = 0 ∧
        (if dSrcBytes x.desc ≤ x.off + n then y.run = x.run + 1 ∧ y.off = 0 else y.run = x.run ∧ y.off = x.off + n) ∧
        t.dma.outstanding = s.dma.outstanding + 1 ∧ t.ctr 0x50200 = (if s.frozen 0x50200 then s.ctr 0x50200 else s.ctr 0x50200 + 1) ∧
        t.mem = s.mem ∧ t.regs = s.regs ∧ t.slots = s.slots ∧ t.cc = s.cc ∧ t.vec = s.vec) ∧
    (x.kind = 1 ∨ x.kind = 4 →
      let v := (x.dstAt x.run + x.off) % (if x.kind = 4 then 2 ^ 32 else 2 ^ 64)
      let whole := packetLen x (x.srcAt x.run) x.off s.payload s.payload
      let n := if x.kind = 1 ∧ s.regBit 0x50030 0 = false then min whole (4096 - v % 4096) else whole
      let lines := packetLines x (x.srcAt x.run) x.off n
      s.reach (dstPeer x) v true true x = (.to ep route pa g x', u) → s.windowTakes g lines.length = true →
      s.canPlace (if x.kind = 1 then 0 else 1) (if x.kind = 1 then 0 else 2) 2 = true → s.canPlace (if x.kind = 1 then 0 else 1) (if x.kind = 1 then 0 else 2) 1 = true →
      ∃ (t : State) (y : Xfer) (l : List Req), exec (.dmaRequestPlace ch) s = .next t ∧ y ∈ t.xfersOf ch.toNat ∧ y.cmd = x.cmd ∧ y.outst = x.outst ++ l ∧
        l.length = lines.length ∧ (l.map Req.len).sum = n ∧
        (if dDstBytes x.desc ≤ x.off + n then y.run = x.run + 1 ∧ y.off = 0 else y.run = x.run ∧ y.off = x.off + n) ∧
        t.dma.outstanding = s.dma.outstanding + lines.length ∧
        t.ctr 0x50210 = (if s.frozen 0x50210 then s.ctr 0x50210 else s.ctr 0x50210 + w64 n) ∧
        t.mem = s.mem ∧ t.cc = s.cc ∧ t.vec = s.vec)) ∧
  (∀ (ch : BitVec 4) (s : State), s.Clocked → s.inService = false → (∀ x ∈ s.xfersOf ch.toNat, x.kind ≠ 2) →
    exec (.dmaRequestPlace ch) s = .next s) ∧
  ∀ (ch : BitVec 4) (x : Xfer) (s : State), s.Clocked → (s.xfersOf ch.toNat).find? (fun x => s.xferReady x) = some x → x.ch = ch.toNat →
    s.guardTx x.desc = false → s.guardRx x.desc = false → x.guard < 3 →
    (dVer x.desc = true → x.remoteSrc = true) →
    (x.stale = true → dStaleHalt x.desc = true → ∃ (t v : State), exec (.dmaComplete ch) s = .next t ∧ t.mem = s.mem ∧ v.mem = s.mem ∧
      t = v.rejectLate ch.toNat x.cmd { code := 0x1003, cond := 1, unit := 9, d0 := w32 (x.stream.getD 0xFFFFF) } ∧
      v.ctr 0x50230 = (if s.frozen 0x50230 then s.ctr 0x50230 else s.ctr 0x50230 + 1) ∧ v.regBit (0x50100 + 4 * ch.toNat) 17 = true ∧
      v.xfersOf ch.toNat = (s.xfersOf ch.toNat).filter (fun e => e.cmd.seq != x.cmd.seq)) ∧
    (x.stale = false ∨ dStaleHalt x.desc = false →
      (dSig x.desc = false → ∃ t : State, exec (.dmaComplete ch) s = .next t ∧ t.regFld (0x50100 + 4 * ch.toNat) 0 16 = x.cmd.tag.toNat ∧
        (x.poisoned = true → t.regBit (0x50100 + 4 * ch.toNat) 18 = true) ∧ (x.stale = true → t.regBit (0x50100 + 4 * ch.toNat) 17 = true) ∧
        t.xfersOf ch.toNat = (s.xfersOf ch.toNat).filter (fun e => e.cmd.seq != x.cmd.seq) ∧ (∀ i, x.stream = some i → t.stream i = .free) ∧
        SameRegsBut [0x50100 + 4 * ch.toNat] s t ∧ t.mem = s.mem ∧ t.slots = s.slots ∧ t.cc = s.cc) ∧
      (dSig x.desc = true → dstLocal x.kind = true → dSigOp x.desc = 1 → s.wordChk (dSigAddr x.desc) = none →
        s.readWord (dSigAddr x.desc) 1 = .ok false (s.word (dSigAddr x.desc)) →
        ∃ t : State, exec (.dmaComplete ch) s = .next t ∧ t.word (dSigAddr x.desc) = s.word (dSigAddr x.desc) + w32 (dSigValue x.desc) ∧
          SameMemOutside (dSigAddr x.desc) 8 s t ∧ t.regFld (0x50100 + 4 * ch.toNat) 0 16 = x.cmd.tag.toNat ∧
          t.xfersOf ch.toNat = (s.xfersOf ch.toNat).filter (fun e => e.cmd.seq != x.cmd.seq)))

/-- R272, R274, R279 to R282 and R286. -/
def Obligations.ResponsesFaultsAndTimeoutsEndTransfers : Prop :=
  (∀ (lane : BitVec 3) (f : Flit) (s u : State), s.Receives lane.toNat 5 f u → s.sys.straps.portGen = false →
    let v := f.hdr.toNat / 2 ^ 64
    let i := nfld v 44 20
    let la := nfld v 12 32
    let st := nfld v 8 4
    let len := nfld v 1 6 + 1
    nfld v 7 1 = 1 → i ≠ 0xFFFFF →
    (s.stream i = .free → ∃ t : State, exec (.dmaResponse lane) s = .next t ∧ t.ctr 0x50258 = (if s.frozen 0x50258 then s.ctr 0x50258 else s.ctr 0x50258 + 1) ∧
      (s.logs.errs.length < 512 → ∃ e, t.logs.errs = s.logs.errs ++ [e] ∧ e.code = 0x1009) ∧ t.mem = s.mem ∧ t.dma = s.dma ∧ t.cc = s.cc ∧
      SameRegsBut [0x04000] s t) ∧
    (∀ ch x q, s.Streams ch i x → x.answers la len = some q → x.timedOut = false → q.what = 0 → x.err = none →
      (2 ≤ st → x.outst ≠ [q] → ∃ (t : State) (y : Xfer), exec (.dmaResponse lane) s = .next t ∧ y ∈ t.xfersOf ch ∧ y.cmd = x.cmd ∧ y.outst = x.outst.erase q ∧
        y.err = some (if 5 ≤ st then 4 else st) ∧ t.dma.outstanding = s.dma.outstanding - 1 ∧ t.mem = s.mem ∧ t.regs = s.regs ∧ t.cc = s.cc) ∧
      (st = 0 → x.remoteSrc = false → ∃ (t : State) (y : Xfer), exec (.dmaResponse lane) s = .next t ∧ y ∈ t.xfersOf ch ∧ y.cmd = x.cmd ∧ y.outst = x.outst.erase q ∧
        y.doneBits = x.doneBits + 8 * q.len ∧ y.err = none ∧ t.dma.outstanding = s.dma.outstanding - 1 ∧ t.mem = s.mem ∧ t.regs = s.regs ∧ t.logs = s.logs) ∧
      (st = 0 → x.remoteSrc = true → ∃ (t : State) (y : Xfer), exec (.dmaResponse lane) s = .next t ∧ y ∈ t.xfersOf ch ∧ y.cmd = x.cmd ∧ y.outst = x.outst.erase q ∧
        y.err = none ∧ t.dma.outstanding = s.dma.outstanding - 1 ∧
        ∀ a, (a < x.dstAt q.run ∨ x.dstAt q.run + (dDw x.desc * dCount x.desc 0 + 7) / 8 ≤ a) →
          (specContainer (dConv x.desc) = 0 ∨ ∀ e, e < dCount x.desc 0 → a ≠ x.dst.scaleBase.toNat + (q.run * dCount x.desc 0 + e) / x.dstBlk) →
          t.byte a = s.byte a))) ∧
  (∀ (ch i : Nat) (x : Xfer) (s : State), s.Streams ch i x →
    (x.outst ≠ [] → x.timedOut = false → ∃ (t : State) (y : Xfer), exec (.dmaTimeout i) s = .next t ∧
      t = { s with dma := { s.dma with xfers := t.dma.xfers } } ∧ y ∈ t.xfersOf ch ∧ y.cmd = x.cmd ∧ y.timedOut = true ∧ y.err = some (x.err.getD 3) ∧ y.outst = x.outst) ∧
    (x.timedOut = true → x.err = some 3 → ∃ (t v : State), exec (.streamQuarantineExpire i) s = .next t ∧ v.mem = s.mem ∧ v.cc = s.cc ∧
      t = v.rejectLate ch x.cmd { code := 0x1005, cond := 1, unit := 9, d0 := w32 i, d1 := 3 } ∧ v.stream i = .free ∧
      v.xfersOf ch = (s.xfersOf ch).filter (fun e => e.cmd.seq != x.cmd.seq) ∧ v.dma.outstanding = s.dma.outstanding - x.outst.length ∧
      v.regBit (0x50100 + 4 * ch) 19 = true ∧ SameRegsBut [0x50100 + 4 * ch] s v) ∧
    (x.fault.isSome = true → x.outst = [] → x.recorded = false → x.err = none → i ∉ s.dma.faults →
      (s.faultSlot = none → exec (.pageFault i) s = .next { s with dma := { s.dma with faults := s.dma.faults ++ [i] } }) ∧
      (∀ tail, s.faultSlot = some tail → ∃ (t : State) (y : Xfer), exec (.pageFault i) s = .next t ∧ y ∈ t.xfersOf ch ∧ y.cmd = x.cmd ∧ y.recorded = true ∧
        y.fault = x.fault ∧ t.word s.faultBase = tail + 1 ∧
        t.bytes (s.faultBase + 0x40 + 64 * (tail.toNat % s.faultSize)) 64 = faultRecord x s.aclk ∧
        (∀ a, (a < s.faultBase ∨ s.faultBase + 8 ≤ a) → (a < s.faultBase + 0x40 + 64 * (tail.toNat % s.faultSize) ∨
          s.faultBase + 0x40 + 64 * (tail.toNat % s.faultSize) + 64 ≤ a) → t.byte a = s.byte a) ∧
        t.ctr 0x50228 = (if s.frozen 0x50228 then s.ctr 0x50228 else s.ctr 0x50228 + 1) ∧ t.regBit 0x04000 1 = true ∧ SameRegsBut [0x04000] s t)) ∧
    (x.fault.isSome = true → (∀ rest tail, s.dma.faults = i :: rest → s.faultSlot = some tail →
      ∃ (t : State) (y : Xfer), exec .faultRecordWrite s = .next t ∧ t.dma.faults = rest ∧ y ∈ t.xfersOf ch ∧ y.cmd = x.cmd ∧ y.recorded = true ∧
        t.word s.faultBase = tail + 1 ∧ t.bytes (s.faultBase + 0x40 + 64 * (tail.toNat % s.faultSize)) 64 = faultRecord x s.aclk) ∧
      (∀ rest, s.dma.faults = i :: rest → s.faultSlot = none → exec .faultRecordWrite s = .next s) ∧
      (∀ w : BitVec 20, w.toNat = i →
        (∃ (t : State) (y : Xfer), exec (.streamResume w) s = .next t ∧ y ∈ t.xfersOf ch ∧ y = { x with fault := none, recorded := false, chunk := none, xwait := none } ∧
          i ∉ t.dma.faults ∧ t = { s with dma := t.dma } ∧ t.dma.streams = s.dma.streams ∧ t.dma.outstanding = s.dma.outstanding) ∧
        ∃ (t v : State), exec (.streamAbort w) s = .next t ∧ t = v.rejectLate ch x.cmd { code := 0x1002, cond := 2, unit := 9, d0 := w32 i, d1 := w32 x.nextRemote.1, d2 := w32 (x.nextRemote.1 / 2 ^ 32) } ∧
          v.stream i = .free ∧ v.xfersOf ch = (s.xfersOf ch).filter (fun e => e.cmd.seq != x.cmd.seq) ∧ i ∉ v.dma.faults ∧ v.mem = s.mem ∧ v.regs = s.regs ∧ v.cc = s.cc))) ∧
  (∀ (i : Nat) (o : SyncOp) (s : State), s.Clocked → s.stream i = .sync o → o.timedOut = false → o.what = 0 →
    (o.cmd.isSome = true → (s.queue o.q).wait ≠ .sent i → ∃ t : State, exec (.dmaTimeout i) s = .next t ∧ t.stream i = .sync { o with timedOut := true } ∧ t.mem = s.mem ∧ t.cc = s.cc) ∧
    ∀ c, o.cmd = some c → (s.queue o.q).wait = .sent i → ∃ (t v : State), exec (.dmaTimeout i) s = .next t ∧ t.stream i = .sync { o with timedOut := true } ∧
      v.cc = s.cc ∧ v.mem = s.mem ∧ v.logs = s.logs ∧ t.cc = (v.reject o.q c { code := 0x1005, cond := 1, unit := 9, d0 := w32 i, d1 := 3 }).cc ∧ t.mem = s.mem) ∧
  (∀ (i : Nat) (o : SyncOp) (s : State), s.Clocked → s.stream i = .sync o → o.timedOut = true →
    exec (.streamQuarantineExpire i) s = .next ((s.setStream i .free).windowSub o.group 1)) ∧
  (∀ (i : BitVec 20) (s t : State), s.Clocked → (∀ ch, s.stream i.toNat ≠ .xfer ch) → t = s.raise { code := 0x100A, unit := 9, d0 := w32 i.toNat } →
    exec (.streamResume i) s = .next t ∧ exec (.streamAbort i) s = .next t) ∧
  ∀ (ch : Nat) (i : BitVec 20) (x : Xfer) (s t : State), s.Streams ch i.toNat x → (s.xfersOf ch).filter (fun e => e.stream == some i.toNat) = [x] → x.fault = none →
    t = s.raise { code := 0x100A, unit := 9, tag := x.cmd.tag, index := x.ch, thread := ctxNum x.cmd.ctx, d0 := w32 i.toNat } →
    exec (.streamResume i) s = .next t ∧ exec (.streamAbort i) s = .next t

/-- R278, R279, R392 and R256. -/
def Obligations.TranslationsFillAndInvalidate : Prop :=
  (∀ s : State, s.Clocked → exec .atcInvAll s = .next { s with dma := { s.dma with atc := [] } }) ∧
  (∀ (lane : BitVec 3) (f : Flit) (s u : State), s.Receives lane.toNat 9 f u →
    (∀ vpn, s.dma.xids.find? (fun x => x.1 == hfld f.hdr 70 6) = some (hfld f.hdr 70 6, vpn) → hfld f.hdr 66 4 = 0 → f.hdr.getLsbD 63 = true → f.hdr.getLsbD 62 = true →
      ∃ t : State, exec (.xrespReceive lane) s = .next t ∧ (∀ v, (hfld f.hdr 70 6, v) ∉ t.dma.xids) ∧
        t.dma.atc = (if 4096 ≤ s.dma.atc.length then s.dma.atc.drop 1 else s.dma.atc) ++
          [⟨vpn, hfld f.hdr 64 2, hfld f.hdr 76 52, true, true, BitVec.ofNat 16 (s.regFld 0x50030 16 16)⟩] ∧
        t.mem = s.mem ∧ t.regs = s.regs ∧ t.dma.xfers = s.dma.xfers ∧ t.cc = s.cc ∧ t.logs = s.logs) ∧
    (∀ vpn x, s.dma.xids.find? (fun e => e.1 == hfld f.hdr 70 6) = some (hfld f.hdr 70 6, vpn) → 1 ≤ hfld f.hdr 66 4 → s.waiters (hfld f.hdr 70 6) = [x] → x ∈ s.xfersOf x.ch →
      (∀ q, q < 23 → (s.queue q).wait ≠ .xlate (hfld f.hdr 70 6)) → s.sync.barWait ≠ some (hfld f.hdr 70 6) → s.flacon.wxid ≠ some (hfld f.hdr 70 6) →
      ∃ t : State, exec (.xrespReceive lane) s = .next t ∧
        (hfld f.hdr 66 4 = 2 → x.waitsData = true → { x with fault := some false, xwait := none } ∈ t.xfersOf x.ch ∧ t.regs = s.regs) ∧
        (hfld f.hdr 66 4 ≠ 2 → x.outst ≠ [] → { x with err := some (x.err.getD (if hfld f.hdr 66 4 = 3 then 3 else 4)), xwait := none } ∈ t.xfersOf x.ch ∧ t.regs = s.regs) ∧
        t.dma.atc = s.dma.atc ∧ t.mem = s.mem) ∧
    (s.dma.xids.find? (fun x => x.1 == hfld f.hdr 70 6) = none → exec (.xrespReceive lane) s = .next (u.flitInvalid lane.toNat))) ∧
  (∀ (i : BitVec 6) (x : Xfer) (s : State), s.Clocked → s.dma.xids.any (fun e => e.1 == i.toNat) = true → s.waiters i.toNat = [x] → x ∈ s.xfersOf x.ch → x.outst ≠ [] →
    (∀ q, q < 23 → (s.queue q).wait ≠ .xlate i.toNat) → s.sync.barWait ≠ some i.toNat → s.flacon.wxid ≠ some i.toNat →
    ∃ t : State, exec (.xreqTimeout i) s = .next t ∧ (∀ v, (i.toNat, v) ∉ t.dma.xids) ∧ { x with err := some (x.err.getD 3), xwait := none } ∈ t.xfersOf x.ch ∧
      t = { s with dma := t.dma } ∧ t.dma.atc = s.dma.atc ∧ t.dma.streams = s.dma.streams) ∧
  (∀ (i : BitVec 6) (s : State), s.Clocked → s.dma.xids.any (fun e => e.1 == i.toNat) = false → exec (.xreqTimeout i) s = .next s) ∧
  (∀ (lane : BitVec 3) (f : Flit) (s u : State), s.Receives lane.toNat 10 f u →
    (hfld f.hdr 58 2 = 3 → exec (.xinvReceive lane) s = .next (u.flitInvalid lane.toNat)) ∧
    (hfld f.hdr 58 2 ≠ 3 → ∃ t : State, exec (.xinvReceive lane) s = .next t ∧
      t.dma.atc = s.dma.atc.filter (fun e => !(hfld f.hdr 58 2 == 2 || (e.ctxId.toNat == hfld f.hdr 60 16 && (hfld f.hdr 58 2 == 1 || covers e (hfld f.hdr 76 52))))) ∧
      t.mem = s.mem ∧ t.regs = s.regs ∧ t.dma.xids = s.dma.xids ∧ t.cc = s.cc)) ∧
  (∀ s : State, s.Clocked → s.regBit 0x50040 0 = false → exec .scrubRead s = .next s) ∧
  ∀ s : State, s.Clocked → s.regBit 0x50040 0 = true → s.sys.straps.tier = false → s.dma.scrubNear < 262144 → s.poisonedIn (64 * s.dma.scrubNear) 64 = false →
    ∃ t : State, exec .scrubRead s = .next t ∧ t.dma.scrubNear = s.dma.scrubNear + 1 ∧ t.mem = s.mem ∧ t.eccBad = s.eccBad ∧
      (∀ e ∈ t.eccCorr, ¬ (e < 64 * s.dma.scrubNear + 64 ∧ 64 * s.dma.scrubNear < e + eccSize e)) ∧ t.regs = s.regs ∧ t.cc = s.cc

/-- R388, R389, R393 to R395 and R397. -/
def Obligations.LanesReplayTrainAndDeliver : Prop :=
  (∀ (lane : BitVec 3) (f : Flit) (s : State), s.Clocked →
    let i := lane.toNat
    let n := s.inLane i
    let bad := f.hpar ≠ flitHpar f.hdr ∨ f.lpar ≠ flitLpar f.link ∨ f.bad = true ∨ f.link.extractLsb' 28 8 ≠ n.expect
    (n.up = false → exec (.linkFlitReceive lane f) s = .next s) ∧
    (n.dropping = true → f.link.extractLsb' 28 8 ≠ n.expect → linkOp f.link ≠ 0 → exec (.linkFlitReceive lane f) s = .next s) ∧
    (n.up = true → n.down = false → linkOp f.link ≠ 0 →
      (¬ bad → ∃ t : State, exec (.linkFlitReceive lane f) s = .next t ∧
        (t.inLane i).rx = (if s.malformed i f = true then n.rx else n.rx ++ [f]) ∧ (t.inLane i).expect = n.expect + 1 ∧ (t.inLane i).dropping = false ∧
        (t.inLane i).naks = 0 ∧ t.ctr 0xA0108 = (if s.frozen 0xA0108 then s.ctr 0xA0108 else s.ctr 0xA0108 + 1) ∧
        t.ctr 0xA0128 = (if s.frozen 0xA0128 ∨ s.malformed i f = false then s.ctr 0xA0128 else s.ctr 0xA0128 + 1) ∧
        t.mem = s.mem ∧ t.dma = s.dma ∧ t.cc = s.cc ∧ SameRegsBut [0x04000] s t) ∧
      (bad → (n.dropping = false ∨ f.link.extractLsb' 28 8 = n.expect) →
        (n.naks + 1 < s.replayMax → exec (.linkFlitReceive lane f) s =
          .next ((s.setInLane i { n with dropping := true, naks := n.naks + 1, nak := true }).count 0xA0118 1)) ∧
        (s.replayMax ≤ n.naks + 1 → ∃ t : State, exec (.linkFlitReceive lane f) s = .next t ∧ (t.inLane i).down = true ∧ (t.inLane i).up = false ∧
          (t.inLane i).rx = n.rx ∧ (s.logs.errs.length < 512 → ∃ e, t.logs.errs = s.logs.errs ++ [e] ∧ e.code = 0x6001) ∧ t.mem = s.mem ∧ t.dma = s.dma ∧ t.cc = s.cc)))) ∧
  (∀ (lane : BitVec 3) (s : State), s.Clocked →
    let i := lane.toNat
    let o := s.outLane i
    (o.replay = [] → exec (.linkAckTimeout lane) s = .next s) ∧
    (o.replay ≠ [] → o.down = false → (∀ f ∈ o.replay, f.resent < s.replayMax) →
      exec (.linkAckTimeout lane) s = .next (((s.setOutLane i { o with replay := againAll (s.inLane i) o.replay }).setInLane i
        { s.inLane i with nak := false }).count 0xA0110 o.replay.length)) ∧
    (o.down = false → (∃ f ∈ o.replay, s.replayMax ≤ f.resent) → ∃ t : State, exec (.linkAckTimeout lane) s = .next t ∧
      t.outLane i = { OutLane.init with down := true } ∧ (s.logs.errs.length < 512 → ∃ e, t.logs.errs = s.logs.errs ++ [e] ∧ e.code = 0x6001) ∧
      SameRegsBut [0x04000] s t ∧ t.mem = s.mem ∧ t.dma = s.dma) ∧
    ∀ (a : Byte) r, afterSeq a o.replay = some r → r ≠ [] → o.down = false → (∀ f ∈ r, f.resent < s.replayMax) → s.port.outQ = [] →
      ∃ t : State, exec (.linkNakReceive lane a) s = .next t ∧ t.outLane i = { o with replay := againAll (s.inLane i) r } ∧
        t.inLane i = { s.inLane i with nak := false } ∧ (∀ j, j ≠ i → t.outLane j = s.outLane j ∧ t.inLane j = s.inLane j) ∧
        t.ctr 0xA0110 = (if s.frozen 0xA0110 then s.ctr 0xA0110 else s.ctr 0xA0110 + w64 r.length) ∧
        t = { s with port := t.port, ctrs := t.ctrs }) ∧
  (∀ (n : InLane) (f : SentFlit), flitSeq (f.again n) = flitSeq f ∧ (f.again n).hdr = f.hdr ∧ (f.again n).pay = f.pay ∧
    (f.again n).lpar = flitLpar (f.again n).link ∧ (f.again n).link.getLsbD 19 = n.nak ∧ (f.again n).link.extractLsb' 20 8 = n.expect - 1 ∧
    (f.again n).resent = f.resent + 1) ∧
  (∀ s : State, s.Clocked →
    (s.port.state = 1 ∨ s.port.state = 2 → exec .portEnable s = .next s) ∧
    (s.port.state = 0 ∨ s.port.state = 3 →
      (s.splitOk = false → exec .portEnable s = .next (State.raise { code := 0x6002, unit := 13, d0 := s.reg 0xA0010 } { s with port := { s.port with state := 3 } })) ∧
      (s.splitOk = true → (s.port.fclk < 1450 ∨ 2550 < s.port.fclk) →
        exec .portEnable s = .next (State.raise { code := 0x6006, unit := 13, d0 := w32 s.port.fclk } { s with port := { s.port with state := 3 } })) ∧
      (s.splitOk = true → 1450 ≤ s.port.fclk → s.port.fclk ≤ 2550 → exec .portEnable s = .next { s with port := { s.port with state := 1 } }))) ∧
  (∀ (lane : BitVec 3) (s u : State), s.Clocked → s.port.state = 1 → lane.toNat < s.lanes →
    let i := lane.toNat
    let settled := fun (v : State) => ∀ j, j < s.lanes → ((v.outLane j).up = true ∨ (v.outLane j).down = true) ∧ ((v.inLane j).up = true ∨ (v.inLane j).down = true)
    ((s.inLane i).up = false → (s.inLane i).down = false →
      (u = s.setInLane i { InLane.init with up := true } → ∃ t : State, exec (.laneTrained true lane) s = .next t ∧ (t.inLane i).up = true ∧
        (settled u → t.port.state = 2) ∧ (¬ settled u → t = u) ∧ t.mem = s.mem ∧ t.dma = s.dma ∧ t.cc = s.cc ∧ t.regs = s.regs) ∧
      (u = s.setInLane i { InLane.init with down := true } → ∃ t : State, exec (.laneTrainFailed true lane) s = .next t ∧ (t.inLane i).down = true ∧
        (settled u → t.port.state = 2) ∧ (¬ settled u → t.port.state = 1) ∧ (s.logs.errs.length < 512 → ∃ e, t.logs.errs = s.logs.errs ++ [e] ∧ e.code = 0x6004) ∧
        t.mem = s.mem ∧ t.dma = s.dma ∧ t.cc = s.cc ∧ SameRegsBut [0x04000] s t)) ∧
    ((s.outLane i).up = false → (s.outLane i).down = false →
      (u = s.setOutLane i { OutLane.init with up := true } → ∃ t : State, exec (.laneTrained false lane) s = .next t ∧ (t.outLane i).up = true ∧
        (settled u → t.port.state = 2) ∧ (¬ settled u → t = u) ∧ t.mem = s.mem ∧ t.dma = s.dma ∧ t.cc = s.cc ∧ t.regs = s.regs) ∧
      (u = s.setOutLane i { OutLane.init with down := true } → ∃ t : State, exec (.laneTrainFailed false lane) s = .next t ∧ (t.outLane i).down = true ∧
        (settled u → t.port.state = 2) ∧ (¬ settled u → t.port.state = 1) ∧ (s.logs.errs.length < 512 → ∃ e, t.logs.errs = s.logs.errs ++ [e] ∧ e.code = 0x6004) ∧
        t.mem = s.mem ∧ t.dma = s.dma ∧ t.cc = s.cc ∧ SameRegsBut [0x04000] s t))) ∧
  ∀ (mhz : BitVec 12) (s : State), s.Served →
    let out := (s.port.state = 1 ∨ s.port.state = 2) ∧ (mhz.toNat < 1450 ∨ 2550 < mhz.toNat)
    ∃ t u : State, exec (.fclkMeasure mhz) s = .next t ∧ u = { s with port := u.port } ∧ u.port = { s.port with fclk := mhz.toNat, fclkOut := u.port.fclkOut } ∧
      (u.port.fclkOut = true ↔ out) ∧ (out ∧ s.port.fclkOut = false → t = u.raise { code := 0x6006, unit := 13, d0 := w32 mhz.toNat }) ∧
      (¬ (out ∧ s.port.fclkOut = false) → t = u)

/-- R30, R31, R275, R305 to R307, R310, R343, R386, R387, R390 and R391. -/
def Obligations.InboundWritesReadsAndSignals : Prop :=
  (∀ (lane : BitVec 3) (f : Flit) (s u : State), s.Receives lane.toNat 1 f u →
    (∃ t : State, exec (.rdReqReceive lane) s = .next t ∧ t.mem = s.mem ∧ t.cc = s.cc ∧ t.dma.xfers = s.dma.xfers ∧ t.slots = s.slots) ∧
    (hfld f.hdr 124 4 = 1 →
      let v := recordOf f 0
      let a := nfld v 64 32
      let n := nfld v 5 6 + 1
      (s.windowServes false a n = true → exec (.rdReqReceive lane) s = .next ((u.touch 8 a n).respond (linkEp f.link) (nfld v 44 20)
        (if s.poisonedIn a n then 1 else 0) [(nfld v 12 32, n)] (s.bytes a n))) ∧
      (s.windowServes false a n = false → exec (.rdReqReceive lane) s = .next (u.respond (linkEp f.link) (nfld v 44 20) 4 [(nfld v 12 32, n)] [])))) ∧
  (∀ (lane : BitVec 3) (f : Flit) (s u : State), s.Receives lane.toNat 3 f u →
    let ep := linkEp f.link
    let stream := hfld f.hdr 108 20
    let a := hfld f.hdr 76 32
    let total := hfld f.hdr 0 48
    let len := nfld f.link.toNat 4 7 + 1
    let sig := f.link.getLsbD 11
    (sig = false → s.windowServes true a len = true → len ≤ f.pay.length → ∃ t : State, exec (.rwrReceive lane) s = .next t ∧
      t.bytes a len = f.pay.take len ∧ SameMemOutside a len s t ∧ SameRegsBut [0x04000] s t ∧ t.dma.streams = s.dma.streams ∧ t.slots = s.slots ∧ t.vec = s.vec ∧
      t.cc.queues = s.cc.queues ∧ (f.link.getLsbD 12 = true → ∀ k, k < len → t.poisonedAt (a + k) = true)) ∧
    (sig = false → s.windowServes true a len = false → ∃ t : State, exec (.rwrReceive lane) s = .next t ∧ t.mem = s.mem ∧ t.dma.streams = s.dma.streams ∧ t.cc = s.cc ∧ SameRegsBut [0x04000] s t) ∧
    (sig = true → total = 0 → ∃ t : State, exec (.rwrReceive lane) s = .next t ∧ t.mem = s.mem ∧ t.dma = s.dma ∧ t.cc = s.cc ∧ t.regs = s.regs ∧
      (f.link.getLsbD 13 = true → (t.inLane lane.toNat).held = some (ep, stream, 0, [(64 * hfld f.hdr 50 26, len)]))) ∧
    (sig = true → total ≠ 0 → s.fenced = false → s.windowServes true a len = true →
      (∀ n i, s.ledgerOf ep stream = some (n, i) → i.ledger + len ≤ i.bytes → ∃ t : State, exec (.rwrReceive lane) s = .next t ∧
        t.stream n = .inbound { i with ledger := i.ledger + len } ∧ SameMemOutside a len s t ∧ (∀ m, m ≠ n → t.stream m = s.stream m)) ∧
      (∀ n i, s.ledgerOf ep stream = some (n, i) → i.bytes < i.ledger + len → ∃ t : State, exec (.rwrReceive lane) s = .next t ∧
        t.stream n = .free ∧ SameMemOutside a len s t ∧ t.ctr 0x60350 = (if s.frozen 0x60350 then s.ctr 0x60350 else s.ctr 0x60350 + 1)) ∧
      (s.ledgerOf ep stream = none → s.freeInbound = none → exec (.rwrReceive lane) s = .next s) ∧
      (∀ n, s.ledgerOf ep stream = none → s.freeInbound = some n → len ≤ total → ∃ t : State, exec (.rwrReceive lane) s = .next t ∧
        t.stream n = .inbound ⟨ep, stream, total, len, none, []⟩ ∧ SameMemOutside a len s t))) ∧
  (∀ (lane : BitVec 3) (f : Flit) (s u : State) (ep stream total : Nat) (slots : List (Nat × Nat)), s.Receives lane.toNat 4 f u →
    (u.inLane lane.toNat).held = some (ep, stream, total, slots) →
    let a := hfld f.hdr 60 32
    let v := w32 (hfld f.hdr 92 32)
    (∀ k i, total ≠ 0 → s.ledgerOf ep stream = some (k, i) → i.ledger ≠ i.bytes → ∃ t : State, exec (.sigxReceive lane) s = .next t ∧
      t.stream k = .inbound { i with sig := some (hfld f.hdr 124 4, v, a), ack := slots } ∧ t.mem = s.mem ∧ t.regs = s.regs ∧
      t.ctr 0x60308 = (if s.frozen 0x60308 then s.ctr 0x60308 else s.ctr 0x60308 + 1)) ∧
    (hfld f.hdr 124 4 = 1 → s.fenced = false → s.wordChk a = none → s.readWord a 1 = .ok false (s.word a) →
      (∀ k i, total ≠ 0 → s.ledgerOf ep stream = some (k, i) → i.ledger = i.bytes → ∃ t : State, exec (.sigxReceive lane) s = .next t ∧
        t.stream k = .free ∧ t.word a = s.word a + v ∧ SameMemOutside a 8 s t) ∧
      (total = 0 → ∃ t : State, exec (.sigxReceive lane) s = .next t ∧ t.word a = s.word a + v ∧ SameMemOutside a 8 s t ∧ t.dma.streams = s.dma.streams))) ∧
  (∀ (n : Nat) (i : Inbound) (s : State), s.Clocked → s.stream n = .inbound i →
    (∃ t : State, exec (.ledgerAbandoned n) s = .next t ∧ t.stream n = .free ∧ (∀ m, m ≠ n → t.stream m = s.stream m) ∧
      (s.logs.errs.length < 512 → ∃ e, t.logs.errs = s.logs.errs ++ [e] ∧ e.code = 0x2006 ∧ e.d0 = w32 i.ep ∧ e.d1 = w32 i.stream ∧ e.d2 = w32 i.ledger) ∧
      t.ctr 0x60350 = (if s.frozen 0x60350 then s.ctr 0x60350 else s.ctr 0x60350 + 1) ∧ t.mem = s.mem ∧ t.cc = s.cc ∧ SameRegsBut [0x04000] s t) ∧
    (i.ledger ≠ i.bytes ∨ i.sig = none → exec (.ledgerSignalApply n) s = .next s) ∧
    (∀ (op : Nat) (v : Word) (a : Nat) sem c, i.ledger = i.bytes → i.sig = some (op, v, a) → s.fenced = false → s.wordChk a = none → s.readWord a op = .ok sem c →
      ∃ t : State, exec (.ledgerSignalApply n) s = .next t ∧ t.stream n = .free ∧ t.word a = (newCount op sem c v).1 ∧ SameMemOutside a 8 s t ∧
        t.ctr 0x60300 = (if s.frozen 0x60300 then s.ctr 0x60300 else s.ctr 0x60300 + 1))) ∧
  (∀ (lane : BitVec 3) (f : Flit) (s u : State), s.Receives lane.toNat 6 f u →
    let op := hfld f.hdr 124 4
    let a := hfld f.hdr 28 64
    ((s.wordChk a).isSome = true ∨ (s.fenced = true ∧ s.inRings a 8 = false) →
      ∃ t : State, exec (.syncFlitReceive lane) s = .next t ∧ t.mem = s.mem ∧ t.logs = s.logs ∧ t.regs = s.regs ∧ t.cc = s.cc) ∧
    (∀ sem c, s.wordChk a = none → s.fenced = false → s.readWord a op = .ok sem c → ∃ t : State, exec (.syncFlitReceive lane) s = .next t ∧
      t.word a = (newCount op sem c (w32 (hfld f.hdr 92 32))).1 ∧ SameMemOutside a 8 s t ∧ t.cc.queues = s.cc.queues ∧ t.dma.streams = s.dma.streams)) ∧
  (∀ (e len : Nat) (s : State), 0 < len → len ≤ 128 → ((s.ackSlots e len).1.map Prod.snd).sum = len ∧
    (len = 128 → s.sys.straps.portGen = true → e % 2 = 0 → (s.ackSlots e len).1 = [(64 * e, 64), (64 * e + 64, 64)])) ∧
  ∀ (lane : BitVec 3) (f : Flit) (s u : State), s.Receives lane.toNat 7 f u →
    let a := s.releaseAddr (hfld f.hdr 124 4)
    let g := w32 (hfld f.hdr 92 32)
    (s.fenced = true → exec (.barFlitReceive lane) s = .next u) ∧
    (∀ c, s.fenced = false → s.wordChk a = none → s.readWord a 6 = .ok false c → ∃ t : State, exec (.barFlitReceive lane) s = .next t ∧
      t.word a = (if 0 < signed32 (g + 1 - c) then g + 1 else c) ∧ SameMemOutside a 8 s t ∧ t.regs = s.regs ∧ t.cc.queues = s.cc.queues)

/-- R295 to R297 and R301 to R303. -/
def Obligations.WaitsHoldUntilTheirWordIsReady : Prop :=
  (∀ (q op : Nat) (c : EngCmd) (cmd : Instr) (a v : Opd) (p : Bool) (s : State), s.AtHead q c →
    ((op = 4 ∧ c.op = .wait a v p ∧ cmd = .wait q) ∨ (op = 5 ∧ c.op = .take a v p ∧ cmd = .take q)) → (s.queue q).wait = .none →
    (q ≤ 15 → s.queueQuiet q = true) → opdBad a = false → opdBad v = false →
    (∀ r, s.wordChk (oVal a) = some r → exec cmd s = .next (s.reject q c r)) ∧
    (s.wordChk (oVal a) = none →
      (∀ k, s.readWord (oVal a) op = .invalid k →
        exec cmd s = .next ((s.touchBy (c.reader 11 q) (oVal a) 8).reject q c { code := 0x2004, cond := k, unit := 10, d0 := w32 (oVal a), d1 := w32 op, d2 := 0 })) ∧
      (∀ sem n, s.readWord (oVal a) op = .ok sem n → ready sem n (oWord v) = true → ∃ t : State, exec cmd s = .next t ∧
        t.cc.queues = (s.issued q c).cc.queues ∧ (op = 4 → t.mem = s.mem) ∧ (op = 5 → t.word (oVal a) = n - oWord v ∧ SameMemOutside (oVal a) 8 s t) ∧
        t.regs = s.regs ∧ t.logs = s.logs ∧ t.slots = s.slots) ∧
      (∀ sem n, s.readWord (oVal a) op = .ok sem n → ready sem n (oWord v) = false → ∃ t : State, exec cmd s = .next t ∧ t.headCmd q = some c ∧
        (∀ i, s.freeWatch = some i → (t.queue q).wait = .watched i ∧ t.watch i = ⟨1, q, w32 (oVal a), oWord v, sem, 0, s.sync.began, false⟩) ∧
        (s.freeWatch = none → (t.queue q).wait = .polling ∧
          t.sync.polls = s.sync.polls ++ [⟨q, w32 (oVal a), oWord v, sem, s.sync.began⟩] ∧
          t.ctr 0x60328 = (if s.frozen 0x60328 then s.ctr 0x60328 else s.ctr 0x60328 + 1)) ∧
        t.mem = s.mem ∧ t.regs = s.regs ∧ t.logs = s.logs))) ∧
  (∀ (n : Byte) (s : State), s.Clocked → (s.watch n.toNat).dirty = false → exec (.watchWake n) s = .next s) ∧
  (∀ (q op : Nat) (c : EngCmd) (a v : Opd) (p sem : Bool) (k : Word) (s : State), s.Clocked → q ≠ 27 → s.headCmd q = some c → waitOf c.op = some (a, v, op, p) →
    s.wordChk (oVal a) = none → s.readWord (oVal a) op = .ok sem k →
    (∀ n : Byte, (s.watch n.toNat).dirty = true → (s.watch n.toNat).owner = 1 → (s.watch n.toNat).party = q →
      (∀ e ∈ s.sync.watch, e.2.dirty = true → e.2.addr = (s.watch n.toNat).addr → (s.watch n.toNat).since ≤ e.2.since) →
      (ready sem k (oWord v) = false →
        exec (.watchWake n) s = .next ((s.setWatch n.toNat { s.watch n.toNat with dirty := false }).touchBy (c.reader 11 q) (oVal a) 8)) ∧
      (ready sem k (oWord v) = true → ∃ t : State, exec (.watchWake n) s = .next t ∧ t.cc.queues = (s.issued q c).cc.queues ∧
        (∀ m, ¬ ((t.watch m).owner = 1 ∧ (t.watch m).party = q)) ∧ (op = 4 → t.mem = s.mem) ∧
        (op = 5 → t.word (oVal a) = k - oWord v ∧ SameMemOutside (oVal a) 8 s t) ∧ t.regs = s.regs)) ∧
    (∀ o : Poll, s.sync.polls.find? (fun e => e.party == q) = some o →
      (ready sem k (oWord v) = true → ∃ t : State, exec (.waitPoll q) s = .next t ∧ t.cc.queues = (s.issued q c).cc.queues ∧
        (∀ e ∈ t.sync.polls, e.party ≠ q) ∧ (op = 4 → t.mem = s.mem) ∧ t.regs = s.regs) ∧
      (ready sem k (oWord v) = false →
        (s.freeWatch = none → exec (.waitPoll q) s = .next ((s.count 0x60320 1).touchBy (c.reader 11 q) (oVal a) 8)) ∧
        (∀ i, s.freeWatch = some i → (∀ e ∈ s.sync.polls, o.since ≤ e.since) → ∃ t : State, exec (.waitPoll q) s = .next t ∧ (t.queue q).wait = .watched i ∧
          t.watch i = ⟨1, q, o.addr, o.target, o.sem, 0, o.since, false⟩ ∧ (∀ e ∈ t.sync.polls, e.party ≠ q) ∧ t.mem = s.mem ∧ t.regs = s.regs ∧ t.headCmd q = some c)))) ∧
  (∀ (n : Byte) (s : State), s.Clocked → (s.watch n.toNat).dirty = true → (s.watch n.toNat).owner = 2 →
    (s.armedHolds (s.watch n.toNat) = false →
      exec (.watchWake n) s = .next ((s.setWatch n.toNat { s.watch n.toNat with dirty := false }).armedRead (s.watch n.toNat))) ∧
    (s.armedHolds (s.watch n.toNat) = true → ∃ t : State, exec (.watchWake n) s = .next t ∧ t.watch n.toNat = Watch.free ∧
      t.regBit 0x60020 (s.watch n.toNat).hostsig.toNat = true ∧ SameRegsBut [0x60020] s t ∧ t.mem = s.mem ∧ t.cc = s.cc)) ∧
  (∀ s : State, s.Clocked →
    let w : Watch := ⟨2, 0, s.reg 0x60030, s.reg 0x60034, s.regBit 0x60038 20, (s.reg 0x60038).extractLsb' 24 5, s.sync.began, false⟩
    (s.freeWatch = none → ∃ t : State, exec .watchArm s = .next t ∧ t = { s with regs := t.regs } ∧ t.regBit 0x6003C 31 = true ∧ SameRegsBut [0x6003C] s t) ∧
    (∀ i, s.freeWatch = some i → ∃ t : State, exec .watchArm s = .next t ∧ t.reg 0x6003C = w32 i ∧
      (s.armedHolds w = false → t.watch i = w ∧ SameRegsBut [0x6003C, 0x04000] s t) ∧
      (s.armedHolds w = true → t.sync = s.sync ∧ t.regBit 0x60020 w.hostsig.toNat = true ∧ SameRegsBut [0x6003C, 0x60020] s t) ∧
      t.mem = s.mem ∧ t.cc = s.cc ∧ t.dma.xfers = s.dma.xfers ∧ t.slots = s.slots)) ∧
  ∀ (n : Byte) (s : State), s.Clocked →
    ((s.watch n.toNat).owner = 2 → exec (.watchCancel n) s = .next (s.setWatch n.toNat Watch.free)) ∧
    ((s.watch n.toNat).owner ≠ 2 → exec (.watchCancel n) s = .next s)

/-- R293, R296, R298, R308 to R311, R314, R315, R317, R318 and R401. -/
def Obligations.SignalsBarriersAndTimeoutsAct : Prop :=
  (∀ (q op h : Nat) (c : EngCmd) (cmd : Instr) (f : Form) (a v : Opd) (s : State), s.AtHead q c →
    ((op = 1 ∧ cmd = .signal q ∧ ((∃ k : BitVec 5, c.op = .signal f a v (some k) ∧ h = k.toNat) ∨ (c.op = .signal f a v none ∧ h = 32))) ∨
      (op = 2 ∧ cmd = .dec q ∧ c.op = .dec f a v ∧ h = 32)) →
    s.queueQuiet q = true → opdBad a = false → opdBad v = false →
    (f = .loc → s.wordChk (oVal a) = none →
      (∀ sem n, s.readWord (oVal a) op = .ok sem n → ∃ t : State, exec cmd s = .next t ∧ t.word (oVal a) = (newCount op sem n (oWord v)).1 ∧
        SameMemOutside (oVal a) 8 s t ∧ t.cc.queues = (s.issued q c).cc.queues ∧ (h < 32 → t.regBit 0x60020 h = true) ∧
        SameRegsBut (if h < 32 then [0x60020, 0x04000] else [0x04000]) s t ∧
        t.logs.raised = s.logs.raised + (if (newCount op sem n (oWord v)).2 = none then 0 else 1)) ∧
      (∀ k, s.readWord (oVal a) op = .invalid k →
        exec cmd s = .next ((s.touchBy (c.reader 11 q) (oVal a) 8).reject q c { code := 0x2004, cond := k, unit := 10, d0 := w32 (oVal a), d1 := w32 op, d2 := 0 }))) ∧
    (f ≠ .loc → (s.queue q).wait = .none →
      (∀ r, s.syncTo (f == .fabric) a.imm = .bad r → exec cmd s = .next (s.reject q c r)) ∧
      (∀ ep route addr g i, s.syncTo (f == .fabric) a.imm = .to ep route addr g → s.freeStream = some i → s.windowTakes g 1 = true →
        ∃ t : State, exec cmd s = .next t ∧ (t.queue q).wait = .sent i ∧ t.headCmd q = some c ∧ t.stream i = .sync ⟨0, q, h, some c, g, false, 0⟩ ∧
          t.dma.outstanding = s.dma.outstanding + 1 ∧ t.mem = s.mem ∧ t.regs = s.regs ∧ t.logs = s.logs))) ∧
  (∀ (q : Nat) (c : EngCmd) (b : BitVec 4) (s : State), s.AtHead q c → c.op = .arrive b → s.queueQuiet q = true → (s.queue q).wait = .none →
    let cfg := s.reg (0x60100 + 0x20 * b.toNat)
    let g := s.reg (0x60114 + 0x20 * b.toNat)
    let m := (mk64 (s.reg (0x60108 + 0x20 * b.toNat)) (s.reg (0x60104 + 0x20 * b.toNat))).toNat
    let rel := s.releaseAddr b.toNat
    (∀ r, s.barChk b.toNat = some r → exec (.arrive q) s = .next (s.reject q c r)) ∧
    (∀ n, s.barChk b.toNat = none → fld cfg 28 3 = 0 → s.wordChk m = none → s.readWord m 3 = .ok false n →
      (n + 1 ≠ (g + 1) * w32 (fld cfg 0 16 + 1) → ∃ t : State, exec (.arrive q) s = .next t ∧ t.word m = n + 1 ∧ SameMemOutside m 8 s t ∧
        t.reg (0x60114 + 0x20 * b.toNat) = g + 1 ∧ SameRegsBut [0x60114 + 0x20 * b.toNat] s t ∧ t.cc.queues = (s.issued q c).cc.queues ∧
        t.ctr 0x60330 = (if s.frozen 0x60330 then s.ctr 0x60330 else s.ctr 0x60330 + 1)) ∧
      (∀ k, n + 1 = (g + 1) * w32 (fld cfg 0 16 + 1) → s.wordChk rel = none → s.readWord rel 6 = .ok false k → (rel + 8 ≤ m ∨ m + 8 ≤ rel) →
        ∃ t : State, exec (.arrive q) s = .next t ∧ t.word m = n + 1 ∧ t.word rel = (if 0 < signed32 (g + 1 - k) then g + 1 else k) ∧
          (∀ x, (x < m ∨ m + 8 ≤ x) → (x < rel ∨ rel + 8 ≤ x) → t.byte x = s.byte x) ∧ t.reg (0x60114 + 0x20 * b.toNat) = g + 1 ∧
          t.cc.queues = (s.issued q c).cc.queues ∧ t.ctr 0x60338 = (if s.frozen 0x60338 then s.ctr 0x60338 else s.ctr 0x60338 + 1))) ∧
    (s.barChk b.toNat = none → fld cfg 28 3 = 3 → ∃ t : State, exec (.arrive q) s = .next t ∧
      (s.sync.lineReq = false → s.sync.lineAck = false → t.sync.lineReq = true ∧ t.sync.lineGen = g ∧ t.sync.lineNext = s.sync.lineNext) ∧
      (s.sync.lineReq = true ∨ s.sync.lineAck = true → t.sync.lineReq = s.sync.lineReq ∧ t.sync.lineGen = s.sync.lineGen ∧
        t.sync.lineNext = s.sync.lineNext ++ [g]) ∧ t.mem = s.mem ∧ t.reg (0x60114 + 0x20 * b.toNat) = g + 1 ∧ SameRegsBut [0x60114 + 0x20 * b.toNat] s t ∧
      t.cc.queues = (s.issued q c).cc.queues)) ∧
  (∀ (l : Bool) (s : State), s.Clocked →
    (l = true ∨ s.sync.lineNext = [] → exec (.barArriveAck l) s = .next { s with sync := { s.sync with lineAck := l, lineReq := s.sync.lineReq && !l } }) ∧
    (∀ g rest, l = false → s.sync.lineNext = g :: rest →
      exec (.barArriveAck l) s = .next { s with sync := { s.sync with lineAck := false, lineNext := rest, lineReq := true, lineGen := g } })) ∧
  (∀ (g : Word) (s : State), s.Clocked →
    (s.fenced = true → exec (.barRelTgl g) s = .next s) ∧
    (∀ k, s.fenced = false → s.wordChk (s.releaseAddr 0) = none → s.readWord (s.releaseAddr 0) 6 = .ok false k → ∃ t : State, exec (.barRelTgl g) s = .next t ∧
      t.word (s.releaseAddr 0) = (if 0 < signed32 (g + 1 - k) then g + 1 else k) ∧ SameMemOutside (s.releaseAddr 0) 8 s t ∧ t.regs = s.regs ∧ t.cc.queues = s.cc.queues)) ∧
  (∀ s : State, s.Clocked →
    (s.deadlocked = false ∨ s.reg 0x60008 = 0 ∨ s.regBit 0x60010 8 = true → exec .deadlock s = .next s) ∧
    (s.deadlocked = true → s.reg 0x60008 ≠ 0 → s.regBit 0x60010 8 = false → ∃ t : State, exec .deadlock s = .next t ∧
      t.reg 0x60010 = w32 (0x100 + (s.blocked.take 32).length) ∧ t.ctr 0x61600 = s.aclk ∧
      (∀ k b, (s.blocked.take 32)[k]? = some b → t.reg (0x61400 + 16 * k) = b.head ∧ t.reg (0x61404 + 16 * k) = b.addr ∧
        t.reg (0x61408 + 16 * k) = b.target ∧ t.reg (0x6140C + 16 * k) = b.count) ∧
      (s.logs.errs.length < 512 → ∃ e, t.logs.errs = s.logs.errs ++ [e] ∧ e.code = 0x2002) ∧ t.regBit 0x04000 1 = true ∧
      (∀ o, o ≠ 0x60010 → o ≠ 0x04000 → (o < 0x61400 ∨ 0x61600 ≤ o) → t.reg o = s.reg o) ∧ t.mem = s.mem ∧ t.cc = s.cc ∧ t.sync = s.sync)) ∧
  (∀ s : State, s.Clocked → ∃ t : State, exec .dlRearm s = .next t ∧ t = { s with regs := t.regs } ∧ t.regBit 0x60010 8 = false ∧
    (∀ j, j ≠ 8 → t.regBit 0x60010 j = s.regBit 0x60010 j) ∧ SameRegsBut [0x60010] s t) ∧
  ∀ (party : Nat) (s : State), s.Clocked →
    (s.partnerWait party = none ∨ s.regFld 0x60000 0 6 = 0 ∨ party ∈ s.sync.timedOut → exec (.partnerTimeout party) s = .next s) ∧
    (∀ a v tag, s.partnerWait party = some (a, v, tag) → s.regFld 0x60000 0 6 ≠ 0 → party ∉ s.sync.timedOut → ∃ t : State, exec (.partnerTimeout party) s = .next t ∧
      t.sync = { s.sync with timedOut := party :: s.sync.timedOut } ∧ t.ctr 0x60348 = (if s.frozen 0x60348 then s.ctr 0x60348 else s.ctr 0x60348 + 1) ∧
      (s.logs.errs.length < 512 → ∃ e, t.logs.errs = s.logs.errs ++ [e] ∧ e.code = 0x2003 ∧ e.tag = tag ∧ e.index = party ∧ e.d0 = a ∧ e.d1 = v ∧ e.d2 = s.word a.toNat) ∧
      t.regBit 0x04000 1 = true ∧ SameRegsBut [0x04000] s t ∧ t.mem = s.mem ∧ t.cc = s.cc)

/-- R347 to R352 and R361 to R364. -/
def Obligations.SnapshotsDrainAndRestoresRecover : Prop :=
  (∀ (p : Packet) (s : State), s.Served → s.mgmt.cur = some p → p.op = 0x11 →
    (s.flaconBusy = true → exec .snapshotBegin s = .next (s.snapSkip.refuse p 1).takeMail) ∧
    (s.flaconBusy = false →
      let g := s.reg 0x8000C + 1
      let pub := (s.reg 0x80010).toNat
      let rec' := s.regBit 0x80004 15 = true
      ∃ (u : State) (n : SnapRun), exec .snapshotBegin s = .next (u.accept p (plainDeferred p) [g]).takeMail ∧ u.reg 0x8000C = g ∧ u.flacon.snap = some n ∧
        n.g = g ∧ n.live = s.flacon.live ∧ n.step = s.ctr 0x45008 ∧ n.byOp = true ∧ n.chunk = 0 ∧ n.bad = false ∧
        (∀ i, i ∈ n.todo ↔ i < 4096 ∧ eValid (s.entry i) = true) ∧
        (∃ one two, n.todo = one ++ two ∧ (∀ i ∈ one, eSingle (s.entry i) = true) ∧ ∀ i ∈ two, eSingle (s.entry i) = false) ∧
        (∀ a, (rec' → a < s.stateBase ∨ s.stateBase + recordLen ≤ a) → (a < pub ∨ pub + 8 ≤ a) → u.byte a = s.byte a) ∧
        (s.wordChk pub = none → s.readWord pub 1 = .ok false (s.word pub) → (rec' → s.stateBase + recordLen ≤ pub ∨ pub + 8 ≤ s.stateBase) → u.word pub = g) ∧
        u.slots = s.slots ∧ u.cc.queues = s.cc.queues ∧ u.ctr 0x45008 = s.ctr 0x45008)) ∧
  (∀ (r : Remote) (n : SnapRun) (i c : Nat) (tl : List Nat) (v s : State), s.Clocked → s.flacon.snap = some n → n.todo = i :: tl →
    (s.flPump.flWriting = true → exec (.flaconChunkDrain r) s = .next s.flPump) ∧
    (s.flWriting = false → s.inService = true → s.flaconTake = some (c, v) → s.flacon.wbad = [] →
      let e := s.entry i
      let k := chunkAt e n.chunk
      let a := eOwn e (bit n.live) + k.1
      let d : DWord := w64 (crc64.of (s.bytes a k.2))
      let pl := formPlace (eParForm e) (ePar e (n.g.toNat % 2) + k.1)
      eValid e = true → n.man = 0 → n.chunk < eChunks e → n.chunk + 1 < eChunks e + eParChunks e →
      (∀ h, n.held = some h → ∃ t : State, exec (.flaconChunkDrain r) s = .next t ∧ t.mem = s.mem ∧
        t.flacon.snap = some { n with chunk := n.chunk + 1, recs := n.recs ++ [h], entryBad := n.entryBad || (h.2.1 || h.2.2.1), held := none }) ∧
      (n.held = none → eBufForm e = 0 → s.inTiers a k.2 = true → s.poisonedIn a k.2 = false →
        (eMethod e ≠ 2 → ∃ t : State, exec (.flaconChunkDrain r) s = .next t ∧ t.mem = s.mem ∧ t.slots = s.slots ∧ t.cc = s.cc ∧
          t.flacon.snap = some { n with chunk := n.chunk + 1, recs := n.recs ++ [(d, false, false, k.2)] }) ∧
        (eMethod e = 2 → eParForm e ≠ 0 → (pl.1 = fabricGt ∨ (s.route pl.1).isSome = true) →
          let ps := flPackets s.payload n.chunk pl.1 (fun o m => s.poisonedIn o m) k.2 pl.2 a (s.bytes a k.2)
          (ps.map FlWrite.bytes).flatten = s.bytes a k.2 ∧ ∃ (t : State) (sent : List FlWrite), exec (.flaconChunkDrain r) s = .next t ∧ t.mem = s.mem ∧
            t.slots = s.slots ∧ t.cc = s.cc ∧ t.flacon.snap = some { n with held := some (d, false, false, k.2) } ∧ ps = sent ++ t.flacon.wr ∧
            t.flacon.wout.map Req.len = sent.flatMap fun w => (flLines w.src w.bytes.length).map Prod.snd)))) ∧
  (∀ (r : Remote) (timedOut : Bool) (n : SnapRun) (i j : Nat) (tl : List Nat) (s : State), s.Clocked → s.inService = true → s.flacon.snap = some n →
    n.todo = i :: tl →
    let e := s.entry i
    eMethod e = 1 → (List.range (eK e + 2)).find? (fun j => j ≠ eRank e && !n.seen.contains j && !n.late.contains j) = some j →
    (∀ bs, (s.route (eGt e + j)).isSome = true → remoteRead r (eGt e + j) (s.reg 0x80010).toNat 8 = some (bs, false) →
      counterOk (w64 (leNat bs)) = true → reached (lo32 (w64 (leNat bs))) n.g = true →
      exec (.parityPubPoll r timedOut) s = .next { s with flacon := { s.flacon with snap := some { n with seen := n.seen ++ [j] } } }) ∧
    (remoteRead r (eGt e + j) (s.reg 0x80010).toNat 8 = none →
      (timedOut = false → exec (.parityPubPoll r timedOut) s = .next s) ∧
      (timedOut = true → ∃ t : State, exec (.parityPubPoll r timedOut) s = .next t ∧ t.flacon.snap = some { n with late := n.late ++ [j], entryBad := true } ∧
        (s.logs.errs.length < 512 → ∃ x, t.logs.errs = s.logs.errs ++ [x] ∧ x.code = 0x9006) ∧ t.mem = s.mem ∧ t.cc = s.cc ∧ SameRegsBut [0x04000] s t))) ∧
  (∀ (n : SnapRun) (s : State), s.Clocked → s.flacon.snap = some n → n.todo = [] →
    let dw := (s.reg 0x80014).toNat
    ∃ u : State, exec .snapshotComplete s = .next (if n.byOp then u.complete 0 0xFFFF 0 [w32 (bit n.bad)] else u) ∧ u.flacon.snap = none ∧
      (∀ c, u.cvuHold c ≠ .flacon) ∧ u.ctr 0x80100 = (if s.frozen 0x80100 then s.ctr 0x80100 else s.ctr 0x80100 + 1) ∧ u.regBit 0x80008 1 = n.bad ∧
      (n.bad = false → u.regBit 0x80008 3 = false) ∧ (s.regBit 0x80004 14 = true → u.regBit 0x60020 (s.regFld 0x80004 9 5) = true) ∧
      SameMemOutside dw 8 s u ∧ (s.wordChk dw = none → s.readWord dw 1 = .ok false (s.word dw) → u.word dw = n.g) ∧
      SameRegsBut [0x80008, 0x60020, 0x04000] s u ∧ u.cc.queues = s.cc.queues ∧ u.slots = s.slots) ∧
  (∀ (r : Remote) (mode c : Nat) (cmd : Instr) (p : Packet) (v s : State), s.Clocked → s.mgmt.cur = some p → p.op = 0x12 →
    ((mode = 0 ∧ cmd = .restoreVerify r) ∨ (mode = 1 ∧ cmd = .restoreRebuild r) ∨ (mode = 2 ∧ cmd = .restoreState r)) → fld (p.w 0) 30 2 = mode →
    s.genOn = false → s.flaconBusy = false → s.coreIdle = true → s.flaconTake = some (c, v) →
    let i := fld (p.w 0) 0 12
    let e := s.entry i
    let g := p.w 1
    eValid e = true → (mode = 2 → eMethod e = 2 ∧ eSingle e = true ∧ eBufForm e = 0 ∧ eBuf e 0 = s.stateBase) →
    (s.manifest r e g mode = none → ∃ u : State, exec cmd s = .next (u.accept p (plainDeferred p) []).takeMail ∧
      u.flacon.rest = some ⟨mode, i, g, true, 0, 0, 0, 7, 0x900A, decide (eBufForm e ≠ 0)⟩ ∧ u.mem = s.mem ∧ u.slots = s.slots ∧ u.cc = s.cc) ∧
    (∀ b ds, s.manifest r e g mode = some (b, ds) → eBufForm e = 0 → s.inTiers (eOwn e b) (eSize e) = true →
      (mode ≠ 1 → (∀ k, k < eChunks e → s.poisonedIn (eOwn e b + k * mib) (chunkAt e k).2 = false ∧ ds[k]? = some (w64 (crc64.of (s.bytes (eOwn e b + k * mib) (chunkAt e k).2)))) →
        let ok := mode = 2 → s.recordOk = true
        ∃ u : State, exec cmd s = .next (u.accept p (plainDeferred p) []).takeMail ∧ u.mem = s.mem ∧
          (ok → u.flacon.rest = some ⟨mode, i, g, true, eChunks e, 0, 0, 0, 0, false⟩) ∧
          (¬ ok → u.flacon.rest = some ⟨mode, i, g, true, eChunks e, 0, 0, 7, 0, false⟩) ∧
          (mode = 0 ∨ ¬ ok → u.slots = s.slots ∧ u.reg 0x8000C = s.reg 0x8000C ∧ u.ctr 0x45008 = s.ctr 0x45008) ∧
          (mode = 2 → ok → u.reg 0x8000C = s.word s.stateBase ∧ u.ctr 0x45008 = s.dword (s.stateBase + 8) ∧ u.reg 0x45004 = s.word (s.stateBase + 0x10) ∧
            ∀ k, k < 256 → u.slot k = slotOfImage fun m => s.word (s.stateBase + (0x100 + 0x80 * k + 4 * m)))) ∧
      (mode = 1 → eMethod e = 2 → eParForm e = 1 →
        (∀ k, k < eChunks e → ∃ bs, remoteRead r fabricGt (ePar e (g.toNat % 2) + k * mib) (chunkAt e k).2 = some (bs, false) ∧ ds[k]? = some (w64 (crc64.of bs))) →
        ∃ u : State, exec cmd s = .next (u.accept p (plainDeferred p) []).takeMail ∧ u.flacon.rest = some ⟨1, i, g, true, eChunks e, eChunks e, 0, 0, 0, false⟩ ∧
          SameMemOutside (eOwn e b) (eSize e) s u ∧ u.regBit 0x80008 3 = true ∧ u.slots = s.slots ∧
          ∀ k bs, k < eChunks e → remoteRead r fabricGt (ePar e (g.toNat % 2) + k * mib) (chunkAt e k).2 = some (bs, false) → u.bytes (eOwn e b + k * mib) (chunkAt e k).2 = bs))) ∧
  ∀ s : State, s.Clocked →
    (s.flacon.rest = none → exec .restoreComplete s = .next s) ∧
    ∀ x, s.flacon.rest = some x →
      (s.flPump.flWriting = true → exec .restoreComplete s = .next s.flPump) ∧
      (s.flWriting = false →
        let k := (s.flacon.wbad.filter fun n => n != manChunk).length
        let good := x.repaired - k
        ∃ u : State, exec .restoreComplete s = .next
            (u.complete (if k = 0 then x.status else 7) 0xFFFF (if k = 0 then x.code.toNat else 0x900B) [w32 x.checked, w32 good, w32 (x.failed + k)]) ∧
          u.flacon.rest = none ∧ u.flacon.wbad = [] ∧ (∀ c, u.cvuHold c ≠ .flacon) ∧ u.mem = s.mem ∧ u.cc = s.cc ∧ u.slots = s.slots ∧
          (k = 0 → u.regs = s.regs ∧ u.logs = s.logs) ∧ u.flacon.registry = s.flacon.registry ∧ u.flacon.gt = s.flacon.gt ∧
          (x.remote = true → u.ctr 0x80130 = if s.frozen 0x80130 then s.ctr 0x80130 else s.ctr 0x80130 + w64 good) ∧
          (x.remote = false → u.ctr 0x80130 = s.ctr 0x80130))

/-- R342, R345, R355, R366, R371, R373 and R377. -/
def Obligations.FencesRegistriesAndContextsAct : Prop :=
  (∀ (p : Packet) (s : State), s.Served → s.mgmt.cur = some p → p.op = 0x05 →
    (s.sys.fence = .fenced → exec .fence s = .next (s.ok p []).takeMail) ∧ (s.sys.fence = .fencing → exec .fence s = .next (s.refuse p 1).takeMail) ∧
    (s.sys.fence = .inService → ∃ u : State, exec .fence s = .next (u.accept p (plainDeferred p) []).takeMail ∧ u.sys.fence = .fencing ∧ u.cc.queues = [] ∧
      u.cc.tqs = [] ∧ u.cc.runahead = [] ∧ (∀ c, (u.ctxt c).run = false) ∧ u.slots = s.slots ∧ u.vec = s.vec ∧ u.dma.xfers = s.dma.xfers ∧ (s.mgmt.deferred = none → u.mem = s.mem ∧ u.dma = s.dma))) ∧
  (∀ (timedOut : Bool) (s : State), s.Clocked →
    (s.sys.fence ≠ .fencing ∨ s.fenceWaits = true ∨ (s.dma.outstanding ≠ 0 ∧ timedOut = false) → exec (.fenceComplete timedOut) s = .next s) ∧
    (s.sys.fence = .fencing → s.fenceWaits = false → (s.dma.outstanding = 0 ∨ timedOut = true) → ∃ u : State,
      exec (.fenceComplete timedOut) s = .next (u.complete 0 0xFFFF 0 []) ∧ u.sys.fence = .fenced ∧ u.sys.fenceCause = 1 ∧ u.sys.core = .mgmtReady ∧
        u.regBit 0x04000 2 = true ∧ u.dma.xfers = [] ∧ u.dma.outstanding = 0 ∧ u.flacon.snap = none ∧ u.flWriting = false ∧ u.still.actA = none ∧ u.still.actB = none ∧ u.sync.lineReq = false ∧
        u.mem = s.mem ∧ u.slots = s.slots ∧ u.vec = s.vec ∧ SameRegsBut [0x04000] s u)) ∧
  (∀ (p : Packet) (s : State), s.Served → s.mgmt.cur = some p → p.op = 0x06 →
    (s.sys.fence ≠ .fenced ∨ s.sys.fenceCause ≠ 1 → exec .unfence s = .next (s.refuse p 6).takeMail) ∧
    (s.sys.fence = .fenced → s.sys.fenceCause = 1 → fld (p.w 1) 0 4 < 4 → exec .unfence s = .next (s.refuse p 4 1).takeMail) ∧
    (s.sys.fence = .fenced → s.sys.fenceCause = 1 → 4 ≤ fld (p.w 1) 0 4 → ∃ u : State, exec .unfence s = .next (u.ok p []).takeMail ∧ u.sys.fence = .inService ∧
      u.sys.fenceCause = 0 ∧ u.sys.core = .hostStream ∧ u.cc.atomStarted = true ∧ u.reg 0x10024 = p.w 0 &&& 0xFFFFFFC0 ∧ u.reg 0x10020 = w32 (fld (p.w 1) 0 4) ∧
      (∀ n, u.slot n = Slot.reset) ∧ u.cc.queues = [] ∧ u.mem = s.mem ∧ u.vec.v = s.vec.v ∧ u.sys.fuses = s.sys.fuses)) ∧
  (∀ s : State, s.Clocked →
    let i := s.regFld 0x80020 0 12
    let e := s.window 0x80040 16
    (∀ k, eValid e = true → s.entryChk e = some k → exec .registryWrite s = .next ((s.raise { code := 0x9003, unit := 12, cond := k, d0 := w32 i }).setRegFld 0x80024 31 1 1)) ∧
    (eValid e = false ∨ s.entryChk e = none →
      (s.draining = some i → exec .registryWrite s = .next ((s.raise { code := 0x9003, unit := 12, cond := 13, d0 := w32 i }).setRegFld 0x80024 31 1 1)) ∧
      (s.draining ≠ some i → ∃ t : State, exec .registryWrite s = .next t ∧ t.entry i = e ∧ (∀ j, j ≠ i → t.entry j = s.entry j) ∧ t.regBit 0x80024 31 = false ∧
        t.flacon.gt = s.flacon.gt ∧ t.flacon.snap = s.flacon.snap ∧ t.mem = s.mem ∧ t.cc = s.cc ∧ SameRegsBut [0x80024, 0x80008, 0x04000] s t)) ∧
    (∃ t : State, exec .registryRead s = .next t ∧ t = { s with regs := t.regs } ∧ (∀ k, k < 16 → t.reg (0x80040 + 4 * k) = w32 (s.entry i / 2 ^ (32 * k))) ∧
      ∀ o, (o < 0x80040 ∨ 0x80080 ≤ o) → t.reg o = s.reg o)) ∧
  (∀ s : State, s.Clocked →
    let i := s.regFld 0x80080 0 13
    let e := s.window 0x80090 4
    (∀ k, gtBad e = some k → exec .gtWrite s = .next ((s.raise { code := 0x9009, unit := 12, cond := k, d0 := w32 i }).setRegFld 0x80084 31 1 1)) ∧
    (gtBad e = none → ∃ t : State, exec .gtWrite s = .next t ∧ (t.gt i).toNat = e ∧ (∀ j, j ≠ i → t.gt j = s.gt j) ∧ t.regBit 0x80084 31 = false ∧
      t = { s with regs := t.regs, flacon := t.flacon } ∧ SameRegsBut [0x80084] s t ∧ t.flacon.registry = s.flacon.registry) ∧
    (∃ t : State, exec .gtRead s = .next t ∧ t = { s with regs := t.regs } ∧ (∀ k, k < 4 → t.reg (0x80090 + 4 * k) = w32 ((s.gt i).toNat / 2 ^ (32 * k))) ∧
      ∀ o, (o < 0x80090 ∨ 0x800A0 ≤ o) → t.reg o = s.reg o)) ∧
  ∀ (c : BitVec 4) (s : State), s.Clocked →
    let b := cvuBase c.toNat
    (∀ v : Word, (s.cvuHold c.toNat ≠ .free → exec (.cvuEnable c v) s = .next s) ∧
      (s.cvuHold c.toNat = .free → ∃ t : State, exec (.cvuEnable c v) s = .next t ∧ t.reg b = cvuCfg v ∧ SameRegsBut [b] s t ∧ SameCtrsBut [b + 0x20] s t ∧
        t.ctr (b + 0x20) = (if s.regBit b 31 = false ∧ (cvuCfg v).getLsbD 31 = true ∧ fld (cvuCfg v) 26 2 = 0 then s.ctr (b + 0x10) else s.ctr (b + 0x20)) ∧
        t = { s with regs := t.regs, ctrs := t.ctrs })) ∧
    (∀ ch seq x bs, s.cvuHold c.toNat = .xfer ch seq → s.xferBy ch seq = some x → x.ch = ch → takeBytes x.cvuBuf x.absorbed 64 = bs → bs ≠ [] →
      ∃ (t : State) (y : Xfer), exec (.cvuAbsorb c) s = .next t ∧ y ∈ t.xfersOf ch ∧ y.cmd = x.cmd ∧ y.absorbed = x.absorbed + bs.length ∧
        t.ctr (b + 0x20) = w64 ((s.cvuCrc c.toNat).run ((s.ctr (b + 0x20)).toNat % 2 ^ (s.cvuCrc c.toNat).w) bs) ∧
        t.ctr 0x70410 = (if s.frozen 0x70410 then s.ctr 0x70410 else s.ctr 0x70410 + w64 bs.length) ∧ t.mem = s.mem ∧ t.regs = s.regs ∧ t.cc = s.cc) ∧
    (s.cvuHold c.toNat = .free → exec (.cvuAbsorb c) s = .next s)

/-- R405 and R443. The reset values that the spec does not give are the model's choice (log entry 10). -/
def Obligations.ResetMeetsTheInvariants : Prop :=
  State.reset.MemOk ∧ State.reset.StoresOk ∧ State.reset.PointOk ∧ State.reset.pending = [] ∧ State.reset.sys.core = .powerOn ∧ State.reset.inService = true ∧
    (∀ o, State.reset.reg o = regReset State.reset.sys.straps.portGen o) ∧ (∀ o, State.reset.ctr o = 0) ∧ (∀ n, State.reset.slot n = Slot.reset) ∧
    (∀ a, State.reset.byte a = memDefault) ∧ (∀ q, State.reset.queue q = Queue.empty) ∧ (∀ ch, State.reset.xfersOf ch = []) ∧
    (∀ e, e < 8 → State.reset.flags e = 0) ∧ State.reset.evalMode = false ∧ State.reset.logs = Logs.reset

/-- The invariant that every step keeps, from every state that meets it. -/
def Obligations.StepKeepsTheInvariants : Prop :=
  ∀ s t : State, s.MemOk → s.StoresOk → s.PointOk → step s = .next t → t.MemOk ∧ t.StoresOk ∧ t.PointOk

/-- R408: a blown fuse stays blown, whatever the command. -/
def Obligations.StepsOnlyBlowFuses : Prop :=
  ∀ s t : State, step s = .next t →
    (∀ w, Tab.get 0 t.sys.fuses w &&& Tab.get 0 s.sys.fuses w = Tab.get 0 s.sys.fuses w) ∧
    ((∀ w b, s.pending.head? ≠ some (.wsFuseProg w b)) → (∀ b, s.pending.head? ≠ some (.lockDebug b)) → t.sys.fuses = s.sys.fuses)
end

