-- ==== Sys2Proof/Laws/State.lean ====
section
/-! SUPPORT. Beside the state: what each basic update leaves unchanged, one lemma per field per update, for simp. -/

set_option Elab.async false

namespace Sys2Proof.Machine

/-! setReg -/

@[simp] theorem State.setReg_sys (off : Nat) (v : Word) (s : State) : (s.setReg off v).sys = s.sys := rfl
@[simp] theorem State.setReg_pwr (off : Nat) (v : Word) (s : State) : (s.setReg off v).pwr = s.pwr := rfl
@[simp] theorem State.setReg_logs (off : Nat) (v : Word) (s : State) : (s.setReg off v).logs = s.logs := rfl
@[simp] theorem State.setReg_mgmt (off : Nat) (v : Word) (s : State) : (s.setReg off v).mgmt = s.mgmt := rfl
@[simp] theorem State.setReg_ctrs (off : Nat) (v : Word) (s : State) : (s.setReg off v).ctrs = s.ctrs := rfl
@[simp] theorem State.setReg_latch (off : Nat) (v : Word) (s : State) : (s.setReg off v).latch = s.latch := rfl
@[simp] theorem State.setReg_lowHeld (off : Nat) (v : Word) (s : State) : (s.setReg off v).lowHeld = s.lowHeld := rfl
@[simp] theorem State.setReg_mem (off : Nat) (v : Word) (s : State) : (s.setReg off v).mem = s.mem := rfl
@[simp] theorem State.setReg_eccBad (off : Nat) (v : Word) (s : State) : (s.setReg off v).eccBad = s.eccBad := rfl
@[simp] theorem State.setReg_eccCorr (off : Nat) (v : Word) (s : State) : (s.setReg off v).eccCorr = s.eccCorr := rfl
@[simp] theorem State.setReg_parBad (off : Nat) (v : Word) (s : State) : (s.setReg off v).parBad = s.parBad := rfl
@[simp] theorem State.setReg_poison (off : Nat) (v : Word) (s : State) : (s.setReg off v).poison = s.poison := rfl
@[simp] theorem State.setReg_cc (off : Nat) (v : Word) (s : State) : (s.setReg off v).cc = s.cc := rfl
@[simp] theorem State.setReg_still (off : Nat) (v : Word) (s : State) : (s.setReg off v).still = s.still := rfl
@[simp] theorem State.setReg_slots (off : Nat) (v : Word) (s : State) : (s.setReg off v).slots = s.slots := rfl
@[simp] theorem State.setReg_vec (off : Nat) (v : Word) (s : State) : (s.setReg off v).vec = s.vec := rfl
@[simp] theorem State.setReg_row (off : Nat) (v : Word) (s : State) : (s.setReg off v).row = s.row := rfl
@[simp] theorem State.setReg_upd (off : Nat) (v : Word) (s : State) : (s.setReg off v).upd = s.upd := rfl
@[simp] theorem State.setReg_dma (off : Nat) (v : Word) (s : State) : (s.setReg off v).dma = s.dma := rfl
@[simp] theorem State.setReg_sync (off : Nat) (v : Word) (s : State) : (s.setReg off v).sync = s.sync := rfl
@[simp] theorem State.setReg_flacon (off : Nat) (v : Word) (s : State) : (s.setReg off v).flacon = s.flacon := rfl
@[simp] theorem State.setReg_port (off : Nat) (v : Word) (s : State) : (s.setReg off v).port = s.port := rfl
@[simp] theorem State.setReg_wsp (off : Nat) (v : Word) (s : State) : (s.setReg off v).wsp = s.wsp := rfl
@[simp] theorem State.setReg_rdata (off : Nat) (v : Word) (s : State) : (s.setReg off v).rdata = s.rdata := rfl
@[simp] theorem State.setReg_freeCtr (off : Nat) (v : Word) (s : State) : (s.setReg off v).freeCtr = s.freeCtr := rfl
@[simp] theorem State.setReg_pending (off : Nat) (v : Word) (s : State) : (s.setReg off v).pending = s.pending := rfl

/-! setRegFld -/

@[simp] theorem State.setRegFld_sys (off lo n v : Nat) (s : State) : (s.setRegFld off lo n v).sys = s.sys := rfl
@[simp] theorem State.setRegFld_pwr (off lo n v : Nat) (s : State) : (s.setRegFld off lo n v).pwr = s.pwr := rfl
@[simp] theorem State.setRegFld_logs (off lo n v : Nat) (s : State) : (s.setRegFld off lo n v).logs = s.logs := rfl
@[simp] theorem State.setRegFld_mgmt (off lo n v : Nat) (s : State) : (s.setRegFld off lo n v).mgmt = s.mgmt := rfl
@[simp] theorem State.setRegFld_ctrs (off lo n v : Nat) (s : State) : (s.setRegFld off lo n v).ctrs = s.ctrs := rfl
@[simp] theorem State.setRegFld_latch (off lo n v : Nat) (s : State) : (s.setRegFld off lo n v).latch = s.latch := rfl
@[simp] theorem State.setRegFld_lowHeld (off lo n v : Nat) (s : State) : (s.setRegFld off lo n v).lowHeld = s.lowHeld := rfl
@[simp] theorem State.setRegFld_mem (off lo n v : Nat) (s : State) : (s.setRegFld off lo n v).mem = s.mem := rfl
@[simp] theorem State.setRegFld_eccBad (off lo n v : Nat) (s : State) : (s.setRegFld off lo n v).eccBad = s.eccBad := rfl
@[simp] theorem State.setRegFld_eccCorr (off lo n v : Nat) (s : State) : (s.setRegFld off lo n v).eccCorr = s.eccCorr := rfl
@[simp] theorem State.setRegFld_parBad (off lo n v : Nat) (s : State) : (s.setRegFld off lo n v).parBad = s.parBad := rfl
@[simp] theorem State.setRegFld_poison (off lo n v : Nat) (s : State) : (s.setRegFld off lo n v).poison = s.poison := rfl
@[simp] theorem State.setRegFld_cc (off lo n v : Nat) (s : State) : (s.setRegFld off lo n v).cc = s.cc := rfl
@[simp] theorem State.setRegFld_still (off lo n v : Nat) (s : State) : (s.setRegFld off lo n v).still = s.still := rfl
@[simp] theorem State.setRegFld_slots (off lo n v : Nat) (s : State) : (s.setRegFld off lo n v).slots = s.slots := rfl
@[simp] theorem State.setRegFld_vec (off lo n v : Nat) (s : State) : (s.setRegFld off lo n v).vec = s.vec := rfl
@[simp] theorem State.setRegFld_row (off lo n v : Nat) (s : State) : (s.setRegFld off lo n v).row = s.row := rfl
@[simp] theorem State.setRegFld_upd (off lo n v : Nat) (s : State) : (s.setRegFld off lo n v).upd = s.upd := rfl
@[simp] theorem State.setRegFld_dma (off lo n v : Nat) (s : State) : (s.setRegFld off lo n v).dma = s.dma := rfl
@[simp] theorem State.setRegFld_sync (off lo n v : Nat) (s : State) : (s.setRegFld off lo n v).sync = s.sync := rfl
@[simp] theorem State.setRegFld_flacon (off lo n v : Nat) (s : State) : (s.setRegFld off lo n v).flacon = s.flacon := rfl
@[simp] theorem State.setRegFld_port (off lo n v : Nat) (s : State) : (s.setRegFld off lo n v).port = s.port := rfl
@[simp] theorem State.setRegFld_wsp (off lo n v : Nat) (s : State) : (s.setRegFld off lo n v).wsp = s.wsp := rfl
@[simp] theorem State.setRegFld_rdata (off lo n v : Nat) (s : State) : (s.setRegFld off lo n v).rdata = s.rdata := rfl
@[simp] theorem State.setRegFld_freeCtr (off lo n v : Nat) (s : State) : (s.setRegFld off lo n v).freeCtr = s.freeCtr := rfl
@[simp] theorem State.setRegFld_pending (off lo n v : Nat) (s : State) : (s.setRegFld off lo n v).pending = s.pending := rfl

/-! orReg -/

@[simp] theorem State.orReg_sys (off : Nat) (m : Word) (s : State) : (s.orReg off m).sys = s.sys := rfl
@[simp] theorem State.orReg_pwr (off : Nat) (m : Word) (s : State) : (s.orReg off m).pwr = s.pwr := rfl
@[simp] theorem State.orReg_logs (off : Nat) (m : Word) (s : State) : (s.orReg off m).logs = s.logs := rfl
@[simp] theorem State.orReg_mgmt (off : Nat) (m : Word) (s : State) : (s.orReg off m).mgmt = s.mgmt := rfl
@[simp] theorem State.orReg_ctrs (off : Nat) (m : Word) (s : State) : (s.orReg off m).ctrs = s.ctrs := rfl
@[simp] theorem State.orReg_latch (off : Nat) (m : Word) (s : State) : (s.orReg off m).latch = s.latch := rfl
@[simp] theorem State.orReg_lowHeld (off : Nat) (m : Word) (s : State) : (s.orReg off m).lowHeld = s.lowHeld := rfl
@[simp] theorem State.orReg_mem (off : Nat) (m : Word) (s : State) : (s.orReg off m).mem = s.mem := rfl
@[simp] theorem State.orReg_eccBad (off : Nat) (m : Word) (s : State) : (s.orReg off m).eccBad = s.eccBad := rfl
@[simp] theorem State.orReg_eccCorr (off : Nat) (m : Word) (s : State) : (s.orReg off m).eccCorr = s.eccCorr := rfl
@[simp] theorem State.orReg_parBad (off : Nat) (m : Word) (s : State) : (s.orReg off m).parBad = s.parBad := rfl
@[simp] theorem State.orReg_poison (off : Nat) (m : Word) (s : State) : (s.orReg off m).poison = s.poison := rfl
@[simp] theorem State.orReg_cc (off : Nat) (m : Word) (s : State) : (s.orReg off m).cc = s.cc := rfl
@[simp] theorem State.orReg_still (off : Nat) (m : Word) (s : State) : (s.orReg off m).still = s.still := rfl
@[simp] theorem State.orReg_slots (off : Nat) (m : Word) (s : State) : (s.orReg off m).slots = s.slots := rfl
@[simp] theorem State.orReg_vec (off : Nat) (m : Word) (s : State) : (s.orReg off m).vec = s.vec := rfl
@[simp] theorem State.orReg_row (off : Nat) (m : Word) (s : State) : (s.orReg off m).row = s.row := rfl
@[simp] theorem State.orReg_upd (off : Nat) (m : Word) (s : State) : (s.orReg off m).upd = s.upd := rfl
@[simp] theorem State.orReg_dma (off : Nat) (m : Word) (s : State) : (s.orReg off m).dma = s.dma := rfl
@[simp] theorem State.orReg_sync (off : Nat) (m : Word) (s : State) : (s.orReg off m).sync = s.sync := rfl
@[simp] theorem State.orReg_flacon (off : Nat) (m : Word) (s : State) : (s.orReg off m).flacon = s.flacon := rfl
@[simp] theorem State.orReg_port (off : Nat) (m : Word) (s : State) : (s.orReg off m).port = s.port := rfl
@[simp] theorem State.orReg_wsp (off : Nat) (m : Word) (s : State) : (s.orReg off m).wsp = s.wsp := rfl
@[simp] theorem State.orReg_rdata (off : Nat) (m : Word) (s : State) : (s.orReg off m).rdata = s.rdata := rfl
@[simp] theorem State.orReg_freeCtr (off : Nat) (m : Word) (s : State) : (s.orReg off m).freeCtr = s.freeCtr := rfl
@[simp] theorem State.orReg_pending (off : Nat) (m : Word) (s : State) : (s.orReg off m).pending = s.pending := rfl

/-! clrReg -/

@[simp] theorem State.clrReg_sys (off : Nat) (m : Word) (s : State) : (s.clrReg off m).sys = s.sys := rfl
@[simp] theorem State.clrReg_pwr (off : Nat) (m : Word) (s : State) : (s.clrReg off m).pwr = s.pwr := rfl
@[simp] theorem State.clrReg_logs (off : Nat) (m : Word) (s : State) : (s.clrReg off m).logs = s.logs := rfl
@[simp] theorem State.clrReg_mgmt (off : Nat) (m : Word) (s : State) : (s.clrReg off m).mgmt = s.mgmt := rfl
@[simp] theorem State.clrReg_ctrs (off : Nat) (m : Word) (s : State) : (s.clrReg off m).ctrs = s.ctrs := rfl
@[simp] theorem State.clrReg_latch (off : Nat) (m : Word) (s : State) : (s.clrReg off m).latch = s.latch := rfl
@[simp] theorem State.clrReg_lowHeld (off : Nat) (m : Word) (s : State) : (s.clrReg off m).lowHeld = s.lowHeld := rfl
@[simp] theorem State.clrReg_mem (off : Nat) (m : Word) (s : State) : (s.clrReg off m).mem = s.mem := rfl
@[simp] theorem State.clrReg_eccBad (off : Nat) (m : Word) (s : State) : (s.clrReg off m).eccBad = s.eccBad := rfl
@[simp] theorem State.clrReg_eccCorr (off : Nat) (m : Word) (s : State) : (s.clrReg off m).eccCorr = s.eccCorr := rfl
@[simp] theorem State.clrReg_parBad (off : Nat) (m : Word) (s : State) : (s.clrReg off m).parBad = s.parBad := rfl
@[simp] theorem State.clrReg_poison (off : Nat) (m : Word) (s : State) : (s.clrReg off m).poison = s.poison := rfl
@[simp] theorem State.clrReg_cc (off : Nat) (m : Word) (s : State) : (s.clrReg off m).cc = s.cc := rfl
@[simp] theorem State.clrReg_still (off : Nat) (m : Word) (s : State) : (s.clrReg off m).still = s.still := rfl
@[simp] theorem State.clrReg_slots (off : Nat) (m : Word) (s : State) : (s.clrReg off m).slots = s.slots := rfl
@[simp] theorem State.clrReg_vec (off : Nat) (m : Word) (s : State) : (s.clrReg off m).vec = s.vec := rfl
@[simp] theorem State.clrReg_row (off : Nat) (m : Word) (s : State) : (s.clrReg off m).row = s.row := rfl
@[simp] theorem State.clrReg_upd (off : Nat) (m : Word) (s : State) : (s.clrReg off m).upd = s.upd := rfl
@[simp] theorem State.clrReg_dma (off : Nat) (m : Word) (s : State) : (s.clrReg off m).dma = s.dma := rfl
@[simp] theorem State.clrReg_sync (off : Nat) (m : Word) (s : State) : (s.clrReg off m).sync = s.sync := rfl
@[simp] theorem State.clrReg_flacon (off : Nat) (m : Word) (s : State) : (s.clrReg off m).flacon = s.flacon := rfl
@[simp] theorem State.clrReg_port (off : Nat) (m : Word) (s : State) : (s.clrReg off m).port = s.port := rfl
@[simp] theorem State.clrReg_wsp (off : Nat) (m : Word) (s : State) : (s.clrReg off m).wsp = s.wsp := rfl
@[simp] theorem State.clrReg_rdata (off : Nat) (m : Word) (s : State) : (s.clrReg off m).rdata = s.rdata := rfl
@[simp] theorem State.clrReg_freeCtr (off : Nat) (m : Word) (s : State) : (s.clrReg off m).freeCtr = s.freeCtr := rfl
@[simp] theorem State.clrReg_pending (off : Nat) (m : Word) (s : State) : (s.clrReg off m).pending = s.pending := rfl

/-! setCtr -/

@[simp] theorem State.setCtr_sys (off : Nat) (v : DWord) (s : State) : (s.setCtr off v).sys = s.sys := rfl
@[simp] theorem State.setCtr_pwr (off : Nat) (v : DWord) (s : State) : (s.setCtr off v).pwr = s.pwr := rfl
@[simp] theorem State.setCtr_logs (off : Nat) (v : DWord) (s : State) : (s.setCtr off v).logs = s.logs := rfl
@[simp] theorem State.setCtr_mgmt (off : Nat) (v : DWord) (s : State) : (s.setCtr off v).mgmt = s.mgmt := rfl
@[simp] theorem State.setCtr_regs (off : Nat) (v : DWord) (s : State) : (s.setCtr off v).regs = s.regs := rfl
@[simp] theorem State.setCtr_latch (off : Nat) (v : DWord) (s : State) : (s.setCtr off v).latch = s.latch := rfl
@[simp] theorem State.setCtr_lowHeld (off : Nat) (v : DWord) (s : State) : (s.setCtr off v).lowHeld = s.lowHeld := rfl
@[simp] theorem State.setCtr_mem (off : Nat) (v : DWord) (s : State) : (s.setCtr off v).mem = s.mem := rfl
@[simp] theorem State.setCtr_eccBad (off : Nat) (v : DWord) (s : State) : (s.setCtr off v).eccBad = s.eccBad := rfl
@[simp] theorem State.setCtr_eccCorr (off : Nat) (v : DWord) (s : State) : (s.setCtr off v).eccCorr = s.eccCorr := rfl
@[simp] theorem State.setCtr_parBad (off : Nat) (v : DWord) (s : State) : (s.setCtr off v).parBad = s.parBad := rfl
@[simp] theorem State.setCtr_poison (off : Nat) (v : DWord) (s : State) : (s.setCtr off v).poison = s.poison := rfl
@[simp] theorem State.setCtr_cc (off : Nat) (v : DWord) (s : State) : (s.setCtr off v).cc = s.cc := rfl
@[simp] theorem State.setCtr_still (off : Nat) (v : DWord) (s : State) : (s.setCtr off v).still = s.still := rfl
@[simp] theorem State.setCtr_slots (off : Nat) (v : DWord) (s : State) : (s.setCtr off v).slots = s.slots := rfl
@[simp] theorem State.setCtr_vec (off : Nat) (v : DWord) (s : State) : (s.setCtr off v).vec = s.vec := rfl
@[simp] theorem State.setCtr_row (off : Nat) (v : DWord) (s : State) : (s.setCtr off v).row = s.row := rfl
@[simp] theorem State.setCtr_upd (off : Nat) (v : DWord) (s : State) : (s.setCtr off v).upd = s.upd := rfl
@[simp] theorem State.setCtr_dma (off : Nat) (v : DWord) (s : State) : (s.setCtr off v).dma = s.dma := rfl
@[simp] theorem State.setCtr_sync (off : Nat) (v : DWord) (s : State) : (s.setCtr off v).sync = s.sync := rfl
@[simp] theorem State.setCtr_flacon (off : Nat) (v : DWord) (s : State) : (s.setCtr off v).flacon = s.flacon := rfl
@[simp] theorem State.setCtr_port (off : Nat) (v : DWord) (s : State) : (s.setCtr off v).port = s.port := rfl
@[simp] theorem State.setCtr_wsp (off : Nat) (v : DWord) (s : State) : (s.setCtr off v).wsp = s.wsp := rfl
@[simp] theorem State.setCtr_rdata (off : Nat) (v : DWord) (s : State) : (s.setCtr off v).rdata = s.rdata := rfl
@[simp] theorem State.setCtr_freeCtr (off : Nat) (v : DWord) (s : State) : (s.setCtr off v).freeCtr = s.freeCtr := rfl
@[simp] theorem State.setCtr_pending (off : Nat) (v : DWord) (s : State) : (s.setCtr off v).pending = s.pending := rfl

/-! count -/

@[simp] theorem State.count_sys (off n : Nat) (s : State) : (s.count off n).sys = s.sys := by unfold State.count; split <;> rfl
@[simp] theorem State.count_pwr (off n : Nat) (s : State) : (s.count off n).pwr = s.pwr := by unfold State.count; split <;> rfl
@[simp] theorem State.count_logs (off n : Nat) (s : State) : (s.count off n).logs = s.logs := by unfold State.count; split <;> rfl
@[simp] theorem State.count_mgmt (off n : Nat) (s : State) : (s.count off n).mgmt = s.mgmt := by unfold State.count; split <;> rfl
@[simp] theorem State.count_regs (off n : Nat) (s : State) : (s.count off n).regs = s.regs := by unfold State.count; split <;> rfl
@[simp] theorem State.count_latch (off n : Nat) (s : State) : (s.count off n).latch = s.latch := by unfold State.count; split <;> rfl
@[simp] theorem State.count_lowHeld (off n : Nat) (s : State) : (s.count off n).lowHeld = s.lowHeld := by unfold State.count; split <;> rfl
@[simp] theorem State.count_mem (off n : Nat) (s : State) : (s.count off n).mem = s.mem := by unfold State.count; split <;> rfl
@[simp] theorem State.count_eccBad (off n : Nat) (s : State) : (s.count off n).eccBad = s.eccBad := by unfold State.count; split <;> rfl
@[simp] theorem State.count_eccCorr (off n : Nat) (s : State) : (s.count off n).eccCorr = s.eccCorr := by unfold State.count; split <;> rfl
@[simp] theorem State.count_parBad (off n : Nat) (s : State) : (s.count off n).parBad = s.parBad := by unfold State.count; split <;> rfl
@[simp] theorem State.count_poison (off n : Nat) (s : State) : (s.count off n).poison = s.poison := by unfold State.count; split <;> rfl
@[simp] theorem State.count_cc (off n : Nat) (s : State) : (s.count off n).cc = s.cc := by unfold State.count; split <;> rfl
@[simp] theorem State.count_still (off n : Nat) (s : State) : (s.count off n).still = s.still := by unfold State.count; split <;> rfl
@[simp] theorem State.count_slots (off n : Nat) (s : State) : (s.count off n).slots = s.slots := by unfold State.count; split <;> rfl
@[simp] theorem State.count_vec (off n : Nat) (s : State) : (s.count off n).vec = s.vec := by unfold State.count; split <;> rfl
@[simp] theorem State.count_row (off n : Nat) (s : State) : (s.count off n).row = s.row := by unfold State.count; split <;> rfl
@[simp] theorem State.count_upd (off n : Nat) (s : State) : (s.count off n).upd = s.upd := by unfold State.count; split <;> rfl
@[simp] theorem State.count_dma (off n : Nat) (s : State) : (s.count off n).dma = s.dma := by unfold State.count; split <;> rfl
@[simp] theorem State.count_sync (off n : Nat) (s : State) : (s.count off n).sync = s.sync := by unfold State.count; split <;> rfl
@[simp] theorem State.count_flacon (off n : Nat) (s : State) : (s.count off n).flacon = s.flacon := by unfold State.count; split <;> rfl
@[simp] theorem State.count_port (off n : Nat) (s : State) : (s.count off n).port = s.port := by unfold State.count; split <;> rfl
@[simp] theorem State.count_wsp (off n : Nat) (s : State) : (s.count off n).wsp = s.wsp := by unfold State.count; split <;> rfl
@[simp] theorem State.count_rdata (off n : Nat) (s : State) : (s.count off n).rdata = s.rdata := by unfold State.count; split <;> rfl
@[simp] theorem State.count_freeCtr (off n : Nat) (s : State) : (s.count off n).freeCtr = s.freeCtr := by unfold State.count; split <;> rfl
@[simp] theorem State.count_pending (off n : Nat) (s : State) : (s.count off n).pending = s.pending := by unfold State.count; split <;> rfl

/-! interrupt -/

@[simp] theorem State.interrupt_sys (m : Word) (s : State) : (s.interrupt m).sys = s.sys := rfl
@[simp] theorem State.interrupt_pwr (m : Word) (s : State) : (s.interrupt m).pwr = s.pwr := rfl
@[simp] theorem State.interrupt_logs (m : Word) (s : State) : (s.interrupt m).logs = s.logs := rfl
@[simp] theorem State.interrupt_mgmt (m : Word) (s : State) : (s.interrupt m).mgmt = s.mgmt := rfl
@[simp] theorem State.interrupt_ctrs (m : Word) (s : State) : (s.interrupt m).ctrs = s.ctrs := rfl
@[simp] theorem State.interrupt_latch (m : Word) (s : State) : (s.interrupt m).latch = s.latch := rfl
@[simp] theorem State.interrupt_lowHeld (m : Word) (s : State) : (s.interrupt m).lowHeld = s.lowHeld := rfl
@[simp] theorem State.interrupt_mem (m : Word) (s : State) : (s.interrupt m).mem = s.mem := rfl
@[simp] theorem State.interrupt_eccBad (m : Word) (s : State) : (s.interrupt m).eccBad = s.eccBad := rfl
@[simp] theorem State.interrupt_eccCorr (m : Word) (s : State) : (s.interrupt m).eccCorr = s.eccCorr := rfl
@[simp] theorem State.interrupt_parBad (m : Word) (s : State) : (s.interrupt m).parBad = s.parBad := rfl
@[simp] theorem State.interrupt_poison (m : Word) (s : State) : (s.interrupt m).poison = s.poison := rfl
@[simp] theorem State.interrupt_cc (m : Word) (s : State) : (s.interrupt m).cc = s.cc := rfl
@[simp] theorem State.interrupt_still (m : Word) (s : State) : (s.interrupt m).still = s.still := rfl
@[simp] theorem State.interrupt_slots (m : Word) (s : State) : (s.interrupt m).slots = s.slots := rfl
@[simp] theorem State.interrupt_vec (m : Word) (s : State) : (s.interrupt m).vec = s.vec := rfl
@[simp] theorem State.interrupt_row (m : Word) (s : State) : (s.interrupt m).row = s.row := rfl
@[simp] theorem State.interrupt_upd (m : Word) (s : State) : (s.interrupt m).upd = s.upd := rfl
@[simp] theorem State.interrupt_dma (m : Word) (s : State) : (s.interrupt m).dma = s.dma := rfl
@[simp] theorem State.interrupt_sync (m : Word) (s : State) : (s.interrupt m).sync = s.sync := rfl
@[simp] theorem State.interrupt_flacon (m : Word) (s : State) : (s.interrupt m).flacon = s.flacon := rfl
@[simp] theorem State.interrupt_port (m : Word) (s : State) : (s.interrupt m).port = s.port := rfl
@[simp] theorem State.interrupt_wsp (m : Word) (s : State) : (s.interrupt m).wsp = s.wsp := rfl
@[simp] theorem State.interrupt_rdata (m : Word) (s : State) : (s.interrupt m).rdata = s.rdata := rfl
@[simp] theorem State.interrupt_freeCtr (m : Word) (s : State) : (s.interrupt m).freeCtr = s.freeCtr := rfl
@[simp] theorem State.interrupt_pending (m : Word) (s : State) : (s.interrupt m).pending = s.pending := rfl

/-! blotter -/

@[simp] theorem State.blotter_sys (ty src : Nat) (tag : Half) (w : Word) (s : State) : (s.blotter ty src tag w).sys = s.sys := by simp only [State.blotter]; repeat (first | rfl | (simp; done) | split)
@[simp] theorem State.blotter_pwr (ty src : Nat) (tag : Half) (w : Word) (s : State) : (s.blotter ty src tag w).pwr = s.pwr := by simp only [State.blotter]; repeat (first | rfl | (simp; done) | split)
@[simp] theorem State.blotter_mgmt (ty src : Nat) (tag : Half) (w : Word) (s : State) : (s.blotter ty src tag w).mgmt = s.mgmt := by simp only [State.blotter]; repeat (first | rfl | (simp; done) | split)
@[simp] theorem State.blotter_regs (ty src : Nat) (tag : Half) (w : Word) (s : State) : (s.blotter ty src tag w).regs = s.regs := by simp only [State.blotter]; repeat (first | rfl | (simp; done) | split)
@[simp] theorem State.blotter_latch (ty src : Nat) (tag : Half) (w : Word) (s : State) : (s.blotter ty src tag w).latch = s.latch := by simp only [State.blotter]; repeat (first | rfl | (simp; done) | split)
@[simp] theorem State.blotter_lowHeld (ty src : Nat) (tag : Half) (w : Word) (s : State) : (s.blotter ty src tag w).lowHeld = s.lowHeld := by simp only [State.blotter]; repeat (first | rfl | (simp; done) | split)
@[simp] theorem State.blotter_mem (ty src : Nat) (tag : Half) (w : Word) (s : State) : (s.blotter ty src tag w).mem = s.mem := by simp only [State.blotter]; repeat (first | rfl | (simp; done) | split)
@[simp] theorem State.blotter_eccBad (ty src : Nat) (tag : Half) (w : Word) (s : State) : (s.blotter ty src tag w).eccBad = s.eccBad := by simp only [State.blotter]; repeat (first | rfl | (simp; done) | split)
@[simp] theorem State.blotter_eccCorr (ty src : Nat) (tag : Half) (w : Word) (s : State) : (s.blotter ty src tag w).eccCorr = s.eccCorr := by simp only [State.blotter]; repeat (first | rfl | (simp; done) | split)
@[simp] theorem State.blotter_parBad (ty src : Nat) (tag : Half) (w : Word) (s : State) : (s.blotter ty src tag w).parBad = s.parBad := by simp only [State.blotter]; repeat (first | rfl | (simp; done) | split)
@[simp] theorem State.blotter_poison (ty src : Nat) (tag : Half) (w : Word) (s : State) : (s.blotter ty src tag w).poison = s.poison := by simp only [State.blotter]; repeat (first | rfl | (simp; done) | split)
@[simp] theorem State.blotter_cc (ty src : Nat) (tag : Half) (w : Word) (s : State) : (s.blotter ty src tag w).cc = s.cc := by simp only [State.blotter]; repeat (first | rfl | (simp; done) | split)
@[simp] theorem State.blotter_still (ty src : Nat) (tag : Half) (w : Word) (s : State) : (s.blotter ty src tag w).still = s.still := by simp only [State.blotter]; repeat (first | rfl | (simp; done) | split)
@[simp] theorem State.blotter_slots (ty src : Nat) (tag : Half) (w : Word) (s : State) : (s.blotter ty src tag w).slots = s.slots := by simp only [State.blotter]; repeat (first | rfl | (simp; done) | split)
@[simp] theorem State.blotter_vec (ty src : Nat) (tag : Half) (w : Word) (s : State) : (s.blotter ty src tag w).vec = s.vec := by simp only [State.blotter]; repeat (first | rfl | (simp; done) | split)
@[simp] theorem State.blotter_row (ty src : Nat) (tag : Half) (w : Word) (s : State) : (s.blotter ty src tag w).row = s.row := by simp only [State.blotter]; repeat (first | rfl | (simp; done) | split)
@[simp] theorem State.blotter_upd (ty src : Nat) (tag : Half) (w : Word) (s : State) : (s.blotter ty src tag w).upd = s.upd := by simp only [State.blotter]; repeat (first | rfl | (simp; done) | split)
@[simp] theorem State.blotter_dma (ty src : Nat) (tag : Half) (w : Word) (s : State) : (s.blotter ty src tag w).dma = s.dma := by simp only [State.blotter]; repeat (first | rfl | (simp; done) | split)
@[simp] theorem State.blotter_sync (ty src : Nat) (tag : Half) (w : Word) (s : State) : (s.blotter ty src tag w).sync = s.sync := by simp only [State.blotter]; repeat (first | rfl | (simp; done) | split)
@[simp] theorem State.blotter_flacon (ty src : Nat) (tag : Half) (w : Word) (s : State) : (s.blotter ty src tag w).flacon = s.flacon := by simp only [State.blotter]; repeat (first | rfl | (simp; done) | split)
@[simp] theorem State.blotter_port (ty src : Nat) (tag : Half) (w : Word) (s : State) : (s.blotter ty src tag w).port = s.port := by simp only [State.blotter]; repeat (first | rfl | (simp; done) | split)
@[simp] theorem State.blotter_wsp (ty src : Nat) (tag : Half) (w : Word) (s : State) : (s.blotter ty src tag w).wsp = s.wsp := by simp only [State.blotter]; repeat (first | rfl | (simp; done) | split)
@[simp] theorem State.blotter_rdata (ty src : Nat) (tag : Half) (w : Word) (s : State) : (s.blotter ty src tag w).rdata = s.rdata := by simp only [State.blotter]; repeat (first | rfl | (simp; done) | split)
@[simp] theorem State.blotter_freeCtr (ty src : Nat) (tag : Half) (w : Word) (s : State) : (s.blotter ty src tag w).freeCtr = s.freeCtr := by simp only [State.blotter]; repeat (first | rfl | (simp; done) | split)
@[simp] theorem State.blotter_pending (ty src : Nat) (tag : Half) (w : Word) (s : State) : (s.blotter ty src tag w).pending = s.pending := by simp only [State.blotter]; repeat (first | rfl | (simp; done) | split)

/-! raise -/

@[simp] theorem State.raise_sys (e : Err) (s : State) : (s.raise e).sys = s.sys := by simp only [State.raise, State.blotter_sys, State.interrupt_sys]; split <;> rfl
@[simp] theorem State.raise_pwr (e : Err) (s : State) : (s.raise e).pwr = s.pwr := by simp only [State.raise, State.blotter_pwr, State.interrupt_pwr]; split <;> rfl
@[simp] theorem State.raise_mgmt (e : Err) (s : State) : (s.raise e).mgmt = s.mgmt := by simp only [State.raise, State.blotter_mgmt, State.interrupt_mgmt]; split <;> rfl
@[simp] theorem State.raise_latch (e : Err) (s : State) : (s.raise e).latch = s.latch := by simp only [State.raise, State.blotter_latch, State.interrupt_latch]; split <;> rfl
@[simp] theorem State.raise_lowHeld (e : Err) (s : State) : (s.raise e).lowHeld = s.lowHeld := by simp only [State.raise, State.blotter_lowHeld, State.interrupt_lowHeld]; split <;> rfl
@[simp] theorem State.raise_mem (e : Err) (s : State) : (s.raise e).mem = s.mem := by simp only [State.raise, State.blotter_mem, State.interrupt_mem]; split <;> rfl
@[simp] theorem State.raise_eccBad (e : Err) (s : State) : (s.raise e).eccBad = s.eccBad := by simp only [State.raise, State.blotter_eccBad, State.interrupt_eccBad]; split <;> rfl
@[simp] theorem State.raise_eccCorr (e : Err) (s : State) : (s.raise e).eccCorr = s.eccCorr := by simp only [State.raise, State.blotter_eccCorr, State.interrupt_eccCorr]; split <;> rfl
@[simp] theorem State.raise_parBad (e : Err) (s : State) : (s.raise e).parBad = s.parBad := by simp only [State.raise, State.blotter_parBad, State.interrupt_parBad]; split <;> rfl
@[simp] theorem State.raise_poison (e : Err) (s : State) : (s.raise e).poison = s.poison := by simp only [State.raise, State.blotter_poison, State.interrupt_poison]; split <;> rfl
@[simp] theorem State.raise_cc (e : Err) (s : State) : (s.raise e).cc = s.cc := by simp only [State.raise, State.blotter_cc, State.interrupt_cc]; split <;> rfl
@[simp] theorem State.raise_still (e : Err) (s : State) : (s.raise e).still = s.still := by simp only [State.raise, State.blotter_still, State.interrupt_still]; split <;> rfl
@[simp] theorem State.raise_slots (e : Err) (s : State) : (s.raise e).slots = s.slots := by simp only [State.raise, State.blotter_slots, State.interrupt_slots]; split <;> rfl
@[simp] theorem State.raise_vec (e : Err) (s : State) : (s.raise e).vec = s.vec := by simp only [State.raise, State.blotter_vec, State.interrupt_vec]; split <;> rfl
@[simp] theorem State.raise_row (e : Err) (s : State) : (s.raise e).row = s.row := by simp only [State.raise, State.blotter_row, State.interrupt_row]; split <;> rfl
@[simp] theorem State.raise_upd (e : Err) (s : State) : (s.raise e).upd = s.upd := by simp only [State.raise, State.blotter_upd, State.interrupt_upd]; split <;> rfl
@[simp] theorem State.raise_dma (e : Err) (s : State) : (s.raise e).dma = s.dma := by simp only [State.raise, State.blotter_dma, State.interrupt_dma]; split <;> rfl
@[simp] theorem State.raise_sync (e : Err) (s : State) : (s.raise e).sync = s.sync := by simp only [State.raise, State.blotter_sync, State.interrupt_sync]; split <;> rfl
@[simp] theorem State.raise_flacon (e : Err) (s : State) : (s.raise e).flacon = s.flacon := by simp only [State.raise, State.blotter_flacon, State.interrupt_flacon]; split <;> rfl
@[simp] theorem State.raise_port (e : Err) (s : State) : (s.raise e).port = s.port := by simp only [State.raise, State.blotter_port, State.interrupt_port]; split <;> rfl
@[simp] theorem State.raise_wsp (e : Err) (s : State) : (s.raise e).wsp = s.wsp := by simp only [State.raise, State.blotter_wsp, State.interrupt_wsp]; split <;> rfl
@[simp] theorem State.raise_rdata (e : Err) (s : State) : (s.raise e).rdata = s.rdata := by simp only [State.raise, State.blotter_rdata, State.interrupt_rdata]; split <;> rfl
@[simp] theorem State.raise_freeCtr (e : Err) (s : State) : (s.raise e).freeCtr = s.freeCtr := by simp only [State.raise, State.blotter_freeCtr, State.interrupt_freeCtr]; split <;> rfl
@[simp] theorem State.raise_pending (e : Err) (s : State) : (s.raise e).pending = s.pending := by simp only [State.raise, State.blotter_pending, State.interrupt_pending]; split <;> rfl

/-! setQueue -/

@[simp] theorem State.setQueue_sys (q : Nat) (v : Queue) (s : State) : (s.setQueue q v).sys = s.sys := rfl
@[simp] theorem State.setQueue_pwr (q : Nat) (v : Queue) (s : State) : (s.setQueue q v).pwr = s.pwr := rfl
@[simp] theorem State.setQueue_logs (q : Nat) (v : Queue) (s : State) : (s.setQueue q v).logs = s.logs := rfl
@[simp] theorem State.setQueue_mgmt (q : Nat) (v : Queue) (s : State) : (s.setQueue q v).mgmt = s.mgmt := rfl
@[simp] theorem State.setQueue_regs (q : Nat) (v : Queue) (s : State) : (s.setQueue q v).regs = s.regs := rfl
@[simp] theorem State.setQueue_ctrs (q : Nat) (v : Queue) (s : State) : (s.setQueue q v).ctrs = s.ctrs := rfl
@[simp] theorem State.setQueue_latch (q : Nat) (v : Queue) (s : State) : (s.setQueue q v).latch = s.latch := rfl
@[simp] theorem State.setQueue_lowHeld (q : Nat) (v : Queue) (s : State) : (s.setQueue q v).lowHeld = s.lowHeld := rfl
@[simp] theorem State.setQueue_mem (q : Nat) (v : Queue) (s : State) : (s.setQueue q v).mem = s.mem := rfl
@[simp] theorem State.setQueue_eccBad (q : Nat) (v : Queue) (s : State) : (s.setQueue q v).eccBad = s.eccBad := rfl
@[simp] theorem State.setQueue_eccCorr (q : Nat) (v : Queue) (s : State) : (s.setQueue q v).eccCorr = s.eccCorr := rfl
@[simp] theorem State.setQueue_parBad (q : Nat) (v : Queue) (s : State) : (s.setQueue q v).parBad = s.parBad := rfl
@[simp] theorem State.setQueue_poison (q : Nat) (v : Queue) (s : State) : (s.setQueue q v).poison = s.poison := rfl
@[simp] theorem State.setQueue_still (q : Nat) (v : Queue) (s : State) : (s.setQueue q v).still = s.still := rfl
@[simp] theorem State.setQueue_slots (q : Nat) (v : Queue) (s : State) : (s.setQueue q v).slots = s.slots := rfl
@[simp] theorem State.setQueue_vec (q : Nat) (v : Queue) (s : State) : (s.setQueue q v).vec = s.vec := rfl
@[simp] theorem State.setQueue_row (q : Nat) (v : Queue) (s : State) : (s.setQueue q v).row = s.row := rfl
@[simp] theorem State.setQueue_upd (q : Nat) (v : Queue) (s : State) : (s.setQueue q v).upd = s.upd := rfl
@[simp] theorem State.setQueue_dma (q : Nat) (v : Queue) (s : State) : (s.setQueue q v).dma = s.dma := rfl
@[simp] theorem State.setQueue_sync (q : Nat) (v : Queue) (s : State) : (s.setQueue q v).sync = s.sync := rfl
@[simp] theorem State.setQueue_flacon (q : Nat) (v : Queue) (s : State) : (s.setQueue q v).flacon = s.flacon := rfl
@[simp] theorem State.setQueue_port (q : Nat) (v : Queue) (s : State) : (s.setQueue q v).port = s.port := rfl
@[simp] theorem State.setQueue_wsp (q : Nat) (v : Queue) (s : State) : (s.setQueue q v).wsp = s.wsp := rfl
@[simp] theorem State.setQueue_rdata (q : Nat) (v : Queue) (s : State) : (s.setQueue q v).rdata = s.rdata := rfl
@[simp] theorem State.setQueue_freeCtr (q : Nat) (v : Queue) (s : State) : (s.setQueue q v).freeCtr = s.freeCtr := rfl
@[simp] theorem State.setQueue_pending (q : Nat) (v : Queue) (s : State) : (s.setQueue q v).pending = s.pending := rfl

/-! popQueue -/

@[simp] theorem State.popQueue_sys (q : Nat) (s : State) : (s.popQueue q).sys = s.sys := rfl
@[simp] theorem State.popQueue_pwr (q : Nat) (s : State) : (s.popQueue q).pwr = s.pwr := rfl
@[simp] theorem State.popQueue_logs (q : Nat) (s : State) : (s.popQueue q).logs = s.logs := rfl
@[simp] theorem State.popQueue_mgmt (q : Nat) (s : State) : (s.popQueue q).mgmt = s.mgmt := rfl
@[simp] theorem State.popQueue_regs (q : Nat) (s : State) : (s.popQueue q).regs = s.regs := rfl
@[simp] theorem State.popQueue_ctrs (q : Nat) (s : State) : (s.popQueue q).ctrs = s.ctrs := rfl
@[simp] theorem State.popQueue_latch (q : Nat) (s : State) : (s.popQueue q).latch = s.latch := rfl
@[simp] theorem State.popQueue_lowHeld (q : Nat) (s : State) : (s.popQueue q).lowHeld = s.lowHeld := rfl
@[simp] theorem State.popQueue_mem (q : Nat) (s : State) : (s.popQueue q).mem = s.mem := rfl
@[simp] theorem State.popQueue_eccBad (q : Nat) (s : State) : (s.popQueue q).eccBad = s.eccBad := rfl
@[simp] theorem State.popQueue_eccCorr (q : Nat) (s : State) : (s.popQueue q).eccCorr = s.eccCorr := rfl
@[simp] theorem State.popQueue_parBad (q : Nat) (s : State) : (s.popQueue q).parBad = s.parBad := rfl
@[simp] theorem State.popQueue_poison (q : Nat) (s : State) : (s.popQueue q).poison = s.poison := rfl
@[simp] theorem State.popQueue_still (q : Nat) (s : State) : (s.popQueue q).still = s.still := rfl
@[simp] theorem State.popQueue_slots (q : Nat) (s : State) : (s.popQueue q).slots = s.slots := rfl
@[simp] theorem State.popQueue_vec (q : Nat) (s : State) : (s.popQueue q).vec = s.vec := rfl
@[simp] theorem State.popQueue_row (q : Nat) (s : State) : (s.popQueue q).row = s.row := rfl
@[simp] theorem State.popQueue_upd (q : Nat) (s : State) : (s.popQueue q).upd = s.upd := rfl
@[simp] theorem State.popQueue_dma (q : Nat) (s : State) : (s.popQueue q).dma = s.dma := rfl
@[simp] theorem State.popQueue_sync (q : Nat) (s : State) : (s.popQueue q).sync = s.sync := rfl
@[simp] theorem State.popQueue_flacon (q : Nat) (s : State) : (s.popQueue q).flacon = s.flacon := rfl
@[simp] theorem State.popQueue_port (q : Nat) (s : State) : (s.popQueue q).port = s.port := rfl
@[simp] theorem State.popQueue_wsp (q : Nat) (s : State) : (s.popQueue q).wsp = s.wsp := rfl
@[simp] theorem State.popQueue_rdata (q : Nat) (s : State) : (s.popQueue q).rdata = s.rdata := rfl
@[simp] theorem State.popQueue_freeCtr (q : Nat) (s : State) : (s.popQueue q).freeCtr = s.freeCtr := rfl
@[simp] theorem State.popQueue_pending (q : Nat) (s : State) : (s.popQueue q).pending = s.pending := rfl

/-! setSlot -/

@[simp] theorem State.setSlot_sys (n : Nat) (v : Slot) (s : State) : (s.setSlot n v).sys = s.sys := rfl
@[simp] theorem State.setSlot_pwr (n : Nat) (v : Slot) (s : State) : (s.setSlot n v).pwr = s.pwr := rfl
@[simp] theorem State.setSlot_logs (n : Nat) (v : Slot) (s : State) : (s.setSlot n v).logs = s.logs := rfl
@[simp] theorem State.setSlot_mgmt (n : Nat) (v : Slot) (s : State) : (s.setSlot n v).mgmt = s.mgmt := rfl
@[simp] theorem State.setSlot_regs (n : Nat) (v : Slot) (s : State) : (s.setSlot n v).regs = s.regs := rfl
@[simp] theorem State.setSlot_ctrs (n : Nat) (v : Slot) (s : State) : (s.setSlot n v).ctrs = s.ctrs := rfl
@[simp] theorem State.setSlot_latch (n : Nat) (v : Slot) (s : State) : (s.setSlot n v).latch = s.latch := rfl
@[simp] theorem State.setSlot_lowHeld (n : Nat) (v : Slot) (s : State) : (s.setSlot n v).lowHeld = s.lowHeld := rfl
@[simp] theorem State.setSlot_mem (n : Nat) (v : Slot) (s : State) : (s.setSlot n v).mem = s.mem := rfl
@[simp] theorem State.setSlot_eccBad (n : Nat) (v : Slot) (s : State) : (s.setSlot n v).eccBad = s.eccBad := rfl
@[simp] theorem State.setSlot_eccCorr (n : Nat) (v : Slot) (s : State) : (s.setSlot n v).eccCorr = s.eccCorr := rfl
@[simp] theorem State.setSlot_parBad (n : Nat) (v : Slot) (s : State) : (s.setSlot n v).parBad = s.parBad := rfl
@[simp] theorem State.setSlot_poison (n : Nat) (v : Slot) (s : State) : (s.setSlot n v).poison = s.poison := rfl
@[simp] theorem State.setSlot_cc (n : Nat) (v : Slot) (s : State) : (s.setSlot n v).cc = s.cc := rfl
@[simp] theorem State.setSlot_still (n : Nat) (v : Slot) (s : State) : (s.setSlot n v).still = s.still := rfl
@[simp] theorem State.setSlot_vec (n : Nat) (v : Slot) (s : State) : (s.setSlot n v).vec = s.vec := rfl
@[simp] theorem State.setSlot_row (n : Nat) (v : Slot) (s : State) : (s.setSlot n v).row = s.row := rfl
@[simp] theorem State.setSlot_upd (n : Nat) (v : Slot) (s : State) : (s.setSlot n v).upd = s.upd := rfl
@[simp] theorem State.setSlot_dma (n : Nat) (v : Slot) (s : State) : (s.setSlot n v).dma = s.dma := rfl
@[simp] theorem State.setSlot_sync (n : Nat) (v : Slot) (s : State) : (s.setSlot n v).sync = s.sync := rfl
@[simp] theorem State.setSlot_flacon (n : Nat) (v : Slot) (s : State) : (s.setSlot n v).flacon = s.flacon := rfl
@[simp] theorem State.setSlot_port (n : Nat) (v : Slot) (s : State) : (s.setSlot n v).port = s.port := rfl
@[simp] theorem State.setSlot_wsp (n : Nat) (v : Slot) (s : State) : (s.setSlot n v).wsp = s.wsp := rfl
@[simp] theorem State.setSlot_rdata (n : Nat) (v : Slot) (s : State) : (s.setSlot n v).rdata = s.rdata := rfl
@[simp] theorem State.setSlot_freeCtr (n : Nat) (v : Slot) (s : State) : (s.setSlot n v).freeCtr = s.freeCtr := rfl
@[simp] theorem State.setSlot_pending (n : Nat) (v : Slot) (s : State) : (s.setSlot n v).pending = s.pending := rfl

/-! setLane -/

@[simp] theorem State.setLane_sys (r i : Nat) (w : Word) (s : State) : (s.setLane r i w).sys = s.sys := rfl
@[simp] theorem State.setLane_pwr (r i : Nat) (w : Word) (s : State) : (s.setLane r i w).pwr = s.pwr := rfl
@[simp] theorem State.setLane_logs (r i : Nat) (w : Word) (s : State) : (s.setLane r i w).logs = s.logs := rfl
@[simp] theorem State.setLane_mgmt (r i : Nat) (w : Word) (s : State) : (s.setLane r i w).mgmt = s.mgmt := rfl
@[simp] theorem State.setLane_regs (r i : Nat) (w : Word) (s : State) : (s.setLane r i w).regs = s.regs := rfl
@[simp] theorem State.setLane_ctrs (r i : Nat) (w : Word) (s : State) : (s.setLane r i w).ctrs = s.ctrs := rfl
@[simp] theorem State.setLane_latch (r i : Nat) (w : Word) (s : State) : (s.setLane r i w).latch = s.latch := rfl
@[simp] theorem State.setLane_lowHeld (r i : Nat) (w : Word) (s : State) : (s.setLane r i w).lowHeld = s.lowHeld := rfl
@[simp] theorem State.setLane_mem (r i : Nat) (w : Word) (s : State) : (s.setLane r i w).mem = s.mem := rfl
@[simp] theorem State.setLane_eccBad (r i : Nat) (w : Word) (s : State) : (s.setLane r i w).eccBad = s.eccBad := rfl
@[simp] theorem State.setLane_eccCorr (r i : Nat) (w : Word) (s : State) : (s.setLane r i w).eccCorr = s.eccCorr := rfl
@[simp] theorem State.setLane_parBad (r i : Nat) (w : Word) (s : State) : (s.setLane r i w).parBad = s.parBad := rfl
@[simp] theorem State.setLane_poison (r i : Nat) (w : Word) (s : State) : (s.setLane r i w).poison = s.poison := rfl
@[simp] theorem State.setLane_cc (r i : Nat) (w : Word) (s : State) : (s.setLane r i w).cc = s.cc := rfl
@[simp] theorem State.setLane_still (r i : Nat) (w : Word) (s : State) : (s.setLane r i w).still = s.still := rfl
@[simp] theorem State.setLane_slots (r i : Nat) (w : Word) (s : State) : (s.setLane r i w).slots = s.slots := rfl
@[simp] theorem State.setLane_row (r i : Nat) (w : Word) (s : State) : (s.setLane r i w).row = s.row := rfl
@[simp] theorem State.setLane_upd (r i : Nat) (w : Word) (s : State) : (s.setLane r i w).upd = s.upd := rfl
@[simp] theorem State.setLane_dma (r i : Nat) (w : Word) (s : State) : (s.setLane r i w).dma = s.dma := rfl
@[simp] theorem State.setLane_sync (r i : Nat) (w : Word) (s : State) : (s.setLane r i w).sync = s.sync := rfl
@[simp] theorem State.setLane_flacon (r i : Nat) (w : Word) (s : State) : (s.setLane r i w).flacon = s.flacon := rfl
@[simp] theorem State.setLane_port (r i : Nat) (w : Word) (s : State) : (s.setLane r i w).port = s.port := rfl
@[simp] theorem State.setLane_wsp (r i : Nat) (w : Word) (s : State) : (s.setLane r i w).wsp = s.wsp := rfl
@[simp] theorem State.setLane_rdata (r i : Nat) (w : Word) (s : State) : (s.setLane r i w).rdata = s.rdata := rfl
@[simp] theorem State.setLane_freeCtr (r i : Nat) (w : Word) (s : State) : (s.setLane r i w).freeCtr = s.freeCtr := rfl
@[simp] theorem State.setLane_pending (r i : Nat) (w : Word) (s : State) : (s.setLane r i w).pending = s.pending := rfl

/-! setPwr -/

@[simp] theorem State.setPwr_sys (p : Pwr) (s : State) : (s.setPwr p).sys = s.sys := rfl
@[simp] theorem State.setPwr_logs (p : Pwr) (s : State) : (s.setPwr p).logs = s.logs := rfl
@[simp] theorem State.setPwr_mgmt (p : Pwr) (s : State) : (s.setPwr p).mgmt = s.mgmt := rfl
@[simp] theorem State.setPwr_regs (p : Pwr) (s : State) : (s.setPwr p).regs = s.regs := rfl
@[simp] theorem State.setPwr_ctrs (p : Pwr) (s : State) : (s.setPwr p).ctrs = s.ctrs := rfl
@[simp] theorem State.setPwr_latch (p : Pwr) (s : State) : (s.setPwr p).latch = s.latch := rfl
@[simp] theorem State.setPwr_lowHeld (p : Pwr) (s : State) : (s.setPwr p).lowHeld = s.lowHeld := rfl
@[simp] theorem State.setPwr_mem (p : Pwr) (s : State) : (s.setPwr p).mem = s.mem := rfl
@[simp] theorem State.setPwr_eccBad (p : Pwr) (s : State) : (s.setPwr p).eccBad = s.eccBad := rfl
@[simp] theorem State.setPwr_eccCorr (p : Pwr) (s : State) : (s.setPwr p).eccCorr = s.eccCorr := rfl
@[simp] theorem State.setPwr_parBad (p : Pwr) (s : State) : (s.setPwr p).parBad = s.parBad := rfl
@[simp] theorem State.setPwr_poison (p : Pwr) (s : State) : (s.setPwr p).poison = s.poison := rfl
@[simp] theorem State.setPwr_cc (p : Pwr) (s : State) : (s.setPwr p).cc = s.cc := rfl
@[simp] theorem State.setPwr_still (p : Pwr) (s : State) : (s.setPwr p).still = s.still := rfl
@[simp] theorem State.setPwr_slots (p : Pwr) (s : State) : (s.setPwr p).slots = s.slots := rfl
@[simp] theorem State.setPwr_vec (p : Pwr) (s : State) : (s.setPwr p).vec = s.vec := rfl
@[simp] theorem State.setPwr_row (p : Pwr) (s : State) : (s.setPwr p).row = s.row := rfl
@[simp] theorem State.setPwr_upd (p : Pwr) (s : State) : (s.setPwr p).upd = s.upd := rfl
@[simp] theorem State.setPwr_dma (p : Pwr) (s : State) : (s.setPwr p).dma = s.dma := rfl
@[simp] theorem State.setPwr_sync (p : Pwr) (s : State) : (s.setPwr p).sync = s.sync := rfl
@[simp] theorem State.setPwr_flacon (p : Pwr) (s : State) : (s.setPwr p).flacon = s.flacon := rfl
@[simp] theorem State.setPwr_port (p : Pwr) (s : State) : (s.setPwr p).port = s.port := rfl
@[simp] theorem State.setPwr_wsp (p : Pwr) (s : State) : (s.setPwr p).wsp = s.wsp := rfl
@[simp] theorem State.setPwr_rdata (p : Pwr) (s : State) : (s.setPwr p).rdata = s.rdata := rfl
@[simp] theorem State.setPwr_freeCtr (p : Pwr) (s : State) : (s.setPwr p).freeCtr = s.freeCtr := rfl
@[simp] theorem State.setPwr_pending (p : Pwr) (s : State) : (s.setPwr p).pending = s.pending := rfl

/-! setGt -/

@[simp] theorem State.setGt_sys (i : Nat) (e : BitVec 128) (s : State) : (s.setGt i e).sys = s.sys := rfl
@[simp] theorem State.setGt_pwr (i : Nat) (e : BitVec 128) (s : State) : (s.setGt i e).pwr = s.pwr := rfl
@[simp] theorem State.setGt_logs (i : Nat) (e : BitVec 128) (s : State) : (s.setGt i e).logs = s.logs := rfl
@[simp] theorem State.setGt_mgmt (i : Nat) (e : BitVec 128) (s : State) : (s.setGt i e).mgmt = s.mgmt := rfl
@[simp] theorem State.setGt_regs (i : Nat) (e : BitVec 128) (s : State) : (s.setGt i e).regs = s.regs := rfl
@[simp] theorem State.setGt_ctrs (i : Nat) (e : BitVec 128) (s : State) : (s.setGt i e).ctrs = s.ctrs := rfl
@[simp] theorem State.setGt_latch (i : Nat) (e : BitVec 128) (s : State) : (s.setGt i e).latch = s.latch := rfl
@[simp] theorem State.setGt_lowHeld (i : Nat) (e : BitVec 128) (s : State) : (s.setGt i e).lowHeld = s.lowHeld := rfl
@[simp] theorem State.setGt_mem (i : Nat) (e : BitVec 128) (s : State) : (s.setGt i e).mem = s.mem := rfl
@[simp] theorem State.setGt_eccBad (i : Nat) (e : BitVec 128) (s : State) : (s.setGt i e).eccBad = s.eccBad := rfl
@[simp] theorem State.setGt_eccCorr (i : Nat) (e : BitVec 128) (s : State) : (s.setGt i e).eccCorr = s.eccCorr := rfl
@[simp] theorem State.setGt_parBad (i : Nat) (e : BitVec 128) (s : State) : (s.setGt i e).parBad = s.parBad := rfl
@[simp] theorem State.setGt_poison (i : Nat) (e : BitVec 128) (s : State) : (s.setGt i e).poison = s.poison := rfl
@[simp] theorem State.setGt_cc (i : Nat) (e : BitVec 128) (s : State) : (s.setGt i e).cc = s.cc := rfl
@[simp] theorem State.setGt_still (i : Nat) (e : BitVec 128) (s : State) : (s.setGt i e).still = s.still := rfl
@[simp] theorem State.setGt_slots (i : Nat) (e : BitVec 128) (s : State) : (s.setGt i e).slots = s.slots := rfl
@[simp] theorem State.setGt_vec (i : Nat) (e : BitVec 128) (s : State) : (s.setGt i e).vec = s.vec := rfl
@[simp] theorem State.setGt_row (i : Nat) (e : BitVec 128) (s : State) : (s.setGt i e).row = s.row := rfl
@[simp] theorem State.setGt_upd (i : Nat) (e : BitVec 128) (s : State) : (s.setGt i e).upd = s.upd := rfl
@[simp] theorem State.setGt_dma (i : Nat) (e : BitVec 128) (s : State) : (s.setGt i e).dma = s.dma := rfl
@[simp] theorem State.setGt_sync (i : Nat) (e : BitVec 128) (s : State) : (s.setGt i e).sync = s.sync := rfl
@[simp] theorem State.setGt_port (i : Nat) (e : BitVec 128) (s : State) : (s.setGt i e).port = s.port := rfl
@[simp] theorem State.setGt_wsp (i : Nat) (e : BitVec 128) (s : State) : (s.setGt i e).wsp = s.wsp := rfl
@[simp] theorem State.setGt_rdata (i : Nat) (e : BitVec 128) (s : State) : (s.setGt i e).rdata = s.rdata := rfl
@[simp] theorem State.setGt_freeCtr (i : Nat) (e : BitVec 128) (s : State) : (s.setGt i e).freeCtr = s.freeCtr := rfl
@[simp] theorem State.setGt_pending (i : Nat) (e : BitVec 128) (s : State) : (s.setGt i e).pending = s.pending := rfl

/-! setSumReg -/

@[simp] theorem State.setSumReg_sys (i : Nat) (v : Sum) (s : State) : (s.setSumReg i v).sys = s.sys := rfl
@[simp] theorem State.setSumReg_pwr (i : Nat) (v : Sum) (s : State) : (s.setSumReg i v).pwr = s.pwr := rfl
@[simp] theorem State.setSumReg_logs (i : Nat) (v : Sum) (s : State) : (s.setSumReg i v).logs = s.logs := rfl
@[simp] theorem State.setSumReg_mgmt (i : Nat) (v : Sum) (s : State) : (s.setSumReg i v).mgmt = s.mgmt := rfl
@[simp] theorem State.setSumReg_regs (i : Nat) (v : Sum) (s : State) : (s.setSumReg i v).regs = s.regs := rfl
@[simp] theorem State.setSumReg_ctrs (i : Nat) (v : Sum) (s : State) : (s.setSumReg i v).ctrs = s.ctrs := rfl
@[simp] theorem State.setSumReg_latch (i : Nat) (v : Sum) (s : State) : (s.setSumReg i v).latch = s.latch := rfl
@[simp] theorem State.setSumReg_lowHeld (i : Nat) (v : Sum) (s : State) : (s.setSumReg i v).lowHeld = s.lowHeld := rfl
@[simp] theorem State.setSumReg_mem (i : Nat) (v : Sum) (s : State) : (s.setSumReg i v).mem = s.mem := rfl
@[simp] theorem State.setSumReg_eccBad (i : Nat) (v : Sum) (s : State) : (s.setSumReg i v).eccBad = s.eccBad := rfl
@[simp] theorem State.setSumReg_eccCorr (i : Nat) (v : Sum) (s : State) : (s.setSumReg i v).eccCorr = s.eccCorr := rfl
@[simp] theorem State.setSumReg_parBad (i : Nat) (v : Sum) (s : State) : (s.setSumReg i v).parBad = s.parBad := rfl
@[simp] theorem State.setSumReg_poison (i : Nat) (v : Sum) (s : State) : (s.setSumReg i v).poison = s.poison := rfl
@[simp] theorem State.setSumReg_cc (i : Nat) (v : Sum) (s : State) : (s.setSumReg i v).cc = s.cc := rfl
@[simp] theorem State.setSumReg_still (i : Nat) (v : Sum) (s : State) : (s.setSumReg i v).still = s.still := rfl
@[simp] theorem State.setSumReg_slots (i : Nat) (v : Sum) (s : State) : (s.setSumReg i v).slots = s.slots := rfl
@[simp] theorem State.setSumReg_row (i : Nat) (v : Sum) (s : State) : (s.setSumReg i v).row = s.row := rfl
@[simp] theorem State.setSumReg_upd (i : Nat) (v : Sum) (s : State) : (s.setSumReg i v).upd = s.upd := rfl
@[simp] theorem State.setSumReg_dma (i : Nat) (v : Sum) (s : State) : (s.setSumReg i v).dma = s.dma := rfl
@[simp] theorem State.setSumReg_sync (i : Nat) (v : Sum) (s : State) : (s.setSumReg i v).sync = s.sync := rfl
@[simp] theorem State.setSumReg_flacon (i : Nat) (v : Sum) (s : State) : (s.setSumReg i v).flacon = s.flacon := rfl
@[simp] theorem State.setSumReg_port (i : Nat) (v : Sum) (s : State) : (s.setSumReg i v).port = s.port := rfl
@[simp] theorem State.setSumReg_wsp (i : Nat) (v : Sum) (s : State) : (s.setSumReg i v).wsp = s.wsp := rfl
@[simp] theorem State.setSumReg_rdata (i : Nat) (v : Sum) (s : State) : (s.setSumReg i v).rdata = s.rdata := rfl
@[simp] theorem State.setSumReg_freeCtr (i : Nat) (v : Sum) (s : State) : (s.setSumReg i v).freeCtr = s.freeCtr := rfl
@[simp] theorem State.setSumReg_pending (i : Nat) (v : Sum) (s : State) : (s.setSumReg i v).pending = s.pending := rfl

/-! setXfers -/

@[simp] theorem State.setXfers_sys (ch : Nat) (l : List Xfer) (s : State) : (s.setXfers ch l).sys = s.sys := rfl
@[simp] theorem State.setXfers_pwr (ch : Nat) (l : List Xfer) (s : State) : (s.setXfers ch l).pwr = s.pwr := rfl
@[simp] theorem State.setXfers_logs (ch : Nat) (l : List Xfer) (s : State) : (s.setXfers ch l).logs = s.logs := rfl
@[simp] theorem State.setXfers_mgmt (ch : Nat) (l : List Xfer) (s : State) : (s.setXfers ch l).mgmt = s.mgmt := rfl
@[simp] theorem State.setXfers_regs (ch : Nat) (l : List Xfer) (s : State) : (s.setXfers ch l).regs = s.regs := rfl
@[simp] theorem State.setXfers_ctrs (ch : Nat) (l : List Xfer) (s : State) : (s.setXfers ch l).ctrs = s.ctrs := rfl
@[simp] theorem State.setXfers_latch (ch : Nat) (l : List Xfer) (s : State) : (s.setXfers ch l).latch = s.latch := rfl
@[simp] theorem State.setXfers_lowHeld (ch : Nat) (l : List Xfer) (s : State) : (s.setXfers ch l).lowHeld = s.lowHeld := rfl
@[simp] theorem State.setXfers_mem (ch : Nat) (l : List Xfer) (s : State) : (s.setXfers ch l).mem = s.mem := rfl
@[simp] theorem State.setXfers_eccBad (ch : Nat) (l : List Xfer) (s : State) : (s.setXfers ch l).eccBad = s.eccBad := rfl
@[simp] theorem State.setXfers_eccCorr (ch : Nat) (l : List Xfer) (s : State) : (s.setXfers ch l).eccCorr = s.eccCorr := rfl
@[simp] theorem State.setXfers_parBad (ch : Nat) (l : List Xfer) (s : State) : (s.setXfers ch l).parBad = s.parBad := rfl
@[simp] theorem State.setXfers_poison (ch : Nat) (l : List Xfer) (s : State) : (s.setXfers ch l).poison = s.poison := rfl
@[simp] theorem State.setXfers_cc (ch : Nat) (l : List Xfer) (s : State) : (s.setXfers ch l).cc = s.cc := rfl
@[simp] theorem State.setXfers_still (ch : Nat) (l : List Xfer) (s : State) : (s.setXfers ch l).still = s.still := rfl
@[simp] theorem State.setXfers_slots (ch : Nat) (l : List Xfer) (s : State) : (s.setXfers ch l).slots = s.slots := rfl
@[simp] theorem State.setXfers_vec (ch : Nat) (l : List Xfer) (s : State) : (s.setXfers ch l).vec = s.vec := rfl
@[simp] theorem State.setXfers_row (ch : Nat) (l : List Xfer) (s : State) : (s.setXfers ch l).row = s.row := rfl
@[simp] theorem State.setXfers_upd (ch : Nat) (l : List Xfer) (s : State) : (s.setXfers ch l).upd = s.upd := rfl
@[simp] theorem State.setXfers_sync (ch : Nat) (l : List Xfer) (s : State) : (s.setXfers ch l).sync = s.sync := rfl
@[simp] theorem State.setXfers_flacon (ch : Nat) (l : List Xfer) (s : State) : (s.setXfers ch l).flacon = s.flacon := rfl
@[simp] theorem State.setXfers_port (ch : Nat) (l : List Xfer) (s : State) : (s.setXfers ch l).port = s.port := rfl
@[simp] theorem State.setXfers_wsp (ch : Nat) (l : List Xfer) (s : State) : (s.setXfers ch l).wsp = s.wsp := rfl
@[simp] theorem State.setXfers_rdata (ch : Nat) (l : List Xfer) (s : State) : (s.setXfers ch l).rdata = s.rdata := rfl
@[simp] theorem State.setXfers_freeCtr (ch : Nat) (l : List Xfer) (s : State) : (s.setXfers ch l).freeCtr = s.freeCtr := rfl
@[simp] theorem State.setXfers_pending (ch : Nat) (l : List Xfer) (s : State) : (s.setXfers ch l).pending = s.pending := rfl

/-! setCvuHold -/

@[simp] theorem State.setCvuHold_sys (c : Nat) (h : CvuHold) (s : State) : (s.setCvuHold c h).sys = s.sys := rfl
@[simp] theorem State.setCvuHold_pwr (c : Nat) (h : CvuHold) (s : State) : (s.setCvuHold c h).pwr = s.pwr := rfl
@[simp] theorem State.setCvuHold_logs (c : Nat) (h : CvuHold) (s : State) : (s.setCvuHold c h).logs = s.logs := rfl
@[simp] theorem State.setCvuHold_mgmt (c : Nat) (h : CvuHold) (s : State) : (s.setCvuHold c h).mgmt = s.mgmt := rfl
@[simp] theorem State.setCvuHold_regs (c : Nat) (h : CvuHold) (s : State) : (s.setCvuHold c h).regs = s.regs := rfl
@[simp] theorem State.setCvuHold_ctrs (c : Nat) (h : CvuHold) (s : State) : (s.setCvuHold c h).ctrs = s.ctrs := rfl
@[simp] theorem State.setCvuHold_latch (c : Nat) (h : CvuHold) (s : State) : (s.setCvuHold c h).latch = s.latch := rfl
@[simp] theorem State.setCvuHold_lowHeld (c : Nat) (h : CvuHold) (s : State) : (s.setCvuHold c h).lowHeld = s.lowHeld := rfl
@[simp] theorem State.setCvuHold_mem (c : Nat) (h : CvuHold) (s : State) : (s.setCvuHold c h).mem = s.mem := rfl
@[simp] theorem State.setCvuHold_eccBad (c : Nat) (h : CvuHold) (s : State) : (s.setCvuHold c h).eccBad = s.eccBad := rfl
@[simp] theorem State.setCvuHold_eccCorr (c : Nat) (h : CvuHold) (s : State) : (s.setCvuHold c h).eccCorr = s.eccCorr := rfl
@[simp] theorem State.setCvuHold_parBad (c : Nat) (h : CvuHold) (s : State) : (s.setCvuHold c h).parBad = s.parBad := rfl
@[simp] theorem State.setCvuHold_poison (c : Nat) (h : CvuHold) (s : State) : (s.setCvuHold c h).poison = s.poison := rfl
@[simp] theorem State.setCvuHold_cc (c : Nat) (h : CvuHold) (s : State) : (s.setCvuHold c h).cc = s.cc := rfl
@[simp] theorem State.setCvuHold_still (c : Nat) (h : CvuHold) (s : State) : (s.setCvuHold c h).still = s.still := rfl
@[simp] theorem State.setCvuHold_slots (c : Nat) (h : CvuHold) (s : State) : (s.setCvuHold c h).slots = s.slots := rfl
@[simp] theorem State.setCvuHold_vec (c : Nat) (h : CvuHold) (s : State) : (s.setCvuHold c h).vec = s.vec := rfl
@[simp] theorem State.setCvuHold_row (c : Nat) (h : CvuHold) (s : State) : (s.setCvuHold c h).row = s.row := rfl
@[simp] theorem State.setCvuHold_upd (c : Nat) (h : CvuHold) (s : State) : (s.setCvuHold c h).upd = s.upd := rfl
@[simp] theorem State.setCvuHold_dma (c : Nat) (h : CvuHold) (s : State) : (s.setCvuHold c h).dma = s.dma := rfl
@[simp] theorem State.setCvuHold_sync (c : Nat) (h : CvuHold) (s : State) : (s.setCvuHold c h).sync = s.sync := rfl
@[simp] theorem State.setCvuHold_port (c : Nat) (h : CvuHold) (s : State) : (s.setCvuHold c h).port = s.port := rfl
@[simp] theorem State.setCvuHold_wsp (c : Nat) (h : CvuHold) (s : State) : (s.setCvuHold c h).wsp = s.wsp := rfl
@[simp] theorem State.setCvuHold_rdata (c : Nat) (h : CvuHold) (s : State) : (s.setCvuHold c h).rdata = s.rdata := rfl
@[simp] theorem State.setCvuHold_freeCtr (c : Nat) (h : CvuHold) (s : State) : (s.setCvuHold c h).freeCtr = s.freeCtr := rfl
@[simp] theorem State.setCvuHold_pending (c : Nat) (h : CvuHold) (s : State) : (s.setCvuHold c h).pending = s.pending := rfl

/-! setOutLane -/

@[simp] theorem State.setOutLane_sys (i : Nat) (v : OutLane) (s : State) : (s.setOutLane i v).sys = s.sys := rfl
@[simp] theorem State.setOutLane_pwr (i : Nat) (v : OutLane) (s : State) : (s.setOutLane i v).pwr = s.pwr := rfl
@[simp] theorem State.setOutLane_logs (i : Nat) (v : OutLane) (s : State) : (s.setOutLane i v).logs = s.logs := rfl
@[simp] theorem State.setOutLane_mgmt (i : Nat) (v : OutLane) (s : State) : (s.setOutLane i v).mgmt = s.mgmt := rfl
@[simp] theorem State.setOutLane_regs (i : Nat) (v : OutLane) (s : State) : (s.setOutLane i v).regs = s.regs := rfl
@[simp] theorem State.setOutLane_ctrs (i : Nat) (v : OutLane) (s : State) : (s.setOutLane i v).ctrs = s.ctrs := rfl
@[simp] theorem State.setOutLane_latch (i : Nat) (v : OutLane) (s : State) : (s.setOutLane i v).latch = s.latch := rfl
@[simp] theorem State.setOutLane_lowHeld (i : Nat) (v : OutLane) (s : State) : (s.setOutLane i v).lowHeld = s.lowHeld := rfl
@[simp] theorem State.setOutLane_mem (i : Nat) (v : OutLane) (s : State) : (s.setOutLane i v).mem = s.mem := rfl
@[simp] theorem State.setOutLane_eccBad (i : Nat) (v : OutLane) (s : State) : (s.setOutLane i v).eccBad = s.eccBad := rfl
@[simp] theorem State.setOutLane_eccCorr (i : Nat) (v : OutLane) (s : State) : (s.setOutLane i v).eccCorr = s.eccCorr := rfl
@[simp] theorem State.setOutLane_parBad (i : Nat) (v : OutLane) (s : State) : (s.setOutLane i v).parBad = s.parBad := rfl
@[simp] theorem State.setOutLane_poison (i : Nat) (v : OutLane) (s : State) : (s.setOutLane i v).poison = s.poison := rfl
@[simp] theorem State.setOutLane_cc (i : Nat) (v : OutLane) (s : State) : (s.setOutLane i v).cc = s.cc := rfl
@[simp] theorem State.setOutLane_still (i : Nat) (v : OutLane) (s : State) : (s.setOutLane i v).still = s.still := rfl
@[simp] theorem State.setOutLane_slots (i : Nat) (v : OutLane) (s : State) : (s.setOutLane i v).slots = s.slots := rfl
@[simp] theorem State.setOutLane_vec (i : Nat) (v : OutLane) (s : State) : (s.setOutLane i v).vec = s.vec := rfl
@[simp] theorem State.setOutLane_row (i : Nat) (v : OutLane) (s : State) : (s.setOutLane i v).row = s.row := rfl
@[simp] theorem State.setOutLane_upd (i : Nat) (v : OutLane) (s : State) : (s.setOutLane i v).upd = s.upd := rfl
@[simp] theorem State.setOutLane_dma (i : Nat) (v : OutLane) (s : State) : (s.setOutLane i v).dma = s.dma := rfl
@[simp] theorem State.setOutLane_sync (i : Nat) (v : OutLane) (s : State) : (s.setOutLane i v).sync = s.sync := rfl
@[simp] theorem State.setOutLane_flacon (i : Nat) (v : OutLane) (s : State) : (s.setOutLane i v).flacon = s.flacon := rfl
@[simp] theorem State.setOutLane_wsp (i : Nat) (v : OutLane) (s : State) : (s.setOutLane i v).wsp = s.wsp := rfl
@[simp] theorem State.setOutLane_rdata (i : Nat) (v : OutLane) (s : State) : (s.setOutLane i v).rdata = s.rdata := rfl
@[simp] theorem State.setOutLane_freeCtr (i : Nat) (v : OutLane) (s : State) : (s.setOutLane i v).freeCtr = s.freeCtr := rfl
@[simp] theorem State.setOutLane_pending (i : Nat) (v : OutLane) (s : State) : (s.setOutLane i v).pending = s.pending := rfl

/-! setInLane -/

@[simp] theorem State.setInLane_sys (i : Nat) (v : InLane) (s : State) : (s.setInLane i v).sys = s.sys := rfl
@[simp] theorem State.setInLane_pwr (i : Nat) (v : InLane) (s : State) : (s.setInLane i v).pwr = s.pwr := rfl
@[simp] theorem State.setInLane_logs (i : Nat) (v : InLane) (s : State) : (s.setInLane i v).logs = s.logs := rfl
@[simp] theorem State.setInLane_mgmt (i : Nat) (v : InLane) (s : State) : (s.setInLane i v).mgmt = s.mgmt := rfl
@[simp] theorem State.setInLane_regs (i : Nat) (v : InLane) (s : State) : (s.setInLane i v).regs = s.regs := rfl
@[simp] theorem State.setInLane_ctrs (i : Nat) (v : InLane) (s : State) : (s.setInLane i v).ctrs = s.ctrs := rfl
@[simp] theorem State.setInLane_latch (i : Nat) (v : InLane) (s : State) : (s.setInLane i v).latch = s.latch := rfl
@[simp] theorem State.setInLane_lowHeld (i : Nat) (v : InLane) (s : State) : (s.setInLane i v).lowHeld = s.lowHeld := rfl
@[simp] theorem State.setInLane_mem (i : Nat) (v : InLane) (s : State) : (s.setInLane i v).mem = s.mem := rfl
@[simp] theorem State.setInLane_eccBad (i : Nat) (v : InLane) (s : State) : (s.setInLane i v).eccBad = s.eccBad := rfl
@[simp] theorem State.setInLane_eccCorr (i : Nat) (v : InLane) (s : State) : (s.setInLane i v).eccCorr = s.eccCorr := rfl
@[simp] theorem State.setInLane_parBad (i : Nat) (v : InLane) (s : State) : (s.setInLane i v).parBad = s.parBad := rfl
@[simp] theorem State.setInLane_poison (i : Nat) (v : InLane) (s : State) : (s.setInLane i v).poison = s.poison := rfl
@[simp] theorem State.setInLane_cc (i : Nat) (v : InLane) (s : State) : (s.setInLane i v).cc = s.cc := rfl
@[simp] theorem State.setInLane_still (i : Nat) (v : InLane) (s : State) : (s.setInLane i v).still = s.still := rfl
@[simp] theorem State.setInLane_slots (i : Nat) (v : InLane) (s : State) : (s.setInLane i v).slots = s.slots := rfl
@[simp] theorem State.setInLane_vec (i : Nat) (v : InLane) (s : State) : (s.setInLane i v).vec = s.vec := rfl
@[simp] theorem State.setInLane_row (i : Nat) (v : InLane) (s : State) : (s.setInLane i v).row = s.row := rfl
@[simp] theorem State.setInLane_upd (i : Nat) (v : InLane) (s : State) : (s.setInLane i v).upd = s.upd := rfl
@[simp] theorem State.setInLane_dma (i : Nat) (v : InLane) (s : State) : (s.setInLane i v).dma = s.dma := rfl
@[simp] theorem State.setInLane_sync (i : Nat) (v : InLane) (s : State) : (s.setInLane i v).sync = s.sync := rfl
@[simp] theorem State.setInLane_flacon (i : Nat) (v : InLane) (s : State) : (s.setInLane i v).flacon = s.flacon := rfl
@[simp] theorem State.setInLane_wsp (i : Nat) (v : InLane) (s : State) : (s.setInLane i v).wsp = s.wsp := rfl
@[simp] theorem State.setInLane_rdata (i : Nat) (v : InLane) (s : State) : (s.setInLane i v).rdata = s.rdata := rfl
@[simp] theorem State.setInLane_freeCtr (i : Nat) (v : InLane) (s : State) : (s.setInLane i v).freeCtr = s.freeCtr := rfl
@[simp] theorem State.setInLane_pending (i : Nat) (v : InLane) (s : State) : (s.setInLane i v).pending = s.pending := rfl

/-! setDisp -/

@[simp] theorem State.setDisp_sys (t : Thread) (d : Disp) (s : State) : (s.setDisp t d).sys = s.sys := by cases t <;> rfl
@[simp] theorem State.setDisp_pwr (t : Thread) (d : Disp) (s : State) : (s.setDisp t d).pwr = s.pwr := by cases t <;> rfl
@[simp] theorem State.setDisp_logs (t : Thread) (d : Disp) (s : State) : (s.setDisp t d).logs = s.logs := by cases t <;> rfl
@[simp] theorem State.setDisp_mgmt (t : Thread) (d : Disp) (s : State) : (s.setDisp t d).mgmt = s.mgmt := by cases t <;> rfl
@[simp] theorem State.setDisp_regs (t : Thread) (d : Disp) (s : State) : (s.setDisp t d).regs = s.regs := by cases t <;> rfl
@[simp] theorem State.setDisp_ctrs (t : Thread) (d : Disp) (s : State) : (s.setDisp t d).ctrs = s.ctrs := by cases t <;> rfl
@[simp] theorem State.setDisp_latch (t : Thread) (d : Disp) (s : State) : (s.setDisp t d).latch = s.latch := by cases t <;> rfl
@[simp] theorem State.setDisp_lowHeld (t : Thread) (d : Disp) (s : State) : (s.setDisp t d).lowHeld = s.lowHeld := by cases t <;> rfl
@[simp] theorem State.setDisp_mem (t : Thread) (d : Disp) (s : State) : (s.setDisp t d).mem = s.mem := by cases t <;> rfl
@[simp] theorem State.setDisp_eccBad (t : Thread) (d : Disp) (s : State) : (s.setDisp t d).eccBad = s.eccBad := by cases t <;> rfl
@[simp] theorem State.setDisp_eccCorr (t : Thread) (d : Disp) (s : State) : (s.setDisp t d).eccCorr = s.eccCorr := by cases t <;> rfl
@[simp] theorem State.setDisp_parBad (t : Thread) (d : Disp) (s : State) : (s.setDisp t d).parBad = s.parBad := by cases t <;> rfl
@[simp] theorem State.setDisp_poison (t : Thread) (d : Disp) (s : State) : (s.setDisp t d).poison = s.poison := by cases t <;> rfl
@[simp] theorem State.setDisp_still (t : Thread) (d : Disp) (s : State) : (s.setDisp t d).still = s.still := by cases t <;> rfl
@[simp] theorem State.setDisp_slots (t : Thread) (d : Disp) (s : State) : (s.setDisp t d).slots = s.slots := by cases t <;> rfl
@[simp] theorem State.setDisp_vec (t : Thread) (d : Disp) (s : State) : (s.setDisp t d).vec = s.vec := by cases t <;> rfl
@[simp] theorem State.setDisp_row (t : Thread) (d : Disp) (s : State) : (s.setDisp t d).row = s.row := by cases t <;> rfl
@[simp] theorem State.setDisp_upd (t : Thread) (d : Disp) (s : State) : (s.setDisp t d).upd = s.upd := by cases t <;> rfl
@[simp] theorem State.setDisp_dma (t : Thread) (d : Disp) (s : State) : (s.setDisp t d).dma = s.dma := by cases t <;> rfl
@[simp] theorem State.setDisp_sync (t : Thread) (d : Disp) (s : State) : (s.setDisp t d).sync = s.sync := by cases t <;> rfl
@[simp] theorem State.setDisp_flacon (t : Thread) (d : Disp) (s : State) : (s.setDisp t d).flacon = s.flacon := by cases t <;> rfl
@[simp] theorem State.setDisp_port (t : Thread) (d : Disp) (s : State) : (s.setDisp t d).port = s.port := by cases t <;> rfl
@[simp] theorem State.setDisp_wsp (t : Thread) (d : Disp) (s : State) : (s.setDisp t d).wsp = s.wsp := by cases t <;> rfl
@[simp] theorem State.setDisp_rdata (t : Thread) (d : Disp) (s : State) : (s.setDisp t d).rdata = s.rdata := by cases t <;> rfl
@[simp] theorem State.setDisp_freeCtr (t : Thread) (d : Disp) (s : State) : (s.setDisp t d).freeCtr = s.freeCtr := by cases t <;> rfl
@[simp] theorem State.setDisp_pending (t : Thread) (d : Disp) (s : State) : (s.setDisp t d).pending = s.pending := by cases t <;> rfl

/-! setCtxt -/

@[simp] theorem State.setCtxt_sys (c : Ctx) (v : Ctxt) (s : State) : (s.setCtxt c v).sys = s.sys := by cases c <;> rfl
@[simp] theorem State.setCtxt_pwr (c : Ctx) (v : Ctxt) (s : State) : (s.setCtxt c v).pwr = s.pwr := by cases c <;> rfl
@[simp] theorem State.setCtxt_logs (c : Ctx) (v : Ctxt) (s : State) : (s.setCtxt c v).logs = s.logs := by cases c <;> rfl
@[simp] theorem State.setCtxt_mgmt (c : Ctx) (v : Ctxt) (s : State) : (s.setCtxt c v).mgmt = s.mgmt := by cases c <;> rfl
@[simp] theorem State.setCtxt_regs (c : Ctx) (v : Ctxt) (s : State) : (s.setCtxt c v).regs = s.regs := by cases c <;> rfl
@[simp] theorem State.setCtxt_ctrs (c : Ctx) (v : Ctxt) (s : State) : (s.setCtxt c v).ctrs = s.ctrs := by cases c <;> rfl
@[simp] theorem State.setCtxt_latch (c : Ctx) (v : Ctxt) (s : State) : (s.setCtxt c v).latch = s.latch := by cases c <;> rfl
@[simp] theorem State.setCtxt_lowHeld (c : Ctx) (v : Ctxt) (s : State) : (s.setCtxt c v).lowHeld = s.lowHeld := by cases c <;> rfl
@[simp] theorem State.setCtxt_mem (c : Ctx) (v : Ctxt) (s : State) : (s.setCtxt c v).mem = s.mem := by cases c <;> rfl
@[simp] theorem State.setCtxt_eccBad (c : Ctx) (v : Ctxt) (s : State) : (s.setCtxt c v).eccBad = s.eccBad := by cases c <;> rfl
@[simp] theorem State.setCtxt_eccCorr (c : Ctx) (v : Ctxt) (s : State) : (s.setCtxt c v).eccCorr = s.eccCorr := by cases c <;> rfl
@[simp] theorem State.setCtxt_parBad (c : Ctx) (v : Ctxt) (s : State) : (s.setCtxt c v).parBad = s.parBad := by cases c <;> rfl
@[simp] theorem State.setCtxt_poison (c : Ctx) (v : Ctxt) (s : State) : (s.setCtxt c v).poison = s.poison := by cases c <;> rfl
@[simp] theorem State.setCtxt_still (c : Ctx) (v : Ctxt) (s : State) : (s.setCtxt c v).still = s.still := by cases c <;> rfl
@[simp] theorem State.setCtxt_slots (c : Ctx) (v : Ctxt) (s : State) : (s.setCtxt c v).slots = s.slots := by cases c <;> rfl
@[simp] theorem State.setCtxt_vec (c : Ctx) (v : Ctxt) (s : State) : (s.setCtxt c v).vec = s.vec := by cases c <;> rfl
@[simp] theorem State.setCtxt_row (c : Ctx) (v : Ctxt) (s : State) : (s.setCtxt c v).row = s.row := by cases c <;> rfl
@[simp] theorem State.setCtxt_upd (c : Ctx) (v : Ctxt) (s : State) : (s.setCtxt c v).upd = s.upd := by cases c <;> rfl
@[simp] theorem State.setCtxt_dma (c : Ctx) (v : Ctxt) (s : State) : (s.setCtxt c v).dma = s.dma := by cases c <;> rfl
@[simp] theorem State.setCtxt_sync (c : Ctx) (v : Ctxt) (s : State) : (s.setCtxt c v).sync = s.sync := by cases c <;> rfl
@[simp] theorem State.setCtxt_flacon (c : Ctx) (v : Ctxt) (s : State) : (s.setCtxt c v).flacon = s.flacon := by cases c <;> rfl
@[simp] theorem State.setCtxt_port (c : Ctx) (v : Ctxt) (s : State) : (s.setCtxt c v).port = s.port := by cases c <;> rfl
@[simp] theorem State.setCtxt_wsp (c : Ctx) (v : Ctxt) (s : State) : (s.setCtxt c v).wsp = s.wsp := by cases c <;> rfl
@[simp] theorem State.setCtxt_rdata (c : Ctx) (v : Ctxt) (s : State) : (s.setCtxt c v).rdata = s.rdata := by cases c <;> rfl
@[simp] theorem State.setCtxt_freeCtr (c : Ctx) (v : Ctxt) (s : State) : (s.setCtxt c v).freeCtr = s.freeCtr := by cases c <;> rfl
@[simp] theorem State.setCtxt_pending (c : Ctx) (v : Ctxt) (s : State) : (s.setCtxt c v).pending = s.pending := by cases c <;> rfl

/-! setCore -/

@[simp] theorem State.setCore_pwr (c : CoreState) (s : State) : (s.setCore c).pwr = s.pwr := by simp only [State.setCore, State.blotter_pwr]
@[simp] theorem State.setCore_mgmt (c : CoreState) (s : State) : (s.setCore c).mgmt = s.mgmt := by simp only [State.setCore, State.blotter_mgmt]
@[simp] theorem State.setCore_regs (c : CoreState) (s : State) : (s.setCore c).regs = s.regs := by simp only [State.setCore, State.blotter_regs]
@[simp] theorem State.setCore_latch (c : CoreState) (s : State) : (s.setCore c).latch = s.latch := by simp only [State.setCore, State.blotter_latch]
@[simp] theorem State.setCore_lowHeld (c : CoreState) (s : State) : (s.setCore c).lowHeld = s.lowHeld := by simp only [State.setCore, State.blotter_lowHeld]
@[simp] theorem State.setCore_mem (c : CoreState) (s : State) : (s.setCore c).mem = s.mem := by simp only [State.setCore, State.blotter_mem]
@[simp] theorem State.setCore_eccBad (c : CoreState) (s : State) : (s.setCore c).eccBad = s.eccBad := by simp only [State.setCore, State.blotter_eccBad]
@[simp] theorem State.setCore_eccCorr (c : CoreState) (s : State) : (s.setCore c).eccCorr = s.eccCorr := by simp only [State.setCore, State.blotter_eccCorr]
@[simp] theorem State.setCore_parBad (c : CoreState) (s : State) : (s.setCore c).parBad = s.parBad := by simp only [State.setCore, State.blotter_parBad]
@[simp] theorem State.setCore_poison (c : CoreState) (s : State) : (s.setCore c).poison = s.poison := by simp only [State.setCore, State.blotter_poison]
@[simp] theorem State.setCore_cc (c : CoreState) (s : State) : (s.setCore c).cc = s.cc := by simp only [State.setCore, State.blotter_cc]
@[simp] theorem State.setCore_still (c : CoreState) (s : State) : (s.setCore c).still = s.still := by simp only [State.setCore, State.blotter_still]
@[simp] theorem State.setCore_slots (c : CoreState) (s : State) : (s.setCore c).slots = s.slots := by simp only [State.setCore, State.blotter_slots]
@[simp] theorem State.setCore_vec (c : CoreState) (s : State) : (s.setCore c).vec = s.vec := by simp only [State.setCore, State.blotter_vec]
@[simp] theorem State.setCore_row (c : CoreState) (s : State) : (s.setCore c).row = s.row := by simp only [State.setCore, State.blotter_row]
@[simp] theorem State.setCore_upd (c : CoreState) (s : State) : (s.setCore c).upd = s.upd := by simp only [State.setCore, State.blotter_upd]
@[simp] theorem State.setCore_dma (c : CoreState) (s : State) : (s.setCore c).dma = s.dma := by simp only [State.setCore, State.blotter_dma]
@[simp] theorem State.setCore_sync (c : CoreState) (s : State) : (s.setCore c).sync = s.sync := by simp only [State.setCore, State.blotter_sync]
@[simp] theorem State.setCore_flacon (c : CoreState) (s : State) : (s.setCore c).flacon = s.flacon := by simp only [State.setCore, State.blotter_flacon]
@[simp] theorem State.setCore_port (c : CoreState) (s : State) : (s.setCore c).port = s.port := by simp only [State.setCore, State.blotter_port]
@[simp] theorem State.setCore_wsp (c : CoreState) (s : State) : (s.setCore c).wsp = s.wsp := by simp only [State.setCore, State.blotter_wsp]
@[simp] theorem State.setCore_rdata (c : CoreState) (s : State) : (s.setCore c).rdata = s.rdata := by simp only [State.setCore, State.blotter_rdata]
@[simp] theorem State.setCore_freeCtr (c : CoreState) (s : State) : (s.setCore c).freeCtr = s.freeCtr := by simp only [State.setCore, State.blotter_freeCtr]
@[simp] theorem State.setCore_pending (c : CoreState) (s : State) : (s.setCore c).pending = s.pending := by simp only [State.setCore, State.blotter_pending]

/-! served1 -/

@[simp] theorem State.served1_sys (s : State) : (s.served1).sys = s.sys := rfl
@[simp] theorem State.served1_pwr (s : State) : (s.served1).pwr = s.pwr := rfl
@[simp] theorem State.served1_logs (s : State) : (s.served1).logs = s.logs := rfl
@[simp] theorem State.served1_regs (s : State) : (s.served1).regs = s.regs := rfl
@[simp] theorem State.served1_ctrs (s : State) : (s.served1).ctrs = s.ctrs := rfl
@[simp] theorem State.served1_latch (s : State) : (s.served1).latch = s.latch := rfl
@[simp] theorem State.served1_lowHeld (s : State) : (s.served1).lowHeld = s.lowHeld := rfl
@[simp] theorem State.served1_mem (s : State) : (s.served1).mem = s.mem := rfl
@[simp] theorem State.served1_eccBad (s : State) : (s.served1).eccBad = s.eccBad := rfl
@[simp] theorem State.served1_eccCorr (s : State) : (s.served1).eccCorr = s.eccCorr := rfl
@[simp] theorem State.served1_parBad (s : State) : (s.served1).parBad = s.parBad := rfl
@[simp] theorem State.served1_poison (s : State) : (s.served1).poison = s.poison := rfl
@[simp] theorem State.served1_cc (s : State) : (s.served1).cc = s.cc := rfl
@[simp] theorem State.served1_still (s : State) : (s.served1).still = s.still := rfl
@[simp] theorem State.served1_slots (s : State) : (s.served1).slots = s.slots := rfl
@[simp] theorem State.served1_vec (s : State) : (s.served1).vec = s.vec := rfl
@[simp] theorem State.served1_row (s : State) : (s.served1).row = s.row := rfl
@[simp] theorem State.served1_upd (s : State) : (s.served1).upd = s.upd := rfl
@[simp] theorem State.served1_dma (s : State) : (s.served1).dma = s.dma := rfl
@[simp] theorem State.served1_sync (s : State) : (s.served1).sync = s.sync := rfl
@[simp] theorem State.served1_flacon (s : State) : (s.served1).flacon = s.flacon := rfl
@[simp] theorem State.served1_port (s : State) : (s.served1).port = s.port := rfl
@[simp] theorem State.served1_wsp (s : State) : (s.served1).wsp = s.wsp := rfl
@[simp] theorem State.served1_rdata (s : State) : (s.served1).rdata = s.rdata := rfl
@[simp] theorem State.served1_freeCtr (s : State) : (s.served1).freeCtr = s.freeCtr := rfl
@[simp] theorem State.served1_pending (s : State) : (s.served1).pending = s.pending := rfl

/-! Reading what was written -/

@[simp] theorem State.setPwr_pwr (p : Pwr) (s : State) : (s.setPwr p).pwr = p := rfl
@[simp] theorem State.setDisp_disp (t : Thread) (d : Disp) (s : State) : (s.setDisp t d).disp t = d := by cases t <;> rfl
@[simp] theorem State.setCtxt_ctxt (c : Ctx) (v : Ctxt) (s : State) : (s.setCtxt c v).ctxt c = v := by cases c <;> rfl
@[simp] theorem State.served1_cur (s : State) : s.served1.mgmt.cur = none := rfl

/-- A core-state change changes CORE_STATE and nothing else of the system block. -/
theorem State.setCore_sys (c : CoreState) (s : State) : (s.setCore c).sys = { s.sys with core := c } := by
  simp only [State.setCore, State.blotter]
  split
  · split
    · rfl
    · split <;> simp
  · rfl

end Sys2Proof.Machine
end

