-- ==== Sys2Proof/Laws/Tab.lean ====
section
/-! SUPPORT. Laws of sparse tables: reading after writing, and the canonical form, which writing and filtering keep. -/

set_option Elab.async false

namespace Sys2Proof.Machine

theorem Tab.get_insert_same {α : Type} (d : α) (t : Tab α) (k : Nat) (v : α) : Tab.get d (t.insert k v) k = v := by
  induction t with
  | nil => simp [Tab.insert, Tab.get]
  | cons e t ih =>
    obtain ⟨j, w⟩ := e
    simp only [Tab.insert]
    split
    · simp [Tab.get]
    · split
      · simp [Tab.get]
      · simp [Tab.get, *]

theorem Tab.get_insert_other {α : Type} (d : α) (t : Tab α) (k i : Nat) (v : α) (h : i ≠ k) :
    Tab.get d (t.insert k v) i = Tab.get d t i := by
  induction t with
  | nil => simp [Tab.insert, Tab.get, Ne.symm h]
  | cons e t ih =>
    obtain ⟨j, w⟩ := e
    simp only [Tab.insert]
    split
    · subst_vars; simp [Tab.get, Ne.symm h]
    · split
      · simp [Tab.get, Ne.symm h]
      · simp [Tab.get, ih]

theorem Tab.wfFrom_le {α : Type} [DecidableEq α] (d : α) (t : Tab α) (b c : Nat) (h : Tab.wfFrom d c t = true) (hb : b ≤ c) :
    Tab.wfFrom d b t = true := by
  cases t with
  | nil => rfl
  | cons e t =>
    obtain ⟨j, w⟩ := e
    simp only [Tab.wfFrom, Bool.and_eq_true, decide_eq_true_eq] at h ⊢
    exact ⟨⟨by omega, h.1.2⟩, h.2⟩

theorem Tab.get_erase {α : Type} (d : α) (t : Tab α) (k i : Nat) :
    Tab.get d (t.erase k) i = if i = k then d else Tab.get d t i := by
  induction t with
  | nil => simp [Tab.erase, Tab.get]
  | cons e t ih =>
    obtain ⟨j, w⟩ := e
    simp only [Tab.erase]
    by_cases hj : j = k
    · subst hj
      by_cases hi : i = j
      · subst hi; simpa using ih
      · simpa [Tab.get, hi, Ne.symm hi] using ih
    · by_cases hi : j = i
      · subst hi; simp [Tab.get, hj]
      · simp [Tab.get, hj, hi, ih]

theorem Tab.wfFrom_erase {α : Type} [DecidableEq α] (d : α) (t : Tab α) (b k : Nat) (h : Tab.wfFrom d b t = true) :
    Tab.wfFrom d b (t.erase k) = true := by
  induction t generalizing b with
  | nil => rfl
  | cons e t ih =>
    obtain ⟨j, w⟩ := e
    have hw := h
    simp only [Tab.wfFrom, Bool.and_eq_true, decide_eq_true_eq] at h
    simp only [Tab.erase]
    split
    · exact Tab.wfFrom_le d _ b (j + 1) (ih (j + 1) h.2) (by omega)
    · simp only [Tab.wfFrom, Bool.and_eq_true, decide_eq_true_eq]; exact ⟨h.1, ih (j + 1) h.2⟩

theorem Tab.wfFrom_insert {α : Type} [DecidableEq α] (d : α) (t : Tab α) (b k : Nat) (v : α) (h : Tab.wfFrom d b t = true)
    (hb : b ≤ k) (hv : v ≠ d) : Tab.wfFrom d b (t.insert k v) = true := by
  induction t generalizing b with
  | nil => simp [Tab.insert, Tab.wfFrom, hb, hv]
  | cons e t ih =>
    obtain ⟨j, w⟩ := e
    have hw := h
    simp only [Tab.wfFrom, Bool.and_eq_true, decide_eq_true_eq] at h
    simp only [Tab.insert]
    split
    · rename_i hjk; subst hjk; simp [Tab.wfFrom, h.1.1, hv, h.2]
    · split
      · simp only [Tab.wfFrom, Bool.and_eq_true, decide_eq_true_eq]; exact ⟨⟨hb, hv⟩, ⟨by omega, h.1.2⟩, h.2⟩
      · simp only [Tab.wfFrom, Bool.and_eq_true, decide_eq_true_eq]; exact ⟨h.1, ih (j + 1) h.2 (by omega)⟩

/-- Writing keeps the canonical form. -/
theorem Tab.wf_set {α : Type} [DecidableEq α] (d : α) (t : Tab α) (k : Nat) (v : α) (h : Tab.wf d t = true) :
    Tab.wf d (Tab.set d t k v) = true := by
  simp only [Tab.set]
  split
  · exact Tab.wfFrom_erase d t 0 k h
  · exact Tab.wfFrom_insert d t 0 k v h (by omega) (by assumption)

/-- A read of the key written gives the value written. -/
@[simp] theorem Tab.get_set_same {α : Type} [DecidableEq α] (d : α) (t : Tab α) (k : Nat) (v : α) :
    Tab.get d (Tab.set d t k v) k = v := by
  simp only [Tab.set]
  split
  · rename_i hv; rw [Tab.get_erase]; simp [hv]
  · exact Tab.get_insert_same d t k v

/-- A read of another key gives what it gave before, whatever an unlisted key reads as. -/
theorem Tab.get_set_other {α : Type} [DecidableEq α] (d e : α) (t : Tab α) (k i : Nat) (v : α) (hi : i ≠ k) :
    Tab.get e (Tab.set d t k v) i = Tab.get e t i := by
  simp only [Tab.set]
  split
  · rw [Tab.get_erase]; simp [hi]
  · exact Tab.get_insert_other e t k i v hi

/-- What a key reads after a write. -/
theorem Tab.get_set {α : Type} [DecidableEq α] (d : α) (t : Tab α) (k i : Nat) (v : α) :
    Tab.get d (Tab.set d t k v) i = if i = k then v else Tab.get d t i := by
  split
  · subst_vars; exact Tab.get_set_same d t i v
  · exact Tab.get_set_other d d t k i v (by assumption)

/-- What a key reads after entries are dropped by their keys. -/
theorem Tab.get_filter {α : Type} (d : α) (p : Nat → Bool) (t : Tab α) (i : Nat) :
    Tab.get d (List.filter (fun e => p e.1) t) i = if p i then Tab.get d t i else d := by
  induction t with
  | nil => simp [Tab.get]
  | cons e t ih =>
    obtain ⟨j, w⟩ := e
    by_cases hp : p j = true
    · simp only [List.filter_cons, hp, if_true, Tab.get]
      by_cases hj : j = i
      · subst hj; simp [hp]
      · simpa [hj] using ih
    · simp only [List.filter_cons, hp, Tab.get]
      by_cases hj : j = i
      · subst hj; simpa [hp] using ih
      · simpa [hj] using ih

/-- Dropping entries keeps the canonical form. -/
theorem Tab.wfFrom_filter {α : Type} [DecidableEq α] (d : α) (p : Nat × α → Bool) (t : Tab α) (b : Nat) (h : Tab.wfFrom d b t = true) :
    Tab.wfFrom d b (t.filter p) = true := by
  induction t generalizing b with
  | nil => rfl
  | cons e t ih =>
    obtain ⟨j, w⟩ := e
    simp only [Tab.wfFrom, Bool.and_eq_true, decide_eq_true_eq] at h
    simp only [List.filter_cons]
    split
    · simp only [Tab.wfFrom, Bool.and_eq_true, decide_eq_true_eq]; exact ⟨h.1, ih (j + 1) h.2⟩
    · exact Tab.wfFrom_le d _ b (j + 1) (ih (j + 1) h.2) (by omega)

theorem Tab.wf_filter {α : Type} [DecidableEq α] (d : α) (p : Nat × α → Bool) (t : Tab α) (h : Tab.wf d t = true) :
    Tab.wf d (List.filter p t) = true := Tab.wfFrom_filter d p t 0 h

theorem Tab.wf_nil {α : Type} [DecidableEq α] (d : α) : Tab.wf d ([] : Tab α) = true := rfl

end Sys2Proof.Machine
end

