-- ==== Sys2Proof/Laws/Memory.lean ====
section
/-! SUPPORT. Laws of local memory: a write stores its bytes and leaves every other byte alone, and every operation over
memory keeps the canonical form. -/

set_option Elab.async false

namespace Sys2Proof.Machine

theorem putBytes_wf (bs : List Byte) (m : Tab Byte) (a : Nat) (h : Memory.wf m = true) : Memory.wf (putBytes m a bs) = true := by
  induction bs generalizing m a with
  | nil => exact h
  | cons b t ih => exact ih _ _ (Tab.wf_set memDefault m a b h)

/-- Bytes outside the range written read as before. -/
theorem putBytes_outside (bs : List Byte) (m : Tab Byte) (a x : Nat) (hx : x < a ∨ a + bs.length ≤ x) :
    Tab.get memDefault (putBytes m a bs) x = Tab.get memDefault m x := by
  induction bs generalizing m a with
  | nil => rfl
  | cons b t ih =>
    simp only [List.length_cons] at hx
    simp only [putBytes]
    rw [ih _ _ (by omega), Tab.get_set_other memDefault memDefault m a x b (by omega)]

/-- Byte i of the range written reads as byte i of the data. -/
theorem putBytes_inside (bs : List Byte) (m : Tab Byte) (a i : Nat) (hi : i < bs.length) :
    Tab.get memDefault (putBytes m a bs) (a + i) = bs.getD i 0 := by
  induction bs generalizing m a i with
  | nil => simp at hi
  | cons b t ih =>
    simp only [putBytes]
    cases i with
    | zero =>
      rw [putBytes_outside t _ (a + 1) (a + 0) (by omega)]
      simp
    | succ n =>
      have := ih (Tab.set memDefault m a b) (a + 1) n (by simpa using hi)
      rw [show a + (n + 1) = a + 1 + n by omega, this]
      simp

/-- What eccLog leaves unchanged. -/
@[simp] theorem State.eccLog_mem (r : Reader) (e : Nat) (s : State) : (s.eccLog r e).mem = s.mem := by simp [State.eccLog]

theorem foldl_mem {α : Type} (f : State → α → State) (hf : ∀ s x, (f s x).mem = s.mem) (l : List α) (s : State) :
    (l.foldl f s).mem = s.mem := by
  induction l generalizing s with
  | nil => rfl
  | cons x t ih => rw [List.foldl_cons, ih, hf]

@[simp] theorem State.watchMark_mem (a n : Nat) (s : State) : (s.watchMark a n).mem = s.mem := rfl
@[simp] theorem State.imemMark_mem (a n : Nat) (s : State) : (s.imemMark a n).mem = s.mem := by simp only [State.imemMark]
@[simp] theorem State.pfWrite_mem (a n : Nat) (s : State) : (s.pfWrite a n).mem = s.mem := by
  simp only [State.pfWrite]; split <;> simp
@[simp] theorem State.pfRead_mem (r a n : Nat) (s : State) : (s.pfRead r a n).mem = s.mem := by
  simp only [State.pfRead]; split
  · rfl
  · split <;> simp
@[simp] theorem State.accPoison_mem (a : Nat) (s : State) : (s.accPoison a).mem = s.mem := by
  simp [State.accPoison]
@[simp] theorem State.accCheck_mem (a n : Nat) (s : State) : (s.accCheck a n).mem = s.mem := by
  simp only [State.accCheck]
  generalize List.filter _ _ = xs
  induction xs generalizing s with
  | nil => rfl
  | cons x t ih => rw [List.foldl_cons, ih, State.accPoison_mem]
@[simp] theorem State.eccCheck_mem (r : Reader) (a n : Nat) (s : State) : (s.eccCheck r a n).mem = s.mem := by
  simp only [State.eccCheck]
  rw [foldl_mem _ (fun _ _ => State.eccLog_mem _ _ _), foldl_mem _ (fun _ _ => State.count_mem _ _ _)]
/-- A read changes no stored byte. -/
@[simp] theorem State.touchBy_mem (r : Reader) (a n : Nat) (s : State) : (s.touchBy r a n).mem = s.mem := by
  simp only [State.touchBy]; split <;> simp
@[simp] theorem State.touch_mem (r a n : Nat) (s : State) : (s.touch r a n).mem = s.mem := State.touchBy_mem _ _ _ _
@[simp] theorem State.partCheck_mem (r a n : Nat) (s : State) : (s.partCheck r a n).mem = s.mem := by
  simp only [State.partCheck]
  rw [foldl_mem _ (fun _ _ => State.eccLog_mem _ _ _), foldl_mem _ (fun _ _ => State.count_mem _ _ _)]

/-- A write stores its bytes and nothing else. -/
theorem State.write_mem (r a : Nat) (bs : List Byte) (s : State) : (s.write r a bs).mem = putBytes s.mem a bs := by
  simp only [State.write]; split
  · subst_vars; rfl
  · rw [State.pfWrite_mem, State.imemMark_mem, State.watchMark_mem]
    exact congrArg (putBytes · a bs) (State.partCheck_mem _ _ _ _)

theorem State.write_wf (r a : Nat) (bs : List Byte) (s : State) (h : Memory.wf s.mem = true) : Memory.wf (s.write r a bs).mem = true := by
  rw [State.write_mem]; exact putBytes_wf bs s.mem a h

theorem State.write_outside (r a x : Nat) (bs : List Byte) (s : State) (hx : x < a ∨ a + bs.length ≤ x) :
    (s.write r a bs).byte x = s.byte x := by
  simp only [State.byte, State.write_mem]; exact putBytes_outside bs s.mem a x hx

theorem State.write_inside (r a i : Nat) (bs : List Byte) (s : State) (hi : i < bs.length) :
    (s.write r a bs).byte (a + i) = bs.getD i 0 := by
  simp only [State.byte, State.write_mem]; exact putBytes_inside bs s.mem a i hi

end Sys2Proof.Machine
end

