-- ==== Sys2Proof/Laws/Register.lean ====
section
/-! SUPPORT. Laws of the register, counter, slot and queue tables: what each reads after each basic update. -/

set_option Elab.async false

namespace Sys2Proof.Machine

@[simp] theorem State.setReg_reg (off o : Nat) (v : Word) (s : State) : (s.setReg off v).reg o = if o = off then v else s.reg o := by
  split
  · subst_vars; simp [State.reg, State.setReg]
  · simp [State.reg, State.setReg, Tab.get_set_other, *]
@[simp] theorem State.orReg_reg (off o : Nat) (m : Word) (s : State) :
    (s.orReg off m).reg o = if o = off then s.reg off ||| m else s.reg o := by simp [State.orReg]
@[simp] theorem State.clrReg_reg (off o : Nat) (m : Word) (s : State) :
    (s.clrReg off m).reg o = if o = off then s.reg off &&& ~~~m else s.reg o := by simp [State.clrReg]
@[simp] theorem State.interrupt_reg (o : Nat) (m : Word) (s : State) :
    (s.interrupt m).reg o = if o = 0x04000 then s.reg 0x04000 ||| m else s.reg o := by simp [State.interrupt]
@[simp] theorem State.setRegFld_reg (off lo n v o : Nat) (s : State) :
    (s.setRegFld off lo n v).reg o = if o = off then setFld (s.reg off) lo n v else s.reg o := by simp [State.setRegFld]
@[simp] theorem State.putMasked_reg (off o : Nat) (m v : Word) (s : State) :
    (s.putMasked off m v).reg o = if o = off then (s.reg off &&& ~~~m) ||| (v &&& m) else s.reg o := by simp [State.putMasked]

@[simp] theorem State.setCtr_reg (off o : Nat) (v : DWord) (s : State) : (s.setCtr off v).reg o = s.reg o := rfl
@[simp] theorem State.setCtr_ctr (off o : Nat) (v : DWord) (s : State) : (s.setCtr off v).ctr o = if o = off then v else s.ctr o := by
  simp [State.ctr, State.setCtr, Tab.get_set]
@[simp] theorem State.setReg_ctr (off o : Nat) (v : Word) (s : State) : (s.setReg off v).ctr o = s.ctr o := rfl
@[simp] theorem State.count_reg (off n o : Nat) (s : State) : (s.count off n).reg o = s.reg o := by
  simp only [State.count]; split <;> rfl
@[simp] theorem State.count_ctr (off n o : Nat) (s : State) :
    (s.count off n).ctr o = if o = off ∧ s.frozen off = false then s.ctr off + BitVec.ofNat 64 n else s.ctr o := by
  simp only [State.count]; split <;> simp_all
@[simp] theorem State.interrupt_ctr (o : Nat) (m : Word) (s : State) : (s.interrupt m).ctr o = s.ctr o := rfl
@[simp] theorem State.orReg_ctr (off o : Nat) (m : Word) (s : State) : (s.orReg off m).ctr o = s.ctr o := rfl

@[simp] theorem State.blotter_reg (t src o : Nat) (tag : Half) (d : Word) (s : State) : (s.blotter t src tag d).reg o = s.reg o := by
  simp only [State.blotter]; split
  · split
    · rfl
    · split <;> rfl
  · rfl
/-- An error that is raised changes one register: INT_STATUS gains ERR, or EVENT for the codes of R403. -/
@[simp] theorem State.raise_reg (e : Err) (o : Nat) (s : State) :
    (s.raise e).reg o = if o = 0x04000 then s.reg 0x04000 ||| (if isEventCode e.code then 2 else 1) else s.reg o := by
  simp only [State.raise, State.blotter_reg, State.interrupt_reg]
  split <;> split <;> simp [State.reg]

@[simp] theorem State.regBit_of_reg (off i : Nat) (s : State) : s.regBit off i = (s.reg off).getLsbD i := rfl

end Sys2Proof.Machine
end

