-- ==== Sys2Proof/Laws/Frames.lean ====
section
/-! SUPPORT. What each shared operation can change, said once: every field that a statement does not name is unchanged. -/

set_option Elab.async false

namespace Sys2Proof.Machine

/-! Clock guards -/

/-- A step of the fast domains has run, or left everything alone. -/
theorem runFast_next {s t : State} {f : State → State} (h : runFast s f = .next t) :
    t = s ∨ (t = f s ∧ s.sys.poreset = false ∧ s.sys.lock = true ∧ s.sys.coreReset = false ∧ s.sys.lost = false ∧ s.sys.scanned = false) := by
  simp only [runFast] at h
  split at h
  · exact .inl (by simpa using h.symm)
  · exact .inr (by simp_all)
/-- A step of a block that is served without lock has run on what that block meets, or left everything alone. -/
theorem runSlow_next {s t : State} {f : State → State} (h : runSlow s f = .next t) :
    t = s ∨ (t = f s.undef ∧ s.sys.poreset = false) := by
  simp only [runSlow] at h
  split at h
  · exact .inl (by simpa using h.symm)
  · exact .inr (by simp_all)
/-- Where every block is defined, nothing is lost. -/
@[simp] theorem State.undef_defined {s : State} (h : s.Defined) : s.undef = s := by simp [State.undef, h.1, h.2]

/-- A command of the fast domains on a clocked core. -/
theorem runFast_clocked {s : State} (f : State → State) (h1 : s.sys.poreset = false) (h2 : s.sys.coreReset = false) (h3 : s.sys.lock = true)
    (h4 : s.sys.lost = false) (h5 : s.sys.scanned = false) : runFast s f = .next (f s) := by
  simp [runFast, h1, h2, h3, h4, h5]
/-- A command of the served blocks on a core whose blocks are defined. -/
theorem runSlow_served {s : State} (f : State → State) (h : s.Served) : runSlow s f = .next (f s) := by
  simp [runSlow, State.undef, h.1, h.2.1, h.2.2]

/-- The head of a queue, when nothing holds it there. -/
theorem withHead_eq {q : Nat} {s : State} {c : EngCmd} (f : EngCmd → State → State) (h1 : s.headCmd q = some c)
    (h2 : s.modeFirst c = false) (h3 : mustWait s c = false) : withHead q s f = f c s := by
  simp [withHead, h1, h2, h3]

/-! Logs -/

theorem State.count_eq (off n : Nat) (s : State) : ∃ c, s.count off n = { s with ctrs := c } := by
  simp only [State.count]
  split
  · exact ⟨s.ctrs, rfl⟩
  · exact ⟨_, rfl⟩
theorem State.blotter_eq (t src : Nat) (tag : Half) (d : Word) (s : State) :
    ∃ l c, s.blotter t src tag d = { s with logs := l, ctrs := c } := by
  simp only [State.blotter, State.count]
  repeat' split
  all_goals first | exact ⟨_, s.ctrs, rfl⟩ | exact ⟨s.logs, _, rfl⟩
/-- A Blotter record enters no error. -/
@[simp] theorem State.blotter_errs (t src : Nat) (tag : Half) (d : Word) (s : State) : (s.blotter t src tag d).logs.errs = s.logs.errs := by
  simp only [State.blotter, State.count]
  repeat' split
  all_goals rfl
/-- Raising an error changes the logs, INT_STATUS and the counters of lost entries and records. -/
theorem State.raise_eq (e : Err) (s : State) : ∃ l c r, s.raise e = { s with logs := l, ctrs := c, regs := r } := by
  simp only [State.raise, State.blotter, State.interrupt, State.orReg, State.setReg, State.count]
  repeat' split
  all_goals exact ⟨_, _, _, rfl⟩
/-- The same when the error is counted too. -/
theorem State.raise_count_eq (e : Err) (off n : Nat) (s : State) :
    ∃ l c r, (s.raise e).count off n = { s with logs := l, ctrs := c, regs := r } := by
  obtain ⟨l, c, r, h⟩ := State.raise_eq e s
  obtain ⟨c', h'⟩ := State.count_eq off n (s.raise e)
  exact ⟨l, c', r, by rw [h', h]⟩
/-- An error raised with room in the log is its last entry. -/
theorem State.raise_errs (e : Err) (s : State) (h : s.logs.errs.length < 512) :
    (s.raise e).logs.errs = s.logs.errs ++
      [⟨e.code, e.tag, e.unit, e.index, e.thread, e.cond, e.d0, e.d1, e.d2, s.aclk, w32 (s.logs.raised + 1)⟩] := by
  simp only [State.raise, h, if_true, State.blotter_errs]
  rfl

/-! Memory -/

/-- Logging an uncorrectable word changes the logs, INT_STATUS and counters. -/
theorem State.eccLog_eq (r : Reader) (e : Nat) (s : State) : ∃ l c g, s.eccLog r e = { s with logs := l, ctrs := c, regs := g } := by
  simp only [State.eccLog]
  exact State.raise_count_eq _ _ _ s

/-- A fold of operations that each change only the logs, counters and registers changes only those. -/
theorem foldl_logs {α : Type} (f : State → α → State) (hf : ∀ s x, ∃ l c g, f s x = { s with logs := l, ctrs := c, regs := g })
    (xs : List α) (s : State) : ∃ l c g, xs.foldl f s = { s with logs := l, ctrs := c, regs := g } := by
  induction xs generalizing s with
  | nil => exact ⟨s.logs, s.ctrs, s.regs, rfl⟩
  | cons x t ih =>
    obtain ⟨l, c, g, h⟩ := hf s x
    obtain ⟨l', c', g', h'⟩ := ih (f s x)
    exact ⟨l', c', g', by rw [List.foldl_cons, h', h]⟩

/-- Counting corrected words is a fold that changes only counters. -/
theorem foldl_corr (xs : List Nat) (s : State) :
    ∃ l c g, xs.foldl (fun s e => State.count (eccCorrCtr e) 1 s) s = { s with logs := l, ctrs := c, regs := g } :=
  foldl_logs _ (fun s e => by obtain ⟨c, h⟩ := State.count_eq (eccCorrCtr e) 1 s; exact ⟨s.logs, c, s.regs, h⟩) xs s
/-- The read half of a write changes the logs, INT_STATUS and counters. -/
theorem State.partCheck_eq (r a n : Nat) (s : State) : ∃ l c g, s.partCheck r a n = { s with logs := l, ctrs := c, regs := g } := by
  simp only [State.partCheck]
  obtain ⟨l, c, g, h⟩ := foldl_corr (s.eccCorr.filter fun e => eccOverlap e a n && !eccCovers e a n) s
  rw [h]
  exact foldl_logs _ (fun s e => State.eccLog_eq _ e s) _ { s with logs := l, ctrs := c, regs := g }
/-- The ECC check of a read changes the words corrected, the logs, INT_STATUS and counters. -/
theorem State.eccCheck_eq (r : Reader) (a n : Nat) (s : State) :
    ∃ e l c g, s.eccCheck r a n = { s with eccCorr := e, logs := l, ctrs := c, regs := g } := by
  simp only [State.eccCheck]
  generalize he : s.eccCorr.filter (fun e => !eccOverlap e a n) = e
  obtain ⟨l, c, g, h⟩ := foldl_corr (s.eccCorr.filter fun e => eccOverlap e a n) { s with eccCorr := e }
  rw [h]
  obtain ⟨l', c', g', h'⟩ := foldl_logs _ (fun s e => State.eccLog_eq r e s) (s.eccBad.filter fun e => eccOverlap e a n)
    { s with eccCorr := e, logs := l, ctrs := c, regs := g }
  exact ⟨e, l', c', g', h'⟩

/-- The prefetch tracker and its counters are all that its accounting changes. -/
theorem State.pfWrite_eq (a n : Nat) (s : State) : ∃ d c, s.pfWrite a n = { s with dma := { s.dma with pf := d }, ctrs := c } := by
  simp only [State.pfWrite]
  split
  · exact ⟨s.dma.pf, s.ctrs, rfl⟩
  · obtain ⟨c, h⟩ := State.count_eq _ _ _
    exact ⟨_, c, h⟩

/-- A write changes memory, its check bits, the marks of watches, the VALID bits of banks and a copy in progress, the
prefetch tracker, and what an uncorrectable word logs. -/
theorem State.write_eq (r a : Nat) (bs : List Byte) (s : State) :
    ∃ (m : Tab Byte) (e1 e2 : List Nat) (w : Tab Watch) (v0 v1 : Bool) (d : Option Deferred) (p : List PfEnt) (l : Logs) (c : Tab DWord) (g : Tab Word),
      s.write r a bs = { s with
        mem := m, eccBad := e1, eccCorr := e2, sync := { s.sync with watch := w }, cc := { s.cc with valid0 := v0, valid1 := v1 }
        mgmt := { s.mgmt with deferred := d }, dma := { s.dma with pf := p }, logs := l, ctrs := c, regs := g } := by
  simp only [State.write]
  split
  · exact ⟨s.mem, s.eccBad, s.eccCorr, s.sync.watch, s.cc.valid0, s.cc.valid1, s.mgmt.deferred, s.dma.pf, s.logs, s.ctrs, s.regs, rfl⟩
  · obtain ⟨l, c, g, h⟩ := State.partCheck_eq r a bs.length s
    rw [h]
    obtain ⟨d, c', h'⟩ := State.pfWrite_eq a bs.length _
    rw [h']
    exact ⟨_, _, _, _, _, _, _, d, l, c', g, rfl⟩

/-- The prefetch tracker and its counters are all that a read's accounting changes. -/
theorem State.pfRead_eq (r a n : Nat) (s : State) : ∃ d c, s.pfRead r a n = { s with dma := { s.dma with pf := d }, ctrs := c } := by
  simp only [State.pfRead]
  split
  · exact ⟨s.dma.pf, s.ctrs, rfl⟩
  · split
    · exact ⟨_, s.ctrs, rfl⟩
    · obtain ⟨c, h⟩ := State.count_eq _ _ _
      exact ⟨_, c, h⟩

/-- Poisoning an accumulator tile changes the poison list, the logs, counters and registers. -/
theorem State.accPoison_eq (a : Nat) (s : State) :
    ∃ p l c g, s.accPoison a = { s with poison := p, logs := l, ctrs := c, regs := g } := by
  simp only [State.accPoison]
  exact ⟨_, State.raise_count_eq _ _ _ { s with poison := if s.poison.contains (accTile a) then s.poison else s.poison ++ [accTile a] }⟩
theorem State.accCheck_eq (a n : Nat) (s : State) :
    ∃ p l c g, s.accCheck a n = { s with poison := p, logs := l, ctrs := c, regs := g } := by
  simp only [State.accCheck]
  generalize List.filter _ _ = xs
  induction xs generalizing s with
  | nil => exact ⟨s.poison, s.logs, s.ctrs, s.regs, rfl⟩
  | cons x t ih =>
    obtain ⟨p, l, c, g, h⟩ := State.accPoison_eq x s
    obtain ⟨p', l', c', g', h'⟩ := ih (s.accPoison x)
    exact ⟨p', l', c', g', by rw [List.foldl_cons, h', h]⟩

/-- A read changes corrected words, poison found, the prefetch tracker, and what it logs and counts. -/
theorem State.touchBy_eq (r : Reader) (a n : Nat) (s : State) :
    ∃ (e : List Nat) (q : List (Nat × Nat)) (d : List PfEnt) (l : Logs) (c : Tab DWord) (g : Tab Word),
      s.touchBy r a n = { s with eccCorr := e, poison := q, dma := { s.dma with pf := d }, logs := l, ctrs := c, regs := g } := by
  simp only [State.touchBy]
  split
  · exact ⟨s.eccCorr, s.poison, s.dma.pf, s.logs, s.ctrs, s.regs, rfl⟩
  · obtain ⟨e, l, c, g, h⟩ := State.eccCheck_eq r a n s
    rw [h]
    obtain ⟨p, l', c', g', h'⟩ := State.accCheck_eq a n { s with eccCorr := e, logs := l, ctrs := c, regs := g }
    rw [h']
    obtain ⟨d, c'', h''⟩ := State.pfRead_eq r.req a n { s with eccCorr := e, poison := p, logs := l', ctrs := c', regs := g' }
    exact ⟨e, p, d, l', c'', g', h''⟩
/-- The same of a read that no command stands behind. -/
theorem State.touch_eq (r a n : Nat) (s : State) :
    ∃ (e : List Nat) (q : List (Nat × Nat)) (d : List PfEnt) (l : Logs) (c : Tab DWord) (g : Tab Word),
      s.touch r a n = { s with eccCorr := e, poison := q, dma := { s.dma with pf := d }, logs := l, ctrs := c, regs := g } :=
  State.touchBy_eq _ _ _ _

/-- Clearing a range leaves it zero and every other byte alone. -/
theorem State.clearMem_byte (lo hi a : Nat) (s : State) : (s.clearMem lo hi).byte a = if lo ≤ a ∧ a < hi then 0 else s.byte a := by
  simp only [State.clearMem, State.byte, State.watchMark]
  refine (Tab.get_filter memDefault (fun a => !(decide (lo ≤ a) && decide (a < hi))) s.mem a).trans ?_
  by_cases h : lo ≤ a <;> by_cases h' : a < hi <;> simp [h, h', memDefault]

/-! Queues -/

/-- Removing a head changes the queues, and what the fill queues recorded last. -/
theorem State.done_eq (q : Nat) (c : EngCmd) (s : State) : ∃ u a b, s.done q c =
    { s with cc := { s.cc with queues := u }, still := { s.still with lastA := a, lastB := b } } := by
  simp only [State.done, State.popFill, State.popQueue, State.setQueue]
  repeat' split
  all_goals first | exact ⟨_, s.still.lastA, s.still.lastB, rfl⟩ | exact ⟨_, _, s.still.lastB, rfl⟩ | exact ⟨_, s.still.lastA, _, rfl⟩ | exact ⟨_, _, _, rfl⟩
/-- The issue of a head changes one counter too. -/
theorem State.issued_eq (q : Nat) (c : EngCmd) (s : State) :
    ∃ u a b k, s.issued q c = { s with cc := { s.cc with queues := u }, still := { s.still with lastA := a, lastB := b }, ctrs := k } := by
  obtain ⟨u, a, b, h⟩ := State.done_eq q c s
  simp only [State.issued]
  split
  · exact ⟨u, a, b, s.ctrs, h⟩
  · obtain ⟨k, h'⟩ := State.count_eq 0x14010 1 (s.done q c); exact ⟨u, a, b, k, by rw [h', h]⟩
  · obtain ⟨k, h'⟩ := State.count_eq 0x14018 1 (s.done q c); exact ⟨u, a, b, k, by rw [h', h]⟩
theorem State.haltQueue_eq (q : Nat) (c : EngCmd) (s : State) : ∃ u, s.haltQueue q c = { s with cc := { s.cc with queues := u } } := by
  simp only [State.haltQueue, State.setQueue]
  repeat' split
  all_goals exact ⟨_, rfl⟩
/-- Halting, or skipping, a rejected head changes the queues and the halt of a thread. -/
theorem haltOrSkip_eq (q : Nat) (c : EngCmd) (h : Bool) (s : State) :
    ∃ u x y a b, (if h then (s.haltQueue q c).haltThread c.ctx.thread else s.done q c) =
      { s with cc := { s.cc with queues := u, haltAcc := x, haltExe := y }, still := { s.still with lastA := a, lastB := b } } := by
  cases h with
  | false =>
    obtain ⟨u, a, b, h⟩ := State.done_eq q c s
    exact ⟨u, s.cc.haltAcc, s.cc.haltExe, a, b, h⟩
  | true =>
    obtain ⟨u, h⟩ := State.haltQueue_eq q c s
    simp only [if_true, h, State.haltThread]
    split
    · exact ⟨u, true, s.cc.haltExe, s.still.lastA, s.still.lastB, rfl⟩
    · exact ⟨u, s.cc.haltAcc, true, s.still.lastA, s.still.lastB, rfl⟩
/-- What a rejection notes changes the logs, registers and counters. -/
theorem State.rejectNote_eq (q : Nat) (c : EngCmd) (r : Rej) (s : State) :
    ∃ l k g, s.rejectNote q c r = { s with logs := l, ctrs := k, regs := g } := by
  simp only [State.rejectNote, State.orReg, State.setReg]
  split
  · obtain ⟨k, h⟩ := State.count_eq 0x10120 1 s
    rw [h]; exact ⟨s.logs, k, _, rfl⟩
  · obtain ⟨l, k, g, h⟩ := State.raise_count_eq
      { code := r.code, unit := r.unit, tag := c.tag, index := q, thread := (ctxNum c.ctx), cond := r.cond, d0 := r.d0, d1 := r.d1, d2 := r.d2 } 0x10120 1 s
    rw [h]; exact ⟨l, k, _, rfl⟩
/-- A rejection changes the queues, the halt of its thread, the logs, registers and counters: no memory, no engine. -/
theorem State.reject_eq (q : Nat) (c : EngCmd) (r : Rej) (s : State) :
    ∃ u x y a b l k g, s.reject q c r = { s with
      cc := { s.cc with queues := u, haltAcc := x, haltExe := y }, still := { s.still with lastA := a, lastB := b }, logs := l, ctrs := k, regs := g } := by
  obtain ⟨l, k, g, h⟩ := State.rejectNote_eq q c r s
  obtain ⟨u, x, y, a, b, h'⟩ := haltOrSkip_eq q c (State.regBit { s with logs := l, ctrs := k, regs := g } 0x10000 0) { s with logs := l, ctrs := k, regs := g }
  exact ⟨u, x, y, a, b, l, k, g, by simp only [State.reject]; rw [h, h']⟩

/-! The port -/

theorem State.placeFlit_eq (i : Nat) (f : OutFlit) (s : State) : ∃ p c, s.placeFlit i f = { s with port := p, ctrs := c } := by
  simp only [State.placeFlit, State.setOutLane, State.setInLane]
  obtain ⟨c, h⟩ := State.count_eq 0xA0100 1 _
  exact ⟨_, c, h⟩
theorem State.placePkt_eq (p : OutPkt) (ls : List Nat) (s : State) : ∃ q c n, s.placePkt p ls = { s with port := q, ctrs := c, freeCtr := n } := by
  simp only [State.placePkt]
  generalize getAt 0 ls _ = i
  suffices ∀ (xs : List OutFlit) (t : State), ∃ q c, xs.foldl (fun s f => s.placeFlit i f) t = { t with port := q, ctrs := c } by
    obtain ⟨q, c, h⟩ := this p.flits { s with freeCtr := s.freeCtr + 1 }
    exact ⟨q, c, _, h⟩
  intro xs
  induction xs with
  | nil => exact fun t => ⟨t.port, t.ctrs, rfl⟩
  | cons x xs ih =>
    intro t
    obtain ⟨q, c, h⟩ := State.placeFlit_eq i x t
    obtain ⟨q', c', h'⟩ := ih (t.placeFlit i x)
    exact ⟨q', c', by rw [List.foldl_cons, h', h]⟩
theorem pumpGo_eq (l : List OutPkt) (held : List (Nat × Nat)) (s : State) :
    ∃ q c n, (pumpGo l held s).2 = { s with port := q, ctrs := c, freeCtr := n } := by
  induction l generalizing held s with
  | nil => exact ⟨s.port, s.ctrs, s.freeCtr, rfl⟩
  | cons p t ih =>
    simp only [pumpGo]
    split
    · exact ih _ s
    · obtain ⟨q, c, n, h⟩ := State.placePkt_eq p (s.freeLanes p.cls (pktVc p) p.flits.length) s
      obtain ⟨q', c', n', h'⟩ := ih held (s.placePkt p (s.freeLanes p.cls (pktVc p) p.flits.length))
      exact ⟨q', c', n', by rw [h', h]⟩
theorem State.pump_eq (s : State) : ∃ q c n, s.pump = { s with port := q, ctrs := c, freeCtr := n } := by
  simp only [State.pump]
  split
  · obtain ⟨q, c, n, h⟩ := pumpGo_eq s.port.outQ [] s
    rw [h]
    exact ⟨_, c, n, rfl⟩
  · exact ⟨s.port, s.ctrs, s.freeCtr, rfl⟩
/-- Sending a packet changes the port, its counters and the free-value counter. -/
theorem State.send_eq (cls : Nat) (fs : List OutFlit) (s : State) : ∃ q c n, s.send cls fs = { s with port := q, ctrs := c, freeCtr := n } := by
  simp only [State.send]
  obtain ⟨q, c, n, h⟩ := State.pump_eq { s with port := { s.port with outQ := s.port.outQ ++ [(⟨cls, fs⟩ : OutPkt)] } }
  exact ⟨q, c, n, h⟩

end Sys2Proof.Machine
end

