-- ==== Sys2Proof/Laws/PerInstr.lean ====
section
/-! SUPPORT. A law about every command as syntax: a well-formed command names only engine queues and streams that exist
(R230, R276). -/

set_option Elab.async false

namespace Sys2Proof.Laws.WellFormed

/-- The engine queue a command names. -/
def queueArg : Instr → Option Nat
  | .predSet q => some q
  | .engineCommandEnqueue _ q _ => some q
  | .tqPush _ _ q => some q
  | .tqTokenVisible q => some q
  | .genStep q => some q
  | .wait q => some q
  | .take q => some q
  | .signal q => some q
  | .dec q => some q
  | .arrive q => some q
  | _ => none

/-- The stream a command names. -/
def streamArg : Instr → Option Nat
  | .dmaTimeout n => some n
  | .streamQuarantineExpire n => some n
  | .pageFault n => some n
  | .streamResume n => some n.toNat
  | .streamAbort n => some n.toNat
  | .ledgerSignalApply n => some n
  | .ledgerAbandoned n => some n
  | _ => none

/-- A well-formed command names only an engine queue and a stream that exist. -/
def Statement (i : Instr) : Prop :=
  i.wf = true → (∀ q, queueArg i = some q → q ≤ 22) ∧ ∀ n, streamArg i = some n → n < 2 ^ 20

theorem poresetN (level : Bool) (straps : Straps) : Statement (.poresetN level straps) := fun _ => ⟨nofun, nofun⟩
theorem coreResetN (level : Bool) : Statement (.coreResetN level) := fun _ => ⟨nofun, nofun⟩
theorem synthLock : Statement .synthLock := fun _ => ⟨nofun, nofun⟩
theorem pllLockTimeout : Statement .pllLockTimeout := fun _ => ⟨nofun, nofun⟩
theorem pllUnlock : Statement .pllUnlock := fun _ => ⟨nofun, nofun⟩
theorem startupFuseLoad : Statement .startupFuseLoad := fun _ => ⟨nofun, nofun⟩
theorem startupBist (r : BistResult) : Statement (.startupBist r) := fun _ => ⟨nofun, nofun⟩
theorem tierCheck (ok : Bool) : Statement (.tierCheck ok) := fun _ => ⟨nofun, nofun⟩
theorem mgmtReady : Statement .mgmtReady := fun _ => ⟨nofun, nofun⟩
theorem aclkPointChange : Statement .aclkPointChange := fun _ => ⟨nofun, nofun⟩
theorem operatingPointEval (p pLeak : Nat) : Statement (.operatingPointEval p pLeak) := fun _ => ⟨nofun, nofun⟩
theorem thermalSensorRead (temps : List Half) : Statement (.thermalSensorRead temps) := fun _ => ⟨nofun, nofun⟩
theorem railMonitorSample (core sram port vdda : Half) : Statement (.railMonitorSample core sram port vdda) := fun _ => ⟨nofun, nofun⟩
theorem ageingMeasurement (margins : List Byte) : Statement (.ageingMeasurement margins) := fun _ => ⟨nofun, nofun⟩
theorem droopDetect (det : Nat) (v : Half) : Statement (.droopDetect det v) := fun _ => ⟨nofun, nofun⟩
theorem droopHoldExpire (det : Nat) (v : Half) : Statement (.droopHoldExpire det v) := fun _ => ⟨nofun, nofun⟩
theorem skipReqChange (v : BitVec 4) : Statement (.skipReqChange v) := fun _ => ⟨nofun, nofun⟩
theorem pwrBudgetToggle (b : BitVec 12) : Statement (.pwrBudgetToggle b) := fun _ => ⟨nofun, nofun⟩
theorem sillageEngage (slices : Nat) : Statement (.sillageEngage slices) := fun _ => ⟨nofun, nofun⟩
theorem sillageLevelStep (slices : Nat) : Statement (.sillageLevelStep slices) := fun _ => ⟨nofun, nofun⟩
theorem sillageDisengage : Statement .sillageDisengage := fun _ => ⟨nofun, nofun⟩
theorem releaseRampStep : Statement .releaseRampStep := fun _ => ⟨nofun, nofun⟩
theorem telemetryFrame (slack : Word) : Statement (.telemetryFrame slack) := fun _ => ⟨nofun, nofun⟩
theorem vfUserWrite (p : BitVec 4) (v : Word) : Statement (.vfUserWrite p v) := fun _ => ⟨nofun, nofun⟩
theorem ageRegisterWrite (nmax : Bool) (v : Word) : Statement (.ageRegisterWrite nmax v) := fun _ => ⟨nofun, nofun⟩
theorem pwrModeWrite (v : Word) : Statement (.pwrModeWrite v) := fun _ => ⟨nofun, nofun⟩
theorem bcastCommandAccept (w : BitVec 256) (par : Byte) : Statement (.bcastCommandAccept w par) := fun _ => ⟨nofun, nofun⟩
theorem bcastCreditGrant : Statement .bcastCreditGrant := fun _ => ⟨nofun, nofun⟩
theorem atomiserRingTake : Statement .atomiserRingTake := fun _ => ⟨nofun, nofun⟩
theorem macroDispatch (t : Thread) : Statement (.macroDispatch t) := fun _ => ⟨nofun, nofun⟩
theorem config (t : Thread) : Statement (.config t) := fun _ => ⟨nofun, nofun⟩
theorem start (t : Thread) : Statement (.start t) := fun _ => ⟨nofun, nofun⟩
theorem patch (t : Thread) : Statement (.patch t) := fun _ => ⟨nofun, nofun⟩
theorem replay (t : Thread) : Statement (.replay t) := fun _ => ⟨nofun, nofun⟩
theorem syncBarrier : Statement .syncBarrier := fun _ => ⟨nofun, nofun⟩
theorem syncLatch : Statement .syncLatch := fun _ => ⟨nofun, nofun⟩
theorem syncSwap : Statement .syncSwap := fun _ => ⟨nofun, nofun⟩
theorem powerHint (src : Option (Ctx × Byte)) : Statement (.powerHint src) := fun _ => ⟨nofun, nofun⟩
theorem traceHint (t : Thread) : Statement (.traceHint t) := fun _ => ⟨nofun, nofun⟩
theorem traceMark (c : Ctx) (mark : Word) : Statement (.traceMark c mark) := fun _ => ⟨nofun, nofun⟩
theorem scalarInstruction (c : Ctx) (op : ScalarOp) : Statement (.scalarInstruction c op) := fun _ => ⟨nofun, nofun⟩
theorem branch (c : Ctx) (b : BrCond) (target : Word) : Statement (.branch c b target) := fun _ => ⟨nofun, nofun⟩
theorem loop (c : Ctx) (u : BitVec 2) (count : Opd) (endPc : Word) : Statement (.loop c u count endPc) := fun _ => ⟨nofun, nofun⟩
theorem predSet (q : Nat) : Statement (.predSet q) := by simp_all [Statement, Instr.wf, queueOk, queueArg, streamArg]
theorem paramSet (c : Ctx) (p : BitVec 8) (v : Opd) : Statement (.paramSet c p v) := fun _ => ⟨nofun, nofun⟩
theorem tileSet (c : Ctx) (t : BitVec 8) (words : List (Nat × Word)) : Statement (.tileSet c t words) := fun _ => ⟨nofun, nofun⟩
theorem engineCommandEnqueue (c : Ctx) (q : Nat) (op : EngOp) : Statement (.engineCommandEnqueue c q op) := by simp_all [Statement, Instr.wf, queueOk, queueArg, streamArg]
theorem e1StarveIssue : Statement .e1StarveIssue := fun _ => ⟨nofun, nofun⟩
theorem tqPush (tq : BitVec 4) (v : Opd) (q : Nat) : Statement (.tqPush tq v q) := by simp_all [Statement, Instr.wf, queueOk, queueArg, streamArg]
theorem tqTokenVisible (q : Nat) : Statement (.tqTokenVisible q) := by simp_all [Statement, Instr.wf, queueOk, queueArg, streamArg]
theorem tqPop (c : Ctx) (tq : BitVec 4) (x : BitVec 5) : Statement (.tqPop c tq x) := fun _ => ⟨nofun, nofun⟩
theorem addrPush : Statement .addrPush := fun _ => ⟨nofun, nofun⟩
theorem fill (b : Bool) : Statement (.fill b) := fun _ => ⟨nofun, nofun⟩
theorem fillComplete (b : Bool) : Statement (.fillComplete b) := fun _ => ⟨nofun, nofun⟩
theorem fillWalk (c : Ctx) (f : FillOp) (w : BitVec 6) : Statement (.fillWalk c f w) := fun _ => ⟨nofun, nofun⟩
theorem packHoldExpire : Statement .packHoldExpire := fun _ => ⟨nofun, nofun⟩
theorem packFlush : Statement .packFlush := fun _ => ⟨nofun, nofun⟩
theorem pairing : Statement .pairing := fun _ => ⟨nofun, nofun⟩
theorem klutLoad : Statement .klutLoad := fun _ => ⟨nofun, nofun⟩
theorem dwMask : Statement .dwMask := fun _ => ⟨nofun, nofun⟩
theorem stillArrayCfgWrite (v : Word) : Statement (.stillArrayCfgWrite v) := fun _ => ⟨nofun, nofun⟩
theorem cntCtrlClear (off : BitVec 20) : Statement (.cntCtrlClear off) := fun _ => ⟨nofun, nofun⟩
theorem counterLowRead (off : BitVec 20) : Statement (.counterLowRead off) := fun _ => ⟨nofun, nofun⟩
theorem scaleCommit : Statement .scaleCommit := fun _ => ⟨nofun, nofun⟩
theorem slotCommit (n : Byte) : Statement (.slotCommit n) := fun _ => ⟨nofun, nofun⟩
theorem clearCounts (n : Byte) : Statement (.clearCounts n) := fun _ => ⟨nofun, nofun⟩
theorem resetHist (n : Byte) : Statement (.resetHist n) := fun _ => ⟨nofun, nofun⟩
theorem scaleSet : Statement .scaleSet := fun _ => ⟨nofun, nofun⟩
theorem scaleRegisterWrite (n : Byte) (dec : Bool) (v : Word) : Statement (.scaleRegisterWrite n dec v) := fun _ => ⟨nofun, nofun⟩
theorem promoteClear : Statement .promoteClear := fun _ => ⟨nofun, nofun⟩
theorem promotePred : Statement .promotePred := fun _ => ⟨nofun, nofun⟩
theorem flagClear : Statement .flagClear := fun _ => ⟨nofun, nofun⟩
theorem flagRead : Statement .flagRead := fun _ => ⟨nofun, nofun⟩
theorem vsetlen : Statement .vsetlen := fun _ => ⟨nofun, nofun⟩
theorem vop : Statement .vop := fun _ => ⟨nofun, nofun⟩
theorem vsplit : Statement .vsplit := fun _ => ⟨nofun, nofun⟩
theorem vload : Statement .vload := fun _ => ⟨nofun, nofun⟩
theorem vstore : Statement .vstore := fun _ => ⟨nofun, nofun⟩
theorem drain : Statement .drain := fun _ => ⟨nofun, nofun⟩
theorem drainBeat : Statement .drainBeat := fun _ => ⟨nofun, nofun⟩
theorem sumRead : Statement .sumRead := fun _ => ⟨nofun, nofun⟩
theorem sumIndexRead : Statement .sumIndexRead := fun _ => ⟨nofun, nofun⟩
theorem sumClear : Statement .sumClear := fun _ => ⟨nofun, nofun⟩
theorem predCopy : Statement .predCopy := fun _ => ⟨nofun, nofun⟩
theorem lnFwd : Statement .lnFwd := fun _ => ⟨nofun, nofun⟩
theorem rmsFwd : Statement .rmsFwd := fun _ => ⟨nofun, nofun⟩
theorem softmaxFwd : Statement .softmaxFwd := fun _ => ⟨nofun, nofun⟩
theorem lnBwd : Statement .lnBwd := fun _ => ⟨nofun, nofun⟩
theorem rmsBwd : Statement .rmsBwd := fun _ => ⟨nofun, nofun⟩
theorem softmaxBwd : Statement .softmaxBwd := fun _ => ⟨nofun, nofun⟩
theorem merge : Statement .merge := fun _ => ⟨nofun, nofun⟩
theorem finalise : Statement .finalise := fun _ => ⟨nofun, nofun⟩
theorem genStep (q : Nat) : Statement (.genStep q) := by simp_all [Statement, Instr.wf, queueOk, queueArg, streamArg]
theorem updateApply : Statement .updateApply := fun _ => ⟨nofun, nofun⟩
theorem updateRecord : Statement .updateRecord := fun _ => ⟨nofun, nofun⟩
theorem updateReduce : Statement .updateReduce := fun _ => ⟨nofun, nofun⟩
theorem updateEnd : Statement .updateEnd := fun _ => ⟨nofun, nofun⟩
theorem bucketAccount : Statement .bucketAccount := fun _ => ⟨nofun, nofun⟩
theorem bucketFlush : Statement .bucketFlush := fun _ => ⟨nofun, nofun⟩
theorem bucketReset : Statement .bucketReset := fun _ => ⟨nofun, nofun⟩
theorem mode : Statement .mode := fun _ => ⟨nofun, nofun⟩
theorem ccSkipAcc : Statement .ccSkipAcc := fun _ => ⟨nofun, nofun⟩
theorem ccSkipExe : Statement .ccSkipExe := fun _ => ⟨nofun, nofun⟩
theorem paramRegisterWrite (exe : Bool) (p : BitVec 6) (hi : Bool) (v : Word) : Statement (.paramRegisterWrite exe p hi v) := fun _ => ⟨nofun, nofun⟩
theorem tqBindWrite (tq : BitVec 3) (v : Word) : Statement (.tqBindWrite tq v) := fun _ => ⟨nofun, nofun⟩
theorem ringErrClear : Statement .ringErrClear := fun _ => ⟨nofun, nofun⟩
theorem dma (ch : BitVec 4) : Statement (.dma ch) := fun _ => ⟨nofun, nofun⟩
theorem dmaRequestPlace (ch : BitVec 4) : Statement (.dmaRequestPlace ch) := fun _ => ⟨nofun, nofun⟩
theorem dmaResponse (lane : BitVec 3) : Statement (.dmaResponse lane) := fun _ => ⟨nofun, nofun⟩
theorem dmaComplete (ch : BitVec 4) : Statement (.dmaComplete ch) := fun _ => ⟨nofun, nofun⟩
theorem dmaTimeout (stream : Nat) : Statement (.dmaTimeout stream) := by simp_all [Statement, Instr.wf, streamOk, queueArg, streamArg]
theorem streamQuarantineExpire (stream : Nat) : Statement (.streamQuarantineExpire stream) := by simp_all [Statement, Instr.wf, streamOk, queueArg, streamArg]
theorem pageFault (stream : Nat) : Statement (.pageFault stream) := by simp_all [Statement, Instr.wf, streamOk, queueArg, streamArg]
theorem faultRecordWrite : Statement .faultRecordWrite := fun _ => ⟨nofun, nofun⟩
theorem streamResume (stream : BitVec 20) : Statement (.streamResume stream) := by simp only [Statement, queueArg, streamArg, Option.some.injEq]; intro _; exact ⟨by simp, by intro n h; subst h; exact stream.isLt⟩
theorem streamAbort (stream : BitVec 20) : Statement (.streamAbort stream) := by simp only [Statement, queueArg, streamArg, Option.some.injEq]; intro _; exact ⟨by simp, by intro n h; subst h; exact stream.isLt⟩
theorem atcInvAll : Statement .atcInvAll := fun _ => ⟨nofun, nofun⟩
theorem xrespReceive (lane : BitVec 3) : Statement (.xrespReceive lane) := fun _ => ⟨nofun, nofun⟩
theorem xreqTimeout (xid : BitVec 6) : Statement (.xreqTimeout xid) := fun _ => ⟨nofun, nofun⟩
theorem xinvReceive (lane : BitVec 3) : Statement (.xinvReceive lane) := fun _ => ⟨nofun, nofun⟩
theorem scrubRead : Statement .scrubRead := fun _ => ⟨nofun, nofun⟩
theorem rdReqReceive (lane : BitVec 3) : Statement (.rdReqReceive lane) := fun _ => ⟨nofun, nofun⟩
theorem rwrReceive (lane : BitVec 3) : Statement (.rwrReceive lane) := fun _ => ⟨nofun, nofun⟩
theorem sigxReceive (lane : BitVec 3) : Statement (.sigxReceive lane) := fun _ => ⟨nofun, nofun⟩
theorem ledgerSignalApply (stream : Nat) : Statement (.ledgerSignalApply stream) := by simp_all [Statement, Instr.wf, streamOk, queueArg, streamArg]
theorem ledgerAbandoned (stream : Nat) : Statement (.ledgerAbandoned stream) := by simp_all [Statement, Instr.wf, streamOk, queueArg, streamArg]
theorem syncFlitReceive (lane : BitVec 3) : Statement (.syncFlitReceive lane) := fun _ => ⟨nofun, nofun⟩
theorem barFlitReceive (lane : BitVec 3) : Statement (.barFlitReceive lane) := fun _ => ⟨nofun, nofun⟩
theorem wait (q : Nat) : Statement (.wait q) := by simp_all [Statement, Instr.wf, queueOk, queueArg, streamArg]
theorem take (q : Nat) : Statement (.take q) := by simp_all [Statement, Instr.wf, queueOk, queueArg, streamArg]
theorem signal (q : Nat) : Statement (.signal q) := by simp_all [Statement, Instr.wf, queueOk, queueArg, streamArg]
theorem dec (q : Nat) : Statement (.dec q) := by simp_all [Statement, Instr.wf, queueOk, queueArg, streamArg]
theorem arrive (q : Nat) : Statement (.arrive q) := by simp_all [Statement, Instr.wf, queueOk, queueArg, streamArg]
theorem watchWake (n : Byte) : Statement (.watchWake n) := fun _ => ⟨nofun, nofun⟩
theorem waitPoll (party : Nat) : Statement (.waitPoll party) := fun _ => ⟨nofun, nofun⟩
theorem watchArm : Statement .watchArm := fun _ => ⟨nofun, nofun⟩
theorem watchCancel (n : Byte) : Statement (.watchCancel n) := fun _ => ⟨nofun, nofun⟩
theorem barArriveAck (lvl : Bool) : Statement (.barArriveAck lvl) := fun _ => ⟨nofun, nofun⟩
theorem barRelTgl (gen : Word) : Statement (.barRelTgl gen) := fun _ => ⟨nofun, nofun⟩
theorem deadlock : Statement .deadlock := fun _ => ⟨nofun, nofun⟩
theorem dlRearm : Statement .dlRearm := fun _ => ⟨nofun, nofun⟩
theorem partnerTimeout (party : Nat) : Statement (.partnerTimeout party) := fun _ => ⟨nofun, nofun⟩
theorem fence : Statement .fence := fun _ => ⟨nofun, nofun⟩
theorem fenceComplete (timedOut : Bool) : Statement (.fenceComplete timedOut) := fun _ => ⟨nofun, nofun⟩
theorem unfence : Statement .unfence := fun _ => ⟨nofun, nofun⟩
theorem snapshotBegin : Statement .snapshotBegin := fun _ => ⟨nofun, nofun⟩
theorem flaconChunkDrain (r : Remote) : Statement (.flaconChunkDrain r) := fun _ => ⟨nofun, nofun⟩
theorem parityPubPoll (r : Remote) (timedOut : Bool) : Statement (.parityPubPoll r timedOut) := fun _ => ⟨nofun, nofun⟩
theorem snapshotComplete : Statement .snapshotComplete := fun _ => ⟨nofun, nofun⟩
theorem restoreVerify (r : Remote) : Statement (.restoreVerify r) := fun _ => ⟨nofun, nofun⟩
theorem restoreRebuild (r : Remote) : Statement (.restoreRebuild r) := fun _ => ⟨nofun, nofun⟩
theorem restoreState (r : Remote) : Statement (.restoreState r) := fun _ => ⟨nofun, nofun⟩
theorem restoreComplete : Statement .restoreComplete := fun _ => ⟨nofun, nofun⟩
theorem registryWrite : Statement .registryWrite := fun _ => ⟨nofun, nofun⟩
theorem registryRead : Statement .registryRead := fun _ => ⟨nofun, nofun⟩
theorem gtWrite : Statement .gtWrite := fun _ => ⟨nofun, nofun⟩
theorem gtRead : Statement .gtRead := fun _ => ⟨nofun, nofun⟩
theorem cvuEnable (c : BitVec 4) (cfg : Word) : Statement (.cvuEnable c cfg) := fun _ => ⟨nofun, nofun⟩
theorem cvuAbsorb (c : BitVec 4) : Statement (.cvuAbsorb c) := fun _ => ⟨nofun, nofun⟩
theorem linkNakReceive (lane : BitVec 3) (ackSeq : Byte) : Statement (.linkNakReceive lane ackSeq) := fun _ => ⟨nofun, nofun⟩
theorem linkAckTimeout (lane : BitVec 3) : Statement (.linkAckTimeout lane) := fun _ => ⟨nofun, nofun⟩
theorem linkFlitReceive (lane : BitVec 3) (f : Flit) : Statement (.linkFlitReceive lane f) := fun _ => ⟨nofun, nofun⟩
theorem portEnable : Statement .portEnable := fun _ => ⟨nofun, nofun⟩
theorem laneTrained (inbound : Bool) (lane : BitVec 3) : Statement (.laneTrained inbound lane) := fun _ => ⟨nofun, nofun⟩
theorem laneTrainFailed (inbound : Bool) (lane : BitVec 3) : Statement (.laneTrainFailed inbound lane) := fun _ => ⟨nofun, nofun⟩
theorem fclkMeasure (mhz : BitVec 12) : Statement (.fclkMeasure mhz) := fun _ => ⟨nofun, nofun⟩
theorem wsBypass : Statement .wsBypass := fun _ => ⟨nofun, nofun⟩
theorem wsExtest : Statement .wsExtest := fun _ => ⟨nofun, nofun⟩
theorem wsIntest : Statement .wsIntest := fun _ => ⟨nofun, nofun⟩
theorem wsScan : Statement .wsScan := fun _ => ⟨nofun, nofun⟩
theorem wsMbist (r : BistResult) : Statement (.wsMbist r) := fun _ => ⟨nofun, nofun⟩
theorem wsFuseRead : Statement .wsFuseRead := fun _ => ⟨nofun, nofun⟩
theorem wsFuseProg (word : BitVec 7) (bits : Word) : Statement (.wsFuseProg word bits) := fun _ => ⟨nofun, nofun⟩
theorem wsFuncAccess (dr : BitVec 53) : Statement (.wsFuncAccess dr) := fun _ => ⟨nofun, nofun⟩
theorem mboxReqWrite (v : Word) : Statement (.mboxReqWrite v) := fun _ => ⟨nofun, nofun⟩
theorem mboxSubmit : Statement .mboxSubmit := fun _ => ⟨nofun, nofun⟩
theorem mboxDiscard : Statement .mboxDiscard := fun _ => ⟨nofun, nofun⟩
theorem mboxRspRead : Statement .mboxRspRead := fun _ => ⟨nofun, nofun⟩
theorem mringRequestTake : Statement .mringRequestTake := fun _ => ⟨nofun, nofun⟩
theorem mringCfgWrite (v : Word) : Statement (.mringCfgWrite v) := fun _ => ⟨nofun, nofun⟩
theorem mringErrClear : Statement .mringErrClear := fun _ => ⟨nofun, nofun⟩
theorem mgmtReplyPlace : Statement .mgmtReplyPlace := fun _ => ⟨nofun, nofun⟩
theorem getInfo : Statement .getInfo := fun _ => ⟨nofun, nofun⟩
theorem reset : Statement .reset := fun _ => ⟨nofun, nofun⟩
theorem loadImage : Statement .loadImage := fun _ => ⟨nofun, nofun⟩
theorem loadImageComplete : Statement .loadImageComplete := fun _ => ⟨nofun, nofun⟩
theorem swapBank : Statement .swapBank := fun _ => ⟨nofun, nofun⟩
theorem readFuse : Statement .readFuse := fun _ => ⟨nofun, nofun⟩
theorem setVfOffsets : Statement .setVfOffsets := fun _ => ⟨nofun, nofun⟩
theorem readSensors (p : Unit) : Statement (.readSensors p) := fun _ => ⟨nofun, nofun⟩
theorem setPowerMode : Statement .setPowerMode := fun _ => ⟨nofun, nofun⟩
theorem hoststreamStart : Statement .hoststreamStart := fun _ => ⟨nofun, nofun⟩
theorem hoststreamStop : Statement .hoststreamStop := fun _ => ⟨nofun, nofun⟩
theorem debugBreakSet : Statement .debugBreakSet := fun _ => ⟨nofun, nofun⟩
theorem debugRead : Statement .debugRead := fun _ => ⟨nofun, nofun⟩
theorem debugWrite : Statement .debugWrite := fun _ => ⟨nofun, nofun⟩
theorem bistRun : Statement .bistRun := fun _ => ⟨nofun, nofun⟩
theorem bistRunComplete (results : List (Word × Word × Word)) : Statement (.bistRunComplete results) := fun _ => ⟨nofun, nofun⟩
theorem groupTableWrite : Statement .groupTableWrite := fun _ => ⟨nofun, nofun⟩
theorem clearErrors : Statement .clearErrors := fun _ => ⟨nofun, nofun⟩
theorem ageingReport : Statement .ageingReport := fun _ => ⟨nofun, nofun⟩
theorem lockDebug (readback : Bool) : Statement (.lockDebug readback) := fun _ => ⟨nofun, nofun⟩
theorem dbgResumeAcc : Statement .dbgResumeAcc := fun _ => ⟨nofun, nofun⟩
theorem dbgResumeExe : Statement .dbgResumeExe := fun _ => ⟨nofun, nofun⟩
theorem blotClear : Statement .blotClear := fun _ => ⟨nofun, nofun⟩
theorem errlogPop : Statement .errlogPop := fun _ => ⟨nofun, nofun⟩
theorem errlogClear : Statement .errlogClear := fun _ => ⟨nofun, nofun⟩
theorem registerWrite (off : BitVec 20) (v : Word) : Statement (.registerWrite off v) := fun _ => ⟨nofun, nofun⟩
theorem rowOperationComplete : Statement .rowOperationComplete := fun _ => ⟨nofun, nofun⟩
theorem updateApplyComplete : Statement .updateApplyComplete := fun _ => ⟨nofun, nofun⟩

end Sys2Proof.Laws.WellFormed
end

