-- ==== Sys2Proof/Laws/Words.lean ====
section
/-! SUPPORT. Little-endian words in memory, and what a sync operation does to its word. -/

set_option Elab.async false

namespace Sys2Proof.Machine

theorem leNat_append (xs ys : List Byte) : leNat (xs ++ ys) = leNat xs + 256 ^ xs.length * leNat ys := by
  induction xs with
  | nil => simp [leNat]
  | cons b t ih => simp only [List.cons_append, leNat, ih, List.length_cons, pow_succ]; ring
theorem leBytes_length (n v : Nat) : (leBytes n v).length = n := by
  induction n generalizing v with
  | zero => rfl
  | succ n ih => simp [leBytes, ih]
/-- The bytes of a number spell it, modulo their width. -/
theorem leNat_leBytes (n v : Nat) : leNat (leBytes n v) = v % 256 ^ n := by
  induction n generalizing v with
  | zero => simp [leBytes, leNat, Nat.mod_one]
  | succ n ih =>
    simp only [leBytes, leNat, ih, BitVec.toNat_ofNat]
    rw [show (256 : Nat) ^ (n + 1) = 256 * 256 ^ n from pow_succ' 256 n, Nat.mod_mul]
theorem State.bytes_length (s : State) (a n : Nat) : (s.bytes a n).length = n := by
  induction n generalizing a with
  | zero => rfl
  | succ n ih => simp [State.bytes, ih]
theorem State.bytes_getD (s : State) (a n i : Nat) (h : i < n) : (s.bytes a n).getD i 0 = s.byte (a + i) := by
  induction n generalizing a i with
  | zero => omega
  | succ n ih =>
    cases i with
    | zero => simp [State.bytes]
    | succ i =>
      rw [show a + (i + 1) = a + 1 + i by omega, ← ih (a + 1) i (by omega)]
      simp [State.bytes]
/-- Bytes that agree in two states are the same list. -/
theorem State.bytes_congr (s t : State) (a n : Nat) (h : ∀ i, i < n → t.byte (a + i) = s.byte (a + i)) : t.bytes a n = s.bytes a n := by
  induction n generalizing a with
  | zero => rfl
  | succ n ih =>
    simp only [State.bytes]
    rw [ih (a + 1) (fun i hi => by rw [show a + 1 + i = a + (i + 1) by omega]; exact h _ (by omega)), show t.byte a = s.byte a from h 0 (by omega)]
theorem State.bytes_eq_of_getD (s : State) (a : Nat) (l : List Byte) (h : ∀ i, i < l.length → s.byte (a + i) = l.getD i 0) :
    s.bytes a l.length = l := by
  induction l generalizing a with
  | nil => rfl
  | cons b t ih =>
    have h0 := h 0 (by simp)
    simp only [List.length_cons, State.bytes]
    rw [ih (a + 1) (fun i hi => by rw [show a + 1 + i = a + (i + 1) by omega, h (i + 1) (by simpa using hi)]; simp)]
    simp_all

/-- What a write stores reads back. -/
theorem State.bytes_write (r a : Nat) (l : List Byte) (s : State) : (s.write r a l).bytes a l.length = l :=
  State.bytes_eq_of_getD _ a l fun i hi => State.write_inside r a i l s hi
theorem State.dword_writeDword (r a : Nat) (v : DWord) (s : State) : (s.writeDword r a v).dword a = v := by
  have h := State.bytes_write r a (leBytes 8 v.toNat) s
  rw [leBytes_length] at h
  simp only [State.writeDword, State.dword, State.le, h, leNat_leBytes, w64]
  apply BitVec.eq_of_toNat_eq
  rw [BitVec.toNat_ofNat]
  have := v.isLt
  omega
theorem State.bytes_split (s : State) (a m n : Nat) : s.bytes a (m + n) = s.bytes a m ++ s.bytes (a + m) n := by
  induction m generalizing a with
  | zero => simp [State.bytes]
  | succ m ih => rw [show m + 1 + n = (m + n) + 1 by omega]; simp only [State.bytes, ih, List.cons_append]; rw [show a + 1 + m = a + (m + 1) by omega]
/-- A word is the low half of its double word. -/
theorem State.word_eq_lo (s : State) (a : Nat) : s.word a = lo32 (s.dword a) := by
  have h : s.le a 8 = s.le a 4 + 256 ^ 4 * s.le (a + 4) 4 := by
    simp only [State.le]
    rw [State.bytes_split s a 4 4, leNat_append, State.bytes_length]
  simp only [State.word, State.dword, lo32, w32, w64, h]
  apply BitVec.eq_of_toNat_eq
  simp only [BitVec.toNat_ofNat, BitVec.toNat_setWidth]
  omega
theorem State.word_writeDword (r a : Nat) (v : DWord) (s : State) : (s.writeDword r a v).word a = lo32 v := by
  rw [State.word_eq_lo, State.dword_writeDword]
theorem State.writeDword_outside (r a x : Nat) (v : DWord) (s : State) (hx : x < a ∨ a + 8 ≤ x) : (s.writeDword r a v).byte x = s.byte x :=
  State.write_outside r a x _ s (by rw [leBytes_length]; exact hx)

@[simp] theorem State.count_byte (off n a : Nat) (s : State) : (s.count off n).byte a = s.byte a := by
  obtain ⟨c, h⟩ := State.count_eq off n s; rw [h]; rfl
@[simp] theorem State.touchBy_byte (r : Reader) (b n a : Nat) (s : State) : (s.touchBy r b n).byte a = s.byte a := by simp only [State.byte, State.touchBy_mem]
@[simp] theorem State.touch_byte (r b n a : Nat) (s : State) : (s.touch r b n).byte a = s.byte a := by simp only [State.byte, State.touch_mem]
@[simp] theorem State.raise_byte (e : Err) (a : Nat) (s : State) : (s.raise e).byte a = s.byte a := by
  obtain ⟨l, c, g, h⟩ := State.raise_eq e s; rw [h]; rfl
theorem State.word_of_byte (s t : State) (a : Nat) (h : ∀ x, t.byte x = s.byte x) : t.word a = s.word a := by
  simp only [State.word, State.le, State.bytes_congr s t a 4 fun i _ => h _]

/-- A sync word's COUNT is written, and no byte outside the word. -/
theorem State.putCount_word (a : Nat) (sem : Bool) (c : Word) (s : State) : (s.putCount a sem c).word a = c := by
  rw [State.putCount, State.word_of_byte (s.writeDword 11 a (w64 (bit sem * 2 ^ 60 + c.toNat))) _ a (by simp), State.word_writeDword]
  apply BitVec.eq_of_toNat_eq
  simp only [lo32, w64, BitVec.toNat_setWidth, BitVec.toNat_ofNat, bit]
  have := c.isLt
  split <;> omega
theorem State.putCount_outside (a x : Nat) (sem : Bool) (c : Word) (s : State) (hx : x < a ∨ a + 8 ≤ x) :
    (s.putCount a sem c).byte x = s.byte x := by
  simp only [State.putCount, State.count_byte]
  exact State.writeDword_outside 11 a x _ s hx

/-- An operation on a word that takes it gives the word the COUNT of R296 and leaves every other byte alone. -/
theorem State.syncApply_ok (op a : Nat) (v : Word) (src : Nat) (rd : Reader) (s : State) (sem : Bool) (c : Word)
    (h1 : s.wordChk a = none) (h2 : s.readWord a op = .ok sem c) :
    (s.syncApply op a v src rd).1 = none ∧ (s.syncApply op a v src rd).2.word a = (newCount op sem c v).1 ∧
      ∀ x, x < a ∨ a + 8 ≤ x → (s.syncApply op a v src rd).2.byte x = s.byte x := by
  simp only [State.syncApply, h1, h2]
  refine ⟨trivial, State.putCount_word a sem _ _, fun x hx => ?_⟩
  rw [State.putCount_outside a x sem _ _ hx]
  split <;> simp

end Sys2Proof.Machine
end

