-- ==== Sys2Proof/Tests/Slice0.lean ====
section
/-! SUPPORT. Small states for the tests; WellFormed's smoke test; the spec's worked examples and a few single steps, the
expected results from the spec. -/

set_option Elab.async false

namespace Sys2Proof.Tests

open Sys2Proof.Machine

/-! States -/

/-- Start-up done, nothing else. -/
def up : State := { State.reset with sys := { Sys.reset with poreset := false, lock := true, core := .mgmtReady, bootStage := 6 } }
/-- Start-up after the given stage. -/
def booting (n : Nat) : State := { State.reset with sys := { Sys.reset with poreset := false, lock := true, core := .boot, bootStage := n } }
/-- An engine command of context E0. -/
def cmdOf (op : EngOp) : EngCmd := ⟨op, 7, .e0, 1⟩
/-- Commands in engine queue q. -/
def queued (q : Nat) (ops : List EngOp) (s : State) : State :=
  { s with cc := { s.cc with queues := (q, ⟨ops.map cmdOf, false, .none⟩) :: s.cc.queues } }
/-- One command in engine queue q. -/
def holding (q : Nat) (op : EngOp) : State := queued q [op] up
/-- A value operand. -/
def imm (n : Nat) : Opd := { imm := w64 n }
/-- A command packet from the mailbox. -/
def packet (op : Nat) (pay : List Word) : Packet := ⟨.mailbox, op, 2, 5, false, false, pay⟩
/-- The controller performs a packet. -/
def asked (op : Nat) (pay : List Word) (s : State) : State := { s with mgmt := { s.mgmt with cur := some (packet op pay) } }
/-- A macro-command. -/
def macroOf (k : MacroKind) : Macro := ⟨9, .always, 0, k⟩
/-- Thread t dispatches a macro-command. -/
def dispatching (t : Thread) (k : MacroKind) (s : State) : State :=
  match t with
  | .acc => { s with cc := { s.cc with inService := true, dispAcc := { Disp.idle with cur := some (macroOf k) } } }
  | .exe => { s with cc := { s.cc with inService := true, dispExe := { Disp.idle with cur := some (macroOf k) } } }
/-- A context runs its handler at program counter 5, X1 holding 3. -/
def running (c : Ctx) : State := up.setCtxt c { Ctxt.idle with run := true, tag := 7, pc := 5, x := [(1, 3)] }
/-- A tile of FP32 at an address of the near tier. -/
def tileAt (base rows cols : Nat) : Tile := ⟨w32 base, w32 (4 * rows * cols), w32 rows, w32 cols, w32 (4 * cols), 0, 0, 0, 0, false⟩
def refAt (base rows cols : Nat) : TRef := ⟨0, tileAt base rows cols⟩
/-- The outcome's state. -/
def nextOf (o : Host.Outcome State Fault Refusal) : State :=
  match o with
  | .next t => t
  | _ => State.reset

/-! WellFormed refuses an ill-formed command under each of its checks -/

theorem test_wf_point : (Instr.operatingPointEval 5 6).wf = false := by decide
theorem test_wf_sensors : (Instr.thermalSensorRead []).wf = false := by decide
theorem test_wf_margins : (Instr.ageingMeasurement []).wf = false := by decide
theorem test_wf_detector : (Instr.droopDetect 9 0).wf = false ∧ (Instr.droopHoldExpire 9 0).wf = false := by decide
theorem test_wf_power : (Instr.sillageEngage 17).wf = false ∧ (Instr.sillageLevelStep 17).wf = false := by decide
theorem test_wf_queue : (Instr.wait 23).wf = false ∧ (Instr.engineCommandEnqueue .e0 23 .packFlush).wf = false := by decide
theorem test_wf_word : (Instr.tileSet .acc 0 [(16, 0)]).wf = false := by decide
theorem test_wf_stream : (Instr.dmaTimeout (2 ^ 20)).wf = false ∧ (Instr.dmaTimeout (2 ^ 20 - 1)).wf = true := by decide
theorem test_wf_party : (Instr.waitPoll 32).wf = false ∧ (Instr.partnerTimeout 31).wf = true := by decide
theorem test_wf_span : (Instr.restoreVerify ⟨[⟨8191, 0xFFFFFFFF, [0, 0], true, false⟩]⟩).wf = false := by decide
theorem test_wf_results : (Instr.bistRunComplete [(0, 0, 0), (0, 0, 0), (0, 0, 0), (0, 0, 0)]).wf = false := by decide
theorem test_wf_payload : (Instr.linkFlitReceive 0 ⟨0, 0, List.replicate 65 0, 0, 0, 0, false⟩).wf = false := by decide

/-! The worked examples of chapters 02 to 06, 09 to 11 and 14 -/

/-- The conversion of an FP32 word to bare E4M3, SAT or IEEE: the code and the flags. -/
def toE4m3 (ieee : Bool) (w : Word) : Nat × Flags := ((convElem 3 ieee false .rne false (val32 w)).code, (convElem 3 ieee false .rne false (val32 w)).flags)

theorem test_e4m3_third : toE4m3 false 0x3E99999A = (0x2A, fInx) := by decide
theorem test_e4m3_460 : toE4m3 true 0x43E60000 = (0x7E, fInx) := by decide
theorem test_e4m3_500 : toE4m3 false 0x43FA0000 = (0x7E, fOvf ||| fInx) ∧ toE4m3 true 0x43FA0000 = (0x7F, fOvf ||| fInx) := by decide
theorem test_e4m3_small : toE4m3 false 0x3A6BEDFA = (0x00, fUnd ||| fInx) ∧ toE4m3 false 0x3A83126F = (0x01, fUnd ||| fInx) := by decide
/-- The KPS block of the drain example, after ENC = 2^-3. -/
theorem test_kps_block : ((convBlock 2 7 ([0x41500000, 0xBF800000, 0x4059999A, 0x3D4CCCCD].map fun w => (val32 w, false, .rne))).1,
    (convBlock 2 7 ([0x41500000, 0xBF800000, 0x4059999A, 0x3D4CCCCD].map fun w => (val32 w, false, .rne))).2.map Conv.code) = (0x81, [7, 9, 3, 0]) := by decide
theorem test_mx_block : ((convBlock 1 3 ([0x3F400000, 0x38D1B717].map fun w => (val32 w, false, .rne))).1,
    (convBlock 1 3 ([0x3F400000, 0x38D1B717].map fun w => (val32 w, false, .rne))).2.map Conv.code) = (0x76, [0x7C, 0x15]) := by decide
theorem test_stochastic : (convElem 1 false false (.sr 0x5A3C1E07) false (val32 0x3F80C000)).code = 0x3F81 ∧
    (convElem 1 false false (.sr 0xD1000000) false (val32 0x3F80C000)).code = 0x3F80 := by decide
theorem test_zero_point : (convElem 1 false false .rne false (zpExpand (-3) 2 (decodeElem 1 0x3C20))).code = 0xBD48 := by decide
/-- The products 1.5, -2^-30, 1.25 x 2^-33 and -2^-40 added to 1.0. -/
theorem test_group_sum : (addGroup (some 0x3F800000) [.fin (Ex.pow2 0), .fin (Ex.pow2 (-15)), .fin (Ex.ofInt 5 (-18)), .fin (Ex.ofInt (-1) (-20))]
    [.fin (Ex.ofInt 3 (-1)), .fin (Ex.ofInt (-1) (-15)), .fin (Ex.pow2 (-17)), .fin (Ex.pow2 (-20))]).1 = 0x401FFFFF := by decide
/-- Slot 17. -/
def slot17 : Slot := { Slot.reset with cfg := 0x19000100, ptr := 3, valid := 3, maxCur := 0x406CCCCD, hist := [(0, 0x4039999A), (1, 0x40466666), (2, 0x4059999A)] }
theorem test_slot_commit : slot17.commit.enc = 0x42000000 ∧ slot17.commit.dec = 0x3D000000 ∧ slot17.commit.valid = 4 := by decide
/-- Slot 41. -/
def slot41 : Slot := { Slot.reset with ovfT := 1024, vanT := 16384, van := 196608, tot := 8388608 }
theorem test_promote : slot41.commit.promVan = true ∧ slot41.commit.promOvf = false := by decide
/-- ARGMAX over 2.5, NaN, 2.5 and then 4.0 in lane 7. -/
def argBeats : Sum := redBeat (redBeat ⟨redEmpty 5, 0xFFFFFFFF, 5, true, 0⟩ [some (val32 0x40200000), some .nan, some (val32 0x40200000)])
  ((List.replicate 7 (some xZero)) ++ [some (val32 0x40800000)])
theorem test_argmax : argBeats.idx = 9 ∧ argBeats.val = 0x4010000000000000 := by decide
theorem test_clip : bits32 (clipOf false (.fin (Ex.ofInt 3 37)) xOne 16).1 = 0x3DD105EC := by decide +kernel
theorem test_wait_wraps : ready false 0xFFFFFFF0 0x10 = false ∧ ready false 0x10 0x10 = true ∧ signed32 (0xFFFFFFF0 - 0x10) = -32 := by decide
theorem test_galois : gfPow 3 ^^^ 1 = 9 ∧ gfInv 9 = 0x9D := by decide +kernel
theorem test_galois_recover : gfMul 0x9C 0x99 ^^^ gfMul 0x30 0x60 = 0x5A ∧ gfPow 35 = 0x9C ∧ gfPow 29 = 0x30 := by decide +kernel
theorem test_crc32_check : crc32.of [0x31, 0x32, 0x33, 0x34, 0x35, 0x36, 0x37, 0x38, 0x39] = 0xCBF43926 := by decide +kernel
/-- The LOAD_IMAGE packet and its completion reply. -/
theorem test_packet : packetOf .mailbox [0x03020000, 0x03201500, 0x00800000, 0x0002D040, 0, 0] = ⟨.mailbox, 3, 2, 0x15, true, false, [0x00800000, 0x0002D040, 0]⟩ := by decide +kernel
theorem test_reply : (Reply.words ⟨.mailbox, 3, 2, 0x15, 0, true, true, false, [1]⟩).take 3 = [0x0100C000, 0x03201500, 1] := by decide +kernel

end Sys2Proof.Tests
end

