-- ==== Sys2Proof/Tests/Witnesses.lean ====
section
/-! SUPPORT. For every obligation that has hypotheses, a state and operands that meet them together, clause by clause. -/

set_option Elab.async false

namespace Sys2Proof.Tests

open Sys2Proof.Machine

/-! Start-up, resets, power -/

/-- The straps sampled, no lock yet. -/
def waking : State := { State.reset with sys := { Sys.reset with poreset := false, bootStage := 2 } }
/-- A core whose synthesiser has lost lock. -/
def unlocked : State := { up with sys := { up.sys with lock := false, lost := true } }
/-- A fuse bank that passes its check. -/
theorem fuses_words (c : Word) : ((List.range 82).map fun i => Tab.get 0 [(0, 0x10000000), (82, c)] i) =
    (List.range 82).map fun i => Tab.get 0 [(0, 0x10000000)] i := rfl
theorem fuses_check (c : Word) : fusesGood [(0, 0x10000000), (82, c)] =
    (w32 (crc32.of (wordBytes ((List.range 82).map fun i => Tab.get 0 [(0, 0x10000000)] i))) == c) := by
  unfold fusesGood
  rw [fuses_words, show Tab.get 0 [(0, 0x10000000), (82, c)] 0 = 0x10000000 from rfl, show (fld 0x10000000 28 4 == 1) = true by decide,
    show Tab.get 0 [(0, 0x10000000), (82, c)] 82 = c from rfl, Bool.true_and]
/-- Some fuse bank passes its check. -/
theorem witness_good_fuses : ∃ t : Tab Word, fusesGood t = true := by
  refine ⟨_, (fuses_check _).trans (beq_self_eq_true _)⟩
def stage4 (tier answers : Bool) : State :=
  { booting 4 with sys := { (booting 4).sys with tierAnswers := answers, straps := ⟨0, 0, false, false, tier⟩ } }

theorem witness_StepRunsFrontCommand : up.pending = [] ∧ up.Clocked ∧ up.sys.fence ≠ .fenced ∧ State.reset.pending = [] ∧ State.reset.sys.poreset = true ∧
    unlocked.sys.lock = false := by decide
theorem witness_PowerAndLockResetTheFastBlocks : State.reset.sys.poreset = true ∧ up.sys.poreset = false ∧ up.Served ∧ up.sys.lock = true ∧
    up.logs.errs.length < 512 ∧ unlocked.sys.poreset = false ∧ unlocked.sys.lost = true ∧ unlocked.sys.scanned = false ∧
    ctrlReg 0x04000 = true ∧ up.MemOk := by decide
theorem witness_StartUpStagesRunInOrder : waking.Served ∧ waking.awaitsLock = true ∧
    (booting 2).Served ∧ (booting 2).sys.core = .boot ∧ (booting 2).sys.lock = true ∧ (booting 2).sys.bootStage = 2 ∧
    (booting 3).Served ∧ (booting 3).sys.bootStage = 3 ∧ (⟨true, false⟩ : BistResult).unrepairable = false ∧
    (stage4 true true).sys.bootStage = 4 ∧ (stage4 true true).sys.tierAnswers = (stage4 true true).sys.straps.tier ∧
    (stage4 false false).sys.tierAnswers = (stage4 false false).sys.straps.tier ∧ (booting 5).sys.core = .boot ∧ (booting 5).sys.bootStage = 5 := by
  decide +kernel
theorem witness_StartUpFailuresAreLogged : waking.Served ∧ waking.awaitsLock = true ∧ waking.logs.errs.length < 512 ∧
    (booting 3).Served ∧ (booting 3).sys.core = .boot ∧ (booting 3).sys.bootStage = 3 ∧ (⟨false, true⟩ : BistResult).unrepairable = true ∧
    (stage4 true false).Served ∧ (stage4 true false).sys.straps.tier = true ∧ (stage4 true false).sys.tierAnswers = false ∧
    (stage4 false true).sys.straps.tier = false ∧ (stage4 false true).sys.tierAnswers = true ∧
    (booting 2).sys.bootStage = 2 := by decide +kernel
theorem witness_bad_fuses : fusesGood (booting 2).sys.fuses = false := by
  have h : (fld (Tab.get 0 (booting 2).sys.fuses 0) 28 4 == 1) = false := by decide
  unfold fusesGood
  rw [h]
  rfl
theorem witness_CoreResetKeepsManagementAndMemory : up.sys.poreset = false ∧ up.sys.coreReset = false ∧ up.sys.fence ≠ .fencing ∧ up.mgmt.deferred = none ∧
    (asked 2 [] up).Served ∧ (asked 2 [] up).mgmt.cur = some (packet 2 []) ∧ (packet 2 []).op = 2 ∧
    keepReg 0x11000 = false ∧ keepReg 0x03080 = true ∧ keepReg 0x90010 = false ∧
    2 ≤ coreNum up.sys.core ∧ coreNum up.sys.core ≤ 4 ∧ ({ up.sys with core := .bootFailed } : Sys).core = .bootFailed := by decide +kernel

/-- A core with point 0 enabled by its fuse, and one by an age offset of 16 at its end. -/
def pointed : State := { up with sys := { up.sys with shadow := [(0, 0x10000000)] } }
theorem witness_VoltageFollowsLayersAndAgeing : (0 : Nat) < 16 ∧ (15 : Nat) < 16 ∧ up.Clocked ∧ up.sys.fence ≠ .fenced ∧
    ([1, 2, 3, 4, 5, 6, 7, 0xFF] : List Byte).length = 8 ∧ (∃ v ∈ ([1, 2, 3, 4, 5, 6, 7, 0xFF] : List Byte), v.toInt = -1) ∧
    (∀ v ∈ ([1, 2, 3, 4, 5, 6, 7, 0xFF] : List Byte), -1 ≤ v.toInt) ∧
    up.enabledAt 22 ≠ 7 ∧ up.disabled 3 = false ∧ 3 + 7 ≤ 22 ∧ (up.vfFuse 0 : Int) + 10 * up.vfUser 0 + 10 * (up.ageOffset : Int) ≤ 3600 := by
  decide +kernel
theorem witness_VfUserOffsetsStayInRange : up.Served ∧ (asked 8 [1, 0x14] up).Served ∧ (asked 8 [1, 0x14] up).mgmt.cur = some (packet 8 [1, 0x14]) ∧
    (packet 8 [1, 0x14]).op = 8 ∧ (0 ∈ vfPoints (packet 8 [1, 0x14])) ∧
    (∀ i ∈ vfPoints (packet 8 [1, 0x14]), -20 ≤ signedOf 8 (vfOffset (packet 8 [1, 0x14]) i) ∧ signedOf 8 (vfOffset (packet 8 [1, 0x14]) i) ≤ 20) ∧
    (∀ i ∈ vfPoints (packet 8 [1, 0x15]), 20 < signedOf 8 (vfOffset (packet 8 [1, 0x15]) i)) ∧
    (∀ i ∈ vfPoints (packet 8 [1, 0xEB]), signedOf 8 (vfOffset (packet 8 [1, 0xEB]) i) < -20) := by decide +kernel
theorem witness_AgeRegistersOnlyMoveOneWay : up.Served ∧ up.ageOffset < fld (0x10 : Word) 0 5 ∧ fld (0x10 : Word) 0 5 ≤ 16 ∧
    fld (0x70000 : Word) 16 5 < up.ageNmax ∧ 7 ≤ fld (0x70000 : Word) 16 5 := by decide +kernel
theorem witness_PointsAreRefusedOrReachedByOneStep : up.Served ∧ fld (3 : Word) 0 2 = 3 ∧ (asked 10 [0] up).mgmt.cur = some (packet 10 [0]) ∧
    (asked 10 [0] up).modeOk ((packet 10 [0]).w 0) = true ∧ fld ((packet 10 [0x60002]).w 0) 16 5 < 7 ∧ 22 < fld ((packet 10 [0x170002]).w 0) 16 5 ∧
    up.sys.lock = true ∧ up.PointOk ∧ 7 ≤ up.pwr.nBudget ∧ up.pwr.nBudget ≤ 22 ∧
    ({ up with pwr := { up.pwr with nNext := some 8 } } : State).pwr.nNext = some 8 := by
  refine ⟨by decide, by decide, by decide, by decide +kernel, by decide, by decide, by decide, ⟨by decide, by decide, fun n h => by cases h⟩, by decide, by decide, rfl⟩
theorem witness_DroopAndPowerPinsAct : up.Clocked ∧ Tab.get 0 up.pwr.reported 7 < 3 ∧ up.logs.errs.length < 512 ∧
    (0 : Half).toNat + 4 * up.regFld 0x02014 16 8 ≤ up.vEff (up.pwr.n - 7) ∧ ¬ ((2400 : Half).toNat + 4 * up.regFld 0x02014 16 8 ≤ up.vEff (up.pwr.n - 7)) ∧
    ({ up with pwr := { up.pwr with held := [(7, 3)], readings := [(7, some 2400)] } } : State).droopLevel 7 < Tab.get 0 ({ up.pwr with held := [(7, 3)] } : Pwr).held 7 ∧
    State.reset.running = false ∧ up.skipNow = 0 ∧ up.frozen 0x02100 = false ∧ up.Served := by decide +kernel
theorem witness_SensorsReachRegistersAndFrames : up.Served ∧ (List.replicate 12 (0x640 : Half)).length = 12 ∧
    (∀ v ∈ List.replicate 12 (0x640 : Half), v.toInt = 1600) ∧ up.pwr.n ≤ 22 := by
  refine ⟨by decide, by decide, fun v h => ?_, by decide⟩
  rw [List.eq_of_mem_replicate h]
  rfl
theorem witness_rails : 2400 ≤ (2800 : Half).toNat ∧ (2800 : Half).toNat ≤ 3600 ∧ 3104 ≤ (3200 : Half).toNat ∧ (3200 : Half).toNat ≤ 3296 ∧
    2850 ≤ (3000 : Half).toNat ∧ (3000 : Half).toNat ≤ 3150 ∧ 4560 ≤ (4800 : Half).toNat ∧ (4800 : Half).toNat ≤ 5040 ∧
    (2800 : Half).toNat ≤ (3200 : Half).toNat + 400 := by decide +kernel
/-- Sillage engaged, and the states before and after it. -/
def engaged : State := { up with pwr := { up.pwr with sillage := some ⟨100, 40, 0, 3⟩ } }
/-- A release wait at the head of FILL_A, with Sillage enabled. -/
def waiting : State :=
  let s := queued 17 [.wait (imm 0) (imm 1) false] (up.setReg 0x0201C 0x80000000)
  { s with sync := { s.sync with arrived := [(0, some 0)] } }
theorem witness_SillageFollowsItsLevels : engaged.Clocked ∧ engaged.pwr.sillage = some ⟨100, 40, 0, 3⟩ ∧ engaged.sillageWait = false ∧
    engaged.fillHold = 2 ∧ 0 < engaged.fillSlope ∧
    (engaged.setReg 0x0201C 0x40000000).regBit 0x0201C 30 = true ∧ ({ up with pwr := { up.pwr with ramp := some 40 } } : State).pwr.ramp = some 40 ∧ up.pwr.sillage = none ∧
    waiting.Clocked ∧ waiting.regBit 0x0201C 31 = true ∧ waiting.sillageWait = true ∧ waiting.pwr.sillage = none := by decide +kernel

/-! Logs, the mailbox and the management controller's opcodes -/

/-- The error log, and the Blotter, full. -/
def fullLog : State := { up with logs := { up.logs with errs := List.replicate 512 ⟨0, 0, 0, 0, 0, 0, 0, 0, 0, 0, 0⟩ } }
def fullBlot (v : Word) : State := { (up.setReg 0x90200 v) with logs := { up.logs with blot := List.replicate 4096 ⟨0, 0, 0, 0, 0⟩ } }
/-- Debug locked by the fuse. -/
def locked : State := { up with sys := { up.sys with fuses := [(127, 1)] } }
theorem witness_LogAndBlotterKeepTheirBounds : up.logs.errs.length < 512 ∧ 512 ≤ fullLog.logs.errs.length ∧ up.Served ∧
    (fullBlot 0x80000004).regBit 0x90200 31 = true ∧ (fullBlot 0x80000004).regBit 0x90200 2 = true ∧ (fullBlot 0x80000004).regBit 0x90200 30 = false ∧
    (fullBlot 0xC0000004).regBit 0x90200 30 = true ∧ up.regBit 0x90200 31 = false ∧ up.debugLocked = false ∧ locked.Served ∧ locked.debugLocked = true := by
  refine ⟨by decide, Nat.le_of_eq ((List.length_replicate).symm), by decide, by decide, by decide, by decide, by decide, by decide, by decide, by decide, by decide⟩
theorem witness_full_blotter (v : Word) : 4096 ≤ (fullBlot v).logs.blot.length := Nat.le_of_eq (List.length_replicate).symm
def mailing (m : Mgmt) : State := { up with mgmt := m }
theorem witness_MailboxTakesWordsAndSubmits : up.Served ∧ up.mgmt.req.length < 1027 ∧ up.mgmt.busy = false ∧ up.mgmt.replies = [] ∧
    (mailing { Mgmt.reset with busy := true }).mgmt.busy = true ∧
    (mailing { Mgmt.reset with replies := [[1, 2, 3], [4]] }).mgmt.replies = [[1, 2, 3], [4]] ∧
    (mailing { Mgmt.reset with replies := [[1]] }).mgmt.replies = [[1]] ∧ (mailing { Mgmt.reset with replies := [[1]] }).mgmt.out = [] ∧
    (mailing { Mgmt.reset with replies := [[1]] }).mgmt.submitted = none := by decide
theorem witness_full_mailbox : 1027 ≤ (mailing { Mgmt.reset with req := List.replicate 1027 0 }).mgmt.req.length :=
  Nat.le_of_eq (List.length_replicate).symm

/-- GET_INFO as the host writes it. -/
def infoWords : List Word := [0, 0x01100500]
def infoPacket : Packet := packetOf .mailbox infoWords
theorem witness_PacketRefusalsFollowPrecedence : 2 ≤ infoWords.length ∧ up.packetTest infoPacket infoWords false = none ∧
    up.packetTest infoPacket infoWords true = some 7 ∧ up.packetTest (packetOf .mailbox [0, 0x01300500]) [0, 0x01300500] false = some 8 ∧
    payloadReserved 0x0A (packetOf .mailbox [0, 0x0A100500, 4]).pay = true ∧ up.packetTest (packetOf .mailbox [0, 0x17100500]) [0, 0x17100500] false = some 2 ∧
    ({ up with sys := { up.sys with fence := .fenced } } : State).packetTest (packetOf .mailbox [0, 0x0C100500]) [0, 0x0C100500] false = some 9 ∧
    locked.packetTest (packetOf .mailbox [0, 0x0D100500]) [0, 0x0D100500] false = some 5 := by decide +kernel

/-- Request ring at 0x1000 with one slot taken and one to take, reply ring at 0x8000, both of two slots. -/
def ringsAt : State := (((up.setReg 0x01014 0x1000).setReg 0x01018 0x8000).write 14 0x1000 (wordBytes [2, 0, 1, 0, 0, 0x10000000])).write 14 0x8000
  (wordBytes [0, 0, 0, 0, 0, 0x10000000])
def ringsOn : State := { (ringsAt.setReg 0x01010 0x80001100) with mgmt := { up.mgmt with ringOk := true } }
def ringsErr (en : Bool) : State := { (ringsAt.setReg 0x01010 (if en then 0x80001100 else 0x1100)) with mgmt := { up.mgmt with ringErr := true } }
theorem witness_MailboxRingsServeSlots : up.Served ∧ up.regBit 0x01010 31 = false ∧ (0x80001100 : Word).getLsbD 31 = true ∧
    ringsAt.Served ∧ (let u := ringsAt.setReg 0x01010 (mringCfg 0x80001100); u.ringGood u.reqBase u.reqSlots = true ∧ u.ringGood u.rspBase u.rspSlots = true) ∧
    (let u := up.setReg 0x01010 (mringCfg 0x80001100); u.ringGood u.reqBase u.reqSlots = false) ∧
    ringsOn.Served ∧ ringsOn.regBit 0x01010 31 = true ∧ (ringsErr false).mgmt.ringErr = true ∧ (ringsErr false).regBit 0x01010 31 = false ∧
    (ringsErr true).regBit 0x01010 31 = true ∧ (ringsErr true).ringGood (ringsErr true).reqBase (ringsErr true).reqSlots = true ∧
    (ringsErr true).ringGood (ringsErr true).rspBase (ringsErr true).rspSlots = true ∧
    ringsOn.ringServed = true ∧ ringsOn.poisonedIn ringsOn.reqBase 16 = false ∧ 0 < ringsOn.reqHeld ∧ ringsOn.reqHeld ≤ ringsOn.reqSlots ∧
    ringsOn.ringWordsOk ringsOn.reqBase = true ∧ ringsOn.replyRoom .ring = true ∧ ringsOn.mayTake = true ∧ ringsOn.mgmt.submitted = none ∧
    (let s : State := { ringsOn with mgmt := { ringsOn.mgmt with last := .ring, submitted := some [0, 0x01100500] } };
      s.Served ∧ s.ringServed = true ∧ s.replyRoom .ring = true ∧ s.mayTake = true ∧ s.mgmt.last = .ring ∧ s.mgmt.submitted ≠ none) := by decide +kernel
def reply1 : Reply := ⟨.mailbox, 1, 1, 5, 0, false, false, false, [1]⟩
theorem witness_reply_placed : (mailing { Mgmt.reset with out := [reply1] }).Served ∧ (mailing { Mgmt.reset with out := [reply1] }).mgmt.out = [reply1] ∧
    reply1.dest = .mailbox ∧ (mailing { Mgmt.reset with out := [reply1] }).mgmt.replies.length < 2 ∧
    (mailing { Mgmt.reset with out := [reply1] }).mgmt.submitted = none := by decide
theorem witness_InformationOpcodesAnswer : (∀ op ∈ [0x01, 0x09, 0x15, 0x14], (asked op [] up).Served ∧ (asked op [] up).sys.lost = false ∧
      (asked op [] up).mgmt.cur = some (packet op []) ∧ (packet op []).op = op) ∧
    (asked 7 [0, 128] up).mgmt.cur = some (packet 7 [0, 128]) ∧ 1 ≤ ((packet 7 [0, 128]).w 1).toNat ∧
    ((packet 7 [0, 128]).w 0).toNat + ((packet 7 [0, 128]).w 1).toNat ≤ 128 ∧
    (asked 13 [3, 4, 5, 6] up).mgmt.cur = some (packet 13 [3, 4, 5, 6]) := by decide +kernel

/-- An image header of an 8-byte body at 0x2000. -/
def imaged : State := up.write 14 0x2000 (wordBytes [w32 (2 ^ 28 + fld (up.idVal 0) 24 8 * 2 ^ 16 + fld (up.idVal 0) 16 8 * 2 ^ 8), 0, 8, 0])
def loadPacket : Packet := packet 3 [0x2000, 72, 0]
def loading (bank : Nat) (bad : Bool) : State :=
  { imaged with mgmt := { imaged.mgmt with deferred := some ⟨loadPacket, bank, 0x2000, 8, bad, w32 (crc32.of (imaged.bytes 0x2040 8)), 0⟩ } }
theorem witness_ImageLoadChecksThenCopies : (asked 3 [0x2000, 72, 0] imaged).Served ∧ (asked 3 [0x2000, 72, 0] imaged).sys.lost = false ∧
    (asked 3 [0x2000, 72, 0] imaged).mgmt.cur = some loadPacket ∧ loadPacket.op = 3 ∧ (asked 3 [0x2000, 72, 0] imaged).loadRefusal loadPacket = none ∧
    (loading 0 false).Clocked ∧ (loading 1 true).Clocked ∧ (loading 2 false).Clocked ∧ (loading 0 false).poisonedIn (0x2000 + 64) 8 = false := by decide +kernel
theorem witness_loads_deferred (b : Bool) : ∃ d : Deferred, (loading 0 b).mgmt.deferred = some d ∧ d.pkt.op = 3 ∧ d.bank ≤ 1 ∧ d.disturbed = b ∧
    w32 (crc32.of ((loading 0 b).bytes (d.src + 64) d.bytes)) = d.crc :=
  ⟨⟨loadPacket, 0, 0x2000, 8, b, w32 (crc32.of (imaged.bytes 0x2040 8)), 0⟩, rfl, rfl, Nat.zero_le _, rfl, rfl⟩
theorem witness_patch_deferred : ∃ d : Deferred, (loading 2 false).mgmt.deferred = some d ∧ d.pkt.op = 3 ∧ d.bank = 2 ∧
    w32 (crc32.of ((loading 2 false).bytes (d.src + 64) d.bytes)) = d.crc :=
  ⟨⟨loadPacket, 2, 0x2000, 8, false, w32 (crc32.of (imaged.bytes 0x2040 8)), 0⟩, rfl, rfl, rfl, rfl⟩

/-- Both banks hold an accepted image; a ring that is not empty. -/
def banked : State := { up with cc := { up.cc with valid0 := true, valid1 := true } }
def ringHeld : State := up.write 14 0 (wordBytes [2, 0, 1, 0])
theorem witness_BanksSwapAndStreamingStarts : (asked 4 [] banked).Served ∧ (asked 4 [] banked).mgmt.cur = some (packet 4 []) ∧
    (if (asked 4 [] banked).cc.inService then (asked 4 [] banked).cc.valid0 else (asked 4 [] banked).cc.valid1) = true ∧
    (asked 4 [] banked).dispatchIdle = true ∧ (asked 4 [] banked).queuesIdle = true ∧ (asked 4 [] banked).swapPending = false ∧
    (if (asked 4 [] up).cc.inService then (asked 4 [] up).cc.valid0 else (asked 4 [] up).cc.valid1) = false ∧
    (if (asked 11 [0x4000, 6] banked).cc.inService then (asked 11 [0x4000, 6] banked).cc.valid1 else (asked 11 [0x4000, 6] banked).cc.valid0) = true ∧
    ((packet 11 [0x4000, 0x80000000]).w 1).getLsbD 31 = true ∧ (asked 11 [0x4000, 6] banked).cc.atomStarted = false ∧
    (asked 11 [0x4000, 6] banked).atBoundary = true ∧ (asked 11 [0x4000, 6] (running .acc)).atBoundary = false ∧
    (if (asked 11 [] up).cc.inService then (asked 11 [] up).cc.valid1 else (asked 11 [] up).cc.valid0) = false ∧
    (asked 12 [] up).mgmt.cur = some (packet 12 []) ∧ (asked 12 [] up).poisonedIn (asked 12 [] up).ringBase 16 = false ∧ (asked 12 [] up).word (asked 12 [] up).ringBase = (asked 12 [] up).word ((asked 12 [] up).ringBase + 8) ∧
    (asked 12 [] ringHeld).word (asked 12 [] ringHeld).ringBase ≠ (asked 12 [] ringHeld).word ((asked 12 [] ringHeld).ringBase + 8) := by decide +kernel

/-- The access thread's dispatch stopped. -/
def stopped : State := { up with cc := { up.cc with dispAcc := { Disp.idle with stopped := true }, dispExe := { Disp.idle with stopped := true } } }
def gtPacket (v : Word) : Packet := packet 0x13 [8191, 1, 0, v, 0, 0]
theorem witness_DebugSpacesReadAndWrite : (∀ p ∈ [packet 0x0E [0, 0x100, 1022], packet 0x0E [2, 64, 1], packet 0x0F [0, 0x100, 5], packet 0x10 [7], gtPacket 0x10000000],
      (asked p.op p.pay up).Served ∧ (asked p.op p.pay up).sys.lost = false ∧ (asked p.op p.pay up).mgmt.cur = some p) ∧
    fld ((packet 0x0E [0, 0x100, 1022]).w 0) 0 4 = 0 ∧ ((packet 0x0E [0, 0x100, 1022]).w 1).toNat % 4 = 0 ∧
    up.spaceOf 0x100 (4 * 1022) = some .near ∧ up.eccBad = [] ∧ up.parBad = [] ∧ fld ((packet 0x0E [2, 64, 1]).w 0) 0 4 = 2 ∧
    (packet 0x0F [0, 0x100, 5]).pay.drop 2 = [5] ∧ up.spaceOf 0x100 4 = some .near ∧
    (asked 0x0F [2, 64, 5] stopped).mgmt.cur = some (packet 0x0F [2, 64, 5]) ∧ (asked 0x0F [2, 64, 5] stopped).cc.dispAcc.stopped = true ∧
    (asked 0x10 [7] up).coreIdle = true ∧ (asked 0x10 [7] up).dmaIdle = true ∧ fld ((packet 0x10 [7]).w 0) 0 3 ≠ 0 ∧
    fld ((gtPacket 0x10000000).w 0) 0 13 + ((gtPacket 0x10000000).w 1).toNat ≤ 8192 ∧ (∀ i, i < 1 → gtBad (gtOf (gtPacket 0x10000000) i) = none) ∧
    gtBad (gtOf (gtPacket 0) 0) ≠ none := by decide +kernel
def bisting (sel : Word) : State := { up with mgmt := { up.mgmt with deferred := some ⟨packet 0x10 [sel], 0, 0, 0, false, 0, 0⟩ } }
theorem witness_BistLeavesArraysZero : (bisting 7).Served ∧ (bisting 7).sys.lost = false ∧
    ((bisting 7).mgmt.deferred.map fun d => d.pkt) = some (packet 0x10 [7]) ∧ ([(1, 1, 0), (0, 0, 0), (2, 1, 1)] : List (Word × Word × Word)).length = popcount4 (fld ((packet 0x10 [7]).w 0) 0 3) := by
  decide +kernel
theorem witness_DebugLockClosesDebug : (asked 0x16 [0x4C4F434B] up).Served ∧ (asked 0x16 [0x4C4F434B] up).mgmt.cur = some (packet 0x16 [0x4C4F434B]) ∧
    (packet 0x16 [0x4C4F434B]).w 0 = 0x4C4F434B ∧ (asked 0x16 [0x4C4F434B] up).debugLocked = false ∧ (packet 0x16 [0]).w 0 ≠ 0x4C4F434B ∧
    (asked 0x16 [0x4C4F434B] locked).debugLocked = true ∧ stopped.Served ∧ stopped.sys.lost = false ∧ stopped.debugLocked = false ∧
    stopped.cc.dispAcc.stopped = true ∧ stopped.cc.dispExe.stopped = true := by decide +kernel
theorem witness_WrapperInstructionsAct : up.sys.poreset = false ∧ (Tab.get 0 up.sys.fuses 127).getLsbD 1 = false ∧
    (Tab.get 0 ({ up.sys with fuses := [(127, 2)] } : Sys).fuses 127).getLsbD 1 = true ∧ locked.debugLocked = true ∧ up.Served ∧ up.sys.lost = false ∧
    up.debugLocked = false ∧ (0 : BitVec 53).getLsbD 52 = false ∧ (0x10000000000000 : BitVec 53).getLsbD 52 = true := by decide

/-! The control core -/

/-- A run-ahead entry; the broadcast open; the ring holding one entry of two, the core streaming from its host. -/
def entry1 : RunEntry := ⟨0, some (macroOf (.traceHint 3)), false, false, false⟩
def opened : State := { up with cc := { up.cc with bcOpen := true } }
def streaming : State :=
  let s := (up.write 14 0x4000 (wordBytes [3, 0, 2, 0, 0, 0x10000000])).setReg 0x10024 0x4000
  { s.setReg 0x10020 4 with sys := { up.sys with core := .hostStream }, cc := { up.cc with ringGo := true } }
def ringBad (mode : CoreState) (fence : FenceState) : State :=
  { streaming.orReg 0x10028 0x20000 with sys := { up.sys with core := mode, fence := fence } }
theorem witness_BroadcastAndRingFillTheRunAhead : opened.Clocked ∧ opened.cc.bcOpen = true ∧ opened.inService = true ∧ opened.leading = false ∧
    opened.hostMode = false ∧ opened.cc.runahead.length < 512 ∧ (1 : Byte) ≠ parityByte 0 ∧ opened.logs.errs.length < 512 ∧
    streaming.Clocked ∧ streaming.inService = true ∧ streaming.hostMode = true ∧ streaming.cc.ringGo = true ∧ streaming.regBit 0x10028 17 = false ∧
    streaming.poisonedIn streaming.ringBase 16 = false ∧ streaming.ringWordsOk streaming.ringBase = true ∧ 0 < (streaming.word streaming.ringBase - streaming.word (streaming.ringBase + 8)).toNat ∧
    (streaming.word streaming.ringBase - streaming.word (streaming.ringBase + 8)).toNat ≤ streaming.ringSize ∧ streaming.cc.runahead.length < 512 ∧
    (ringBad .hostStream .inService).Served ∧ (ringBad .hostStream .inService).sys.lost = false ∧ (ringBad .hostStream .inService).regBit 0x10028 17 = true ∧
    (ringBad .hostStream .inService).inService = true ∧ (ringBad .hostStream .inService).hostMode = true ∧
    (ringBad .hostStream .inService).inTiers (ringBad .hostStream .inService).ringBase (0x40 + 32 * (ringBad .hostStream .inService).ringSize) = true ∧
    (ringBad .hostStream .inService).ringHdrOk (ringBad .hostStream .inService).ringBase = true ∧
    (ringBad .hostStream .fenced).inService = false ∧ (ringBad .gang .inService).hostMode = false ∧ (ringBad .gang .inService).leading = false := by
  decide +kernel
/-- A leader with a credit, streaming to its gang. -/
def leader : State := { streaming with sys := { up.sys with core := .gang, straps := { up.sys.straps with leader := true } }, cc := { streaming.cc with granted := 1 } }
theorem witness_leader_takes : leader.Clocked ∧ leader.inService = true ∧ leader.leading = true ∧ 0 < leader.cc.granted ∧ leader.cc.ringGo = true ∧
    leader.regBit 0x10028 17 = false ∧ leader.poisonedIn leader.ringBase 16 = false ∧ leader.ringWordsOk leader.ringBase = true ∧
    leader.poisonedIn (leader.ringBase + 0x40) 32 = false := by decide +kernel
/-- One entry in the run-ahead queue; breakpoint 3 at its tag, for both threads. -/
def ahead : State := { up with cc := { up.cc with runahead := [entry1] } }
def breaking : State := { ((up.setReg 0x90160 0xE0).setReg 0x90164 9).setReg 0x9016C 0xFFFF with cc := { up.cc with runahead := [entry1] } }
theorem witness_DispatchTakesTheNextCommand : ∀ t ∈ [Thread.acc, Thread.exe], ahead.Clocked ∧ ahead.mayDispatch t = true ∧ (ahead.disp t).replay = none ∧
    (ahead.cc.runahead.find? fun e => !doneBy t e) = some entry1 ∧ entry1.m = some (macroOf (.traceHint 3)) ∧ entry1.parBad = false ∧
    (ahead.disp t).stopNext = false ∧ (∀ b, b < 4 → ahead.bpMatch t 9 b = false) ∧ ahead.selected (.notPl 0) = true ∧ ahead.selected (.pl 0) = false ∧
    (let s := ahead.setDisp t { ahead.disp t with stopNext := true }; s.mayDispatch t = true ∧ (s.disp t).replay = none ∧ (s.disp t).stopNext = true ∧ ∀ b, b < 4 → s.bpMatch t 9 b = false) ∧
    breaking.Clocked ∧ breaking.mayDispatch t = true ∧ (breaking.disp t).skipBp = false ∧ breaking.bpMatch t 9 3 = true := by decide +kernel
/-- Replay entry 255 of the whole store. -/
def replayable (t : Thread) : State := dispatching t (.replay 255) (up.setReg (0x10400 + 4 * 255) 0x80008000)
theorem witness_MacroCommandsHaveTheirEffect : (∀ t ∈ [Thread.acc, Thread.exe],
      (∀ k ∈ [MacroKind.config false 63 [(15, 7, none)], .start 0, .patch [(63, 5)], .traceHint 3], (dispatching t k up).AtMacro t (macroOf k)) ∧
      (replayable t).AtMacro t (macroOf (.replay 255)) ∧ ((replayable t).disp t).inBody = false ∧
      (macroOf (.start 0)).ctx.toNat ≤ 1 ∧ ((dispatching t (.start 0) up).ctxt (if t = .acc then .acc else .e0)).run = false) ∧
    (let m : Macro := ⟨9, .always, 2, .start 0⟩; ({ up with cc := { up.cc with inService := true, dispExe := { Disp.idle with cur := some m } } } : State).AtMacro .exe m ∧ 1 < m.ctx.toNat) ∧
    (let e := (replayable .acc).reg (0x10400 + 4 * 255); e.getLsbD 31 = true ∧ fld e 16 15 + fld e 0 16 ≤ 32768 ∧ fld e 0 16 ≠ 0) ∧
    (dispatching .exe (.powerHint 3) up).AtMacro .exe (macroOf (.powerHint 3)) ∧ (∀ c ∈ [Ctx.acc, .e0, .e1], (running c).MayRun c) := by decide +kernel
/-- Both threads at one SYNC. -/
def meeting (k : MacroKind) (s : State) : State := dispatching .acc k (dispatching .exe k s)
def lined : State := (up.setReg 0x60100 0xB0000000).setReg 0x6010C 0x800
theorem witness_SyncMacrosMeetOnBothThreads : (∀ k ∈ [MacroKind.latch, .swap], (meeting k up).Clocked ∧ (meeting k up).bothAt = some (macroOf k) ∧
      (meeting k up).exeQuiet = true ∧ (meeting k up).predsOwed = false) ∧
    (let s := meeting .swap { up with cc := { up.cc with valid1 := true, valid0 := true } }; (if s.cc.inService then s.cc.valid0 else s.cc.valid1) = true ∧ s.bothAt = some (macroOf .swap) ∧ s.exeQuiet = true) ∧
    (let s := meeting .swap up; (if s.cc.inService then s.cc.valid0 else s.cc.valid1) = false) ∧
    (let s := meeting (.barrier 0) lined; s.Clocked ∧ s.bothAt = some (macroOf (.barrier 0)) ∧ s.cc.dispExe.arrived = none ∧ s.sync.barWait = none ∧
      s.allQuiet = true ∧ s.regBit 0x60100 31 = true ∧ s.regFld 0x60100 28 3 = 3 ∧ s.wordChk (s.releaseAddr 0) = none ∧ s.sync.lineReq = false ∧
      s.sync.lineAck = false ∧ s.readWord (s.releaseAddr 0) 6 = .ok false (s.reg 0x60114) ∧ s.Clean (s.releaseAddr 0) 8) := by decide +kernel
theorem witness_ScalarInstructionsWriteOneRegister : (∀ c ∈ [Ctx.acc, .e0, .e1], (running c).MayRun c ∧
      opdBad ((running c).capOpd c ⟨4, some 1, some 63⟩) = false) ∧ (63 : BitVec 8).toNat ≤ 63 ∧ (63 : DWord).toNat < 64 ∧
    (let s := (running .e0).setReg 0x90200 0x80000004; s.MayRun .e0 ∧ s.regBit 0x90200 31 = true ∧ s.regBit 0x90200 2 = true ∧ s.logs.blot.length < 4096) ∧
    (let s : State := { running .e0 with eccBad := [eccBase ((running .e0).fetchAddr .e0)] }; s.Clocked ∧ s.threadGo .e0 = true ∧ (s.ctxt .e0).stall = none ∧ s.poisonedAt (s.fetchAddr .e0) = true) ∧
    (running .e0).poisonedAt ((running .e0).fetchAddr .e0) = false := by
  decide +kernel
/-- A context in loops. -/
def looping (l : List LoopRec) : State := up.setCtxt .e0 { Ctxt.idle with run := true, pc := 5, loops := l }
def loop5 (n : Nat) : LoopRec := ⟨0, n, 0, 3, 100⟩
/-- A context that has written n to its loop count register 3. -/
def counted (n : Nat) : State := (running .e0).setCtxt .e0 { (running .e0).ctxt .e0 with counts := [(3, w32 n)], written := 8 }
theorem witness_BranchesAndLoopsMoveThePc : (running .e0).MayRun .e0 ∧ (running .e0).taken .e0 (.zero 0 false) = true ∧
    (running .e0).taken .e0 (.zero 0 true) = false ∧ (∀ r ∈ ((running .e0).ctxt .e0).loops, r.stop ≠ 9) ∧
    opdBad ((running .e0).capOpd .e0 (imm 5)) = false ∧ ((running .e0).ctxt .e0).loops.length < 4 ∧ lo32 ((running .e0).capOpd .e0 (imm 5)).imm ≠ 0 ∧
    lo32 ((running .e0).capOpd .e0 (imm 0)).imm = 0 ∧ (looping (List.replicate 4 (loop5 2))).MayRun .e0 ∧
    4 ≤ ((looping (List.replicate 4 (loop5 2))).ctxt .e0).loops.length ∧
    (∀ n ∈ [0, 7], (counted n).MayRun .e0 ∧ ((counted n).ctxt .e0).written.getLsbD 3 = true ∧ Tab.get 0 ((counted n).ctxt .e0).counts 3 = w32 n) := by decide +kernel
/-- A loop whose body ends after the present instruction. -/
def ending (n : Nat) : LoopRec := ⟨0, n, 0, 3, Config.nextPc 5⟩
theorem witness_loop_end (n : Nat) : ((looping [ending n]).ctxt .e0).loops = [ending n] ∧ Config.nextPc ((looping [ending n]).ctxt .e0).pc = (ending n).stop ∧
    (ending 2).iter + 1 < (ending 2).count ∧ (ending 1).count ≤ (ending 1).iter + 1 ∧ (∀ r ∈ ((looping []).ctxt .e0).loops, r.stop ≠ Config.nextPc ((looping []).ctxt .e0).pc) := by
  refine ⟨rfl, rfl, by decide, by decide, fun r h => by cases h⟩
theorem witness_BanksTakeTheirWords : (∀ c ∈ [Ctx.acc, .e0, .e1], (running c).MayRun c ∧ opdBad ((running c).capOpd c (imm 5)) = false ∧
      opdBad ((running c).capOpd c ⟨4, none, some 64⟩) = true) ∧ (63 : BitVec 8).toNat ≤ 63 ∧ 63 < (64 : BitVec 8).toNat ∧
    (∀ w ∈ ([(0, 5), (15, 6)] : List (Nat × Word)), w.1 < 16) ∧ up.Served ∧ up.sys.lost = false := by decide +kernel
/-- A fill that is no thin request, and queue 17 full. -/
def fill9 : FillOp := ⟨.joint, refAt 0 9 8, refAt 0x1000 8 16, imm 9, imm 8, imm 16, imm 0, true, false, false, false, none⟩
def thinOp : EngOp → Bool
  | .fill f => isThin f
  | _ => false
def full17 : State := queued 17 (List.replicate 32 .packFlush) (running .e0)
theorem witness_EnqueueCapturesItsOperands : (running .e0).MayRunAs .e0 [(6, 17)] ∧ (full17.stalled .e0 6 17).MayRunAs .e0 [(6, 17)] ∧ (running .e0).yields .e0 = false ∧ queueTakes .e0 17 (.fill fill9) = true ∧
    (running .e0).cc.pack = [] ∧ thinOp ((running .e0).capture .e0 (.fill fill9)) = false ∧ (∀ k ∈ entersQueues 17 ((running .e0).capture .e0 (.fill fill9)), (running .e0).room k = true) ∧
    queueTakes .acc 15 (.dma 15 (imm 0) none []) = true ∧ (running .acc).MayRunAs .acc [(6, 15)] ∧
    full17.MayRunAs .e0 [(6, 17)] ∧ full17.yields .e0 = false ∧ thinOp (full17.capture .e0 (.fill fill9)) = false ∧ (∃ k ∈ entersQueues 17 (full17.capture .e0 (.fill fill9)), full17.room k = false) ∧
    (let s := (running .e1).setReg 0x14000 0x10001; s.Clocked ∧ s.regBit 0x14000 0 = true ∧ s.regFld 0x14000 16 16 ≠ 0 ∧ s.offers .e1 = true ∧ s.cc.e1Next = false) := by
  decide +kernel
/-- Both execute contexts run; E0's command waits at queue 19, which has room. -/
def bothRun (e1 : Bool) : State := let s := running .e1; { s with cc := { s.cc with e0 := { (running .e0).cc.e0 with stall := some (6, 19) }, e1Next := e1 } }
theorem witness_yields : (bothRun false).MayRunAs .e1 [(6, 20)] ∧ (bothRun false).cc.e1Next = false ∧ (bothRun false).atIssue .e0 = true ∧ (bothRun false).offers .e0 = true ∧
    (bothRun true).MayRunAs .e0 [(6, 19)] ∧ (bothRun true).cc.e1Next = true ∧ (bothRun true).offers .e1 = true := by decide +kernel
/-- Tile queue 7, full and with one token. -/
def tq7 (c : Ctx) (l : List (Nat × Bool × Word)) : State := let s := (running c).setReg (0x10300 + 4 * 7) (if c = .e1 then 0x10000 else 0); { s with cc := { s.cc with tqs := [(7, l)] } }
theorem witness_stalled : ((running .acc).stalled .acc 4 7).MayRunAs .acc [(4, 7), (6, 16)] ∧ ((tq7 .e0 [(1, true, 5)]).stalled .e0 5 7).MayRunAs .e0 [(5, 7)] ∧
    ((tq7 .e1 [(1, true, 5)]).stalled .e1 5 7).MayRunAs .e1 [(5, 7)] := by decide +kernel
theorem witness_TileQueuesCarryTokens : (running .acc).MayRunAs .acc [(4, 7), (6, 16)] ∧ opdBad (imm 5) = false ∧
    ((running .acc).tq 7).length < 64 ∧
    (running .acc).room 16 = true ∧ (tq7 .acc (List.replicate 64 (1, true, 5))).MayRunAs .acc [(4, 7), (6, 16)] ∧ 64 ≤ ((tq7 .acc (List.replicate 64 (1, true, 5))).tq 7).length ∧
    (holding 16 (.tqPush 7 (imm 5))).AtHead 16 (cmdOf (.tqPush 7 (imm 5))) ∧ (holding 16 (.tqPush 7 (imm 5))).queueQuiet 16 = true ∧
    up.Served ∧ up.tq 7 = [] := by decide +kernel
theorem witness_pops : (∀ c ∈ ([.e0, .e1] : List Ctx), (tq7 c [(1, true, 5)]).MayRunAs c [(5, 7)] ∧ (tq7 c [(1, true, 5)]).regBit (0x10300 + 4 * 7) 16 = (c == .e1) ∧
      (tq7 c [(1, true, 5)]).tq 7 = [(1, true, 5)]) ∧
    ∀ c ∈ ([.e0, .e1] : List Ctx), (tq7 c []).MayRunAs c [(5, 7)] ∧ (tq7 c []).regBit (0x10300 + 4 * 7) 16 = (c == .e1) ∧ (tq7 c []).tq 7 = [] := by decide +kernel
theorem witness_addrPush : (holding 16 (.addrPush 15 (imm 5))).AtHead 16 (cmdOf (.addrPush 15 (imm 5))) ∧ (Tab.get [] (holding 16 (.addrPush 15 (imm 5))).cc.afifo 15).length < 64 := by
  decide +kernel
/-- A queue that a rejection has halted. -/
def haltedAt16 : Queue := ({ up with cc := { up.cc with queues := [(16, ⟨[cmdOf .packFlush], true, .none⟩)] } } : State).queue 16
theorem witness_RejectionHoldsTheHead : (holding 22 .packFlush).headCmd 22 = some (cmdOf .packFlush) ∧ ({ code := 0x3005 } : Rej).logged = false ∧
    (holding 22 .packFlush).logs.errs.length < 512 ∧ up.regBit 0x10000 0 = true ∧ (up.setReg 0x10000 0).regBit 0x10000 0 = false ∧ up.Served ∧ up.sys.lost = false ∧
    haltedAt16.halted = true := by decide +kernel
theorem witness_CountersReadAsPairsAndClear : up.Served ∧ up.sys.lost = false ∧ isPair 0x40010 = true ∧ up.hidden 0x40010 = false ∧ up.hidden 0x40014 = false ∧
    up.latch.find? (fun e => e.1 == 0x40010) = none ∧ (∃ o ∈ cntBlocks.map (fun b => b.2.2), isCntCtrl o = true) ∧ isCntCtrl 0 = false ∧
    (0xFFF : BitVec 20).toNat < 0x1000 ∧ 0xB0000 ≤ (0xEFFFF : BitVec 20).toNat := by decide +kernel

/-! Slots, predicates, the vector unit, the row engine, the stills, the update unit -/

theorem witness_CommitFollowsItsSteps : (holding 22 (.scaleCommit 255)).AtHead 22 (cmdOf (.scaleCommit 255)) ∧ up.Served ∧ up.sys.lost = false ∧
    Slot.reset.cfg.getLsbD 24 = false ∧ slot17.cfg.getLsbD 24 = true ∧ slot17.histMax ≠ .nan ∧
    (match slot17.histMax with | .fin h => decide (h.num ≠ 0 ∧ h.neg = false ∧ fld slot17.cfg 27 5 ≤ 10) | _ => false) = true ∧
    (match Slot.reset.histMax with | .fin h => decide (h.num = 0) | _ => true) = true := by decide +kernel
theorem witness_FactorsTakePositiveNormals : (holding 22 (.scaleSet 255 true (imm 0x3F800000))).AtHead 22 (cmdOf (.scaleSet 255 true (imm 0x3F800000))) ∧
    0 < fld (oWord (imm 0x00800000)) 23 8 ∧ fld (oWord (imm 0x7F7FFFFF)) 23 8 < 255 ∧ (oWord (imm 0x7F7FFFFF)).getLsbD 31 = false ∧
    fld (oWord (imm 0x007FFFFF)) 23 8 = 0 ∧ fld (oWord (imm 0x7F800000)) 23 8 = 255 ∧ (oWord (imm 0x80800000)).getLsbD 31 = true ∧ up.Served ∧
    up.sys.lost = false ∧ (holding 22 (.scaleSet 255 true (imm 0))).logs.errs.length < 512 ∧ slot17.cfg.getLsbD 24 = true ∧ slot17.commit.held = false := by
  decide +kernel
theorem witness_SlotClearsAndPromoteBits : up.Served ∧ up.sys.lost = false ∧ (holding 22 (.promoteClear 255)).AtHead 22 (cmdOf (.promoteClear 255)) ∧
    (holding 22 (.promotePred 0 7)).AtHead 22 (cmdOf (.promotePred 0 7)) := by decide +kernel
theorem witness_FlagsPredicatesAndGeneratorStep : (∀ e ∈ [0, 7, 8], (holding 22 (.flagClear e 15)).AtHead 22 (cmdOf (.flagClear e 15))) ∧
    (holding 22 (.flagRead 7 31)).AtHead 22 (cmdOf (.flagRead 7 31)) ∧ (∀ q ∈ [16, 22], (holding q (.predSet 7 (imm 1))).AtHead q (cmdOf (.predSet 7 (imm 1))) ∧
      (holding q (.genStep (imm 1))).AtHead q (cmdOf (.genStep (imm 1)))) ∧ opdBad (imm 1) = false := by decide +kernel
theorem witness_SummariesReachTheControlCore : (∀ op ∈ [EngOp.sumRead 15 31, .sumRead 0 0, .sumIndexRead 14 31, .sumClear 15, .sumClear 14, .predCopy 14 .unord (imm 0) 7,
      .predCopy 15 .lt (imm 0) 0], (holding 22 op).AtHead 22 (cmdOf op)) ∧ (holding 19 (.vsetlen (imm 513) 31)).AtHead 19 (cmdOf (.vsetlen (imm 513) 31)) ∧
    (XVal.nan).isNan = true ∧ xZero.isNan = false := by decide +kernel
/-- Vector operations. -/
def addOp (p : Option Packed) : VOp := ⟨.add, p, 31, .reg 0, .bcast (imm 0x3F800000), .reg 2, [⟨1, 14, true, false⟩]⟩
theorem witness_VectorOperationsActBelowVlen : (∀ p ∈ [none, some Packed.bf16, some .fp16],
      (holding 19 (.vop (addOp p))).AtHead 19 (cmdOf (.vop (addOp p))) ∧ vopChk (holding 19 (.vop (addOp p))) 512 (addOp p) = none ∧
      (∀ v ∈ vSources (addOp p), colTile v = none) ∧ vlenOf (holding 19 (.vop (addOp p))) (cmdOf (.vop (addOp p))) = 512) ∧
    (let o : VOp := { addOp none with b := .cols (refAt 0x1000 1 512) (imm 0) }; vopChk (holding 19 (.vop o)) 512 o = none ∧ (holding 19 (.vop o)).AtHead 19 (cmdOf (.vop o)) ∧
      vopChk (holding 19 (.vop { o with b := .cols (refAt 0x1000 1 512) (imm 497) })) 512 { o with b := .cols (refAt 0x1000 1 512) (imm 497) } ≠ none) ∧
    (holding 19 (.vsplit 0 1 2 3)).AtHead 19 (cmdOf (.vsplit 0 1 2 3)) ∧ vlenOf (holding 19 (.vsplit 0 1 2 3)) (cmdOf (.vsplit 0 1 2 3)) ≤ 512 ∧ vQuiet .sel = true := by
  decide +kernel
def mem0 (first : Nat) (p : Option Packed) : VMem := ⟨refAt 0x1000 2 512, imm first, 3, p, 0, imm 0, imm 0, imm 0⟩
def shortVl (n : Nat) (op : EngOp) : State := (holding 19 op).setCtxt .e0 { (holding 19 op).ctxt .e0 with vlen := n }
theorem witness_LoadsAndStoresMoveElements : (∀ n ∈ [0, 512], ∀ f ∈ [0, 512], 
      (shortVl n (.vload (mem0 f none))).AtHead 19 (cmdOf (.vload (mem0 f none))) ∧ vloadChk (shortVl n (.vload (mem0 f none))) (cmdOf (.vload (mem0 f none))) (mem0 f none) = none ∧
      vlenOf (shortVl n (.vload (mem0 f none))) (cmdOf (.vload (mem0 f none))) = n) := by decide +kernel
theorem witness_stores : (holding 19 (.vstore (mem0 512 none))).AtHead 19 (cmdOf (.vstore (mem0 512 none))) ∧
    vstoreChk (holding 19 (.vstore (mem0 512 none))) (cmdOf (.vstore (mem0 512 none))) (mem0 512 none) = none ∧
    0 < vlenOf (holding 19 (.vstore (mem0 512 none))) (cmdOf (.vstore (mem0 512 none))) ∧ RowsOk (plainT (mem0 512 none).tile).t ∧
    tFmt (plainT (mem0 512 none).tile).t = 0 ∧ tCont (plainT (mem0 512 none).tile).t = 0 ∧ tTrans (plainT (mem0 512 none).tile).t = false ∧
    encOf (holding 19 (.vstore (mem0 512 none))) (tSlot (plainT (mem0 512 none).tile).t) = one32 ∧
    vloadChk (holding 19 (.vload (mem0 513 none))) (cmdOf (.vload (mem0 513 none))) (mem0 513 none) ≠ none ∧
    vstoreChk (holding 19 (.vstore (mem0 513 none))) (cmdOf (.vstore (mem0 513 none))) (mem0 513 none) ≠ none ∧
    (2 : Nat) * 512 < 513 + vspan (holding 19 (.vload (mem0 513 none))) (cmdOf (.vload (mem0 513 none))) (mem0 513 none) := by decide +kernel
/-- A drain of one beat's columns of still 0, its destination 32 rows. -/
def drain0 (c0 cols : Nat) : DrainOp := ⟨[0], none, imm c0, imm cols, false, none, none, none, none, none, none, none, [], refAt 0x1000 32 16, 0, none, imm 0, imm 0, imm 0, imm 0⟩
theorem witness_DrainsReadFactorsAtIssue : (holding 19 (.drain (drain0 0 16))).AtHead 19 (cmdOf (.drain (drain0 0 16))) ∧
    drainChk (holding 19 (.drain (drain0 0 16))) (drain0 0 16) = none ∧ vlenOf (holding 19 (.drain (drain0 0 16))) (cmdOf (.drain (drain0 0 16))) ≠ 0 ∧
    drainParts (holding 19 (.drain (drain0 0 16))) (drain0 0 16) ≠ [] ∧ 16 ≤ oVal (drain0 0 16).cols ∧
    (shortVl 0 (.drain (drain0 0 16))).AtHead 19 (cmdOf (.drain (drain0 0 16))) ∧ drainChk (shortVl 0 (.drain (drain0 0 16))) (drain0 0 16) = none ∧
    vlenOf (shortVl 0 (.drain (drain0 0 16))) (cmdOf (.drain (drain0 0 16))) = 0 ∧ oVal (drain0 8 16).c0 % 16 ≠ 0 ∧ 4096 < oVal (drain0 4096 16).c0 + oVal (drain0 4096 16).cols := by
  decide +kernel
/-- The beat of that drain. -/
def beating : State := { up with vec := { up.vec with drain := some ⟨cmdOf (.drain (drain0 0 16)), drain0 0 16, [(0, 0, 0, 32, 0)], 0x3F800000, 0x3F800000, 0x3F800000, 0, 0, [], []⟩ } }
theorem witness_drain_beat : beating.Clocked ∧ (beating.vec.drain.map DrainRun.beats) = some [(0, 0, 0, 32, 0)] ∧ writeWait beating (cmdOf (.drain (drain0 0 16))) [(0, 0)] = false ∧
    RowsOk (plainT (drain0 0 16).dst).t ∧ 0 - oVal (drain0 0 16).c0 + 16 ≤ (plainT (drain0 0 16).dst).t.cols.toNat ∧ InTile (plainT (drain0 0 16).dst).t [] ∧
    specContainer (drain0 0 16).spec = tCont (plainT (drain0 0 16).dst).t ∧ drainVops (drain0 0 16) = false ∧ isAcc (accAddr 0 4095 31) = true ∧
    ({ up with poison := [accTile (accAddr 0 4095 31)] } : State).poison.contains (accTile (accAddr 0 4095 31)) = true := by decide +kernel
/-- A row operation over two rows of four with every operand, and its last row. -/
def rowOp0 (k : RowKind) : RowOp := ⟨k, imm 2, imm 4, refAt 0x1000 2 4, some (refAt 0x1100 2 4), true, some (refAt 0x1200 1 4), some (refAt 0x1300 1 4),
  some (refAt 0x1400 1 4), some (refAt 0x1500 1 4), some (refAt 0x09000000 2 2), some (refAt 0x09000100 2 2), some (refAt 0x0903FFF0 2 2), imm 0, imm 0, refAt 0x2000 2 4, 0, imm 0, imm 0, imm 0⟩
theorem witness_RowOperationsRunRowByRow : (∀ k ∈ [RowKind.lnFwd, .rmsFwd, .softmaxFwd, .lnBwd, .rmsBwd, .softmaxBwd, .merge, .finalise],
      (holding 20 (.row (rowOp0 k))).AtHead 20 (cmdOf (.row (rowOp0 k))) ∧ rowChk (holding 20 (.row (rowOp0 k))) (rowOp0 k) = none ∧ oVal (rowOp0 k).rows ≠ 0 ∧
      (∀ r ∈ [(rowOp0 k).out] ++ (rowOp0 k).dgamma.toList ++ (rowOp0 k).dbeta.toList, RowsOk (plainT r).t)) ∧
    maskedRow [.inf true, .nan] = true ∧ rowChk (holding 20 (.row { rowOp0 .lnFwd with rows := imm 0 })) { rowOp0 .lnFwd with rows := imm 0 } = none := by decide +kernel
def rowing : State := { up with row := some ⟨cmdOf (.row (rowOp0 .softmaxFwd)), rowOp0 .softmaxFwd, 1, [], 0x3F800000, 0, 0⟩ }
theorem witness_row_completes : rowing.Clocked ∧ rowing.row = some ⟨cmdOf (.row (rowOp0 .softmaxFwd)), rowOp0 .softmaxFwd, 1, [], 0x3F800000, 0, 0⟩ ∧
    1 < (plainT (rowOp0 .softmaxFwd).out).t.rows.toNat ∧ oVal (rowOp0 .softmaxFwd).n ≤ (plainT (rowOp0 .softmaxFwd).out).t.cols.toNat ∧
    RowsOk (plainT (rowOp0 .softmaxFwd).out).t ∧ specContainer (rowOp0 .softmaxFwd).spec = tCont (plainT (rowOp0 .softmaxFwd).out).t ∧
    (∀ v ∈ (rowOp0 .softmaxFwd).dgamma.toList ++ (rowOp0 .softmaxFwd).dbeta.toList, RowsOk (plainT v).t ∧ 0 < v.t.rows.toNat ∧ oVal (rowOp0 .softmaxFwd).n ≤ v.t.cols.toNat) := by decide +kernel

/-! Stills -/

/-- BF16 tiles. -/
def bfAt (base rows cols : Nat) : TRef := ⟨0, ⟨w32 base, w32 (2 * rows * cols), w32 rows, w32 cols, w32 (2 * cols), 0x08000000, 0, 0, 0, false⟩⟩
/-- A fill of M rows, K 32 and 16 columns. -/
def fillOp0 (tg : Target) (m : Nat) (keep : Bool) : FillOp := ⟨tg, bfAt 0x1000 m 32, bfAt 0x4000 32 16, imm m, imm 32, imm 16, imm 4080, true, false, keep, false, none⟩
/-- The fill at the head of both fill queues. -/
def filling (f : FillOp) : State := queued 18 [.fill f] (holding 17 (.fill f))
def splitUp : State := { up with still := { up.still with split := true } }
theorem witness_FillsWriteTheirAccumulatorWords :
    (∀ m ∈ [0, 2], (filling (fillOp0 .joint m false)).AtHead 17 (cmdOf (.fill (fillOp0 .joint m false))) ∧ (fillOp0 .joint m false).fanout = false ∧
      ((filling (fillOp0 .joint m false)).headCmd (35 - 17)).map EngCmd.seq = some (cmdOf (.fill (fillOp0 .joint m false))).seq ∧
      shadowBusy (filling (fillOp0 .joint m false)) (fillOp0 .joint m false) = false ∧ fillChk (filling (fillOp0 .joint m false)) false [fillOp0 .joint m false] = none) ∧
    (let s := queued 18 [.fill (fillOp0 .pairB 2 false)] splitUp; s.AtHead 18 (cmdOf (.fill (fillOp0 .pairB 2 false))) ∧ fillChk s false [fillOp0 .pairB 2 false] = none ∧
      shadowBusy s (fillOp0 .pairB 2 false) = false) ∧
    placeRow up (targetStills up .joint) 1 = some (0, 1) ∧ maskedFill (fillOp0 .joint 2 false) = false ∧ up.poison = [] ∧ up.parBad = [] ∧
    (filling (fillOp0 .joint 2 true)).AtHead 17 (cmdOf (.fill (fillOp0 .joint 2 true))) ∧ shadowBusy (filling (fillOp0 .joint 2 true)) (fillOp0 .joint 2 true) = false ∧
    fillChk (filling (fillOp0 .joint 2 true)) false [fillOp0 .joint 2 true] ≠ none := by decide +kernel
/-- The tile latched of that fill, for a KEEP fill. -/
def kept : State := { filling (fillOp0 .joint 2 true) with still := { up.still with actA := some ⟨(bfAt 0x1000 2 32).t.rows, (bfAt 0x1000 2 32).t.cols, keepFmt (bfAt 0x1000 2 32).t, 2, 32, 0xFFFFFFFF,
  List.replicate 2 (List.replicate 32 xZero)⟩ } }
theorem witness_keep_fill : kept.AtHead 17 (cmdOf (.fill (fillOp0 .joint 2 true))) ∧ fillChk kept false [fillOp0 .joint 2 true] = none ∧
    (((newestTile kept .joint).map StatTile.data).getD []).length = oVal (fillOp0 .joint 2 true).m := by decide +kernel
def packedCmd : EngOp := .packed [(fillOp0 .joint 2 false, 7), (fillOp0 .joint 2 false, 8)]
def packing : State := queued 18 [packedCmd] (holding 17 packedCmd)
theorem witness_packed_fill : packing.AtHead 17 (cmdOf packedCmd) ∧ (packing.headCmd (35 - 17)).map EngCmd.seq = some 1 ∧
    shadowBusy packing (fillOp0 .joint 2 false) = false ∧ fillChk packing true [fillOp0 .joint 2 false, fillOp0 .joint 2 false] = none := by decide +kernel
def fillRun0 (j : Bool) : FillRun := ⟨1, [0], [0], j, .e0, 7, []⟩
theorem witness_fill_completes : ({ up with still := { up.still with runA := [fillRun0 true] } } : State).Clocked ∧
    ({ up with still := { up.still with runA := [fillRun0 true] } } : State).still.runA = [fillRun0 true] ∧
    ({ up with still := { up.still with runA := [fillRun0 false], runB := [fillRun0 false] } } : State).Clocked ∧
    (∀ e ∈ [fillRun0 false].head?, e.joint = false) := by decide +kernel
/-- Requests the packing stage holds; a walk of three steps. -/
def packHeld (v : Word) : State := { up.setReg 0x24000 v with cc := { up.cc with pack := [(fillOp0 .joint 2 false, 7, .e0, 1)] } }
def walkIn (n : Nat) : State :=
  (List.range 5).foldl (fun s l => s.setReg (0x13800 + 0x80 * 15 + 16 * (l + 1)) 1) ((((running .e0).setReg (0x13800 + 0x80 * 15) (w32 (n + 0xFFF00000))).setReg (0x13800 + 0x80 * 15 + 4) 64).setReg 0x24000 0)
theorem witness_StillSettingsTakeEffectInOrder : (∀ op ∈ [EngOp.pairing true, .klutLoad 31 (imm 0x1000), .dwMask 1 (imm 0) (imm 0) none, .dwMask 1 (imm 0) (imm 0) (some (bfAt 0x1000 4 4)), .packFlush],
      (holding 22 op).AtHead 22 (cmdOf op)) ∧ spaceChk (holding 22 (.klutLoad 31 (imm 0x1000))) .gen false 0x1000 32 1 = none ∧
    tStage1 (bfAt 0x1000 4 4) = none ∧ tStage2 (bfAt 0x1000 4 4) = none ∧ (bfAt 0x1000 4 4).t.base.toNat % 8 = 0 ∧ spaceChk up .gen false 0x1000 32 2 = none ∧
    (packHeld 0).cc.pack = [(fillOp0 .joint 2 false, 7, .e0, 1)] ∧ (∀ q ∈ [17, 18], (packHeld 0).room q = true) ∧ (packHeld 0).Clocked ∧ (packHeld 0).sys.lost = false ∧
    ((packHeld 0).setReg 0x24000 0).packOn = false ∧ ((packHeld 0).setReg 0x24000 0xFFFF0002).packOn = true ∧ up.cc.pack = [] ∧
    ((holding 22 .packFlush).issued 22 (cmdOf .packFlush)).packFlush ≠ none := by decide +kernel
theorem witness_walks : (walkIn 0).MayRun .e0 ∧ fld ((walkIn 0).reg (0x13800 + 0x80 * 15)) 0 16 = 0 ∧ (walkIn 3).MayRun .e0 ∧ (15 : BitVec 6).toNat ≤ 15 ∧ (walkIn 3).yields .e0 = false ∧ (walkIn 3).packOn = false ∧
    (walkIn 3).cc.pack = [] ∧ fld ((walkIn 3).reg (0x13800 + 0x80 * 15)) 0 16 = 3 ∧ (∀ l, l < 6 → 0 < l → fld ((walkIn 3).reg (0x13800 + 0x80 * 15 + 4 * (4 * l))) 0 16 = 1) ∧
    ((walkIn 3).queue 18).items.length + 3 ≤ 32 ∧ (match (walkIn 3).capture .e0 (.fill (fillOp0 .pairB 2 false)) with | .fill g => g.target ≠ .joint | _ => False) := by
  refine ⟨by decide +kernel, by decide +kernel, by decide +kernel, by decide, by decide +kernel, by decide +kernel, by decide +kernel, by decide +kernel, by decide +kernel, by decide +kernel, ?_⟩
  exact (by decide : Target.pairB ≠ .joint)

/-! The update unit -/

def apply0 (o : Optim) (n : Nat) : ApplyOp := ⟨o, refAt 0x1000 n 4, none, some (refAt 0x1100 n 4), some (refAt 0x1200 n 4), bfAt 0x1300 n 4, refAt 0x1000 n 4, none, none, none,
  imm 0x3F800000, imm 0, imm 0, imm 0, imm 0, imm 0, imm 0, 0, 1, true⟩
/-- The update queue, SUM[0] and SUM[1] of kind SUMSQ. -/
def updating (op : EngOp) : State := { holding 21 op with vec := { up.vec with sums := [(0, ⟨0, 0, 2, false, 0⟩), (1, ⟨0, 0, 2, false, 0⟩)] } }
theorem witness_ApplyStepsEveryElement : (∀ o ∈ [Optim.adamw, .adam, .sgdm, .trustLocal, .trustSums, .trustGiven],
      (updating (.apply (apply0 o 2))).AtHead 21 (cmdOf (.apply (apply0 o 2))) ∧ applyHeld (updating (.apply (apply0 o 2))) (apply0 o 2) = false ∧
      applyChk (updating (.apply (apply0 o 2))) (apply0 o 2) = none ∧ applyCount (apply0 o 2) ≠ 0) ∧
    applyChk (updating (.apply (apply0 .adam 0))) (apply0 .adam 0) = none ∧ applyCount (apply0 .adam 0) = 0 ∧
    (let s : State := { up with upd := some ⟨cmdOf (.apply (apply0 .adamw 2)), apply0 .adamw 2, 7, 0x3F800000, 0x3F800000, 0x3F800000, 0, false⟩ }
     s.Clocked ∧ applyWrites (apply0 .adamw 2) = true ∧ 7 < applyCount (apply0 .adamw 2) ∧
     (∀ p ∈ applyPairs (apply0 .adamw 2), p.2.t.rows = (apply0 .adamw 2).p.t.rows ∧ p.2.t.cols = (apply0 .adamw 2).p.t.cols)) ∧
    (∀ skip ∈ [true, false], let s : State := { up with upd := some ⟨cmdOf (.apply (apply0 .trustSums 2)), apply0 .trustSums 2, 7, 0x3F800000, 0x3F800000, 0x3F800000, 0, skip⟩ }; s.Clocked) ∧
    applyWrites (apply0 .trustSums 2) = false := by decide +kernel
theorem witness_StepRecordsReduceAndEnd : (updating (.record 0 (imm 0x1000))).AtHead 21 (cmdOf (.record 0 (imm 0x1000))) ∧ (updating (.record 0 (imm 0x1000))).evalMode = false ∧
    ((updating (.record 0 (imm 0x1000))).sum 0).kind = 2 ∧ (updating (.record 0 (imm 0x1000))).inTiers 0x1000 16 = true ∧
    (let op := EngOp.reduce (imm 0x1000) (imm 1) (imm 0x3F800000) (some 7); let s := (updating op).write 14 0x1000 (wordBytes [0, 0x10000000]);
      s.AtHead 21 (cmdOf op) ∧ s.evalMode = false ∧ maxNormBad (oWord (imm 0x3F800000)) = false ∧ s.inTiers 0x1000 (16 * 1) = true ∧ badRecord s 0x1000 1 = none ∧
      badRecord (updating op) 0x1000 1 = some 0) ∧
    (∀ slot ∈ [none, some (255 : BitVec 10)], (updating (.endStep slot)).AtHead 21 (cmdOf (.endStep slot)) ∧ (updating (.endStep slot)).evalMode = false) ∧
    -126 ≤ up.lsLog2 ∧ -126 ≤ up.lsMin ∧ up.regBit 0x45010 0 = false ∧ (up.setReg 0x45010 1).regBit 0x45010 0 = true ∧
    (up.setReg 0x45000 0x10000).regFld 0x45000 16 16 ≠ 0 ∧ (up.setReg 0x45000 0x10000).regFld 0x45004 16 16 + 1 = (up.setReg 0x45000 0x10000).regFld 0x45000 16 16 := by decide +kernel
/-- Bucket 63 of 1 MiB with its word at 0x1000, filled to n bytes. -/
def bucket (op : EngOp) (n : Nat) : State := (((holding 21 op).setReg (0x46000 + 0x3F0) 0x80000001).setReg (0x46000 + 0x3F4) 0x1000).setReg (0x46000 + 0x3F8) (w32 n)
theorem witness_BucketsLaunchOnceAndModeSwitches : (∀ op ∈ [EngOp.bktAccount 63 (imm 1), .bktFlush 63, .bktReset 63, .mode true], ∀ n ∈ [0, 2 ^ 20 - 1, 2 ^ 20],
      (bucket op n).AtHead 21 (cmdOf op) ∧ (bucket op n).evalMode = false ∧ (bucket op n).regBit (0x46000 + 0x10 * 63) 31 = true ∧ (bucket op n).wordChk 0x1000 = none ∧
      (bucket op n).readWord 0x1000 1 = .ok false ((bucket op n).word 0x1000) ∧ ((bucket op n).reg (0x46000 + 0x3F8)).toNat + 1 < 2 ^ 32) ∧
    (bucket .packFlush 0).regFld (0x46000 + 0x3F0) 0 9 * 2 ^ 20 = 2 ^ 20 ∧ (holding 21 (.bktFlush 63)).regBit (0x46000 + 0x10 * 63) 31 = false := by decide +kernel

/-! DMA, the port, the sync unit -/

/-- A descriptor of one run of 16 FP32 elements with further fields (byte offset, bit, value). -/
def descOf (kind : Nat) (fs : List (Nat × Nat × Nat)) : Nat :=
  ((([(0, 60, 1), (0, 56, kind), (0x20, 0, 16), (0x2C, 0, 1), (0x38, 0, 1), (0x44, 0, 1), (0x50, 0, 1), (0x5C, 0, 1)] : List (Nat × Nat × Nat)) ++ fs).map fun f => f.2.2 * 2 ^ (8 * f.1 + f.2.1)).sum
def dtile : Tile := ⟨0x8000, 0x1000, 0, 0, 0, 0, 0, 0, 0, false⟩
def dmaCmd : EngOp := .dma 0 (imm 0x1000) none [dtile]
/-- A DMA command at the head of queue 0, its descriptor in memory. -/
def describing (d : Nat) : State := (queued 0 [dmaCmd] up).write 14 0x1000 (leBytes 128 d)
theorem witness_TransfersIssuePlaceAndComplete : (∀ d ∈ [descOf 0 [(0x10, 0, 0x40000)], descOf 2 [(0x10, 0, 64)], descOf 1 [(0x18, 0, 0x40000), (0, 53, 1)], descOf 5 []],
      (describing d).AtHead 0 (cmdOf dmaCmd) ∧ (describing d).inService = true ∧ (describing d).xfersOf 0 = [] ∧ (describing d).inTiers 0x1000 128 = true ∧
      (describing d).poisonedIn 0x1000 128 = false ∧ (describing d).le 0x1000 128 = d) ∧
    (∀ d ∈ [descOf 0 [(0x10, 0, 0x40000)], descOf 2 [(0x10, 0, 64)]], (describing d).descCond [dtile] d = none ∧ dCount d 0 ≠ 0 ∧ dRuns d ≠ 0 ∧
      (describing d).xferChk dtile dtile (if dKind d = 0 then 0x40000 else 0x8040) 0x8000 d = none ∧ (describing d).fillRuns = [] ∧ (describing d).draining = none) ∧
    (describing (descOf 5 [])).descCond [dtile] (descOf 5 []) = some 3 ∧
    (describing (descOf 1 [(0, 53, 1)])).xferChk dtile dtile 0x8000 0 (descOf 1 [(0, 53, 1)]) ≠ none ∧
    ((describing 0).setReg (cvuBase 0) 0x80000000).xferChk dtile dtile 0x8000 0 (descOf 1 [(0, 53, 1)]) = none ∧ (describing 0).cvuHold 0 = .free ∧
    ((describing 0).setCvuHold 0 .flacon).cvuHold 0 ≠ .free := by decide +kernel
/-- A transfer of channel 0 in stream 5. -/
def xfer0 (kind : Nat) (fs : List (Nat × Nat × Nat)) : Xfer where
  cmd := cmdOf dmaCmd
  ch := 0
  kind := kind
  desc := descOf kind fs
  src := dtile
  dst := dtile
  sAddr := if srcLocal kind then 0x8000 else 0x40000
  dAddr := if dstLocal kind then 0x8000 else 0x40000
  enc := one32
  seed := 0
  step := 0
  stream := some 5
  run := 0
  off := 0
  rAddr := none
  chunk := none
  xwait := none
  outst := []
  straddle := []
  cvuBuf := []
  doneBits := 0
  ver0 := none
  ver1 := none
  poisoned := false
  poisonLogged := false
  err := none
  timedOut := false
  fault := none
  recorded := false
  guard := 0
  guardRec := []
  absorbed := 0
/-- The port enabled with credit on every lane; addresses physical. -/
def ported : State := { up.setReg 0x50030 1 with
  port := { up.port with state := 2, outL := (List.range 8).map fun i => (i, { OutLane.init with up := true, cr := (9, 9, 9, 9) }), inL := (List.range 8).map fun i => (i, { InLane.init with up := true }) } }
def moving (x : Xfer) : State := { ported with dma := { up.dma with xfers := [(0, [x])], streams := [(5, .xfer 0)], outstanding := x.outst.length } }
/-- A core that is being fenced, and one whose addresses are translated. -/
def fencing (s : State) : State := { s with sys := { s.sys with fence := .fencing } }
def translating (x : Xfer) : State := let s := (moving x).setReg 0x50030 0; { s with dma := { s.dma with atc := [⟨0x40, 0, 0x40, true, true, 0⟩] } }
theorem witness_translated : (translating (xfer0 1 [])).Places 0 (xfer0 1 []) ∧ (translating (xfer0 1 [])).regBit 0x50030 0 = false ∧
    ∃ x' u, (translating (xfer0 1 [])).reach none 0x40000 true true (xfer0 1 []) = (.to 0 0 0x40000 ((translating (xfer0 1 [])).groupOf 0x40000) x', u) :=
  ⟨by decide +kernel, by decide +kernel, _, _, rfl⟩
theorem witness_placements : (∀ k ∈ [0, 1, 2, 3, 4], (moving (xfer0 k [])).Places 0 (xfer0 k [])) ∧ (∀ k ∈ [0, 1, 2, 3, 4], (xfer0 k []).placed = false) ∧
    (∀ k ∈ [0, 1, 2, 3, 4], (moving (xfer0 k [])).straddles 0 < 1024) ∧ (xfer0 2 []).kind = 2 ∧ dTrans (xfer0 2 []).desc = false ∧ dAddrStream (xfer0 2 []).desc = false ∧
    dVer (xfer0 2 []).desc = false ∧ (moving (xfer0 0 [])).rdRoom 0 0 = true ∧ (∀ k ∈ [0, 1, 3, 4], ∀ x ∈ (fencing (moving (xfer0 k []))).xfersOf 0, x.kind ≠ 2) ∧
    (fencing (moving (xfer0 0 []))).Clocked ∧ (fencing (moving (xfer0 0 []))).inService = false ∧ (moving (xfer0 0 [])).windowTakes 0 1 = true ∧ (moving (xfer0 0 [])).canPlace 2 0 1 = true ∧
    (moving (xfer0 1 [])).canPlace 0 0 2 = true ∧ (moving (xfer0 4 [])).canPlace 1 2 2 = true := by decide +kernel
theorem witness_reaches : (∃ x' u, (moving (xfer0 0 [])).reach none 0x40000 false true (xfer0 0 []) = (.to 0 0 0x40000 ((moving (xfer0 0 [])).groupOf 0x40000) x', u)) ∧
    (∃ x' u, (moving (xfer0 1 [])).reach none 0x40000 true true (xfer0 1 []) = (.to 0 0 0x40000 ((moving (xfer0 1 [])).groupOf 0x40000) x', u)) ∧
    (∃ ep route x' u, (moving (xfer0 4 [])).reach (some 0) 0x40000 true true (xfer0 4 []) = (.to ep route 0x40000 0 x', u)) ∧
    (∃ ep route x' u, (moving (xfer0 3 [])).reach (some 0) 0x40000 false true (xfer0 3 []) = (.to ep route 0x40000 0 x', u)) := by
  refine ⟨⟨_, _, rfl⟩, ⟨_, _, rfl⟩, ⟨_, _, _, _, rfl⟩, ⟨_, _, _, _, rfl⟩⟩
/-- Transfers whose data is done: plain, halting on a stale version, signalling locally. -/
def doneX : Xfer := { xfer0 0 [] with run := 1 }
def staleX : Xfer := { xfer0 0 [(0, 54, 1), (8, 46, 1)] with run := 1, ver0 := some 2, ver1 := some 4 }
def signalX : Xfer := { xfer0 0 [(0, 55, 1), (8, 32, 1), (8, 0, 3), (0x68, 0, 0x2000)] with run := 1 }
theorem witness_completions : (∀ x ∈ [doneX, staleX, signalX], (moving x).Clocked ∧ ((moving x).xfersOf 0).find? (fun y => (moving x).xferReady y) = some x ∧ x.ch = 0 ∧
      (moving x).guardTx x.desc = false ∧ (moving x).guardRx x.desc = false ∧ x.guard < 3 ∧ x.remoteSrc = true) ∧
    staleX.stale = true ∧ dStaleHalt staleX.desc = true ∧ doneX.stale = false ∧ dSig doneX.desc = false ∧ dSig signalX.desc = true ∧ dstLocal signalX.kind = true ∧
    dSigOp signalX.desc = 1 ∧ (moving signalX).wordChk (dSigAddr signalX.desc) = none ∧
    (moving signalX).readWord (dSigAddr signalX.desc) 1 = .ok false ((moving signalX).word (dSigAddr signalX.desc)) := by decide +kernel

/-- A flit on lane i. -/
def flitOf (op : Nat) (cont poison sig : Bool) (lenM1 : Nat) (hs : List (Nat × Nat)) (pay : List Byte) : Flit :=
  ⟨linkOf op 3 0 cont poison sig lenM1, hdrOf hs, pay, flitHpar (hdrOf hs), flitLpar (linkOf op 3 0 cont poison sig lenM1), 0, false⟩
def receiving (i : Nat) (f : Flit) (s : State) : State := s.setInLane i { InLane.init with up := true, rx := [f] }
def rsp (stream la st : Nat) : Flit := flitOf 5 false false false 0 [(108, stream), (76, la), (72, st), (71, 1), (65, 63)] (List.replicate 64 1)
/-- Transfers awaiting one answer and two. -/
def req0 (la : Nat) : Req := ⟨la, 0, 0, 0, 64, 0⟩
def awaiting (kind : Nat) (l : List Req) : Xfer := { xfer0 kind [] with run := 1, outst := l }
theorem witness_ResponsesFaultsAndTimeoutsEndTransfers :
    (∃ u, (receiving 7 (rsp 5 0x8000 0) (moving (awaiting 0 [req0 0x8000]))).Receives 7 5 (rsp 5 0x8000 0) u) ∧
    (∃ u, (receiving 0 (rsp 6 0x8000 0) ported).Receives 0 5 (rsp 6 0x8000 0) u) := by
  refine ⟨⟨_, by decide, rfl⟩, ⟨_, by decide, rfl⟩⟩
theorem witness_responses : nfld ((rsp 5 0x8000 0).hdr.toNat / 2 ^ 64) 7 1 = 1 ∧ nfld ((rsp 5 0x8000 0).hdr.toNat / 2 ^ 64) 44 20 = 5 ∧
    nfld ((rsp 5 0x8000 2).hdr.toNat / 2 ^ 64) 8 4 = 2 ∧ ported.stream 6 = .free ∧ ported.sys.straps.portGen = false ∧
    (∀ x ∈ [awaiting 0 [req0 0x8000], awaiting 1 [req0 0x8000], awaiting 0 [req0 0x8000, req0 0x8040]], (moving x).Streams 0 5 x ∧ x.answers 0x8000 64 = some (req0 0x8000) ∧
      x.timedOut = false ∧ (req0 0x8000).what = 0 ∧ x.err = none ∧ x.outst ≠ []) ∧ (awaiting 0 [req0 0x8000, req0 0x8040]).outst ≠ [req0 0x8000] ∧
    (awaiting 1 []).remoteSrc = false ∧ (awaiting 0 []).remoteSrc = true := by decide +kernel
/-- A transfer timed out, and one faulted, with and without space in the fault ring. -/
def timedX : Xfer := { awaiting 0 [req0 0x8000] with timedOut := true, err := some 3 }
def faultX : Xfer := { xfer0 0 [] with fault := some false }
def ringed (x : Xfer) : State := (((moving x).setReg 0x50010 0x3000).setReg 0x50014 2).write 14 0x3000 (wordBytes [1, 0, 0, 0])
def noRing (x : Xfer) : State := (moving x).setReg 0x50010 0x0FFFFFC0
def listed (s : State) : State := { s with dma := { s.dma with faults := [5] } }
theorem witness_faults : (moving timedX).Streams 0 5 timedX ∧ timedX.timedOut = true ∧ timedX.err = some 3 ∧ (ringed faultX).Streams 0 5 faultX ∧ faultX.fault.isSome = true ∧
    faultX.outst = [] ∧ faultX.recorded = false ∧ faultX.err = none ∧ 5 ∉ (ringed faultX).dma.faults ∧ (ringed faultX).faultSlot = some 1 ∧ (noRing faultX).Streams 0 5 faultX ∧
    (noRing faultX).faultSlot = none ∧ (listed (ringed faultX)).Streams 0 5 faultX ∧ (listed (ringed faultX)).dma.faults = [5] ∧ (listed (ringed faultX)).faultSlot = some 1 ∧
    ((moving (awaiting 0 [req0 0x8000])).xfersOf 0).filter (fun e => e.stream == some 5) = [awaiting 0 [req0 0x8000]] ∧ (awaiting 0 [req0 0x8000]).fault = none ∧
    (listed (noRing faultX)).dma.faults = [5] ∧ (listed (noRing faultX)).faultSlot = none ∧ up.Clocked ∧ up.faulted 5 = none := by decide +kernel
def sync0 (t : Bool) (q : Nat) (c : Option EngCmd) : SyncOp := ⟨0, q, 32, c, 0, t, 0⟩
def synced (o : SyncOp) : State :=
  let s := holding 22 .packFlush
  { s with cc := { s.cc with queues := [(22, ⟨[cmdOf .packFlush], false, .sent 5⟩)] }, dma := { s.dma with streams := [(5, .sync o)], outstanding := 1 } }
theorem witness_sync_timeouts : (synced (sync0 false 22 (some (cmdOf .packFlush)))).Clocked ∧
    (synced (sync0 false 22 (some (cmdOf .packFlush)))).stream 5 = .sync (sync0 false 22 (some (cmdOf .packFlush))) ∧
    ((synced (sync0 false 22 (some (cmdOf .packFlush)))).queue 22).wait = .sent 5 ∧ ((synced (sync0 false 21 (some (cmdOf .packFlush)))).queue 21).wait ≠ .sent 5 ∧
    (synced (sync0 true 22 none)).stream 5 = .sync (sync0 true 22 none) ∧ (sync0 true 22 none).what = 0 := by decide +kernel

/-- Translation: a miss of XID 63 outstanding, for a transfer; the answers. -/
def missX : Xfer := { xfer0 0 [] with xwait := some 63 }
def missing : State := { moving missX with dma := { (moving missX).dma with xids := [(63, 0x40)] } }
def xresp (st perm : Nat) : Flit := flitOf 9 false false false 0 [(76, 0x80), (70, 63), (66, st), (64, 0), (62, perm)] []
def xinv (scope : Nat) : Flit := flitOf 10 false false false 0 [(76, 0x40), (60, 0), (58, scope)] []
theorem witness_TranslationsFillAndInvalidate : (∃ u, (receiving 0 (xresp 0 3) missing).Receives 0 9 (xresp 0 3) u) ∧ (∃ u, (receiving 0 (xresp 1 0) missing).Receives 0 9 (xresp 1 0) u) ∧
    (∃ u, (receiving 0 (xresp 0 3) up).Receives 0 9 (xresp 0 3) u) ∧ (∃ u, (receiving 7 (xinv 2) up).Receives 7 10 (xinv 2) u) ∧ ∃ u, (receiving 7 (xinv 3) up).Receives 7 10 (xinv 3) u := by
  refine ⟨⟨_, by decide, rfl⟩, ⟨_, by decide, rfl⟩, ⟨_, by decide, rfl⟩, ⟨_, by decide, rfl⟩, ⟨_, by decide, rfl⟩⟩
theorem witness_translation_parts : missing.dma.xids.find? (fun x => x.1 == 63) = some (63, 0x40) ∧ hfld (xresp 0 3).hdr 70 6 = 63 ∧ hfld (xresp 0 3).hdr 66 4 = 0 ∧ (xresp 0 3).hdr.getLsbD 63 = true ∧
    (xresp 0 3).hdr.getLsbD 62 = true ∧ 1 ≤ hfld (xresp 1 0).hdr 66 4 ∧ missing.waiters 63 = [missX] ∧ missX ∈ missing.xfersOf 0 ∧ missX.waitsData = true ∧
    (∀ q, q < 23 → (missing.queue q).wait ≠ .xlate 63) ∧ missing.sync.barWait ≠ some 63 ∧ missing.flacon.wxid ≠ some 63 ∧ hfld (xresp 2 0).hdr 66 4 = 2 ∧ hfld (xresp 3 0).hdr 66 4 = 3 ∧ missing.dma.xids.any (fun e => e.1 == 63) = true ∧ up.dma.xids.any (fun e => e.1 == 63) = false ∧
    hfld (xinv 2).hdr 58 2 = 2 ∧ hfld (xinv 3).hdr 58 2 = 3 ∧ up.regBit 0x50040 0 = false ∧ (up.setReg 0x50040 1).regBit 0x50040 0 = true ∧ up.sys.straps.tier = false ∧
    up.dma.scrubNear < 262144 ∧ up.poisonedIn (64 * up.dma.scrubNear) 64 = false ∧ up.Clocked := by decide +kernel
def missOut : Xfer := { awaiting 1 [req0 0x40000] with xwait := some 63 }
theorem witness_miss_timeout : (let s : State := { moving missOut with dma := { (moving missOut).dma with xids := [(63, 0x40)] } }; s.Clocked ∧ s.dma.xids.any (fun e => e.1 == 63) = true ∧
    s.waiters 63 = [missOut] ∧ missOut ∈ s.xfersOf 0 ∧ missOut.outst ≠ []) := by decide +kernel

/-! Lanes -/

/-- A lane's state, inbound and outbound. -/
def laneIn (n : InLane) : State := ported.setInLane 7 n
def laneOut (o : OutLane) : State := ported.setOutLane 7 o
def goodFlit : Flit := xinv 2
/-- An unacknowledged flit of SEQ n, resent r times. -/
def linkFlit (n r : Nat) : SentFlit := ⟨linkOf 1 3 0 false false false 0 ||| BitVec.ofNat 96 (n * 2 ^ 28), 0, [], 0, 0, [], r⟩
def training (n : Nat) : State := { up with port := { up.port with state := 1, inL := (List.range n).map fun i => (i, { InLane.init with up := true }), outL := (List.range 8).map fun i => (i, { OutLane.init with up := true }) } }
theorem witness_LanesReplayTrainAndDeliver : (laneIn { InLane.init with up := true }).Clocked ∧ goodFlit.hpar = flitHpar goodFlit.hdr ∧ goodFlit.lpar = flitLpar goodFlit.link ∧ goodFlit.bad = false ∧
    goodFlit.link.extractLsb' 28 8 = InLane.init.expect ∧ linkOp goodFlit.link ≠ 0 ∧ InLane.init.naks + 1 < up.replayMax ∧
    up.replayMax ≤ ({ InLane.init with up := true, naks := up.replayMax - 1 } : InLane).naks + 1 ∧ ({ goodFlit with bad := true } : Flit).bad = true ∧
    goodFlit.link.extractLsb' 28 8 ≠ ({ InLane.init with expect := 5 } : InLane).expect ∧
    ((laneOut { OutLane.init with up := true, replay := [linkFlit 4 0] }).outLane 7).replay = [linkFlit 4 0] ∧ ((laneOut { OutLane.init with up := true }).outLane 7).replay = [] ∧
    (linkFlit 4 0).resent < up.replayMax ∧ ((laneOut { OutLane.init with up := true, replay := [linkFlit 4 0] }).outLane 7).down = false ∧
    up.replayMax ≤ (linkFlit 4 up.replayMax).resent ∧ ported.port.outQ = [] ∧
    up.port.state = 0 ∧ ported.port.state = 2 ∧ up.splitOk = true ∧ (up.setReg 0xA0010 0).splitOk = false ∧ up.port.fclk < 1450 ∧
    (training 7).Clocked ∧ (training 7).port.state = 1 ∧ 7 < (training 7).lanes ∧ ((training 7).inLane 7).up = false ∧ ((training 7).inLane 7).down = false ∧
    (training 6).port.state = 1 ∧ ((training 6).inLane 6).up = false ∧ up.Served := by decide +kernel
theorem witness_acked : afterSeq 4 [linkFlit 4 0, linkFlit 5 0] = some [linkFlit 5 0] ∧ flitSeq (linkFlit 5 0) = 5 := by decide +kernel
theorem witness_outbound_training : (let s := { training 8 with port := { (training 8).port with outL := (List.range 7).map fun i => (i, { OutLane.init with up := true }) } }
    s.Clocked ∧ s.port.state = 1 ∧ (s.outLane 7).up = false ∧ (s.outLane 7).down = false) := by decide +kernel

/-! Inbound writes, reads and signals -/

def rdReq (n a : Nat) : Flit := flitOf 1 false false false 0 [(124, n)] (leBytes 16 (a * 2 ^ 64 + 5 * 2 ^ 44 + 0x8000 * 2 ^ 12 + 63 * 2 ^ 5))
def rwr (sig poison cont : Bool) (a total : Nat) : Flit := flitOf 3 cont poison sig 63 [(108, 5), (76, a), (50, 2), (0, total)] (List.replicate 64 7)
def sigx (op a v : Nat) : Flit := flitOf 4 false false false 0 [(124, op), (92, v), (60, a)] []
def syncFlit (op a v : Nat) : Flit := flitOf 6 false false false 0 [(124, op), (92, v), (28, a)] []
def barFlit (ctx g : Nat) : Flit := flitOf 7 false false false 0 [(124, ctx), (92, g)] []
/-- An inbound ledger of stream 5 of endpoint 3 in entry 9, and the lane waiting for its SIGX. -/
def ledger0 (n l : Nat) (sg : Option (Nat × Word × Nat)) : Inbound := ⟨3, 5, n, l, sg, []⟩
def owed (i : Inbound) : State := { ported with dma := { up.dma with streams := [(9, .inbound i)] } }
def receivingX (f : Flit) (total : Nat) (s : State) : State := s.setInLane 7 { InLane.init with up := true, rx := [f], held := some (3, 5, total, []) }
theorem witness_InboundWritesReadsAndSignals : (∃ u, (receiving 7 (rdReq 1 0x1000) ported).Receives 7 1 (rdReq 1 0x1000) u) ∧
    (∃ u, (receiving 7 (rwr false true false 0x1000 0) ported).Receives 7 3 (rwr false true false 0x1000 0) u) ∧
    (∃ u, (receiving 7 (rwr true false true 0x1000 128) ported).Receives 7 3 (rwr true false true 0x1000 128) u) ∧
    (∃ u, (receivingX (sigx 1 0x2000 4) 128 (owed (ledger0 128 64 none))).Receives 7 4 (sigx 1 0x2000 4) u ∧ (u.inLane 7).held = some (3, 5, 128, [])) ∧
    (∃ u, (receivingX (sigx 1 0x2000 4) 128 (owed (ledger0 128 128 none))).Receives 7 4 (sigx 1 0x2000 4) u ∧ (u.inLane 7).held = some (3, 5, 128, [])) ∧
    (∃ u, (receivingX (sigx 1 0x2000 4) 0 ported).Receives 7 4 (sigx 1 0x2000 4) u ∧ (u.inLane 7).held = some (3, 5, 0, [])) ∧
    (∃ u, (receiving 7 (syncFlit 1 0x2000 4) ported).Receives 7 6 (syncFlit 1 0x2000 4) u) ∧ ∃ u, (receiving 7 (barFlit 15 4) ported).Receives 7 7 (barFlit 15 4) u := by
  refine ⟨⟨_, by decide, rfl⟩, ⟨_, by decide, rfl⟩, ⟨_, by decide, rfl⟩, ⟨_, ⟨by decide, rfl⟩, by decide +kernel⟩, ⟨_, ⟨by decide, rfl⟩, by decide +kernel⟩, ⟨_, ⟨by decide, rfl⟩, by decide +kernel⟩,
    ⟨_, by decide, rfl⟩, ⟨_, by decide, rfl⟩⟩
theorem witness_inbound_parts : hfld (rdReq 1 0x1000).hdr 124 4 = 1 ∧ nfld (recordOf (rdReq 1 0x1000) 0) 64 32 = 0x1000 ∧ ported.windowServes false 0x1000 64 = true ∧
    ported.windowServes false 0x07000000 64 = false ∧ (rwr false true false 0x1000 0).link.getLsbD 11 = false ∧ (rwr false true false 0x1000 0).link.getLsbD 12 = true ∧
    ported.windowServes true 0x1000 64 = true ∧ ported.windowServes true 0x07000000 64 = false ∧ (rwr false true false 0x1000 0).pay.length = 64 ∧
    (rwr true false true 0x1000 128).link.getLsbD 11 = true ∧ (rwr true false true 0x1000 128).link.getLsbD 13 = true ∧ hfld (rwr true false true 0x1000 128).hdr 0 48 = 128 ∧ hfld (rwr true false true 0x1000 0).hdr 0 48 = 0 ∧
    ported.fenced = false ∧ (owed (ledger0 128 64 none)).ledgerOf 3 5 = some (9, ledger0 128 64 none) ∧ (owed (ledger0 128 128 none)).ledgerOf 3 5 = some (9, ledger0 128 128 none) ∧
    ported.ledgerOf 3 5 = none ∧ ported.freeInbound = some 0 := by decide +kernel
theorem witness_ledgers : (owed (ledger0 128 128 (some (1, 4, 0x2000)))).Clocked ∧ (owed (ledger0 128 128 (some (1, 4, 0x2000)))).stream 9 = .inbound (ledger0 128 128 (some (1, 4, 0x2000))) ∧
    (owed (ledger0 128 128 (some (1, 4, 0x2000)))).wordChk 0x2000 = none ∧ (owed (ledger0 128 128 (some (1, 4, 0x2000)))).readWord 0x2000 1 = .ok false 0 ∧ (ledger0 128 64 none).ledger ≠ (ledger0 128 64 none).bytes ∧
    hfld (sigx 1 0x2000 4).hdr 124 4 = 1 ∧ hfld (sigx 1 0x2000 4).hdr 60 32 = 0x2000 ∧ (up.wordChk 0x2004).isSome = true ∧ hfld (syncFlit 1 0x2000 4).hdr 28 64 = 0x2000 ∧
    ported.readWord 0x2000 6 = .ok false 0 ∧ ported.wordChk (ported.releaseAddr 15) = none ∧ ported.readWord (ported.releaseAddr 15) 6 = .ok false 0 ∧
    ({ ported with sys := { up.sys with fence := .fenced } } : State).fenced = true ∧ ({ ported with sys := { up.sys with fence := .fenced } } : State).inRings 0x2000 8 = false := by decide +kernel
/-- Every inbound entry that the reserve allows in use. -/
def owedFull : State := { ported.setReg 0x50000 0 with dma := { up.dma with streams := [(9, .inbound (ledger0 128 64 none))] } }
theorem witness_no_inbound : owedFull.freeInbound = none ∧ owedFull.ledgerOf 3 6 = none := by decide +kernel

/-! Waits and barriers -/

/-- A wait or take at queue q on the word at 0x2000, whose COUNT is n; kind 1 is a semaphore. -/
def wordAt (kind n : Nat) (s : State) : State := s.write 14 0x2000 (leBytes 8 (kind * 2 ^ 60 + n))
def waitOp (a v : Nat) : EngOp := .wait (imm a) (imm v) false
def takeOp (a v : Nat) : EngOp := .take (imm a) (imm v) false
def fullWatch (s : State) : State := { s with sync := { s.sync with polls := [⟨3, 0x2008, 1, false, 0⟩] } }
theorem witness_WaitsHoldUntilTheirWordIsReady : (∀ q ∈ [0, 15, 16, 17, 18, 19, 20, 21, 22], (wordAt 0 5 (holding q (waitOp 0x2000 5))).AtHead q (cmdOf (waitOp 0x2000 5)) ∧
      ((wordAt 0 5 (holding q (waitOp 0x2000 5))).queue q).wait = .none ∧ (wordAt 0 5 (holding q (waitOp 0x2000 5))).queueQuiet q = true) ∧
    (wordAt 1 5 (holding 0 (takeOp 0x2000 5))).AtHead 0 (cmdOf (takeOp 0x2000 5)) ∧ up.wordChk 0x2000 = none ∧ up.wordChk 0x2004 ≠ none ∧
    (wordAt 0 5 up).readWord 0x2000 4 = .ok false 5 ∧ ready false 5 5 = true ∧ ready false 5 6 = false ∧ (wordAt 1 5 up).readWord 0x2000 5 = .ok true 5 ∧ ready true 5 5 = true ∧
    ready true 4 5 = false ∧ (wordAt 2 5 up).readWord 0x2000 4 = .invalid 1 ∧ (wordAt 0 5 up).readWord 0x2000 5 = .invalid 3 ∧ up.freeWatch = some 0 ∧ up.sync.polls = [] ∧
    (fullWatch up).sync.polls ≠ [] := by decide +kernel
/-- Watch entry 0 holds that wait of queue 0, or is armed by software. -/
def watching (dirty : Bool) (v : Word) (n : Nat) : State := let s := wordAt 0 n (holding 0 (waitOp 0x2000 v.toNat)); { s with sync := { s.sync with watch := [(0, ⟨1, 0, 0x2000, v, false, 0, 0, dirty⟩)] } }
def polling (v : Word) (n : Nat) : State := let s := wordAt 0 n (holding 0 (waitOp 0x2000 v.toNat)); { s with sync := { s.sync with polls := [⟨0, 0x2000, v, false, 0⟩] } }
def armedAt (n : Nat) : State := let s := wordAt 0 n up; { s with sync := { s.sync with watch := [(255, ⟨2, 0, 0x2000, 5, false, 31, 0, true⟩)] } }
theorem witness_watches : (∀ n ∈ [4, 5], (watching true 5 n).Clocked ∧ (watching true 5 n).headCmd 0 = some (cmdOf (waitOp 0x2000 5)) ∧ waitOf (waitOp 0x2000 5) = some (imm 0x2000, imm 5, 4, false) ∧
      (watching true 5 n).readWord 0x2000 4 = .ok false (w32 n) ∧ ((watching true 5 n).watch 0).dirty = true ∧ ((watching true 5 n).watch 0).owner = 1 ∧ ((watching true 5 n).watch 0).party = 0 ∧
      (∀ e ∈ (watching true 5 n).sync.watch, e.2.dirty = true → e.2.addr = ((watching true 5 n).watch 0).addr → ((watching true 5 n).watch 0).since ≤ e.2.since) ∧
      (polling 5 n).Clocked ∧ (polling 5 n).sync.polls.find? (fun e => e.party == 0) = some ⟨0, 0x2000, 5, false, 0⟩ ∧ (∀ e ∈ (polling 5 n).sync.polls, 0 ≤ e.since) ∧
      (armedAt n).Clocked ∧ ((armedAt n).watch 255).dirty = true ∧ ((armedAt n).watch 255).owner = 2) ∧
    ready false (w32 4) 5 = false ∧ ready false (w32 5) 5 = true ∧ ((watching false 5 4).watch 0).dirty = false ∧ (armedAt 4).armedHolds ((armedAt 4).watch 255) = false ∧
    (armedAt 5).armedHolds ((armedAt 5).watch 255) = true ∧ up.freeWatch = some 0 ∧ (up.watch 0).owner ≠ 2 := by decide +kernel
/-- All 256 watch entries in use. -/
def watchesFull : State := { up with sync := { up.sync with watch := (List.range 256).map fun i => (i, ⟨2, 0, 0x2000, 5, false, 31, i, false⟩) } }
theorem witness_watches_full : watchesFull.Clocked ∧ watchesFull.freeWatch = none ∧
    (let s : State := { polling 5 4 with sync := { watchesFull.sync with polls := (polling 5 4).sync.polls } }; s.Clocked ∧ s.freeWatch = none ∧
      s.headCmd 0 = some (cmdOf (waitOp 0x2000 5)) ∧ s.sync.polls.find? (fun e => e.party == 0) = some ⟨0, 0x2000, 5, false, 0⟩) := by decide +kernel

def sigOp (f : Form) (a : Nat) (h : Option (BitVec 5)) : EngOp := .signal f (imm a) (imm 1) h
def decOp (f : Form) (a : Nat) : EngOp := .dec f (imm a) (imm 1)
theorem witness_SignalsBarriersAndTimeoutsAct : (∀ q ∈ [0, 15, 16, 17, 18, 19, 20, 21, 22], ∀ op ∈ [sigOp .loc 0x2000 none, sigOp .loc 0x2000 (some 31), decOp .loc 0x2000, sigOp .peer (2 ^ 32 * 8191 + 0x2000) none,
        decOp .fabric 0x40000, .arrive 15, .arrive 0], (holding q op).AtHead q (cmdOf op) ∧ (holding q op).queueQuiet q = true ∧ ((holding q op).queue q).wait = .none) ∧
    up.wordChk 0x2000 = none ∧ up.readWord 0x2000 1 = .ok false 0 ∧ (wordAt 1 5 up).readWord 0x2000 2 = .ok true 5 ∧ (wordAt 0 5 up).readWord 0x2000 2 = .invalid 3 := by decide +kernel
/-- A peer entry with a route. -/
def routed (s : State) : State := { s with flacon := { s.flacon with gt := [(8191, 2 ^ 60 + 2 ^ 59)] } }
theorem witness_syncs_sent : (routed up).syncTo false (imm (2 ^ 32 * 8191 + 0x2000)).imm = .to 0 0 0x2000 63 ∧
    up.syncTo false (imm (2 ^ 32 * 8191 + 0x2000)).imm = .bad { code := 0x1008, cond := 1, unit := 10, d0 := 8191 } ∧
    ported.syncTo true (imm 0x40000).imm = .to 0 0 0x40000 (ported.groupOf 0x40000) ∧ up.freeStream = some 0 ∧ up.windowTakes 63 1 = true := by decide +kernel

/-- Barrier context 15: its BAR_CFG, with the central word at 0x2000 and the release word at 0x3000, holding c and r. -/
def barred (cfg c r : Nat) (s : State) : State :=
  (((s.setReg 0x602E0 (w32 cfg)).setReg 0x602E4 0x2000).setReg 0x602EC 0x3000).write 14 0x2000 (leBytes 8 c) |>.write 14 0x3000 (leBytes 8 r)
theorem witness_barriers : (barred 0x80000001 0 0 up).barChk 15 = none ∧ fld ((barred 0x80000001 0 0 up).reg 0x602E0) 28 3 = 0 ∧ (barred 0x80000001 0 0 up).wordChk 0x2000 = none ∧
    (barred 0x80000001 0 0 up).readWord 0x2000 3 = .ok false 0 ∧ (barred 0x80000001 1 7 up).readWord 0x2000 3 = .ok false 1 ∧ (0 : Word) + 1 ≠ (0 + 1) * w32 2 ∧
    (1 : Word) + 1 = (0 + 1) * w32 2 ∧ (barred 0x80000001 1 7 up).wordChk ((barred 0x80000001 1 7 up).releaseAddr 15) = none ∧
    (barred 0x80000001 1 7 up).readWord ((barred 0x80000001 1 7 up).releaseAddr 15) 6 = .ok false 7 ∧ (up.barChk 15).isSome = true ∧
    (up.setReg 0x60100 0xB0000000).barChk 0 = none ∧ fld ((up.setReg 0x60100 0xB0000000).reg 0x60100) 28 3 = 3 ∧ up.sync.lineReq = false ∧ up.sync.lineAck = false ∧
    ({ up with sync := { up.sync with lineReq := true } } : State).sync.lineReq = true ∧ ({ up with sync := { up.sync with lineAck := true } } : State).sync.lineAck = true ∧ up.sync.lineNext = [] ∧ ({ up with sync := { up.sync with lineNext := [4, 5] } } : State).sync.lineNext = [4, 5] ∧ up.fenced = false ∧
    ({ up with sys := { up.sys with fence := .fenced } } : State).fenced = true ∧ ({ up with sys := { up.sys with fence := .fenced } } : State).Clocked ∧
    up.wordChk (up.releaseAddr 0) = none ∧ up.readWord (up.releaseAddr 0) 6 = .ok false 0 := by decide +kernel
/-- Queue 0's WAIT holds a watch entry and its condition is false. -/
def stuck : State := { (wordAt 0 4 up) with
  cc := { up.cc with queues := [(0, ⟨[⟨.wait (imm 0x2000) (imm 5) true, 7, .e0, 1⟩], false, .watched 0⟩), (1, ⟨[cmdOf (waitOp 0x2000 5)], false, .watched 1⟩)] } }
def blockedAll : State := { (wordAt 0 4 up) with cc := { up.cc with queues := [(0, ⟨[cmdOf (waitOp 0x2000 5)], false, .watched 0⟩)] } }
theorem witness_timeouts : blockedAll.Clocked ∧ blockedAll.deadlocked = true ∧ up.deadlocked = false ∧ (blockedAll.setReg 0x60008 1).deadlocked = true ∧ (blockedAll.setReg 0x60008 1).reg 0x60008 ≠ 0 ∧
    (blockedAll.setReg 0x60008 1).regBit 0x60010 8 = false ∧ (blockedAll.blocked.take 32)[0]? = some ⟨0, 1, 0x2000, 5, 4, 7, false⟩ ∧ blockedAll.logs.errs.length < 512 ∧
    stuck.partnerWait 0 = some (0x2000, 5, 7) ∧ (stuck.setReg 0x60000 1).partnerWait 0 = some (0x2000, 5, 7) ∧ (stuck.setReg 0x60000 1).regFld 0x60000 0 6 ≠ 0 ∧ 0 ∉ stuck.sync.timedOut ∧
    up.partnerWait 0 = none := by decide +kernel

/-! Flacon -/

/-- A registry entry from its fields (byte, bit, value). -/
def entryOf (fs : List (Nat × Nat × Nat)) : BitVec 512 := BitVec.ofNat 512 ((([(0, 60, 1), (0, 59, 1)] : List (Nat × Nat × Nat)) ++ fs).map fun f => f.2.2 * 2 ^ (8 * f.1 + f.2.1)).sum
/-- Entry 5: a replica of a single buffer of n bytes at 0x0, its copy in fabric memory, its manifests at 0x1C0000. -/
def replica (n : Nat) : BitVec 512 := entryOf [(0, 57, 2), (0, 56, 1), (0, 34, 1), (8, 0, n), (0x20, 0, 0x40000), (0x28, 0, 0x80000), (0x30, 0, 0x1C0000), (0x38, 0, 0x1C0000)]
/-- Entry 5: a parity member, rank 0 of K = 4, its group at entry 100 of the group table. -/
def member (n : Nat) : BitVec 512 := entryOf [(0, 57, 1), (0, 56, 1), (0, 48, 4), (0, 34, 1), (0, 16, 100), (8, 0, n), (0x20, 0, 0x40000), (0x28, 0, 0x80000), (0x30, 0, 0x1C0000), (0x38, 0, 0x1C0000)]
def registered (e : BitVec 512) (s : State) : State := { s with flacon := { s.flacon with registry := [(5, e)], gt := [(101, 2 ^ 60 + 2 ^ 59)] } }
def snap0 (todo : List Nat) (byOp bad : Bool) : SnapRun := ⟨1, false, 9, todo, 0, [], false, bad, [], [], byOp, none, 0⟩
def snapping (n : SnapRun) (s : State) : State := { s with flacon := { s.flacon with snap := some n } }
def remote0 : Remote := ⟨[]⟩
def op11 : Packet := packet 0x11 []
theorem witness_SnapshotsDrainAndRestoresRecover : (asked 0x11 [] up).Served ∧ (asked 0x11 [] up).sys.lost = false ∧ (asked 0x11 [] up).mgmt.cur = some op11 ∧ op11.op = 0x11 ∧
    (asked 0x11 [] up).flaconBusy = false ∧ (asked 0x11 [] (snapping (snap0 [] true false) up)).flaconBusy = true ∧
    up.wordChk (up.reg 0x80010).toNat = none ∧ up.readWord (up.reg 0x80010).toNat 1 = .ok false (up.word (up.reg 0x80010).toNat) ∧ (up.setReg 0x80004 0x8000).regBit 0x80004 15 = true ∧
    (up.setReg 0x80018 0x1000).stateBase = 0x1000 ∧ eValid (replica 64).toNat = true := by decide +kernel
theorem witness_drains : (snapping (snap0 [5] true false) (registered (replica (2 * mib)) up)).Clocked ∧
      eValid ((snapping (snap0 [5] true false) (registered (replica (2 * mib)) up)).entry 5) = true ∧ 0 < eChunks (replica (2 * mib)).toNat ∧ 1 < eChunks (replica (2 * mib)).toNat + eParChunks (replica (2 * mib)).toNat ∧ eBufForm (replica (2 * mib)).toNat = 0 ∧
      up.inTiers (eOwn (replica (2 * mib)).toNat 0 + (chunkAt (replica (2 * mib)).toNat 0).1) (chunkAt (replica (2 * mib)).toNat 0).2 = true ∧ up.poisonedIn (eOwn (replica (2 * mib)).toNat 0 + (chunkAt (replica (2 * mib)).toNat 0).1) (chunkAt (replica (2 * mib)).toNat 0).2 = false ∧ eParForm (replica (2 * mib)).toNat = 1 ∧
    (snapping (snap0 [5] true false) (registered (member (2 * mib)) up)).Clocked ∧
      eValid ((snapping (snap0 [5] true false) (registered (member (2 * mib)) up)).entry 5) = true ∧ 0 < eChunks (member (2 * mib)).toNat ∧ 1 < eChunks (member (2 * mib)).toNat + eParChunks (member (2 * mib)).toNat ∧ eBufForm (member (2 * mib)).toNat = 0 ∧
      up.inTiers (eOwn (member (2 * mib)).toNat 0 + (chunkAt (member (2 * mib)).toNat 0).1) (chunkAt (member (2 * mib)).toNat 0).2 = true ∧ up.poisonedIn (eOwn (member (2 * mib)).toNat 0 + (chunkAt (member (2 * mib)).toNat 0).1) (chunkAt (member (2 * mib)).toNat 0).2 = false ∧
    (snapping (snap0 [5] true false) (registered (replica (2 * mib)) up)).flaconTake.isSome = true ∧ eMethod (replica (2 * mib)).toNat = 2 ∧ eMethod (member (2 * mib)).toNat = 1 ∧
    (List.range (eK (member 64).toNat + 2)).find? (fun j => j ≠ eRank (member 64).toNat && !(snap0 [5] true false).seen.contains j && !(snap0 [5] true false).late.contains j) = some 1 ∧
    ((registered (member 64) up).route (eGt (member 64).toNat + 1)).isSome = true ∧ remoteRead ⟨[⟨101, 0, leBytes 8 1, true, false⟩]⟩ (eGt (member 64).toNat + 1) 0 8 = some (leBytes 8 1, false) ∧
    counterOk (w64 (leNat (leBytes 8 1))) = true ∧ reached (lo32 (w64 (leNat (leBytes 8 1)))) 1 = true ∧ remoteRead remote0 (eGt (member 64).toNat + 1) 0 8 = none := by decide +kernel
/-- A drain of a replica: nothing in flight, a chunk formed, and writes still to be placed or acknowledged. -/
def draining0 (n : SnapRun) : State := snapping n (registered (replica (2 * mib)) up)
def heldRun : SnapRun := { snap0 [5] true false with held := some (9, false, false, 64) }
def placing : State := let s := draining0 heldRun; { s with flacon := { s.flacon with wr := [⟨0, fabricGt, 0x40000, 0, [1], false⟩] } }
theorem witness_drain_steps : (∀ n ∈ [snap0 [5] true false, heldRun], (draining0 n).Clocked ∧ (draining0 n).flacon.snap = some n ∧ n.todo = [5] ∧ n.man = 0 ∧
      (draining0 n).flWriting = false ∧ (draining0 n).inService = true ∧ (draining0 n).flaconTake.isSome = true ∧ (draining0 n).flacon.wbad = []) ∧
    heldRun.held = some (9, false, false, 64) ∧ (snap0 [5] true false).held = none ∧ placing.Clocked ∧ placing.flPump.flWriting = true ∧
    (formPlace (eParForm (replica (2 * mib)).toNat) (ePar (replica (2 * mib)).toNat 1)).1 = fabricGt ∧
    (formPlace 2 (101 * 2 ^ 32 + 0x40000)).1 = 101 ∧ ((draining0 heldRun).route 101).isSome = true := by decide +kernel
/-- The manifest of entry 5 at generation 1, for one chunk of n zero bytes, in memory. -/
def manifested (e : BitVec 512) (n : Nat) (first : Byte) (s : State) : State :=
  let t := registered e s
  let bs := first :: List.replicate (n - 1) 0
  (t.manRecords { snap0 [5] true false with recs := [(w64 (crc64.of bs), false, false, n)] } e.toNat).setReg 0x80018 0
def rpack (mode : Nat) : Packet := packet 0x12 [w32 (mode * 2 ^ 30 + 5), 1]
def restoring (mode : Nat) (s : State) : State := { s with mgmt := { s.mgmt with cur := some (rpack mode) }, flacon := { s.flacon with snap := none } }
theorem witness_restores : (∀ mode ∈ [0, 1, 2], (restoring mode (registered (replica 64) up)).Clocked ∧ fld ((rpack mode).w 0) 30 2 = mode ∧ (restoring mode (registered (replica 64) up)).genOn = false ∧
      (restoring mode (registered (replica 64) up)).flaconBusy = false ∧ (restoring mode (registered (replica 64) up)).coreIdle = true ∧
      (restoring mode (registered (replica 64) up)).flaconTake.isSome = true ∧ fld ((rpack mode).w 0) 0 12 = 5 ∧ (rpack mode).w 1 = 1 ∧
      (restoring mode (registered (replica 64) up)).manifest remote0 (replica 64).toNat 1 mode = none) ∧
    eValid ((registered (replica 64) up).entry 5) = true ∧ eMethod (replica 64).toNat = 2 ∧ eSingle (replica 64).toNat = true ∧ eBufForm (replica 64).toNat = 0 ∧
    eBuf (replica 64).toNat 0 = (manifested (replica 64) 64 0 up).stateBase := by decide +kernel
theorem witness_verified : (∀ mode ∈ [0, 1, 2], (restoring mode (manifested (replica 64) 64 0 up)).manifest remote0 (replica 64).toNat 1 mode = some (0, [w64 (crc64.of (List.replicate 64 0))])) ∧
    (restoring 0 (manifested (replica 64) 64 0 up)).inTiers (eOwn (replica 64).toNat 0) (eSize (replica 64).toNat) = true ∧ eChunks (replica 64).toNat = 1 ∧
    (restoring 0 (manifested (replica 64) 64 0 up)).poisonedIn (eOwn (replica 64).toNat 0) 64 = false ∧ chunkAt (replica 64).toNat 0 = (0, 64) ∧
    (restoring 0 (manifested (replica 64) 64 0 up)).bytes 0 64 = List.replicate 64 0 ∧ eParForm (replica 64).toNat = 1 ∧
    remoteRead ⟨[⟨fabricGt, 0x80000, List.replicate 64 0, true, false⟩]⟩ fabricGt (ePar (replica 64).toNat 1 + 0 * mib) 64 = some (List.replicate 64 0, false) := by decide +kernel
/-- A core-state record's head at STATE_BASE, format version 1, and the manifest of its first 64 bytes. -/
def recorded : State :=
  let s := (manifested (replica 64) 64 0 up).write 14 7 [0x10]
  s.manRecords { snap0 [5] true false with recs := [(w64 (crc64.of (s.bytes 0 64)), false, false, 64)] } (replica 64).toNat
/-- Every byte of that record but the one that holds FMT_VER reads 0. -/
theorem recorded_low : ∀ e ∈ recorded.mem, e.1 = 7 ∨ 0x1C0000 ≤ e.1 := by decide +kernel
theorem get_unlisted (m : Tab Byte) (a : Nat) (h : ∀ e ∈ m, e.1 ≠ a) : Tab.get memDefault m a = 0 := by
  induction m with
  | nil => rfl
  | cons e t ih =>
    rw [Tab.get, if_neg (h e List.mem_cons_self), ih fun k hk => h k (List.mem_cons_of_mem _ hk)]
theorem recorded_byte (a : Nat) (h : 8 ≤ a) (hi : a < 0x1C0000) : recorded.byte a = 0 :=
  get_unlisted _ _ fun e he => by have := recorded_low e he; omega
theorem bytes_zero (s : State) (hs : ∀ a, 8 ≤ a → a < 0x1C0000 → s.byte a = 0) (n a : Nat) (h : 8 ≤ a) (hi : a + n ≤ 0x1C0000) :
    ∀ b ∈ s.bytes a n, b = 0 := by
  induction n generalizing a with
  | zero => intro b hb; cases hb
  | succ n ih =>
    intro b hb
    rcases List.mem_cons.1 hb with h1 | h1
    · rw [h1, hs a h (by omega)]
    · exact ih (a + 1) (by omega) (by omega) b h1
theorem recorded_bytes (n a : Nat) (h : 8 ≤ a) (hi : a + n ≤ 0x1C0000) : ∀ b ∈ recorded.bytes a n, b = 0 := bytes_zero _ recorded_byte n a h hi
theorem leNat_zero (l : List Byte) (h : ∀ b ∈ l, b = 0) : leNat l = 0 := by
  induction l with
  | nil => rfl
  | cons b t ih => rw [leNat, h b List.mem_cons_self, ih fun x hx => h x (List.mem_cons_of_mem _ hx)]; rfl
theorem recorded_le (a n : Nat) (h : 8 ≤ a) (hi : a + n ≤ 0x1C0000) : recorded.le a n = 0 := leNat_zero _ (recorded_bytes n a h hi)
theorem witness_record_ok : recorded.recordOk = true := by
  have hb : recorded.stateBase = 0 := by decide +kernel
  have h0 : (recorded.dword (0 + 0)).toNat = 0x1000000000000000 := by decide +kernel
  have hd : ∀ o, 8 ≤ o → o + 8 ≤ 0x1C0000 → (recorded.dword (0 + o)).toNat = 0 := fun o h k => by
    rw [State.dword, Nat.zero_add, recorded_le o 8 h k]; rfl
  have hw : ∀ n i, n < 256 → i < 32 → (recorded.word (0 + 0x100 + 0x80 * n + 4 * i)).toNat = 0 := fun n i h k => by
    rw [State.word, recorded_le _ 4 (by omega) (by omega)]; rfl
  unfold State.recordOk
  simp only [hb, h0, hd 0x20 (by omega) (by omega), hd 0x28 (by omega) (by omega), Bool.and_eq_true, List.all_eq_true, List.mem_range]
  refine ⟨⟨⟨⟨⟨⟨by decide, by decide⟩, by decide⟩, by decide⟩, fun b h => ?_⟩, fun n h => ?_⟩, fun i h => ?_⟩
  · rw [recorded_bytes _ _ (by omega) (by omega) b h]; rfl
  · simp only [hw n _ h (show 0 < 32 by omega), hw n _ h (show 1 < 32 by omega), hw n _ h (show 5 < 32 by omega), hw n _ h (show 6 < 32 by omega),
      hw n _ h (show 7 < 32 by omega), hw n _ h (show 14 < 32 by omega), hw n _ h (show 15 < 32 by omega)]
    decide
  · rw [recorded_le _ 16 (by omega) (by omega)]; rfl
/-- A record of no format version, of which the manifest is right. -/
theorem witness_record_bad : (manifested (replica 64) 64 0 up).recordOk = false := by
  have h : (nfld ((manifested (replica 64) 64 0 up).dword ((manifested (replica 64) 64 0 up).stateBase + 0)).toNat 60 4 == 1) = false := by decide +kernel
  unfold State.recordOk
  simp only [h, Bool.false_and]
theorem witness_state_restored : (restoring 2 recorded).manifest remote0 (replica 64).toNat 1 2 = some (0, [w64 (crc64.of (recorded.bytes 0 64))]) ∧
    recorded.poisonedIn 0 64 = false := by decide +kernel
theorem witness_recoveries : (∀ bad ∈ [true, false], ∀ byOp ∈ [true, false], (snapping (snap0 [] byOp bad) up).Clocked ∧ (snap0 [] byOp bad).todo = []) ∧
    up.wordChk (up.reg 0x80014).toNat = none ∧ up.readWord (up.reg 0x80014).toNat 1 = .ok false (up.word (up.reg 0x80014).toNat) ∧
    (up.setReg 0x80004 0x4000).regBit 0x80004 14 = true ∧ up.flacon.rest = none ∧ ({ up with flacon := { up.flacon with rest := some ⟨0, 5, 1, true, 1, 0, 0, 0, 0, false⟩ } } : State).flacon.rest = some ⟨0, 5, 1, true, 1, 0, 0, 0, 0, false⟩ := by decide +kernel
/-- A restore into remote memory: its writes under way, and done with an error in chunk 3. -/
def ending1 (wr : List FlWrite) : State := { up with flacon := { up.flacon with rest := some ⟨1, 5, 1, true, 9, 9, 0, 0, 0, true⟩, wr := wr, wbad := [3, manChunk] } }
theorem witness_restore_ends : (ending1 []).flWriting = false ∧ (ending1 []).Clocked ∧ ((ending1 []).flacon.wbad.filter fun n => n != manChunk).length = 1 ∧
    (ending1 [⟨0, fabricGt, 0x40000, 0, [1], false⟩]).flPump.flWriting = true := by decide +kernel

/-! Fencing, the registry windows and the check-value unit -/

def fenceAt (f : FenceState) (s : State) : State := { s with sys := { s.sys with fence := f, fenceCause := 1 } }
theorem witness_FencesRegistriesAndContextsAct : (∀ f ∈ [FenceState.inService, .fencing, .fenced], (asked 0x05 [] (fenceAt f up)).Served ∧ (asked 0x05 [] (fenceAt f up)).sys.lost = false ∧
      (asked 0x05 [] (fenceAt f up)).mgmt.cur = some (packet 0x05 []) ∧ (asked 0x05 [] (fenceAt f up)).sys.fence = f) ∧ (packet 0x05 []).op = 0x05 ∧ up.mgmt.deferred = none ∧
    (∀ w ∈ [3, 4, 15], (asked 0x06 [0, w32 w] (fenceAt .fenced up)).Served ∧ (asked 0x06 [0, w32 w] (fenceAt .fenced up)).sys.fence = .fenced ∧
      (asked 0x06 [0, w32 w] (fenceAt .fenced up)).sys.fenceCause = 1 ∧ fld ((packet 0x06 [0, w32 w]).w 1) 0 4 = w) ∧ (packet 0x06 [0, 4]).op = 0x06 ∧
    (fenceAt .fencing up).Clocked ∧ (fenceAt .fencing up).sys.fence = .fencing ∧ (fenceAt .fencing up).fenceWaits = false ∧ ({ fenceAt .fencing up with still := { up.still with runA := [⟨1, [0], [0], true, .e0, 7, []⟩] } } : State).fenceWaits = true ∧ (fenceAt .fencing up).dma.outstanding = 0 ∧
    up.sys.fence ≠ .fencing ∧ ({ up with dma := { up.dma with outstanding := 1 } } : State).dma.outstanding ≠ 0 := by decide +kernel
/-- The registry window on entry 5 holding e; the group-table window on entry 8191 holding g. -/
def windowed (e : Nat) (s : State) : State := (s.setReg 0x80020 5).setWindow 0x80040 16 e
def gtWindowed (g : Nat) (s : State) : State := (s.setReg 0x80080 8191).setWindow 0x80090 4 g
theorem witness_windows : (windowed (replica 64).toNat up).Clocked ∧ (windowed (replica 64).toNat up).window 0x80040 16 = (replica 64).toNat ∧ (windowed (replica 64).toNat up).regFld 0x80020 0 12 = 5 ∧
    (windowed (replica 64).toNat up).entryChk (replica 64).toNat = none ∧ (windowed (member 64).toNat up).entryChk (member 64).toNat = some 6 ∧ eValid (member 64).toNat = true ∧
    eValid ((windowed 0 up).window 0x80040 16) = false ∧ (windowed (replica 64).toNat up).draining ≠ some 5 ∧
    (snapping (snap0 [5] true false) (windowed (replica 64).toNat up)).draining = some 5 ∧ (gtWindowed (2 ^ 60) up).Clocked ∧ (gtWindowed (2 ^ 60) up).window 0x80090 4 = 2 ^ 60 ∧
    gtBad (2 ^ 60) = none ∧ gtBad 0 = some 1 ∧ gtBad (2 ^ 60 + 2 ^ 48) = some 2 ∧ (gtWindowed (2 ^ 60) up).regFld 0x80080 0 13 = 8191 := by decide +kernel
/-- A transfer of channel 0 holds context 15, with one byte to absorb. -/
def absorbing : State := (moving { xfer0 0 [] with cvuBuf := [(0, 8, 0x5A)] }).setCvuHold 15 (.xfer 0 1)
theorem witness_contexts : up.cvuHold 15 = .free ∧ (up.setCvuHold 15 .flacon).cvuHold 15 ≠ .free ∧ absorbing.Clocked ∧ absorbing.cvuHold 15 = .xfer 0 1 ∧
    absorbing.xferBy 0 1 = some { xfer0 0 [] with cvuBuf := [(0, 8, 0x5A)] } ∧ takeBytes [(0, 8, 0x5A)] 0 64 = [0x5A] := by decide +kernel

/-! Every step -/

theorem witness_StepKeepsTheInvariants : up.MemOk ∧ up.StoresOk ∧ up.PointOk ∧ ∃ t, step up = .next t := ⟨by decide, by decide, ⟨by decide, by decide, fun n h => by cases h⟩, _, rfl⟩
theorem witness_StepsOnlyBlowFuses : (∃ t, step up = .next t) ∧ (∀ w b, up.pending.head? ≠ some (.wsFuseProg w b)) ∧ ∀ b, up.pending.head? ≠ some (.lockDebug b) :=
  ⟨⟨_, rfl⟩, fun _ _ => nofun, fun _ => nofun⟩

end Sys2Proof.Tests
end

section
/-! Proofs about the register window: the pairs of R113, CNT_CTRL (R112), and what a register takes of a write (R17, R18,
R402). -/

namespace Sys2Proof.Machine

/-! Offsets -/

/-- A word-aligned offset of the window is the offset that the port accesses (R17). -/
theorem aligned_offset {off : Nat} (hlt : off < 0x100000) (hal : off % 4 = 0) : off % 0x100000 / 4 * 4 = off := by omega
theorem isPair_aligned {off : Nat} (h : isPair off = true) : off % 8 = 0 := by
  simp only [isPair, Bool.and_eq_true, beq_iff_eq] at h
  exact h.1
/-- The high word of a pair is no pair's low word. -/
theorem isPair_high {off : Nat} (h : isPair off = true) : isPair (off + 4) = false := by
  have h8 := isPair_aligned h
  exact Bool.eq_false_iff.mpr fun h' => by have := isPair_aligned h'; omega
/-- Every block's counters and CNT_CTRL lie in the blocks 0x0_1000 to 0xA_0000. -/
theorem cntBlocks_bounds : ∀ b ∈ cntBlocks, b.2.1 ≤ 0xB0000 ∧ 0x1000 ≤ b.2.2 ∧ b.2.2 < 0xB0000 := by decide
theorem isCntCtrl_bounds {off : Nat} (h : isCntCtrl off = true) : 0x1000 ≤ off ∧ off < 0xB0000 := by
  simp only [isCntCtrl, List.any_eq_true, beq_iff_eq] at h
  obtain ⟨b, hb, rfl⟩ := h
  exact (cntBlocks_bounds b hb).2
theorem isPair_lt {off : Nat} (h : isPair off = true) : off < 0xB0000 := by
  by_cases hb : (cntBlocks.any fun b => decide (b.1 ≤ off ∧ off < b.2.1)) = true
  · simp only [List.any_eq_true, decide_eq_true_eq] at hb
    obtain ⟨b, hmem, -, hlt⟩ := hb
    exact lt_of_lt_of_le hlt (cntBlocks_bounds b hmem).1
  · simp only [isPair, hb, Bool.false_or, Bool.and_eq_true, Bool.or_eq_true, beq_iff_eq, decide_eq_true_eq] at h
    omega

/-! Pairs (R113) -/

/-- A key just inserted is the entry that a search for it finds. -/
theorem Tab.find?_insert_same {α : Type} (t : Tab α) (k : Nat) (v : α) :
    (t.insert k v).find? (fun e => e.1 == k) = some (k, v) := by
  induction t with
  | nil => simp [Tab.insert]
  | cons e t ih =>
    obtain ⟨j, w⟩ := e
    simp only [Tab.insert]
    split
    · simp
    · split
      · simp
      · simp [*]

/-- A read of a pair's low word returns it and latches the high word. -/
theorem State.regRead_low {off : Nat} {s : State} (hlt : off < 0x100000) (hp : isPair off = true) (hh : s.hidden off = false) :
    s.regRead off = (lo32 (s.pairVal off), { s with latch := Tab.insert s.latch off (hi32 (s.pairVal off)) }) := by
  have h8 := isPair_aligned hp
  have hne : off ≠ 0x0100C := by omega
  simp only [State.regRead, aligned_offset hlt (by omega), hne, hh, hp, if_true, if_false, Bool.false_eq_true]
/-- The high word of a pair is not MBOX_RSP, whose read takes a reply's word (R450). -/
theorem isPair_high_ne_mboxRsp {off : Nat} (h : isPair off = true) : off + 4 ≠ 0x0100C := fun he => by
  obtain rfl : off = 0x01008 := by omega
  exact absurd h (by decide)
/-- A read of a pair's high word returns the latched word and takes it, and without one the current high word. -/
theorem State.regRead_high {off : Nat} {s : State} (hlt : off < 0x100000) (hp : isPair off = true) (hh : s.hidden (off + 4) = false) :
    s.regRead (off + 4) = ((s.latch.find? fun e => e.1 == off).map fun e => (e.2, { s with latch := s.latch.erase off })).getD
      (hi32 (s.pairVal off), s) := by
  have h8 := isPair_aligned hp
  simp only [State.regRead, aligned_offset (off := off + 4) (by omega) (by omega), isPair_high_ne_mboxRsp hp, hh, isPair_high hp,
    Nat.add_sub_cancel, hp, Nat.le_add_left, decide_true, Bool.and_self, if_true, if_false, Bool.false_eq_true]
  cases s.latch.find? fun e => e.1 == off <;> rfl

/-! Counters (R112) -/

/-- Clearing sets the counters of its block to 0, and no other. -/
theorem State.clearCounters_ctr (off o : Nat) (s : State) :
    (s.clearCounters off).ctr o = if cntCtrlOf o = some off then 0 else s.ctr o := by
  refine (Tab.get_filter 0 (fun k => cntCtrlOf k != some off) s.ctrs o).trans ?_
  by_cases h : cntCtrlOf o = some off
  · simp [h]
  · simp [h, State.ctr]
theorem State.count_frozen {off : Nat} (n : Nat) {s : State} (h : s.frozen off = true) : s.count off n = s := by
  simp only [State.count, h, if_true]

/-! Unassigned offsets (R18) -/

/-- The block map of R473 leaves 0xB_0000 to 0xE_FFFF unassigned. -/
theorem unassigned_block {off : Nat} (hlo : 0xB0000 ≤ off) (hhi : off < 0xF0000) :
    off / 0x10000 = 0xB ∨ off / 0x10000 = 0xC ∨ off / 0x10000 = 0xD ∨ off / 0x10000 = 0xE := by omega
theorem State.regVal_unassigned {off : Nat} (s : State) (hlo : 0xB0000 ≤ off) (hhi : off < 0xF0000) : s.regVal off = 0 := by
  obtain h | h | h | h := unassigned_block hlo hhi <;> simp only [State.regVal, h]
theorem State.regRead_unassigned {off : Nat} (s : State) (hlo : 0xB0000 ≤ off) (hhi : off < 0xF0000) : (s.regRead off).1 = 0 := by
  have hlow : isPair (off % 0x100000 / 4 * 4) = false := Bool.eq_false_iff.mpr fun h => by have := isPair_lt h; omega
  have hhigh : isPair (off % 0x100000 / 4 * 4 - 4) = false := Bool.eq_false_iff.mpr fun h => by
    have := isPair_lt h; have := isPair_aligned h; omega
  have hhid : s.hidden (off % 0x100000 / 4 * 4) = false := by
    simp only [State.hidden, Bool.and_eq_false_iff, decide_eq_false_iff_not]; omega
  have hne : off % 0x100000 / 4 * 4 ≠ 0x0100C := by omega
  simp only [State.regRead, hne, hhid, hlow, hhigh, Bool.and_false, if_false, Bool.false_eq_true]
  exact s.regVal_unassigned (by omega) (by omega)
/-- A write to an identity register or to an unassigned offset changes nothing. -/
theorem State.regWrite_ignored {off : Nat} (v : Word) (s : State) (h : off < 0x1000 ∨ (0xB0000 ≤ off ∧ off < 0xF0000)) :
    s.regWrite off v = s := by
  have hc : isCntCtrl (off % 0x100000 / 4 * 4) = false := Bool.eq_false_iff.mpr fun h => by have := isCntCtrl_bounds h; omega
  simp only [State.regWrite, hc, if_false, Bool.false_eq_true]
  obtain h | ⟨hlo, hhi⟩ := h
  · have h1 : off % 0x100000 / 4 * 4 / 0x10000 = 0 := by omega
    have h2 : off % 0x100000 / 4 * 4 / 0x1000 = 0 := by omega
    simp only [h1, h2]
  · obtain h | h | h | h := unassigned_block (off := off % 0x100000 / 4 * 4) (by omega) (by omega) <;> simp only [h]

/-! Writable bits (R17) -/

/-- A write of every bit is a write under the full mask. -/
theorem State.setReg_eq_putMasked (off : Nat) (v : Word) (s : State) : s.setReg off v = s.putMasked off 0xFFFFFFFF v := by
  have hall : (0xFFFFFFFF : Word) = BitVec.allOnes 32 := rfl
  rw [State.putMasked, hall, BitVec.not_allOnes, BitVec.and_zero, BitVec.zero_or, BitVec.and_allOnes]
theorem State.putMasked_sameRegs (off : Nat) (m v : Word) (s : State) : SameRegsBut [off] s (s.putMasked off m v) := fun o ho => by
  rw [State.putMasked_reg, if_neg (by simpa using ho)]

/-- Plain RW registers of the window, each with its writable bits. -/
def plainRw : List (Nat × Word) :=
  [(0x04004, 7), (0x10000, 1), (0x40004, 1), (0x43008, 0xFFFFFFFF), (0x60008, 0xFFFFFFFF), (0x60024, 0xFFFFFFFF), (0x02018, 0xFFFF),
    (0x50040, 0x1F01), (0x04020, 0x1FF), (0x8000C, 0xFFFFFFFF)]
/-- Each of them is a word of the window, and no CNT_CTRL. -/
theorem plainRw_offset : ∀ p ∈ plainRw, (BitVec.ofNat 20 p.1).toNat = p.1 ∧ isCntCtrl p.1 = false := by decide
/-- A write of a plain RW register takes its writable bits and no other effect. -/
theorem State.regWrite_plainRw {p : Nat × Word} (hp : p ∈ plainRw) (v : Word) (s : State) : s.regWrite p.1 v = s.putMasked p.1 p.2 v := by
  simp only [plainRw, List.mem_cons, List.not_mem_nil, or_false] at hp
  obtain rfl | rfl | rfl | rfl | rfl | rfl | rfl | rfl | rfl | rfl := hp
  exacts [rfl, rfl, rfl, s.setReg_eq_putMasked _ v, s.setReg_eq_putMasked _ v, s.setReg_eq_putMasked _ v, rfl, rfl, rfl,
    s.setReg_eq_putMasked _ v]

/-! The commands, where the window is served -/

theorem exec_counterLowRead_served (off : BitVec 20) {s : State} (h : s.Served) :
    exec (.counterLowRead off) s = .next (s.readOut off.toNat) := runSlow_served _ h
theorem exec_registerWrite_served (off : BitVec 20) (v : Word) {s : State} (h : s.Served) :
    exec (.registerWrite off v) s = .next (s.regWrite off.toNat v) := runSlow_served _ h
theorem exec_cntCtrlClear_served (off : BitVec 20) {s : State} (h : s.Served) :
    exec (.cntCtrlClear off) s = .next (if isCntCtrl off.toNat then s.clearCounters off.toNat else s) :=
  runSlow_served (fun s => if isCntCtrl off.toNat then s.clearCounters off.toNat else s) h

/-- Settles O34: the two halves of a pair's read, CNT_CTRL's effects, and the writes that a register takes or ignores. -/
theorem countersReadAsPairsAndClear : Obligations.CountersReadAsPairsAndClear := by
  unfold Obligations.CountersReadAsPairsAndClear
  refine ⟨fun off s hs hp hh => ?low, fun off s hlt hp hh hf => ?unlatched, fun off s hs hc => ?clear, fun off s hs hc => ?noCntCtrl,
    fun o n s h => State.count_frozen n h, fun p v s hs hp => ?plain, fun off v s hs h => ?ignored⟩
  case low =>
    have hread : s.readOut off.toNat = { s with
        latch := Tab.insert s.latch off.toNat (hi32 (s.pairVal off.toNat)), rdata := lo32 (s.pairVal off.toNat) } := by
      rw [State.readOut, State.regRead_low off.isLt hp hh]
    refine ⟨_, (exec_counterLowRead_served off hs).trans (congrArg _ hread), rfl, rfl, fun u hu hh' => ?_⟩
    rw [State.regRead_high off.isLt hp hh', hu, Tab.find?_insert_same, Option.map_some, Option.getD_some]
  case unlatched => rw [State.regRead_high hlt hp hh, hf, Option.map_none, Option.getD_none]
  case clear =>
    exact ⟨s.clearCounters off.toNat, by rw [exec_cntCtrlClear_served off hs, if_pos hc], fun o => s.clearCounters_ctr off.toNat o, rfl⟩
  case noCntCtrl => rw [exec_cntCtrlClear_served off hs, if_neg (Bool.eq_false_iff.mp hc)]
  case plain =>
    have hp' : p ∈ plainRw := hp
    refine ⟨s.putMasked p.1 p.2 v, ?_, by rw [State.putMasked_reg, if_pos rfl], s.putMasked_sameRegs p.1 p.2 v, rfl⟩
    rw [exec_registerWrite_served _ v hs, (plainRw_offset p hp').1, State.regWrite_plainRw hp']
  case ignored =>
    refine ⟨by rw [exec_registerWrite_served off v hs, State.regWrite_ignored v s h], fun hlo => ?_⟩
    exact s.regRead_unassigned hlo (by omega)

end Sys2Proof.Machine
end

section
/-! Proofs about the tile queues (R233): the push that becomes visible leaves its queue. -/

namespace Sys2Proof.Machine

/-- A command of the fast domains takes its step on a clocked core. -/
theorem State.Clocked.runFast {s : State} (h : s.Clocked) (f : State → State) : runFast s f = .next (f s) := by
  obtain ⟨h1, h2, h3, h4, h5⟩ := h
  exact runFast_clocked f h1 h2 h3 h4 h5

/-- A push that nothing holds at the head of its queue issues, and its own token becomes visible (R233). -/
theorem exec_tqTokenVisible_atHead {q : Nat} {c : EngCmd} {i : BitVec 4} {v : Opd} {s : State} (h : s.AtHead q c)
    (hop : c.op = .tqPush i v) (hq : s.queueQuiet q = true) (hi : i.toNat ≤ 7) (hv : opdBad v = false) :
    exec (.tqTokenVisible q) s = .next ((s.issued q c).setTq i.toNat
      ((s.tq i.toNat).map fun e => if e.1 = c.seq then (e.1, true, e.2.2) else e)) := by
  obtain ⟨hclk, hhead, hmode, hwait⟩ := h
  have hi' : ¬7 < i.toNat := by omega
  change execTqTokenVisible q s = _
  rw [execTqTokenVisible, hclk.runFast, withHead_eq _ hhead hmode hwait, hop]
  simp [hq, hi', hv, firstRej, failIf]

/-- The push with sequence number 1, in a queue that holds nothing else. -/
def lonePush : EngCmd := ⟨.tqPush 0 ⟨0, none, none⟩, 0, .acc, 1⟩
/-- A running core with a push at the head of fill queue 17, which no TQ_PUSH instruction places there. -/
def pushInFillQueue : State := { State.reset with
  sys := { Sys.reset with poreset := false, lock := true, core := .mgmtReady, bootStage := 6 }
  cc := { Cc.reset with queues := [(17, ⟨[lonePush], false, .none⟩)] } }
theorem pushInFillQueue_atHead : pushInFillQueue.AtHead 17 lonePush ∧ pushInFillQueue.queueQuiet 17 = true := by decide
/-- A command that leaves fill queue 17 is recorded as the last of that queue (R85). -/
theorem pushInFillQueue_issued_lastA : (pushInFillQueue.issued 17 lonePush).still.lastA = 1 ∧ pushInFillQueue.still.lastA = 0 := by decide

/-- Refutes O32: a push at the head of a fill queue is recorded as the last command of that queue, so the token's becoming visible
changes more than the control core and the counters. -/
theorem not_tileQueuesCarryTokens : ¬ Obligations.TileQueuesCarryTokens := by
  unfold Obligations.TileQueuesCarryTokens
  rintro ⟨-, -, hvisible, -⟩
  obtain ⟨hhead, hquiet⟩ := pushInFillQueue_atHead
  obtain ⟨hafter, hbefore⟩ := pushInFillQueue_issued_lastA
  obtain ⟨u, hu, -, -, -, hframe⟩ := hvisible 17 lonePush 0 ⟨0, none, none⟩ pushInFillQueue hhead rfl hquiet (by decide) rfl
  rw [exec_tqTokenVisible_atHead hhead rfl hquiet (by decide) rfl] at hu
  have hsame : u.still = pushInFillQueue.still := by rw [hframe]
  have hlast : u.still.lastA = 1 := by
    rw [← Host.Outcome.next.inj hu]
    exact hafter
  rw [hsame, hbefore] at hlast
  exact absurd hlast (by decide)

end Sys2Proof.Machine
end

section
/-! Proofs about the step (R20, R28): the front command, and the window of ACLK that passes on an empty queue. -/

namespace Sys2Proof.Machine

/-! Idle windows (R28) -/

/-- An IDLE flit changes the port only. -/
theorem State.idleFlit_eq (i : Nat) (s : State) : ∃ p, s.idleFlit i = { s with port := p } := by
  simp only [State.idleFlit]
  split
  exacts [⟨_, rfl⟩, ⟨s.port, rfl⟩]
theorem State.idleFlits_eq (s : State) : ∃ p, s.idleFlits = { s with port := p } := by
  suffices ∀ (l : List Nat) (t : State), ∃ p, l.foldl (fun s i => s.idleFlit i) t = { t with port := p } by
    simp only [State.idleFlits]
    split
    exacts [this _ s, ⟨s.port, rfl⟩]
  intro l
  induction l with
  | nil => exact fun t => ⟨t.port, rfl⟩
  | cons i l ih =>
    intro t
    obtain ⟨p, h⟩ := State.idleFlit_eq i t
    obtain ⟨p', h'⟩ := ih (t.idleFlit i)
    exact ⟨p', by rw [List.foldl_cons, h', h]⟩

@[simp] theorem State.setPwr_ctr (p : Pwr) (o : Nat) (s : State) : (s.setPwr p).ctr o = s.ctr o := rfl
/-- A window of 16 pulses changes the power controller and counters only; CYCLE_ACLK counts the pulses delivered (R28, R431). -/
theorem State.window16_frame (s : State) : s.window16.pending = s.pending ∧ s.window16.mem = s.mem ∧ s.window16.cc = s.cc ∧
    s.window16.logs = s.logs ∧ s.window16.aclk = s.aclk + w64 (16 - s.skipNow) := by
  simp only [State.window16]
  split <;> split <;> simp [State.aclk]

/-- On an empty queue the block keeps its memory, control core and logs; CYCLE_ACLK counts while the clocks run (R28). -/
theorem State.idle_frame (s : State) : s.idle.pending = s.pending ∧ s.idle.mem = s.mem ∧ s.idle.cc = s.cc ∧ s.idle.logs = s.logs := by
  obtain ⟨p, h⟩ := s.idleFlits_eq
  obtain ⟨hpend, hmem, hcc, hlogs, -⟩ := State.window16_frame { s with port := p }
  simp only [State.idle, h]
  split
  · simp
  split
  · simp
  split
  · simp
  · exact ⟨hpend, hmem, hcc, hlogs⟩
theorem State.idle_stopped {s : State} (h : s.sys.poreset = true ∨ s.sys.lock = false) : s.idle = s := by
  simp only [State.idle]
  rcases h with h | h <;> simp [h]
theorem State.idle_clocked {s : State} (h : s.Clocked) (hf : s.sys.fence ≠ .fenced) : s.idle = s.idleFlits.window16 := by
  obtain ⟨h1, h2, h3, h4, h5⟩ := h
  simp [State.idle, State.fenced, h1, h2, h3, h4, h5, hf]

/-- Settles O1: `step` takes the command at the front; an idle step is one window of ACLK. -/
theorem stepRunsFrontCommand : Obligations.StepRunsFrontCommand := by
  unfold Obligations.StepRunsFrontCommand
  refine ⟨fun c rest s => rfl, fun s hs => ⟨s.idle, by rw [step, hs], ?_⟩⟩
  obtain ⟨hpend, hmem, hcc, hlogs⟩ := s.idle_frame
  refine ⟨hpend.trans hs, hmem, hcc, hlogs, fun hclk hfence => ?_, State.idle_stopped⟩
  obtain ⟨p, hp⟩ := s.idleFlits_eq
  obtain ⟨-, -, -, -, haclk⟩ := State.window16_frame { s with port := p }
  rw [State.idle_clocked hclk hfence, hp]
  exact haclk

end Sys2Proof.Machine
end

section
/-! Proofs about start-up (R461): each stage by what the stage before it left. -/

namespace Sys2Proof.Machine

/-! What the power controller's own steps change -/

/-- From s to t only the power controller, logs, counters and INT_STATUS have changed. -/
def PowerOnly (s t : State) : Prop :=
  (∃ p l g c, t = { s with pwr := p, logs := l, regs := g, ctrs := c }) ∧ SameRegsBut [0x04000] s t
theorem PowerOnly.refl (s : State) : PowerOnly s s := ⟨⟨_, _, _, _, rfl⟩, fun _ _ => rfl⟩
theorem PowerOnly.trans {s t u : State} (h : PowerOnly s t) (h' : PowerOnly t u) : PowerOnly s u := by
  obtain ⟨⟨p, l, g, c, rfl⟩, hr⟩ := h
  obtain ⟨⟨p', l', g', c', rfl⟩, hr'⟩ := h'
  exact ⟨⟨p', l', g', c', rfl⟩, fun o ho => (hr' o ho).trans (hr o ho)⟩
theorem PowerOnly.setPwr {s t : State} (h : PowerOnly s t) (p : Pwr) : PowerOnly s (t.setPwr p) :=
  h.trans ⟨⟨p, t.logs, t.regs, t.ctrs, rfl⟩, fun _ _ => rfl⟩
theorem PowerOnly.count {s t : State} (h : PowerOnly s t) (off n : Nat) : PowerOnly s (t.count off n) := by
  obtain ⟨c, hc⟩ := State.count_eq off n t
  exact h.trans ⟨⟨t.pwr, t.logs, t.regs, c, hc⟩, fun o _ => by simp⟩
theorem PowerOnly.raise {s t : State} (h : PowerOnly s t) (e : Err) : PowerOnly s (t.raise e) := by
  obtain ⟨l, c, g, hr⟩ := State.raise_eq e t
  exact h.trans ⟨⟨t.pwr, l, g, c, hr⟩, fun o ho => by rw [State.raise_reg, if_neg (by simpa using ho)]⟩
theorem State.droopReport_powerOnly (det : Nat) (s : State) : PowerOnly s (s.droopReport det) := by
  simp only [State.droopReport]
  split <;> split
  exacts [((((PowerOnly.refl s).setPwr _).count _ _).raise _).count _ _, (((PowerOnly.refl s).setPwr _).raise _).count _ _,
    ((PowerOnly.refl s).setPwr _).count _ _, (PowerOnly.refl s).setPwr _]
theorem skipping_powerOnly {f : State → State} {s : State} (h : PowerOnly s (f s)) : PowerOnly s (skipping f s) := by
  simp only [skipping]
  split
  exacts [(h.setPwr _).count _ _, h]
theorem droopReports_powerOnly (ds : List Nat) (s : State) : PowerOnly s (ds.foldl (fun s d => s.droopReport d) s) := by
  induction ds generalizing s with
  | nil => exact PowerOnly.refl s
  | cons d ds ih => exact (s.droopReport_powerOnly d).trans (ih _)
theorem State.droopAll_powerOnly (s : State) : PowerOnly s s.droopAll := by
  simp only [State.droopAll]
  split
  exacts [skipping_powerOnly (droopReports_powerOnly _ s), PowerOnly.refl s]

/-! Stages of start-up (R461) -/

theorem State.setCore_powerOnly (c : CoreState) (s : State) : PowerOnly { s with sys := { s.sys with core := c } } (s.setCore c) := by
  simp only [State.setCore]
  obtain ⟨l, k, h⟩ := State.blotter_eq 9 3 0 _ { s with sys := { s.sys with core := c } }
  exact ⟨⟨s.pwr, l, s.regs, k, h⟩, fun o _ => by simp⟩

theorem exec_synthLock_awaited {s : State} (hs : s.Served) (h : s.awaitsLock = true) :
    exec .synthLock s = .next (({ s with sys := { s.sys with lock := true } }).setCore .boot).droopAll := by
  change execSynthLock s = _
  rw [execSynthLock, runSlow_served _ hs, if_pos h]

/-! Memory BIST (R93, R461 stage 4) -/

@[simp] theorem State.mem_clearMem_eccBad (lo hi e : Nat) (s : State) :
    e ∈ (s.clearMem lo hi).eccBad ↔ e ∈ s.eccBad ∧ ¬(lo ≤ e ∧ e < hi) := by
  simp [State.clearMem, State.watchMark, imp_iff_not_or]
theorem State.clearSmall_byte (a : Nat) (s : State) : s.clearSmall.byte a = if 0x08000000 ≤ a ∧ a < 0x0C000000 then 0 else s.byte a :=
  State.clearMem_byte 0x08000000 0x0C000000 a s
@[simp] theorem State.mem_clearSmall_eccBad (e : Nat) (s : State) :
    e ∈ s.clearSmall.eccBad ↔ e ∈ s.eccBad ∧ ¬(0x08000000 ≤ e ∧ e < 0x0C000000) :=
  State.mem_clearMem_eccBad 0x08000000 0x0C000000 e s

/-- The sets that start-up tests: the near tier, the stacked tier when it answers, and the small arrays. -/
theorem State.clearSets_startup_byte (tier : Bool) (a : Nat) (s : State) : (s.clearSets true tier true).byte a =
    if a < 0x01000000 ∨ (tier = true ∧ a < 0x06000000) ∨ (0x08000000 ≤ a ∧ a < 0x0C000000) then 0 else s.byte a := by
  cases tier <;> simp [State.clearSets, State.clearSmall_byte, State.clearMem_byte] <;> grind
theorem State.clearSets_startup_eccBad (tier : Bool) {e : Nat} (s : State) (h : e ∈ (s.clearSets true tier true).eccBad) :
    e ∈ s.eccBad ∧ 0x01000000 ≤ e ∧ ¬(0x08000000 ≤ e ∧ e < 0x0C000000) := by
  cases tier <;> simp [State.clearSets] at h ⊢ <;> grind
/-- What the BIST of start-up leaves of the whole state (R93, R461). -/
theorem State.clearSets_startup (tier : Bool) (s : State) : ∃ t : State, s.clearSets true tier true = t ∧ t.sys = s.sys ∧
    (∀ a, t.byte a = if a < 0x01000000 ∨ (tier = true ∧ a < 0x06000000) ∨ (0x08000000 ≤ a ∧ a < 0x0C000000) then 0 else s.byte a) ∧
    (∀ e, e ∈ t.eccBad → e ∈ s.eccBad ∧ 0x01000000 ≤ e ∧ ¬(0x08000000 ≤ e ∧ e < 0x0C000000)) ∧
    t.vec.v = [] ∧ t.logs = { s.logs with blot := [] } ∧ t.cc.valid0 = false ∧ t.cc.valid1 = false ∧ t.regs = s.regs ∧ t.ctrs = s.ctrs := by
  refine ⟨_, rfl, ?_, fun a => s.clearSets_startup_byte tier a, fun e => s.clearSets_startup_eccBad tier, ?_⟩
  · cases tier <;> rfl
  · cases tier <;> exact ⟨rfl, rfl, rfl, rfl, rfl, rfl⟩

/-! The stages, each on the state that the one before it left -/

section
variable {s : State} (hs : s.Served) (hc : s.sys.core ≠ .bootFailed) (hl : s.sys.lock = true)
include hs hc hl

/-- Stage k runs on the state that stage k − 1 left, when start-up has not failed. -/
theorem stage_due {k : Nat} (f : State → State) (hk : s.sys.bootStage + 1 = k) :
    stage k s f = .next (f { s with sys := { s.sys with bootStage := k } }) := by
  simp [stage, runSlow_served _ hs, hc, hl, hk]

theorem exec_startupFuseLoad_due (hk : s.sys.bootStage = 2) : ∃ t : State, exec .startupFuseLoad s = .next t ∧
    t.sys = { s.sys with bootStage := 3, shadow := s.sys.fuses, fuseBad := !fusesGood s.sys.fuses } ∧
    (fusesGood s.sys.fuses = true → t = { s with sys := t.sys }) := by
  change ∃ t, execStartupFuseLoad s = _ ∧ _
  rw [execStartupFuseLoad, stage_due hs hc hl _ (by rw [hk])]
  refine ⟨_, rfl, ?_, fun h => ?_⟩
  · dsimp only
    split
    exacts [rfl, State.raise_sys _ _]
  · simp [h]

theorem exec_startupBist_repairable {r : BistResult} (hk : s.sys.bootStage = 3) (hr : r.unrepairable = false) :
    exec (.startupBist r) s =
      .next (({ s with sys := { s.sys with bootStage := 4, tierAnswers := r.tierAnswers } }).clearSets true r.tierAnswers true) := by
  change execStartupBist r s = _
  rw [execStartupBist, stage_due hs hc hl _ (by rw [hk])]
  simp only [hr, Bool.false_eq_true, if_false]

/-- The tier is as the straps say, and a tier that is there passes its check. -/
theorem exec_tierCheck_good {ok : Bool} (hk : s.sys.bootStage = 4) (hq : s.sys.tierAnswers = s.sys.straps.tier)
    (hok : s.sys.straps.tier = true → ok = true) : exec (.tierCheck ok) s = .next { s with sys := { s.sys with bootStage := 5 } } := by
  change execTierCheck ok s = _
  rw [execTierCheck, stage_due hs hc hl _ (by rw [hk])]
  cases ht : s.sys.straps.tier <;> simp [ht, hq, hok]

theorem exec_mgmtReady_due (hk : s.sys.bootStage = 5) : exec .mgmtReady s = .next ((({ s with sys := { s.sys with
    bootStage := 6, fence := if s.fuseFence = 0 then .inService else .fenced, fenceCause := s.fuseFence } }).setCore .mgmtReady).interrupt 4).takeMail := by
  change execMgmtReady s = _
  rw [execMgmtReady, stage_due hs hc hl _ (by rw [hk])]
  rfl
end

/-- Settles O3: each stage takes its step on the state that the one before it left. -/
theorem startUpStagesRunInOrder : Obligations.StartUpStagesRunInOrder := by
  unfold Obligations.StartUpStagesRunInOrder
  refine ⟨fun s hs h => ?lock, fun s hs hc hl hk => exec_startupFuseLoad_due hs hc hl hk, fun r s hs hc hl hk hr => ?bist,
    fun ok s hs hc hl hk hq hok => exec_tierCheck_good hs hc hl hk hq hok, fun s hs hc hl hk => ?ready⟩
  case lock =>
    refine ⟨_, exec_synthLock_awaited hs h, ?_⟩
    obtain ⟨⟨p, l, g, c, ht⟩, hregs⟩ :=
      (({ s with sys := { s.sys with lock := true } }).setCore_powerOnly .boot).trans (State.droopAll_powerOnly _)
    refine ⟨?_, hregs, ?_⟩ <;> rw [ht]
  case bist =>
    obtain ⟨t, ht, hsys, hbyte, hecc, hvec, hlogs, hv0, hv1, hregs, hctrs⟩ := State.clearSets_startup r.tierAnswers
      { s with sys := { s.sys with bootStage := 4, tierAnswers := r.tierAnswers } }
    refine ⟨t, by rw [exec_startupBist_repairable hs hc hl hk hr, ht], hsys, hbyte, hecc, fun i v => by rw [hvec]; rfl, ?_, ?_, hv0, hv1, hregs, hctrs⟩ <;>
      rw [hlogs]
  case ready =>
    refine ⟨_, exec_mgmtReady_due hs hc hl hk, ?_⟩
    have hsys : ∀ u : State, ((u.setCore .mgmtReady).interrupt 4).sys = { u.sys with core := .mgmtReady } := fun u => u.setCore_sys _
    refine ⟨by rw [hsys], by rw [hsys], by simp, by rw [hsys], ?_, State.setCore_mem _ _, State.setCore_mgmt _ _, State.setCore_cc _ _⟩
    rw [hsys]
    by_cases h : s.fuseFence = 0 <;> simp [h]

end Sys2Proof.Machine
end

section
/-! Proofs about the remote-inbound lanes (R386): what each packet may change, and what its answer carries. -/

namespace Sys2Proof.Machine

/-! What the port changes when it sends -/

/-- From s to t only the port, its count of flits sent and the choice of free values have changed. -/
def PortOnly (s t : State) : Prop :=
  (∃ p c n, t = { s with port := p, ctrs := c, freeCtr := n }) ∧ ∀ o, o ≠ 0xA0100 → t.ctr o = s.ctr o

namespace PortOnly
variable {s t u : State}

theorem refl (s : State) : PortOnly s s := ⟨⟨_, _, _, rfl⟩, fun _ _ => rfl⟩
theorem trans (h : PortOnly s t) (h' : PortOnly t u) : PortOnly s u := by
  obtain ⟨⟨p, c, n, rfl⟩, hc⟩ := h
  obtain ⟨⟨p', c', n', rfl⟩, hc'⟩ := h'
  exact ⟨⟨p', c', n', rfl⟩, fun o ho => (hc' o ho).trans (hc o ho)⟩
theorem foldl {α : Type} {f : State → α → State} (hf : ∀ s x, PortOnly s (f s x)) (l : List α) (s : State) : PortOnly s (l.foldl f s) := by
  induction l generalizing s with
  | nil => exact refl s
  | cons x l ih => exact (hf s x).trans (ih _)
/-- A change of the port and of the free values only. -/
theorem of_port (p : Port) (n : Nat) (s : State) : PortOnly s { s with port := p, freeCtr := n } := ⟨⟨p, s.ctrs, n, rfl⟩, fun _ _ => rfl⟩

theorem mem (h : PortOnly s t) : t.mem = s.mem := by obtain ⟨⟨_, _, _, rfl⟩, _⟩ := h; rfl
theorem regs (h : PortOnly s t) : t.regs = s.regs := by obtain ⟨⟨_, _, _, rfl⟩, _⟩ := h; rfl
theorem dma (h : PortOnly s t) : t.dma = s.dma := by obtain ⟨⟨_, _, _, rfl⟩, _⟩ := h; rfl
theorem cc (h : PortOnly s t) : t.cc = s.cc := by obtain ⟨⟨_, _, _, rfl⟩, _⟩ := h; rfl
theorem logs (h : PortOnly s t) : t.logs = s.logs := by obtain ⟨⟨_, _, _, rfl⟩, _⟩ := h; rfl
theorem slots (h : PortOnly s t) : t.slots = s.slots := by obtain ⟨⟨_, _, _, rfl⟩, _⟩ := h; rfl
theorem vec (h : PortOnly s t) : t.vec = s.vec := by obtain ⟨⟨_, _, _, rfl⟩, _⟩ := h; rfl
theorem sys (h : PortOnly s t) : t.sys = s.sys := by obtain ⟨⟨_, _, _, rfl⟩, _⟩ := h; rfl
theorem eccBad (h : PortOnly s t) : t.eccBad = s.eccBad := by obtain ⟨⟨_, _, _, rfl⟩, _⟩ := h; rfl
theorem reg (h : PortOnly s t) (o : Nat) : t.reg o = s.reg o := by obtain ⟨⟨_, _, _, rfl⟩, _⟩ := h; rfl
theorem byte (h : PortOnly s t) (a : Nat) : t.byte a = s.byte a := by simp only [State.byte, h.mem]
theorem stream (h : PortOnly s t) (n : Nat) : t.stream n = s.stream n := by simp only [State.stream, h.dma]
theorem fenced (h : PortOnly s t) : t.fenced = s.fenced := by simp only [State.fenced, h.sys]
theorem wordChk (h : PortOnly s t) (a : Nat) : t.wordChk a = s.wordChk a := by obtain ⟨⟨_, _, _, rfl⟩, _⟩ := h; rfl
theorem readWord (h : PortOnly s t) (a op : Nat) : t.readWord a op = s.readWord a op := by obtain ⟨⟨_, _, _, rfl⟩, _⟩ := h; rfl
theorem inRings (h : PortOnly s t) (a n : Nat) : t.inRings a n = s.inRings a n := by obtain ⟨⟨_, _, _, rfl⟩, _⟩ := h; rfl
theorem windowServes (h : PortOnly s t) (w : Bool) (a n : Nat) : t.windowServes w a n = s.windowServes w a n := by
  obtain ⟨⟨_, _, _, rfl⟩, _⟩ := h; rfl
theorem releaseAddr (h : PortOnly s t) (b : Nat) : t.releaseAddr b = s.releaseAddr b := by simp only [State.releaseAddr, h.reg]
theorem ledgerOf (h : PortOnly s t) (ep stream : Nat) : t.ledgerOf ep stream = s.ledgerOf ep stream := by simp only [State.ledgerOf, h.dma]
theorem freeInbound (h : PortOnly s t) : t.freeInbound = s.freeInbound := by obtain ⟨⟨_, _, _, rfl⟩, _⟩ := h; rfl
theorem poisonedIn (h : PortOnly s t) (a n : Nat) : t.poisonedIn a n = s.poisonedIn a n := by simp only [State.poisonedIn, h.eccBad]
theorem ctr (h : PortOnly s t) {o : Nat} (ho : o ≠ 0xA0100) : t.ctr o = s.ctr o := h.2 o ho

end PortOnly

theorem State.placeFlit_portOnly (i : Nat) (f : OutFlit) (s : State) : PortOnly s (s.placeFlit i f) := by
  obtain ⟨p, c, h⟩ := State.placeFlit_eq i f s
  refine ⟨⟨p, c, s.freeCtr, h⟩, fun o ho => ?_⟩
  simp only [State.placeFlit]
  rw [State.count_ctr, if_neg (by tauto)]
  rfl
theorem State.placePkt_portOnly (p : OutPkt) (ls : List Nat) (s : State) : PortOnly s (s.placePkt p ls) :=
  (PortOnly.of_port s.port (s.freeCtr + 1) s).trans (PortOnly.foldl (fun s f => s.placeFlit_portOnly _ f) _ _)
theorem pumpGo_portOnly (l : List OutPkt) (held : List (Nat × Nat)) (s : State) : PortOnly s (pumpGo l held s).2 := by
  induction l generalizing held s with
  | nil => exact PortOnly.refl s
  | cons p l ih =>
    simp only [pumpGo]
    split
    · exact ih _ s
    · exact (s.placePkt_portOnly p _).trans (ih _ _)
theorem State.pump_portOnly (s : State) : PortOnly s s.pump := by
  simp only [State.pump]
  split
  · exact (pumpGo_portOnly _ _ s).trans (PortOnly.of_port _ _ _)
  · exact PortOnly.refl s
theorem State.send_portOnly (cls : Nat) (fs : List OutFlit) (s : State) : PortOnly s (s.send cls fs) :=
  (PortOnly.of_port _ s.freeCtr s).trans (State.pump_portOnly _)
/-- An answer changes the port only. -/
theorem State.respond_portOnly (ep stream st : Nat) (slots : List (Nat × Nat)) (data : List Byte) (s : State) :
    PortOnly s (s.respond ep stream st slots data) := State.send_portOnly _ _ _
theorem State.setInLane_portOnly (i : Nat) (n : InLane) (s : State) : PortOnly s (s.setInLane i n) := PortOnly.of_port _ _ _
theorem State.ackSlots_portOnly (e len : Nat) (s : State) : PortOnly s (s.ackSlots e len).2 := by
  simp only [State.ackSlots]
  split
  · split <;> exact PortOnly.of_port _ _ _
  · exact PortOnly.refl s
/-- The flit taken from a lane leaves the state as it was but for that lane. -/
theorem State.takeRx_eq {i op : Nat} {f : Flit} {s u : State} (h : s.takeRx i op = some (f, u)) : ∃ n, u = s.setInLane i n := by
  simp only [State.takeRx] at h
  split at h
  · cases h
  · split at h
    · cases h
    · cases h
      exact ⟨_, rfl⟩

/-! What a read or a write of local memory changes beside the bytes -/

/-- The counters that accesses to local memory, the error log and the port advance: lost errors and records, ECC, prefetch,
accumulator parity and flits sent. -/
def accessCtr (o : Nat) : Bool :=
  [0x04018, 0x90220, 0x50278, 0x50280, 0x50288, 0x50298, 0x502A0, 0xA0100].contains o || o % 0x1000 == 0x48

/-- What accesses to local memory leave unchanged. -/
structure Accessed (s t : State) : Prop where
  sys : t.sys = s.sys
  slots : t.slots = s.slots
  vec : t.vec = s.vec
  queues : t.cc.queues = s.cc.queues
  streams : t.dma.streams = s.dma.streams
  regs : SameRegsBut [0x04000] s t
  ctrs : ∀ o, accessCtr o = false → t.ctr o = s.ctr o

namespace Accessed
variable {s t u : State}

theorem refl (s : State) : Accessed s s := ⟨rfl, rfl, rfl, rfl, rfl, fun _ _ => rfl, fun _ _ => rfl⟩
theorem trans (h : Accessed s t) (h' : Accessed t u) : Accessed s u where
  sys := h'.sys.trans h.sys
  slots := h'.slots.trans h.slots
  vec := h'.vec.trans h.vec
  queues := h'.queues.trans h.queues
  streams := h'.streams.trans h.streams
  regs := fun o ho => (h'.regs o ho).trans (h.regs o ho)
  ctrs := fun o ho => (h'.ctrs o ho).trans (h.ctrs o ho)
theorem foldl {α : Type} {f : State → α → State} (hf : ∀ s x, Accessed s (f s x)) (l : List α) (s : State) : Accessed s (l.foldl f s) := by
  induction l generalizing s with
  | nil => exact refl s
  | cons x l ih => exact (hf s x).trans (ih _)
theorem stream (h : Accessed s t) (n : Nat) : t.stream n = s.stream n := by simp only [State.stream, h.streams]
theorem frozen (h : Accessed s t) {o c : Nat} (hc : cntCtrlOf o = some c) (hne : c ≠ 0x04000) : t.frozen o = s.frozen o := by
  simp [State.frozen, hc, h.regs c (by simpa using hne)]

end Accessed

theorem PortOnly.accessed {s t : State} (h : PortOnly s t) : Accessed s t where
  sys := h.sys
  slots := h.slots
  vec := h.vec
  queues := by rw [h.cc]
  streams := by rw [h.dma]
  regs := fun o _ => h.reg o
  ctrs := fun o ho => h.ctr fun he => by simp [accessCtr, he] at ho

theorem State.blotter_ctr (ty src o : Nat) (tag : Half) (d : Word) (s : State) (ho : o ≠ 0x90220) : (s.blotter ty src tag d).ctr o = s.ctr o := by
  simp only [State.blotter]
  split
  · split
    · rfl
    · split
      · rw [State.count_ctr, if_neg (by tauto)]
      · rfl
  · rfl
theorem State.raise_ctr (e : Err) (o : Nat) (s : State) (ho : o ≠ 0x90220) (ho' : o ≠ 0x04018) : (s.raise e).ctr o = s.ctr o := by
  simp only [State.raise, State.blotter_ctr _ _ _ _ _ _ ho, State.interrupt_ctr]
  split
  · rfl
  · rw [State.count_ctr, if_neg (by tauto)]
    rfl
theorem State.raise_accessed (e : Err) (s : State) : Accessed s (s.raise e) where
  sys := by simp
  slots := by simp
  vec := by simp
  queues := by simp
  streams := by simp
  regs := fun o ho => by rw [State.raise_reg, if_neg (by simpa using ho)]
  ctrs := fun o ho => s.raise_ctr e o (fun he => by simp [accessCtr, he] at ho) fun he => by simp [accessCtr, he] at ho
theorem State.count_accessed {off : Nat} (h : accessCtr off = true) (n : Nat) (s : State) : Accessed s (s.count off n) where
  sys := by simp
  slots := by simp
  vec := by simp
  queues := by simp
  streams := by simp
  regs := fun o _ => by simp
  ctrs := fun o ho => by rw [State.count_ctr, if_neg (by rintro ⟨rfl, -⟩; simp [h] at ho)]
/-- A counter advanced by one, unless its block is frozen (R113). -/
theorem State.count_one (off : Nat) (s : State) : (s.count off 1).ctr off = if s.frozen off then s.ctr off else s.ctr off + 1 := by
  rw [State.count_ctr]
  cases h : s.frozen off <;> simp
theorem eccCorrCtr_access (e : Nat) : accessCtr (eccCorrCtr e) = true := by
  unfold eccCorrCtr
  split <;> decide
theorem State.eccLog_accessed (r : Reader) (e : Nat) (s : State) : Accessed s (s.eccLog r e) :=
  (s.raise_accessed _).trans (State.count_accessed (by decide) _ _)
theorem State.eccCheck_accessed (r : Reader) (a n : Nat) (s : State) : Accessed s (s.eccCheck r a n) := by
  simp only [State.eccCheck]
  have hcorr : Accessed s { s with eccCorr := s.eccCorr.filter fun e => !eccOverlap e a n } :=
    ⟨rfl, rfl, rfl, rfl, rfl, fun _ _ => rfl, fun _ _ => rfl⟩
  exact (hcorr.trans (Accessed.foldl (fun s e => State.count_accessed (eccCorrCtr_access e) 1 s) _ _)).trans
    (Accessed.foldl (fun s e => s.eccLog_accessed r e) _ _)
theorem State.partCheck_accessed (r a n : Nat) (s : State) : Accessed s (s.partCheck r a n) := by
  simp only [State.partCheck]
  exact (Accessed.foldl (fun s e => State.count_accessed (eccCorrCtr_access e) 1 s) _ _).trans
    (Accessed.foldl (fun s e => s.eccLog_accessed { req := r } e) _ _)
theorem State.accPoison_accessed (a : Nat) (s : State) : Accessed s (s.accPoison a) := by
  simp only [State.accPoison]
  refine Accessed.trans (t := { s with poison := if s.poison.contains (accTile a) then s.poison else s.poison ++ [accTile a] })
    ⟨rfl, rfl, rfl, rfl, rfl, fun _ _ => rfl, fun _ _ => rfl⟩ ((State.raise_accessed _ _).trans (State.count_accessed ?_ _ _))
  have : (0x20048 + 0x1000 * accStill a) % 0x1000 = 0x48 := by omega
  simp [accessCtr, this]
theorem State.accCheck_accessed (a n : Nat) (s : State) : Accessed s (s.accCheck a n) := by
  simp only [State.accCheck]
  exact Accessed.foldl (fun s e => s.accPoison_accessed e) _ s
theorem State.setPf_accessed (p : List PfEnt) (s : State) : Accessed s { s with dma := { s.dma with pf := p } } :=
  ⟨rfl, rfl, rfl, rfl, rfl, fun _ _ => rfl, fun _ _ => rfl⟩
theorem State.pfRead_accessed (r a n : Nat) (s : State) : Accessed s (s.pfRead r a n) := by
  simp only [State.pfRead]
  split
  · exact Accessed.refl s
  · split
    · exact s.setPf_accessed _
    · exact (s.setPf_accessed _).trans (State.count_accessed (by decide) _ _)
theorem State.pfWrite_accessed (a n : Nat) (s : State) : Accessed s (s.pfWrite a n) := by
  simp only [State.pfWrite]
  split
  · exact Accessed.refl s
  · exact (s.setPf_accessed _).trans (State.count_accessed (by decide) _ _)
theorem State.touchBy_accessed (r : Reader) (a n : Nat) (s : State) : Accessed s (s.touchBy r a n) := by
  simp only [State.touchBy]
  split
  · exact Accessed.refl s
  · exact ((s.eccCheck_accessed r a n).trans (State.accCheck_accessed a n _)).trans (State.pfRead_accessed r.req a n _)
theorem State.write_accessed (r a : Nat) (bs : List Byte) (s : State) : Accessed s (s.write r a bs) := by
  simp only [State.write]
  split
  · exact Accessed.refl s
  · refine ((s.partCheck_accessed r a bs.length).trans ?_).trans (State.pfWrite_accessed a bs.length _)
    exact ⟨rfl, rfl, rfl, rfl, rfl, fun _ _ => rfl, fun _ _ => rfl⟩
theorem State.poisonBytes_accessed (as : List Nat) (s : State) : Accessed s (s.poisonBytes as) :=
  ⟨rfl, rfl, rfl, rfl, rfl, fun _ _ => rfl, fun _ _ => rfl⟩

/-! A sync operation on a local word (R293, R296) -/

/-- An operation that the word takes is an access to memory and one update counted (R320). -/
theorem State.syncApply_accessed (op a : Nat) (v : Word) (src : Nat) (rd : Reader) (s : State) {sem : Bool} {c : Word}
    (h1 : s.wordChk a = none) (h2 : s.readWord a op = .ok sem c) :
    ∃ u, Accessed s u ∧ (s.syncApply op a v src rd).2 = u.count 0x60300 1 := by
  simp only [State.syncApply, h1, h2, State.putCount, State.writeDword]
  refine ⟨_, Accessed.trans ?_ (State.write_accessed 11 a _ _), rfl⟩
  split
  · exact (s.touchBy_accessed rd a 8).trans (State.raise_accessed _ _)
  · exact s.touchBy_accessed rd a 8

/-- What an operation that its word takes, and the answer after it, leave: the word's new COUNT (R296), one update counted, and
every other byte, the queues and the streams as before. -/
structure SyncDone (s t : State) (a : Nat) (w : Word) : Prop where
  word : t.word a = w
  outside : SameMemOutside a 8 s t
  queues : t.cc.queues = s.cc.queues
  streams : t.dma.streams = s.dma.streams
  updates : t.ctr 0x60300 = if s.frozen 0x60300 then s.ctr 0x60300 else s.ctr 0x60300 + 1

theorem PortOnly.syncDone {s u t : State} {a : Nat} {w : Word} (hp : PortOnly s u) (h : SyncDone u t a w) : SyncDone s t a w where
  word := h.word
  outside := fun x hx => (h.outside x hx).trans (hp.byte x)
  queues := by rw [h.queues, hp.cc]
  streams := by rw [h.streams, hp.dma]
  updates := by rw [h.updates, hp.accessed.frozen (c := 0x60060) (by decide) (by decide), hp.ctr (by decide)]
theorem SyncDone.stream {s t : State} {a : Nat} {w : Word} (h : SyncDone s t a w) (m : Nat) : t.stream m = s.stream m := by
  simp only [State.stream, h.streams]

theorem State.syncApply_respond (op a : Nat) (v : Word) (src : Nat) (rd : Reader) (ep stream st : Nat) (slots : List (Nat × Nat))
    (data : List Byte) (s : State) {sem : Bool} {c : Word} (h1 : s.wordChk a = none) (h2 : s.readWord a op = .ok sem c) :
    SyncDone s ((s.syncApply op a v src rd).2.respond ep stream st slots data) a (newCount op sem c v).1 := by
  obtain ⟨-, hword, hout⟩ := State.syncApply_ok op a v src rd s sem c h1 h2
  obtain ⟨u, hu, happly⟩ := State.syncApply_accessed op a v src rd s h1 h2
  have hp := State.respond_portOnly ep stream st slots data (s.syncApply op a v src rd).2
  have hctr : u.ctr 0x60300 = s.ctr 0x60300 := hu.ctrs _ (by decide)
  have hfrozen : u.frozen 0x60300 = s.frozen 0x60300 := hu.frozen (c := 0x60060) (by decide) (by decide)
  refine ⟨by rw [State.word_of_byte _ _ a hp.byte, hword], fun x hx => (hp.byte x).trans (hout x hx), ?_, ?_, ?_⟩
  · rw [hp.cc, happly, State.count_cc, hu.queues]
  · rw [hp.dma, happly, State.count_dma, hu.streams]
  · rw [hp.ctr (by decide), happly, State.count_one, hctr, hfrozen]

/-! Reads (R386) -/

/-- The answer to record r of an RD_REQ: the bytes when the window serves them, else NO_TARGET. -/
def State.answerRecord (f : Flit) (s : State) (r : Nat) : State :=
  let v := recordOf f r
  let a := nfld v 64 32
  let n := nfld v 5 6 + 1
  if s.windowServes false a n then
    (s.touch 8 a n).respond (linkEp f.link) (nfld v 44 20) (bit (s.poisonedIn a n)) [(nfld v 12 32, n)] (s.bytes a n)
  else s.respond (linkEp f.link) (nfld v 44 20) 4 [(nfld v 12 32, n)] []
theorem State.answerRecord_served {f : Flit} {s : State} {r : Nat}
    (hw : s.windowServes false (nfld (recordOf f r) 64 32) (nfld (recordOf f r) 5 6 + 1) = true) :
    let v := recordOf f r
    let a := nfld v 64 32
    let n := nfld v 5 6 + 1
    s.answerRecord f r =
      (s.touch 8 a n).respond (linkEp f.link) (nfld v 44 20) (bit (s.poisonedIn a n)) [(nfld v 12 32, n)] (s.bytes a n) :=
  if_pos hw
theorem State.answerRecord_refused {f : Flit} {s : State} {r : Nat}
    (hw : s.windowServes false (nfld (recordOf f r) 64 32) (nfld (recordOf f r) 5 6 + 1) = false) :
    let v := recordOf f r
    s.answerRecord f r = s.respond (linkEp f.link) (nfld v 44 20) 4 [(nfld v 12 32, nfld v 5 6 + 1)] [] :=
  if_neg (by rw [hw]; decide)
/-- RD_REQ_RECEIVE answers the records of the flit in turn. -/
theorem exec_rdReqReceive {lane : BitVec 3} {f : Flit} {s u : State} (h : s.Receives lane.toNat 1 f u) :
    exec (.rdReqReceive lane) s = .next ((List.range (hfld f.hdr 124 4)).foldl (State.answerRecord f) u) := by
  obtain ⟨hclk, htake⟩ := h
  change execRdReqReceive lane s = _
  rw [execRdReqReceive, hclk.runFast, htake]
  rfl
/-- What an inbound read leaves as it was. -/
def ReadKeeps (s t : State) : Prop := t.mem = s.mem ∧ t.cc = s.cc ∧ t.dma.xfers = s.dma.xfers ∧ t.slots = s.slots
theorem State.answerRecord_keeps (f : Flit) (s : State) (r : Nat) : ReadKeeps s (s.answerRecord f r) := by
  simp only [State.answerRecord]
  split
  · obtain ⟨e, q, d, l, c, g, h⟩ := s.touch_eq 8 (nfld (recordOf f r) 64 32) (nfld (recordOf f r) 5 6 + 1)
    rw [h]
    have hp := State.respond_portOnly
    exact ⟨(hp ..).mem, (hp ..).cc, by rw [(hp ..).dma], (hp ..).slots⟩
  · have hp := State.respond_portOnly
    exact ⟨(hp ..).mem, (hp ..).cc, by rw [(hp ..).dma], (hp ..).slots⟩
theorem State.answerRecords_keeps (f : Flit) (rs : List Nat) (s : State) : ReadKeeps s (rs.foldl (State.answerRecord f) s) := by
  induction rs generalizing s with
  | nil => exact ⟨rfl, rfl, rfl, rfl⟩
  | cons r rs ih =>
    obtain ⟨hm, hc, hx, hs⟩ := s.answerRecord_keeps f r
    obtain ⟨hm', hc', hx', hs'⟩ := ih (s.answerRecord f r)
    exact ⟨hm'.trans hm, hc'.trans hc, hx'.trans hx, hs'.trans hs⟩

/-! Write packets (R275, R305–R307, R386) -/

/-- The bytes of a write packet, the number that its link word gives. -/
def rwrLen (f : Flit) : Nat := nfld f.link.toNat 4 7 + 1
def rwrBytes (f : Flit) : List Byte := f.pay.take (rwrLen f) ++ List.replicate (rwrLen f - f.pay.length) 0
theorem rwrBytes_length (f : Flit) : (rwrBytes f).length = rwrLen f := by simp [rwrBytes]; omega
theorem rwrBytes_full {f : Flit} (h : rwrLen f ≤ f.pay.length) : rwrBytes f = f.pay.take (rwrLen f) := by
  simp [rwrBytes, Nat.sub_eq_zero_of_le h]

/-- The acknowledgement of a write packet is kept on its lane for the SIGX that follows (R387). -/
def State.rwrKeep (i : Nat) (f : Flit) (slots : List (Nat × Nat)) (s : State) : State :=
  s.setInLane i { s.inLane i with held := some (linkEp f.link, hfld f.hdr 108 20, hfld f.hdr 0 48, slots) }
/-- The acknowledgement of a write packet is sent. -/
def State.rwrAnswer (f : Flit) (st : Nat) (slots : List (Nat × Nat)) (s : State) : State :=
  s.respond (linkEp f.link) (hfld f.hdr 108 20) st slots []
/-- The end of a write packet of a status. -/
def State.rwrEnd (i : Nat) (f : Flit) (st : Nat) (slots : List (Nat × Nat)) (s : State) : State :=
  if f.link.getLsbD 13 && decide (st = 0) then s.rwrKeep i f slots else s.rwrAnswer f st slots
theorem State.rwrEnd_portOnly (i : Nat) (f : Flit) (st : Nat) (slots : List (Nat × Nat)) (s : State) : PortOnly s (s.rwrEnd i f st slots) := by
  simp only [State.rwrEnd]
  split
  exacts [s.setInLane_portOnly _ _, s.respond_portOnly _ _ _ _ _]

/-- The window's part of a write packet: its status and the state that it leaves. -/
def State.rwrWrite (f : Flit) (s : State) : Nat × State := s.windowWrite (hfld f.hdr 76 32) (rwrBytes f) (f.link.getLsbD 12)
/-- The slots that acknowledge a write packet. -/
def State.rwrSlots (f : Flit) (s : State) : List (Nat × Nat) × State := s.ackSlots (hfld f.hdr 50 26) (rwrLen f)

/-- The inbound entry for a signalled packet of a sender's stream: the open one, else a free one. -/
def State.rwrSeat (s : State) (f : Flit) : Option (Nat × Inbound) :=
  if !f.link.getLsbD 11 || s.fenced then none
  else
    match s.ledgerOf (linkEp f.link) (hfld f.hdr 108 20) with
    | some p => some p
    | none => s.freeInbound.map fun n => (n, ⟨linkEp f.link, hfld f.hdr 108 20, hfld f.hdr 0 48, 0, none, []⟩)
/-- Bytes written are added to a ledger, which is abandoned when they pass its count (R307). -/
def State.addBytes (n : Nat) (i : Inbound) (len : Nat) (s : State) : State :=
  let s' := s.setStream n (.inbound { i with ledger := i.ledger + len })
  if i.bytes < i.ledger + len then s'.abandon n { i with ledger := i.ledger + len } else s'
/-- The ledger's part of a write packet of a status. -/
def State.rwrCount (seat : Option (Nat × Inbound)) (f : Flit) (st : Nat) (s : State) : State :=
  match seat with
  | some (n, i) => s.addBytes n i (if st = 0 then rwrLen f else 0)
  | none => s

/-- A write packet in state s, s0 being the state with the flit still on its lane: a packet that is all signal, one that finds
no inbound entry, or one that is written. -/
def State.rwrStep (s0 : State) (i : Nat) (f : Flit) (s : State) : State :=
  if f.link.getLsbD 11 && decide (hfld f.hdr 0 48 = 0) then
    (if f.link.getLsbD 13 then s.rwrKeep i f [(64 * hfld f.hdr 50 26, rwrLen f)] else s.rwrAnswer f 0 [(64 * hfld f.hdr 50 26, rwrLen f)])
  else if f.link.getLsbD 11 && !s.fenced && (s.rwrSeat f).isNone then s0
  else
    let w := s.rwrWrite f
    let k := w.2.rwrSlots f
    (k.2.rwrCount (s.rwrSeat f) f w.1).rwrEnd i f w.1 k.1
/-- RWR_RECEIVE is the packet's step on the lane without it. -/
theorem exec_rwrReceive {lane : BitVec 3} {f : Flit} {s u : State} (h : s.Receives lane.toNat 3 f u) :
    exec (.rwrReceive lane) s = .next (s.rwrStep lane.toNat f u) := by
  obtain ⟨hclk, htake⟩ := h
  change execRwrReceive lane s = _
  rw [execRwrReceive, hclk.runFast, htake]
  rfl

/-- A write packet that the window serves has stored its bytes and no others, poisoned when the packet is (R255, R386). -/
structure Written (f : Flit) (s t : State) : Prop where
  accessed : Accessed s t
  outside : SameMemOutside (hfld f.hdr 76 32) (rwrLen f) s t
  bytes : t.bytes (hfld f.hdr 76 32) (rwrLen f) = rwrBytes f
  poisoned : f.link.getLsbD 12 = true → ∀ k, k < rwrLen f → t.poisonedAt (hfld f.hdr 76 32 + k) = true
theorem Written.portOnly {f : Flit} {s t t' : State} (h : Written f s t) (hp : PortOnly t t') : Written f s t' where
  accessed := h.accessed.trans hp.accessed
  outside := fun x hx => (hp.byte x).trans (h.outside x hx)
  bytes := (State.bytes_congr t t' _ _ fun i _ => hp.byte _).trans h.bytes
  poisoned := fun hf k hk => by rw [State.poisonedAt, hp.eccBad]; exact h.poisoned hf k hk
theorem PortOnly.written {f : Flit} {s u t : State} (hp : PortOnly s u) (h : Written f u t) : Written f s t where
  accessed := hp.accessed.trans h.accessed
  outside := fun x hx => (h.outside x hx).trans (hp.byte x)
  bytes := h.bytes
  poisoned := h.poisoned

theorem mem_poison_fold (as l : List Nat) : (∀ e ∈ l, e ∈ as.foldl (fun l a => if l.contains (eccBase a) then l else l ++ [eccBase a]) l) ∧
    ∀ a ∈ as, eccBase a ∈ as.foldl (fun l a => if l.contains (eccBase a) then l else l ++ [eccBase a]) l := by
  induction as generalizing l with
  | nil => simp
  | cons a as ih =>
    obtain ⟨hkeep, hnew⟩ := ih (if l.contains (eccBase a) then l else l ++ [eccBase a])
    have hin : eccBase a ∈ (if l.contains (eccBase a) then l else l ++ [eccBase a]) := by
      split <;> simp_all
    refine ⟨fun e he => hkeep e ?_, fun b hb => ?_⟩
    · split
      exacts [he, List.mem_append_left _ he]
    · obtain rfl | hb := List.mem_cons.mp hb
      exacts [hkeep _ hin, hnew b hb]
/-- Every byte of a list lies in a poisoned word once the list is poisoned. -/
theorem State.poisonBytes_poisonedAt {as : List Nat} {a : Nat} (h : a ∈ as) (s : State) : (s.poisonBytes as).poisonedAt a = true := by
  simpa [State.poisonedAt, State.poisonBytes] using (mem_poison_fold as s.eccBad).2 a h

theorem State.poisonBytes_bytes (as : List Nat) (a n : Nat) (s : State) : (s.poisonBytes as).bytes a n = s.bytes a n :=
  State.bytes_congr _ _ _ _ fun _ _ => rfl
theorem State.windowWrite_served {a : Nat} {bs : List Byte} {s : State} (p : Bool) (h : s.windowServes true a bs.length = true) :
    s.windowWrite a bs p = (0, if p then (s.write 8 a bs).poisonBytes ((List.range bs.length).map fun i => a + i) else s.write 8 a bs) := by
  rw [State.windowWrite, if_pos h]
theorem State.rwrWrite_served {f : Flit} {s : State} (h : s.windowServes true (hfld f.hdr 76 32) (rwrLen f) = true) :
    (s.rwrWrite f).1 = 0 ∧ Written f s (s.rwrWrite f).2 := by
  have hlen := rwrBytes_length f
  have hw := s.write_accessed 8 (hfld f.hdr 76 32) (rwrBytes f)
  have hout : SameMemOutside (hfld f.hdr 76 32) (rwrLen f) s (s.write 8 (hfld f.hdr 76 32) (rwrBytes f)) := fun x hx =>
    State.write_outside 8 _ x _ s (by rwa [hlen])
  have hbytes := State.bytes_write 8 (hfld f.hdr 76 32) (rwrBytes f) s
  rw [hlen] at hbytes
  rw [State.rwrWrite, State.windowWrite_served _ (by rwa [hlen]), hlen]
  refine ⟨rfl, ?_⟩
  cases hp : f.link.getLsbD 12 with
  | false => exact ⟨hw, hout, hbytes, fun hf => absurd (hp.symm.trans hf) (by decide)⟩
  | true =>
    exact ⟨hw.trans (State.poisonBytes_accessed _ _), hout, (State.poisonBytes_bytes _ _ _ _).trans hbytes,
      fun _ k hk => State.poisonBytes_poisonedAt (List.mem_map_of_mem (List.mem_range.mpr hk)) _⟩
theorem State.rwrWrite_refused {f : Flit} {s : State} (h : s.windowServes true (hfld f.hdr 76 32) (rwrLen f) = false) :
    Accessed s (s.rwrWrite f).2 ∧ (s.rwrWrite f).2.mem = s.mem ∧ (s.rwrWrite f).2.cc = s.cc := by
  simp only [State.rwrWrite, State.windowWrite, rwrBytes_length, h, Bool.false_eq_true, if_false]
  split
  · split
    exacts [⟨s.raise_accessed _, by simp, by simp⟩, ⟨Accessed.refl s, rfl, rfl⟩]
  · exact ⟨Accessed.refl s, rfl, rfl⟩

/-! Ledgers (R306, R307) -/

theorem State.setStream_stream (n m : Nat) (v : StreamUse) (s : State) : (s.setStream n v).stream m = if m = n then v else s.stream m :=
  Tab.get_set StreamUse.free s.dma.streams n m v

theorem State.setStream_ctr (n o : Nat) (v : StreamUse) (s : State) : (s.setStream n v).ctr o = s.ctr o := rfl
theorem State.setStream_frozen (n o : Nat) (v : StreamUse) (s : State) : (s.setStream n v).frozen o = s.frozen o := rfl

/-- An abandoned ledger's entry is free, the error logged and counted; nothing else changes (R307). -/
theorem State.abandon_stream (n m : Nat) (i : Inbound) (s : State) : (s.abandon n i).stream m = if m = n then .free else s.stream m := by
  rw [← State.setStream_stream, State.stream, State.stream, State.abandon, State.count_dma, State.raise_dma]
theorem State.abandon_mem (n : Nat) (i : Inbound) (s : State) : (s.abandon n i).mem = s.mem := by simp [State.abandon, State.setStream]
theorem State.abandon_cc (n : Nat) (i : Inbound) (s : State) : (s.abandon n i).cc = s.cc := by simp [State.abandon, State.setStream]
theorem State.abandon_regs (n : Nat) (i : Inbound) (s : State) : SameRegsBut [0x04000] s (s.abandon n i) := fun o ho => by
  rw [State.abandon, State.count_reg, State.raise_reg, if_neg (by simpa using ho)]
  rfl
theorem State.abandon_errs (n : Nat) (i : Inbound) {s : State} (h : s.logs.errs.length < 512) : ∃ e, (s.abandon n i).logs.errs =
    s.logs.errs ++ [e] ∧ e.code = 0x2006 ∧ e.d0 = w32 i.ep ∧ e.d1 = w32 i.stream ∧ e.d2 = w32 i.ledger := by
  rw [State.abandon, State.count_logs, State.raise_errs _ (s.setStream n .free) h]
  exact ⟨_, rfl, rfl, rfl, rfl, rfl⟩
theorem State.abandon_ctr (n : Nat) (i : Inbound) (s : State) :
    (s.abandon n i).ctr 0x60350 = if s.frozen 0x60350 then s.ctr 0x60350 else s.ctr 0x60350 + 1 := by
  have hr := State.raise_accessed { code := 0x2006, unit := 10, d0 := w32 i.ep, d1 := w32 i.stream, d2 := w32 i.ledger } (s.setStream n .free)
  have hfrozen := hr.frozen (o := 0x60350) (c := 0x60060) (by decide) (by decide)
  rw [State.abandon, State.count_one, hr.ctrs _ (by decide), hfrozen]
  rfl

theorem State.addBytes_mem (n : Nat) (i : Inbound) (len : Nat) (s : State) : (s.addBytes n i len).mem = s.mem := by
  simp only [State.addBytes]
  split
  exacts [State.abandon_mem _ _ _, rfl]
/-- While a ledger's bytes do not pass its count, it holds them. -/
theorem State.addBytes_fits {n : Nat} {i : Inbound} {len : Nat} (h : i.ledger + len ≤ i.bytes) (s : State) :
    s.addBytes n i len = s.setStream n (.inbound { i with ledger := i.ledger + len }) := if_neg (by omega)
theorem State.addBytes_over {n : Nat} {i : Inbound} {len : Nat} (h : i.bytes < i.ledger + len) (s : State) :
    s.addBytes n i len = (s.setStream n (.inbound { i with ledger := i.ledger + len })).abandon n { i with ledger := i.ledger + len } := if_pos h

section
variable {lane : BitVec 3} {f : Flit} {s u : State} (h : s.Receives lane.toNat 3 f u)
include h

/-- A packet with no signal is written and answered, and no ledger changes. -/
theorem exec_rwrReceive_plain (hsig : f.link.getLsbD 11 = false) :
    ∃ t, exec (.rwrReceive lane) s = .next t ∧ PortOnly (u.rwrWrite f).2 t := by
  refine ⟨_, exec_rwrReceive h, ?_⟩
  have hseat : u.rwrSeat f = none := by rw [State.rwrSeat, hsig]; rfl
  rw [State.rwrStep, hsig, hseat]
  exact (State.ackSlots_portOnly _ _ _).trans (State.rwrEnd_portOnly _ _ _ _ _)
/-- A packet of no bytes but a signal changes no memory (R305). -/
theorem exec_rwrReceive_signalOnly (hsig : f.link.getLsbD 11 = true) (htot : hfld f.hdr 0 48 = 0) :
    ∃ t, exec (.rwrReceive lane) s = .next t ∧ PortOnly u t ∧ (f.link.getLsbD 13 = true →
      (t.inLane lane.toNat).held = some (linkEp f.link, hfld f.hdr 108 20, 0, [(64 * hfld f.hdr 50 26, rwrLen f)])) := by
  refine ⟨_, exec_rwrReceive h, ?_⟩
  rw [State.rwrStep, if_pos (by rw [hsig, htot]; rfl)]
  split
  · refine ⟨u.setInLane_portOnly _ _, fun _ => ?_⟩
    rw [State.rwrKeep, State.inLane, State.setInLane, Tab.get_set_same, htot]
  · exact ⟨u.respond_portOnly _ _ _ _ _, fun hc => absurd hc (by assumption)⟩

/-- A signalled packet that finds no inbound entry waits in the port (R306). -/
theorem exec_rwrReceive_waits (hsig : f.link.getLsbD 11 = true) (htot : hfld f.hdr 0 48 ≠ 0) (hf : u.fenced = false) (hseat : u.rwrSeat f = none) : exec (.rwrReceive lane) s = .next s := by
  rw [exec_rwrReceive h, State.rwrStep, if_neg (by simp [htot]), if_pos (by rw [hsig, hf, hseat]; rfl)]
/-- A signalled packet is written and its bytes counted in its ledger. -/
theorem exec_rwrReceive_seated (htot : hfld f.hdr 0 48 ≠ 0) (hw : u.windowServes true (hfld f.hdr 76 32) (rwrLen f) = true) {n : Nat} {i : Inbound}
    (hseat : u.rwrSeat f = some (n, i)) :
    ∃ v t, Written f u v ∧ exec (.rwrReceive lane) s = .next t ∧ PortOnly (v.addBytes n i (rwrLen f)) t := by
  obtain ⟨hst, hwritten⟩ := State.rwrWrite_served hw
  refine ⟨((u.rwrWrite f).2.rwrSlots f).2, _, hwritten.portOnly (State.ackSlots_portOnly _ _ _), exec_rwrReceive h, ?_⟩
  rw [State.rwrStep, if_neg (by simp [htot]), if_neg (by rw [hseat]; simp)]
  dsimp only
  rw [hst, hseat]
  exact State.rwrEnd_portOnly _ _ _ _ _
end

/-! Signals (R305, R306, R387) -/

/-- The signal of a complete ledger frees the entry, is applied to a word that takes it, and is acknowledged (R306). -/
theorem State.ledgerApply_complete {n op a : Nat} {i : Inbound} {v : Word} {s : State} {sem : Bool} {c : Word} (hfull : i.ledger = i.bytes)
    (hsig : i.sig = some (op, v, a)) (hf : s.fenced = false) (h1 : s.wordChk a = none) (h2 : s.readWord a op = .ok sem c) :
    SyncDone (s.setStream n .free) (s.ledgerApply n i) a (newCount op sem c v).1 := by
  have h : s.ledgerApply n i =
      ((s.setStream n .free).syncApply op a v 1 (syncFrom i.stream)).2.respond i.ep i.stream 0 i.ack [] := by
    have hok : (((s.setStream n .free).wordChk a).isNone && (!(s.setStream n .free).fenced || (s.setStream n .free).inRings a 8)) = true := by
      change ((s.wordChk a).isNone && (!s.fenced || s.inRings a 8)) = true
      rw [h1, hf]
      rfl
    simp only [State.ledgerApply, hsig, hfull, hok, ne_eq, not_true, if_false, if_true]
  rw [h]
  exact State.syncApply_respond op a v 1 _ _ _ _ _ _ _ h1 h2
/-- A ledger with bytes to come, or without its signal, stays (R306). -/
theorem State.ledgerApply_waits {n : Nat} {i : Inbound} (s : State) (h : i.ledger ≠ i.bytes ∨ i.sig = none) : s.ledgerApply n i = s := by
  simp only [State.ledgerApply]
  split
  · rfl
  · next hsig => exact if_pos (h.resolve_right (by simp [hsig]))

theorem exec_ledgerSignalApply {n : Nat} {i : Inbound} {s : State} (hclk : s.Clocked) (hi : s.stream n = .inbound i) :
    exec (.ledgerSignalApply n) s = .next (s.ledgerApply n i) := by
  change execLedgerSignalApply n s = _
  rw [execLedgerSignalApply, hclk.runFast, hi]
theorem exec_ledgerAbandoned {n : Nat} {i : Inbound} {s : State} (hclk : s.Clocked) (hi : s.stream n = .inbound i) :
    exec (.ledgerAbandoned n) s = .next (s.abandon n i) := by
  change execLedgerAbandoned n s = _
  rw [execLedgerAbandoned, hclk.runFast, hi]

section
variable {lane : BitVec 3} {f : Flit} {s u : State} {ep stream total : Nat} {slots : List (Nat × Nat)}
  (h : s.Receives lane.toNat 4 f u) (hheld : (u.inLane lane.toNat).held = some (ep, stream, total, slots))
include h hheld

/-- The signal of a packet without bytes is applied at once, where the word takes signals (R305). -/
theorem exec_sigxReceive_noBytes (htot : total = 0) (hf : u.fenced = false) (h1 : u.wordChk (hfld f.hdr 60 32) = none) :
    ∃ v, PortOnly u v ∧ exec (.sigxReceive lane) s = .next ((v.syncApply (hfld f.hdr 124 4) (hfld f.hdr 60 32)
      (w32 (hfld f.hdr 92 32)) 1 (syncFrom stream)).2.respond ep stream 0 slots []) := by
  obtain ⟨hclk, htake⟩ := h
  have hp := u.setInLane_portOnly lane.toNat { u.inLane lane.toNat with held := none }
  refine ⟨_, hp, ?_⟩
  have hok := hp.wordChk (hfld f.hdr 60 32)
  rw [h1] at hok
  change execSigxReceive lane s = _
  rw [execSigxReceive, hclk.runFast, htake]
  simp only [hheld, htot, hok, hp.fenced, hf]
  rfl
/-- The signal of a packet with bytes goes to its ledger: applied when that is complete, else it waits there (R306). -/
theorem exec_sigxReceive_ledger (htot : total ≠ 0) {k : Nat} {i : Inbound} (hl : u.ledgerOf ep stream = some (k, i)) :
    ∃ v i', PortOnly u v ∧ i' = { i with sig := some (hfld f.hdr 124 4, w32 (hfld f.hdr 92 32), hfld f.hdr 60 32), ack := slots } ∧
      exec (.sigxReceive lane) s = .next (if i.ledger = i.bytes then (v.setStream k (.inbound i')).ledgerApply k i'
        else (v.setStream k (.inbound i')).count 0x60308 1) := by
  obtain ⟨hclk, htake⟩ := h
  have hp := u.setInLane_portOnly lane.toNat { u.inLane lane.toNat with held := none }
  refine ⟨_, _, hp, rfl, ?_⟩
  change execSigxReceive lane s = _
  rw [execSigxReceive, hclk.runFast, htake]
  simp only [hheld, htot, hp.ledgerOf, hl]
  rfl
end

/-! SYNC and BAR flits (R310, R391) -/

section
variable {lane : BitVec 3} {f : Flit} {s u : State}

theorem exec_syncFlitReceive_refused (h : s.Receives lane.toNat 6 f u)
    (hbad : ((u.wordChk (hfld f.hdr 28 64)).isSome || (u.fenced && !u.inRings (hfld f.hdr 28 64) 8)) = true) :
    exec (.syncFlitReceive lane) s = .next (u.respond (linkEp f.link) (hfld f.hdr 8 20) 4 [(0, 8)] []) := by
  obtain ⟨hclk, htake⟩ := h
  change execSyncFlitReceive lane s = _
  rw [execSyncFlitReceive, hclk.runFast, htake]
  exact congrArg _ (if_pos hbad)
theorem exec_syncFlitReceive_taken (h : s.Receives lane.toNat 6 f u) (h1 : u.wordChk (hfld f.hdr 28 64) = none) (hf : u.fenced = false) :
    ∃ data, exec (.syncFlitReceive lane) s = .next ((u.syncApply (hfld f.hdr 124 4) (hfld f.hdr 28 64) (w32 (hfld f.hdr 92 32)) 2
      (syncFrom (hfld f.hdr 8 20))).2.respond (linkEp f.link) (hfld f.hdr 8 20) 0 [(0, 8)] data) := by
  obtain ⟨hclk, htake⟩ := h
  change ∃ data, execSyncFlitReceive lane s = _
  rw [execSyncFlitReceive, hclk.runFast, htake]
  exact ⟨_, congrArg _ (if_neg (by rw [h1, hf]; simp))⟩
theorem exec_barFlitReceive (h : s.Receives lane.toNat 7 f u) : exec (.barFlitReceive lane) s =
    .next (if !u.fenced then u.release (hfld f.hdr 124 4) (w32 (hfld f.hdr 92 32)) else u) := by
  obtain ⟨hclk, htake⟩ := h
  change execBarFlitReceive lane s = _
  rw [execBarFlitReceive, hclk.runFast, htake]
end

/-! An access to good words logs nothing -/

/-- The tiers lie below 0x06000000 (R29). -/
theorem State.space_tier_bound {a : Nat} {s : State} (h : s.space a = some .near ∨ s.space a = some .stacked) : a ≤ 0x05FFFFFF := by
  by_contra hlt
  simp only [State.space, show ¬a ≤ 0x00FFFFFF by omega, hlt, if_false] at h
  repeat' split at h
  all_goals simp at h
/-- A sync word lies in the near or the stacked tier, with all its bytes (R292). -/
theorem State.wordChk_bound {a : Nat} {s : State} (h : s.wordChk a = none) : a + 8 ≤ 0x06000000 := by
  have hal : a ≤ 0x05FFFFFF ∧ a % 8 = 0 := by
    simp only [State.wordChk] at h
    split at h
    · next hs => exact ⟨State.space_tier_bound (.inl hs), by_contra fun hne => by simp [hne, operandInvalid] at h⟩
    · next hs => exact ⟨State.space_tier_bound (.inr hs), by_contra fun hne => by simp [hne, operandInvalid] at h⟩
    · cases h
  omega
theorem State.readWord_clean {a op : Nat} {sem : Bool} {c : Word} {s : State} (h : s.readWord a op = .ok sem c) : s.poisonedIn a 8 = false := by
  simp only [State.readWord] at h
  split at h
  · cases h
  · next hp => simpa using hp
theorem State.no_bad_overlap {a n : Nat} {s : State} (hn : 0 < n) (h : s.poisonedIn a n = false) : ∀ e ∈ s.eccBad, eccOverlap e a n = false := by
  simp only [State.poisonedIn, List.any_eq_false, hn, decide_true, Bool.and_true] at h
  exact fun e he => Bool.eq_false_iff.mpr (h e he)
theorem foldl_count_eq {α : Type} (off : α → Nat) (l : List α) (s : State) :
    ∃ c, l.foldl (fun s e => s.count (off e) 1) s = { s with ctrs := c } := by
  induction l generalizing s with
  | nil => exact ⟨s.ctrs, rfl⟩
  | cons e l ih =>
    obtain ⟨c, h⟩ := State.count_eq (off e) 1 s
    obtain ⟨c', h'⟩ := ih (s.count (off e) 1)
    exact ⟨c', by rw [List.foldl_cons, h', h]⟩
/-- A read of good words outside the accumulators changes no register. -/
theorem State.touchBy_regs (r : Reader) {a n : Nat} {s : State} (h : s.poisonedIn a n = false) (ha : a + n ≤ 0x08000000) :
    (s.touchBy r a n).regs = s.regs := by
  by_cases hn : n = 0
  · rw [State.touchBy, if_pos hn]
  have hbad : s.eccBad.filter (fun e => eccOverlap e a n) = [] := by
    simpa [List.filter_eq_nil_iff] using State.no_bad_overlap (by omega) h
  have hecc : (s.eccCheck r a n).regs = s.regs := by
    obtain ⟨c, hc⟩ := foldl_count_eq eccCorrCtr (s.eccCorr.filter fun e => eccOverlap e a n)
      { s with eccCorr := s.eccCorr.filter fun e => !eccOverlap e a n }
    simp only [State.eccCheck, hbad, List.foldl_nil, hc]
  have hacc : (s.eccCheck r a n).accCheck a n = s.eccCheck r a n := by
    have : (s.eccCheck r a n).parBad.filter (fun e => isAcc e && decide (e < a + n) && decide (a < e + 4)) = [] := by
      simp only [List.filter_eq_nil_iff, isAcc, Bool.and_eq_true, decide_eq_true_eq]
      omega
    rw [State.accCheck, this]
    rfl
  obtain ⟨d, c, hpf⟩ := State.pfRead_eq r.req a n (s.eccCheck r a n)
  rw [State.touchBy, if_neg hn, hacc, hpf]
  exact hecc
/-- A write of good words changes no register. -/
theorem State.write_regs (r a : Nat) (bs : List Byte) {s : State} (h : s.poisonedIn a bs.length = false) : (s.write r a bs).regs = s.regs := by
  simp only [State.write]
  split
  · rfl
  · next hne =>
    have hbad : s.eccBad.filter (fun e => eccOverlap e a bs.length && !eccCovers e a bs.length) = [] := by
      simp only [List.filter_eq_nil_iff, Bool.and_eq_true, not_and]
      exact fun e he ho => absurd (State.no_bad_overlap (List.length_pos_iff.mpr hne) h e he) (by simp [ho])
    have hpart : (s.partCheck r a bs.length).regs = s.regs := by
      obtain ⟨c, hc⟩ := foldl_count_eq eccCorrCtr (s.eccCorr.filter fun e => eccOverlap e a bs.length && !eccCovers e a bs.length) s
      simp only [State.partCheck, hc, hbad, List.foldl_nil]
    obtain ⟨d, c, hpf⟩ := State.pfWrite_eq a bs.length _
    rw [hpf]
    exact hpart

theorem State.touchBy_eccBad (r : Reader) (a n : Nat) (s : State) : (s.touchBy r a n).eccBad = s.eccBad := by
  obtain ⟨e, q, d, l, c, g, h⟩ := s.touchBy_eq r a n
  rw [h]
theorem State.putCount_regs {a : Nat} (sem : Bool) (w : Word) {s : State} (h : s.poisonedIn a 8 = false) : (s.putCount a sem w).regs = s.regs := by
  rw [State.putCount, State.count_regs]
  exact State.write_regs 11 a _ (by rwa [leBytes_length])

theorem State.putCount_queues (a : Nat) (sem : Bool) (w : Word) (s : State) : (s.putCount a sem w).cc.queues = s.cc.queues := by
  rw [State.putCount, State.count_cc]
  exact (State.write_accessed 11 a _ s).queues
/-- The COUNT that an operation reads is the low word. -/
theorem State.readWord_count {a op : Nat} {sem : Bool} {c : Word} {s : State} (h : s.readWord a op = .ok sem c) : s.word a = c := by
  rw [State.word_eq_lo]
  simp only [State.readWord] at h
  split at h
  · cases h
  split at h
  · cases h
  split at h
  · cases h
  split at h
  · exact (WordRead.ok.inj h).2
  · cases h

/-- The release word after release(g): its read, and g + 1 where that is ahead. -/
def State.releaseWord (a : Nat) (g c : Word) (s : State) : State :=
  if decide (0 < signed32 (g + 1 - c)) then (s.touchBy syncUnit a 8).putCount a false (g + 1) else s.touchBy syncUnit a 8
/-- An arrival of context b that the release word has passed is no longer outstanding (R308). -/
def State.settleArrival (b : Nat) (now : Word) (s : State) : State :=
  match Tab.get none s.sync.arrived b with
  | some k => if reached now (k + 1) then { s with sync := { s.sync with arrived := s.sync.arrived.erase b } } else s
  | none => s
theorem State.settleArrival_eq (b : Nat) (now : Word) (s : State) : ∃ y, s.settleArrival b now = { s with sync := y } := by
  simp only [State.settleArrival]
  split
  · split
    exacts [⟨_, rfl⟩, ⟨s.sync, rfl⟩]
  · exact ⟨s.sync, rfl⟩
theorem State.release_taken {b : Nat} {g : Word} {s : State} {c : Word} (h1 : s.wordChk (s.releaseAddr b) = none)
    (h2 : s.readWord (s.releaseAddr b) 6 = .ok false c) : s.release b g =
    ((s.releaseWord (s.releaseAddr b) g c).blotter 7 4 0 g).settleArrival b (if decide (0 < signed32 (g + 1 - c)) then g + 1 else c) := by
  simp only [State.release, h1, h2]
  rfl
/-- release(g) moves the release word forward to g + 1 and never back (R310). -/
theorem State.release_spec {b : Nat} {g : Word} {s : State} {c : Word} (h1 : s.wordChk (s.releaseAddr b) = none)
    (h2 : s.readWord (s.releaseAddr b) 6 = .ok false c) :
    (s.release b g).word (s.releaseAddr b) = (if 0 < signed32 (g + 1 - c) then g + 1 else c) ∧
      SameMemOutside (s.releaseAddr b) 8 s (s.release b g) ∧ (s.release b g).regs = s.regs ∧ (s.release b g).cc.queues = s.cc.queues := by
  have hclean := State.readWord_clean h2
  have htouch := State.touchBy_regs syncUnit hclean (by have := State.wordChk_bound h1; omega)
  have hq := (s.touchBy_accessed syncUnit (s.releaseAddr b) 8).queues
  have hclean' : (s.touchBy syncUnit (s.releaseAddr b) 8).poisonedIn (s.releaseAddr b) 8 = false := by
    rw [State.poisonedIn, State.touchBy_eccBad]
    exact hclean
  obtain ⟨y, hy⟩ := State.settleArrival_eq b (if decide (0 < signed32 (g + 1 - c)) then g + 1 else c)
    ((s.releaseWord (s.releaseAddr b) g c).blotter 7 4 0 g)
  rw [← State.release_taken h1 h2] at hy
  have hbyte : ∀ x, (s.release b g).byte x = (s.releaseWord (s.releaseAddr b) g c).byte x := fun x => by
    rw [hy, State.byte, State.byte]
    simp
  rw [State.word_of_byte _ _ _ hbyte, show (s.release b g).regs = (s.releaseWord (s.releaseAddr b) g c).regs by simp [hy],
    show (s.release b g).cc = (s.releaseWord (s.releaseAddr b) g c).cc by simp [hy]]
  simp only [SameMemOutside, hbyte, State.releaseWord, decide_eq_true_eq]
  by_cases hup : 0 < signed32 (g + 1 - c)
  · simp only [hup, if_true]
    exact ⟨State.putCount_word _ _ _ _, fun x hx => by rw [State.putCount_outside _ _ _ _ _ hx, State.touchBy_byte],
      (State.putCount_regs _ _ hclean').trans htouch, (State.putCount_queues _ _ _ _).trans hq⟩
  · simp only [hup, if_false]
    exact ⟨(State.word_of_byte s _ _ (by simp)).trans (State.readWord_count h2), fun x _ => by simp, htouch, hq⟩

/-! Acknowledgements (R386) -/

/-- The slots of an acknowledgement cover the packet's bytes. -/
theorem State.ackSlots_sum {e len : Nat} (s : State) (h : 0 < len) (hmax : len ≤ 128) : ((s.ackSlots e len).1.map Prod.snd).sum = len := by
  simp only [State.ackSlots]
  split
  · split
    · simp
    · have := Nat.mod_lt (Config.ackSplit s.freeCtr len) (show 0 < min 64 len + 1 - max 1 (len - 64) by omega)
      simp
      omega
  · simp
/-- A full packet of 128 bytes is acknowledged as two source lines of 64. -/
theorem State.ackSlots_full {e : Nat} {s : State} (hg : s.sys.straps.portGen = true) (he : e % 2 = 0) :
    (s.ackSlots e 128).1 = [(64 * e, 64), (64 * e + 64, 64)] := by
  simp [State.ackSlots, hg, he, Nat.mod_one]

/-! The packets of a remote-inbound lane, by what the core then holds -/

/-- Taking a flit from its lane leaves everything but the port. -/
theorem State.Receives.portOnly {i op : Nat} {f : Flit} {s u : State} (h : s.Receives i op f u) : PortOnly s u := by
  obtain ⟨n, rfl⟩ := State.takeRx_eq h.2
  exact s.setInLane_portOnly i n

section
variable {lane : BitVec 3} {f : Flit} {s u : State}

/-- An inbound read changes no memory (R386). -/
theorem rdReqReceive_keeps (h : s.Receives lane.toNat 1 f u) : ∃ t, exec (.rdReqReceive lane) s = .next t ∧ ReadKeeps s t := by
  have hp := h.portOnly
  obtain ⟨hm, hc, hx, hs⟩ := State.answerRecords_keeps f (List.range (hfld f.hdr 124 4)) u
  exact ⟨_, exec_rdReqReceive h, hm.trans hp.mem, hc.trans hp.cc, hx.trans (by rw [hp.dma]), hs.trans hp.slots⟩
theorem rdReqReceive_one (h : s.Receives lane.toNat 1 f u) (hone : hfld f.hdr 124 4 = 1) :
    exec (.rdReqReceive lane) s = .next (u.answerRecord f 0) := by
  rw [exec_rdReqReceive h, hone]
  rfl

section
variable (h : s.Receives lane.toNat 3 f u)
include h

theorem rwrReceive_plain_served (hsig : f.link.getLsbD 11 = false) (hw : s.windowServes true (hfld f.hdr 76 32) (rwrLen f) = true) :
    ∃ t, exec (.rwrReceive lane) s = .next t ∧ Written f s t := by
  obtain ⟨t, ht, hp⟩ := exec_rwrReceive_plain h hsig
  rw [← h.portOnly.windowServes] at hw
  exact ⟨t, ht, h.portOnly.written ((State.rwrWrite_served hw).2.portOnly hp)⟩
theorem rwrReceive_plain_refused (hsig : f.link.getLsbD 11 = false) (hw : s.windowServes true (hfld f.hdr 76 32) (rwrLen f) = false) :
    ∃ t, exec (.rwrReceive lane) s = .next t ∧ Accessed s t ∧ t.mem = s.mem ∧ t.cc = s.cc := by
  obtain ⟨t, ht, hp⟩ := exec_rwrReceive_plain h hsig
  have hu := h.portOnly
  rw [← hu.windowServes] at hw
  obtain ⟨hacc, hmem, hcc⟩ := State.rwrWrite_refused hw
  exact ⟨t, ht, (hu.accessed.trans hacc).trans hp.accessed, hp.mem.trans (hmem.trans hu.mem), hp.cc.trans (hcc.trans hu.cc)⟩

section
variable (hsig : f.link.getLsbD 11 = true) (hf : s.fenced = false)
include hsig hf

/-- A signalled packet goes to the open ledger of its stream, else to a free entry (R275). -/
theorem rwrSeat_open {n : Nat} {i : Inbound} (hl : s.ledgerOf (linkEp f.link) (hfld f.hdr 108 20) = some (n, i)) : u.rwrSeat f = some (n, i) := by
  rw [State.rwrSeat, hsig, h.portOnly.fenced, hf, h.portOnly.ledgerOf, hl]
  rfl
theorem rwrSeat_new (hl : s.ledgerOf (linkEp f.link) (hfld f.hdr 108 20) = none) : u.rwrSeat f =
    s.freeInbound.map fun n => (n, ⟨linkEp f.link, hfld f.hdr 108 20, hfld f.hdr 0 48, 0, none, []⟩) := by
  rw [State.rwrSeat, hsig, h.portOnly.fenced, hf, h.portOnly.ledgerOf, hl, h.portOnly.freeInbound]
  rfl
end

/-- A signalled packet that the window serves is written, and its bytes are added to its ledger (R306). -/
theorem rwrReceive_seated (htot : hfld f.hdr 0 48 ≠ 0) (hw : s.windowServes true (hfld f.hdr 76 32) (rwrLen f) = true) {n : Nat} {i : Inbound}
    (hseat : u.rwrSeat f = some (n, i)) :
    ∃ v t, Written f s v ∧ exec (.rwrReceive lane) s = .next t ∧ PortOnly (v.addBytes n i (rwrLen f)) t := by
  rw [← h.portOnly.windowServes] at hw
  obtain ⟨v, t, hv, ht, hp⟩ := exec_rwrReceive_seated h htot hw hseat
  exact ⟨v, t, h.portOnly.written hv, ht, hp⟩
end

theorem Written.addBytes_outside {f : Flit} {s v t : State} {n len : Nat} {i : Inbound} (hv : Written f s v) (hp : PortOnly (v.addBytes n i len) t) :
    SameMemOutside (hfld f.hdr 76 32) (rwrLen f) s t := fun x hx => by
  rw [hp.byte, State.byte, State.addBytes_mem]
  exact hv.outside x hx
/-- A ledger within its count holds the bytes added, and no other entry changes. -/
theorem Written.addBytes_fits {f : Flit} {s v t : State} {n : Nat} {i : Inbound} (hv : Written f s v) (hp : PortOnly (v.addBytes n i (rwrLen f)) t)
    (h : i.ledger + rwrLen f ≤ i.bytes) (m : Nat) : t.stream m = if m = n then .inbound { i with ledger := i.ledger + rwrLen f } else s.stream m := by
  rw [hp.stream, State.addBytes_fits h, State.setStream_stream, hv.accessed.stream]
/-- A ledger over its count is abandoned, and counted. -/
theorem Written.addBytes_over {f : Flit} {s v t : State} {n : Nat} {i : Inbound} (hv : Written f s v) (hp : PortOnly (v.addBytes n i (rwrLen f)) t)
    (h : i.bytes < i.ledger + rwrLen f) : t.stream n = .free ∧
      t.ctr 0x60350 = if s.frozen 0x60350 then s.ctr 0x60350 else s.ctr 0x60350 + 1 := by
  rw [State.addBytes_over h] at hp
  refine ⟨by rw [hp.stream, State.abandon_stream, if_pos rfl], ?_⟩
  rw [hp.ctr (by decide), State.abandon_ctr, State.setStream_frozen, State.setStream_ctr, hv.accessed.ctrs _ (by decide),
    hv.accessed.frozen (c := 0x60060) (by decide) (by decide)]

section
variable {ep stream total : Nat} {slots : List (Nat × Nat)} (h : s.Receives lane.toNat 4 f u)
  (hheld : (u.inLane lane.toNat).held = some (ep, stream, total, slots))
include h hheld

/-- A signal whose ledger has bytes to come waits in its entry (R306). -/
theorem sigxReceive_waits (htot : total ≠ 0) {k : Nat} {i : Inbound} (hl : s.ledgerOf ep stream = some (k, i)) (hne : i.ledger ≠ i.bytes) :
    ∃ t, exec (.sigxReceive lane) s = .next t ∧
      t.stream k = .inbound { i with sig := some (hfld f.hdr 124 4, w32 (hfld f.hdr 92 32), hfld f.hdr 60 32), ack := slots } ∧
      t.mem = s.mem ∧ t.regs = s.regs ∧ t.ctr 0x60308 = if s.frozen 0x60308 then s.ctr 0x60308 else s.ctr 0x60308 + 1 := by
  rw [← h.portOnly.ledgerOf] at hl
  obtain ⟨v, i', hv, rfl, ht⟩ := exec_sigxReceive_ledger h hheld htot hl
  have hp := h.portOnly.trans hv
  rw [if_neg hne] at ht
  refine ⟨_, ht, ?_, (State.count_mem _ _ _).trans hp.mem, (State.count_regs _ _ _).trans hp.regs, ?_⟩
  · rw [State.stream, State.count_dma, ← State.stream, State.setStream_stream, if_pos rfl]
  · rw [State.count_one, State.setStream_frozen, State.setStream_ctr, hp.ctr (by decide), hp.accessed.frozen (c := 0x60060) (by decide) (by decide)]

section
variable (hf : s.fenced = false) (h1 : s.wordChk (hfld f.hdr 60 32) = none) {sem : Bool} {c : Word}
  (h2 : s.readWord (hfld f.hdr 60 32) (hfld f.hdr 124 4) = .ok sem c)
include hf h1 h2

/-- The signal of a complete ledger is applied to a word that takes it, and frees the entry (R306). -/
theorem sigxReceive_complete (htot : total ≠ 0) {k : Nat} {i : Inbound} (hl : s.ledgerOf ep stream = some (k, i)) (hfull : i.ledger = i.bytes) :
    ∃ t, exec (.sigxReceive lane) s = .next t ∧ t.stream k = .free ∧
      t.word (hfld f.hdr 60 32) = (newCount (hfld f.hdr 124 4) sem c (w32 (hfld f.hdr 92 32))).1 ∧ SameMemOutside (hfld f.hdr 60 32) 8 s t := by
  rw [← h.portOnly.ledgerOf] at hl
  obtain ⟨v, i', hv, hi', ht⟩ := exec_sigxReceive_ledger h hheld htot hl
  have hp := h.portOnly.trans hv
  rw [if_pos hfull] at ht
  rw [← hp.fenced] at hf
  rw [← hp.wordChk] at h1
  rw [← hp.readWord] at h2
  obtain ⟨hword, hout, -, hstreams, -⟩ := State.ledgerApply_complete (n := k) (i := i')
    (s := v.setStream k (.inbound i')) (by rw [hi']; exact hfull) (by rw [hi']) hf h1 h2
  refine ⟨_, ht, ?_, hword, fun x hx => (hout x hx).trans (hp.byte x)⟩
  rw [State.stream, hstreams, ← State.stream, State.setStream_stream, if_pos rfl]
/-- The signal of a packet without bytes is applied to a word that takes it (R305). -/
theorem sigxReceive_noBytes (htot : total = 0) : ∃ t, exec (.sigxReceive lane) s = .next t ∧
    SyncDone s t (hfld f.hdr 60 32) (newCount (hfld f.hdr 124 4) sem c (w32 (hfld f.hdr 92 32))).1 := by
  have hu := h.portOnly
  obtain ⟨v, hv, ht⟩ := exec_sigxReceive_noBytes h hheld htot (hu.fenced.trans hf) ((hu.wordChk _).trans h1)
  have hp := hu.trans hv
  exact ⟨_, ht, hp.syncDone (State.syncApply_respond _ _ _ _ _ _ _ _ _ _ _ ((hp.wordChk _).trans h1) ((hp.readWord _ _).trans h2))⟩
end
end

section
variable (h : s.Receives lane.toNat 6 f u)
include h

/-- A SYNC that the core refuses is only answered (R292, R391). -/
theorem syncFlitReceive_refused (hbad : (s.wordChk (hfld f.hdr 28 64)).isSome = true ∨ (s.fenced = true ∧ s.inRings (hfld f.hdr 28 64) 8 = false)) :
    ∃ t, exec (.syncFlitReceive lane) s = .next t ∧ PortOnly s t := by
  have hu := h.portOnly
  refine ⟨_, exec_syncFlitReceive_refused h ?_, hu.trans (u.respond_portOnly _ _ _ _ _)⟩
  rw [hu.wordChk, hu.fenced, hu.inRings]
  obtain hw | ⟨hf, hr⟩ := hbad
  · rw [hw, Bool.true_or]
  · rw [hf, hr]
    exact Bool.or_true _
/-- A SYNC on a word that takes it is applied (R391). -/
theorem syncFlitReceive_taken (hf : s.fenced = false) (h1 : s.wordChk (hfld f.hdr 28 64) = none) {sem : Bool} {c : Word}
    (h2 : s.readWord (hfld f.hdr 28 64) (hfld f.hdr 124 4) = .ok sem c) : ∃ t, exec (.syncFlitReceive lane) s = .next t ∧
      SyncDone s t (hfld f.hdr 28 64) (newCount (hfld f.hdr 124 4) sem c (w32 (hfld f.hdr 92 32))).1 := by
  have hu := h.portOnly
  obtain ⟨data, ht⟩ := exec_syncFlitReceive_taken h ((hu.wordChk _).trans h1) (hu.fenced.trans hf)
  exact ⟨_, ht, hu.syncDone (State.syncApply_respond _ _ _ _ _ _ _ _ _ _ _ ((hu.wordChk _).trans h1) ((hu.readWord _ _).trans h2))⟩
end

section
variable (h : s.Receives lane.toNat 7 f u)
include h

/-- A fenced core ignores a BAR flit (R343). -/
theorem barFlitReceive_fenced (hf : s.fenced = true) : exec (.barFlitReceive lane) s = .next u := by
  rw [exec_barFlitReceive h, h.portOnly.fenced, hf]
  rfl
/-- A BAR flit releases the generation that it names (R310). -/
theorem barFlitReceive_release (hf : s.fenced = false) {c : Word} (h1 : s.wordChk (s.releaseAddr (hfld f.hdr 124 4)) = none)
    (h2 : s.readWord (s.releaseAddr (hfld f.hdr 124 4)) 6 = .ok false c) : ∃ t, exec (.barFlitReceive lane) s = .next t ∧
      t.word (s.releaseAddr (hfld f.hdr 124 4)) =
        (if 0 < signed32 (w32 (hfld f.hdr 92 32) + 1 - c) then w32 (hfld f.hdr 92 32) + 1 else c) ∧
      SameMemOutside (s.releaseAddr (hfld f.hdr 124 4)) 8 s t ∧ t.regs = s.regs ∧ t.cc.queues = s.cc.queues := by
  have hu := h.portOnly
  obtain ⟨hword, hout, hregs, hq⟩ := State.release_spec (b := hfld f.hdr 124 4) (g := w32 (hfld f.hdr 92 32)) (s := u) (c := c)
    (by rw [hu.releaseAddr, hu.wordChk, h1]) (by rw [hu.releaseAddr, hu.readWord, h2])
  rw [hu.releaseAddr] at hword hout
  refine ⟨u.release (hfld f.hdr 124 4) (w32 (hfld f.hdr 92 32)), ?_, hword, fun x hx => (hout x hx).trans (hu.byte x), hregs.trans hu.regs,
    hq.trans (by rw [hu.cc])⟩
  rw [exec_barFlitReceive h, hu.fenced, hf]
  rfl
end
end

/-- Settles O53: each packet of a remote-inbound lane, by what the core then holds. -/
theorem inboundWritesReadsAndSignals : Obligations.InboundWritesReadsAndSignals := by
  unfold Obligations.InboundWritesReadsAndSignals
  refine ⟨fun lane f s u h => ⟨?keeps, fun hone => ?answer⟩, fun lane f s u h => ⟨fun hsig hw hlen => ?served, fun hsig hw => ?refused,
    fun hsig htot => ?signalOnly, fun hsig htot hf hw => ⟨fun n i hl hfit => ?fits, fun n i hl hover => ?overCount, fun hl hfree => ?waits,
      fun n hl hfree hfit => ?opens⟩⟩,
    fun lane f s u ep stream total slots h hheld => ⟨fun k i htot hl hne => ?sigWaits, fun hop hf h1 h2 => ⟨fun k i htot hl hfull => ?sigLedger, fun htot => ?sigAlone⟩⟩,
    fun n i s hclk hi => ⟨?abandoned, fun hne => ?incomplete, fun op v a sem c hfull hsig hf h1 h2 => ?complete⟩,
    fun lane f s u h => ⟨fun hbad => ?syncRefused, fun sem c h1 hf h2 => ?syncTaken⟩,
    fun e len s hpos hmax => ⟨s.ackSlots_sum hpos hmax, fun hlen hg he => ?slots⟩,
    fun lane f s u h => ⟨fun hf => barFlitReceive_fenced h hf, fun c hf h1 h2 => barFlitReceive_release h hf h1 h2⟩⟩
  case keeps =>
    obtain ⟨t, ht, hm, hc, hx, hs⟩ := rdReqReceive_keeps h
    exact ⟨t, ht, hm, hc, hx, hs⟩
  case answer =>
    have hp := h.portOnly
    rw [rdReqReceive_one h hone]
    refine ⟨fun hw => ?_, fun hw => ?_⟩
    · rw [State.answerRecord_served ((hp.windowServes false _ _).trans hw), hp.poisonedIn, State.bytes_congr s u _ _ (fun i _ => hp.byte _)]
      rfl
    · exact congrArg Host.Outcome.next (State.answerRecord_refused ((hp.windowServes false _ _).trans hw))
  case served =>
    obtain ⟨t, ht, hwr⟩ := rwrReceive_plain_served h hsig hw
    exact ⟨t, ht, hwr.bytes.trans (rwrBytes_full hlen), hwr.outside, hwr.accessed.regs, hwr.accessed.streams, hwr.accessed.slots,
      hwr.accessed.vec, hwr.accessed.queues, hwr.poisoned⟩
  case refused =>
    obtain ⟨t, ht, hacc, hmem, hcc⟩ := rwrReceive_plain_refused h hsig hw
    exact ⟨t, ht, hmem, hacc.streams, hcc, hacc.regs⟩
  case signalOnly =>
    obtain ⟨t, ht, hp, hheld⟩ := exec_rwrReceive_signalOnly h hsig htot
    have hp' := h.portOnly.trans hp
    exact ⟨t, ht, hp'.mem, hp'.dma, hp'.cc, hp'.regs, hheld⟩
  case fits =>
    obtain ⟨v, t, hv, ht, hp⟩ := rwrReceive_seated h htot hw (rwrSeat_open h hsig hf hl)
    have hstream := hv.addBytes_fits hp hfit
    exact ⟨t, ht, (hstream n).trans (if_pos rfl), hv.addBytes_outside hp, fun m hm => (hstream m).trans (if_neg hm)⟩
  case overCount =>
    obtain ⟨v, t, hv, ht, hp⟩ := rwrReceive_seated h htot hw (rwrSeat_open h hsig hf hl)
    obtain ⟨hfree, hctr⟩ := hv.addBytes_over hp hover
    exact ⟨t, ht, hfree, hv.addBytes_outside hp, hctr⟩
  case waits =>
    refine exec_rwrReceive_waits h hsig htot (h.portOnly.fenced.trans hf) ?_
    rw [rwrSeat_new h hsig hf hl, hfree]
    rfl
  case opens =>
    have hseat := rwrSeat_new h hsig hf hl
    rw [hfree] at hseat
    obtain ⟨v, t, hv, ht, hp⟩ := rwrReceive_seated h htot hw hseat
    have hstream := hv.addBytes_fits hp (by rw [Nat.zero_add]; exact hfit) n
    rw [if_pos rfl, Nat.zero_add] at hstream
    exact ⟨t, ht, hstream, hv.addBytes_outside hp⟩
  case sigWaits => exact sigxReceive_waits h hheld htot hl hne
  case sigLedger =>
    rw [← hop] at h2
    obtain ⟨t, ht, hfree, hword, hout⟩ := sigxReceive_complete h hheld hf h1 h2 htot hl hfull
    rw [hop] at hword
    exact ⟨t, ht, hfree, hword, hout⟩
  case sigAlone =>
    rw [← hop] at h2
    obtain ⟨t, ht, hdone⟩ := sigxReceive_noBytes h hheld hf h1 h2 htot
    rw [hop] at hdone
    exact ⟨t, ht, hdone.word, hdone.outside, hdone.streams⟩
  case abandoned =>
    exact ⟨_, exec_ledgerAbandoned hclk hi, (s.abandon_stream n n i).trans (if_pos rfl), fun m hm => (s.abandon_stream n m i).trans (if_neg hm),
      s.abandon_errs n i, s.abandon_ctr n i, s.abandon_mem n i, s.abandon_cc n i, s.abandon_regs n i⟩
  case incomplete => rw [exec_ledgerSignalApply hclk hi, s.ledgerApply_waits hne]
  case complete =>
    have hdone := State.ledgerApply_complete (n := n) hfull hsig hf h1 h2
    refine ⟨_, exec_ledgerSignalApply hclk hi, ?_, hdone.word, hdone.outside, hdone.updates⟩
    rw [hdone.stream, State.setStream_stream, if_pos rfl]
  case syncRefused =>
    obtain ⟨t, ht, hp⟩ := syncFlitReceive_refused h hbad
    exact ⟨t, ht, hp.mem, hp.logs, hp.regs, hp.cc⟩
  case syncTaken =>
    obtain ⟨t, ht, hdone⟩ := syncFlitReceive_taken h hf h1 h2
    exact ⟨t, ht, hdone.word, hdone.outside, hdone.queues, hdone.streams⟩
  case slots =>
    subst hlen
    exact State.ackSlots_full hg he

end Sys2Proof.Machine
end

section
/-! Proofs about the issue of engine commands (R204, R245): the head of a queue is rejected, or issues and leaves the queue. -/

namespace Sys2Proof.Machine

/-- A command of the fast domains at the head of its queue, where nothing holds it. -/
theorem State.AtHead.runHead {q : Nat} {c : EngCmd} {s : State} (h : s.AtHead q c) (f : EngCmd → State → State) :
    runFast s (fun s => withHead q s f) = .next (f c s) := by
  obtain ⟨hclk, hhead, hmode, hwait⟩ := h
  rw [hclk.runFast, withHead_eq f hhead hmode hwait]
/-- The issue from a queue other than the fill queues changes the queues and one counter. -/
theorem State.issued_queues {q : Nat} (h : q ≠ 17 ∧ q ≠ 18) (c : EngCmd) (s : State) :
    ∃ u k, s.issued q c = { s with cc := { s.cc with queues := u }, ctrs := k } := by
  have hdone : s.done q c = s.popQueue q := by simp [State.done, h.1, h.2]
  simp only [State.issued, hdone]
  split
  · exact ⟨_, s.ctrs, rfl⟩
  all_goals
    obtain ⟨k, hk⟩ := State.count_eq _ 1 (s.popQueue q)
    exact ⟨_, k, hk⟩
/-- A check after one that passes. -/
theorem firstRej_second {b1 b2 : Bool} {r1 : Option Rej} {r : Rej} {l : List (Option Rej)} (h1 : b1 = false) (h2 : b2 = true) :
    firstRej (failIf b1 r1 :: failIf b2 (some r) :: l) = some r := by
  rw [h1, h2]
  rfl

end Sys2Proof.Machine
end

section
/-! Proofs about storing through a tile (R37, R38): a store writes bytes of the elements it is given and no other. -/

namespace Sys2Proof.Machine

/-! The elements of a store -/

theorem mem_insElem {a e : Elem} {l : List Elem} (h : a ∈ insElem e l) : a = e ∨ a ∈ l := by
  induction l with
  | nil => exact .inl (List.mem_singleton.mp h)
  | cons b l ih =>
    simp only [insElem] at h
    split at h
    · exact List.mem_cons.mp h
    · obtain rfl | h := List.mem_cons.mp h
      · exact .inr List.mem_cons_self
      · exact (ih h).imp_right (List.mem_cons_of_mem b)
theorem mem_sortElems {a : Elem} {l : List Elem} (h : a ∈ sortElems l) : a ∈ l := by
  induction l with
  | nil => exact h
  | cons e l ih =>
    obtain rfl | h := mem_insElem h
    exacts [List.mem_cons_self, List.mem_cons_of_mem _ (ih h)]
theorem mem_blocksOf {α : Type} {n k : Nat} {l b : List α} {a : α} (hb : b ∈ blocksOf n k l) (ha : a ∈ b) : a ∈ l := by
  induction k generalizing l with
  | zero => simp [blocksOf] at hb
  | succ k ih =>
    simp only [blocksOf] at hb
    split at hb
    · simp at hb
    · obtain rfl | hb := List.mem_cons.mp hb
      exacts [List.mem_of_mem_take ha, List.mem_of_mem_drop (ih hb)]
/-- Conversion yields elements that it was given, and a scale byte for the place of one of them in a container. -/
theorem mem_convElems_done {spec : Half} {els : List Elem} {d : Done} (h : d ∈ (convElems spec els).2) : d.1 ∈ els := by
  simp only [convElems] at h
  split at h
  · obtain ⟨e, he, rfl⟩ := List.mem_map.mp h
    exact he
  · simp only [List.mem_flatMap, List.mem_map] at h
    obtain ⟨_, ⟨b, hb, rfl⟩, hd⟩ := h
    exact mem_blocksOf hb (List.of_mem_zip hd).1
theorem mem_convElems_scale {spec : Half} {els : List Elem} {b : Nat × Nat × Nat} (h : b ∈ (convElems spec els).1) :
    specContainer spec ≠ 0 ∧ ∃ e ∈ els, b.1 = e.sr ∧ b.2.1 = e.sc := by
  simp only [convElems] at h
  split at h
  · simp at h
  · rename_i hk
    simp only [List.mem_filterMap, List.mem_map, Option.map_eq_some_iff] at h
    obtain ⟨_, ⟨l, hl, rfl⟩, e, he, rfl⟩ := h
    exact ⟨hk, e, mem_blocksOf hl (List.mem_of_mem_head? he), rfl, rfl⟩
/-- Every code of a run is one of the codes given, at its place. -/
theorem mem_runsOf {l : List (Nat × Nat × Nat)} {u : Nat × Nat × List Nat} (h : u ∈ runsOf l) :
    ∀ i < u.2.2.length, ∃ v, (u.1, u.2.1 + i, v) ∈ l := by
  induction l generalizing u with
  | nil => simp [runsOf] at h
  | cons p l ih =>
    obtain ⟨r, c, v⟩ := p
    have hrest : ∀ w ∈ runsOf l, ∀ i < w.2.2.length, ∃ x, (w.1, w.2.1 + i, x) ∈ (r, c, v) :: l := fun w hw i hi => by
      obtain ⟨x, hx⟩ := ih hw i hi
      exact ⟨x, List.mem_cons_of_mem _ hx⟩
    have hone : ∀ i < [v].length, ∃ x, (r, c + i, x) ∈ (r, c, v) :: l := fun i hi => by
      obtain rfl : i = 0 := by simpa using hi
      exact ⟨v, List.mem_cons_self⟩
    simp only [runsOf] at h
    split at h
    next r' c' vs t heq =>
      rw [heq] at hrest
      split at h
      next hadj =>
        obtain ⟨rfl, rfl⟩ := hadj
        obtain rfl | h := List.mem_cons.mp h
        · rintro (_ | i) hi
          · exact ⟨v, List.mem_cons_self⟩
          · obtain ⟨x, hx⟩ := hrest (r, c + 1, vs) List.mem_cons_self i (by simpa using hi)
            exact ⟨x, by rw [show c + (i + 1) = c + 1 + i by omega]; exact hx⟩
        · exact hrest u (List.mem_cons_of_mem _ h)
      next =>
        obtain rfl | h := List.mem_cons.mp h
        exacts [hone, hrest u h]
    next =>
      obtain rfl : u = (r, c, [v]) := by simpa using h
      exact hone

/-! Bytes -/

theorem fmtWidth_pos (f : Nat) : 0 < fmtWidth f := by
  unfold fmtWidth
  split <;> decide
theorem codeAddr_eq {t : Tile} {sr : Nat} (h : 0 ≤ (t.base.toNat : Int) + sr * t.stride.toInt) (sc : Nat) :
    codeAddr t sr sc = ((t.base.toNat : Int) + sr * t.stride.toInt).toNat + fmtWidth (tFmt t) * sc / 8 := by
  simp only [codeAddr, colByte]
  omega
/-- A byte from p on among those that hold the bits [w·sc, w·(sc + n)) holds bits of one of the n codes. -/
theorem run_byte_code {w sc n p x : Nat} (hw : 0 < w) (hlo : p + w * sc / 8 ≤ x) (hhi : x < p + w * sc / 8 + (w * sc % 8 + w * n + 7) / 8)
    (hn : 0 < n) : ∃ i < n, p + w * (sc + i) / 8 ≤ x ∧ x < p + w * (sc + i) / 8 + (w * (sc + i) % 8 + w + 7) / 8 := by
  have hdiv := Nat.div_add_mod (8 * (x - p) - w * sc) w
  have hmod := Nat.mod_lt (8 * (x - p) - w * sc) hw
  have hwn : w ≤ w * n := Nat.le_mul_of_pos_right w hn
  refine ⟨(8 * (x - p) - w * sc) / w, Nat.lt_of_mul_lt_mul_left (a := w) (by omega), ?_⟩
  rw [Nat.mul_add]
  omega
/-- A run of codes is written into bytes that hold bits of them (R37). -/
theorem writeRun_off {req : Nat} {t : Tile} {sr sc x : Nat} {codes : List Nat} (s : State)
    (h0 : 0 ≤ (t.base.toNat : Int) + sr * t.stride.toInt) (hx : ∀ i < codes.length, ¬ OnStored t sr (sc + i) x) :
    (writeRun req t sr sc codes s).byte x = s.byte x := by
  simp only [writeRun]
  split
  · rfl
  · rename_i hne
    refine s.write_outside _ _ x _ ?_
    rw [leBytes_length, codeAddr_eq h0]
    by_contra hin
    obtain ⟨hlo, hhi⟩ := not_or.mp hin
    obtain ⟨i, hi, hon⟩ := run_byte_code (fmtWidth_pos (tFmt t)) (Nat.le_of_not_lt hlo) (Nat.lt_of_not_le hhi) (List.length_pos_iff.mpr hne)
    exact hx i hi (.inl (by rwa [codeAddr_eq h0]))
/-- A scale byte is written alone (R38). -/
theorem writeScale_off {req : Nat} {t : Tile} {sr sc x : Nat} (code : Nat) (s : State) (hc : tCont t ≠ 0) (hx : ¬ OnStored t sr sc x) :
    (writeScale req t sr sc code s).byte x = s.byte x := by
  refine s.write_outside _ _ x _ ?_
  have hne : x ≠ scaleAddr t sr sc := fun h => hx (.inr ⟨hc, h⟩)
  simp only [List.length_singleton]
  omega
/-- A fold of steps that each leave byte x leaves it. -/
theorem foldl_byte {α : Type} {f : State → α → State} {x : Nat} {l : List α} (hf : ∀ a ∈ l, ∀ s, (f s a).byte x = s.byte x) (s : State) :
    (l.foldl f s).byte x = s.byte x := by
  induction l generalizing s with
  | nil => rfl
  | cons a l ih => rw [List.foldl_cons, ih fun b hb => hf b (List.mem_cons_of_mem _ hb), hf a List.mem_cons_self]

/-! The bytes of a store, and what it notes of each element -/

/-- The codes and scale bytes that a store writes. -/
def storeBytes (req : Nat) (t : Tile) (spec : Half) (els : List Elem) (s : State) : State :=
  let r := convElems spec (sortElems els)
  let s := (runsOf (r.2.map fun d => (d.1.sr, d.1.sc, d.2.code))).foldl (fun s u => writeRun req t u.1 u.2.1 u.2.2 s) s
  r.1.foldl (fun s b => writeScale req t b.1 b.2.1 b.2.2 s) s
/-- What a store notes of one converted element: its slot, the telemetry of its format and the flags. -/
def noteStored (eng : Nat) (spec : Half) (slot : Option Nat) (s : State) (d : Done) : State :=
  let s := s.gather slot (some d.1.x) d.2.cls
  (if eng = 4 then s.telemetry (specFmt spec) d.2.cls else s).raiseFlags eng d.2.flags
theorem storeElems_eq (req eng : Nat) (t : Tile) (spec : Half) (slot : Option Nat) (els : List Elem) (s : State) :
    storeElems req eng t spec slot els s =
      (convElems spec (sortElems els)).2.foldl (noteStored eng spec slot) (storeBytes req t spec els s) := rfl

/-- A store leaves every byte that belongs to none of its elements. -/
theorem storeBytes_off {req : Nat} {t : Tile} {spec : Half} {els : List Elem} {x : Nat} (s : State)
    (h0 : ∀ e ∈ els, 0 ≤ (t.base.toNat : Int) + e.sr * t.stride.toInt) (hc : specContainer spec = tCont t)
    (hx : ∀ e ∈ els, ¬ OnStored t e.sr e.sc x) : (storeBytes req t spec els s).byte x = s.byte x := by
  simp only [storeBytes]
  rw [foldl_byte, foldl_byte]
  case hf =>
    intro u hu s
    have hels : ∀ i < u.2.2.length, ∃ e ∈ els, e.sr = u.1 ∧ e.sc = u.2.1 + i := fun i hi => by
      obtain ⟨v, hv⟩ := mem_runsOf hu i hi
      obtain ⟨d, hd, heq⟩ := List.mem_map.mp hv
      simp only [Prod.mk.injEq] at heq
      exact ⟨d.1, mem_sortElems (mem_convElems_done hd), heq.1, heq.2.1⟩
    by_cases hne : u.2.2 = []
    · simp [writeRun, hne]
    · obtain ⟨e, he, hsr, -⟩ := hels 0 (List.length_pos_iff.mpr hne)
      refine writeRun_off s (hsr ▸ h0 e he) fun i hi => ?_
      obtain ⟨e, he, hsr, hsc⟩ := hels i hi
      rw [← hsr, ← hsc]
      exact hx e he
  case hf =>
    intro b hb s
    obtain ⟨hk, e, he, hsr, hsc⟩ := mem_convElems_scale hb
    rw [hsr, hsc]
    exact writeScale_off _ s (hc ▸ hk) (hx e (mem_sortElems he))
theorem writeRun_accessed (req : Nat) (t : Tile) (sr sc : Nat) (codes : List Nat) (s : State) : Accessed s (writeRun req t sr sc codes s) := by
  simp only [writeRun]
  split
  · exact Accessed.refl s
  · exact s.write_accessed _ _ _
theorem storeBytes_accessed (req : Nat) (t : Tile) (spec : Half) (els : List Elem) (s : State) : Accessed s (storeBytes req t spec els s) :=
  (Accessed.foldl (fun s (u : Nat × Nat × List Nat) => writeRun_accessed req t u.1 u.2.1 u.2.2 s) _ s).trans
    (Accessed.foldl (fun s (b : Nat × Nat × Nat) => s.write_accessed req (scaleAddr t b.1 b.2.1) _) _ _)

end Sys2Proof.Machine
end

section
/-! Proofs about drains (R51, R120, R151, R152): what the issue latches, what one beat may change, and the stages of a lane. -/

namespace Sys2Proof.Machine

/-! What a beat may change -/

/-- From s to t a beat's operations have changed no byte outside the tiles ds, no summary register but those of rs, no slot but
those the tiles name, no vector register and no queue, and have counted no beat. -/
structure BeatKeeps (ds : List Tile) (rs : List (BitVec 4)) (s t : State) : Prop where
  mem : SameMemOff ds s t
  v : t.vec.v = s.vec.v
  queues : t.cc.queues = s.cc.queues
  beats : t.ctr 0x40018 = s.ctr 0x40018
  sums : ∀ m, m ∉ rs → t.sum m.toNat = s.sum m.toNat
  slots : ∀ k, k ∉ ds.filterMap tSlot → t.slot k = s.slot k

namespace BeatKeeps
variable {ds : List Tile} {rs : List (BitVec 4)} {s t u : State}

theorem refl (s : State) : BeatKeeps ds rs s s := ⟨fun _ _ => rfl, rfl, rfl, rfl, fun _ _ => rfl, fun _ _ => rfl⟩
theorem trans (h : BeatKeeps ds rs s t) (h' : BeatKeeps ds rs t u) : BeatKeeps ds rs s u where
  mem := fun x hx => (h'.mem x hx).trans (h.mem x hx)
  v := h'.v.trans h.v
  queues := h'.queues.trans h.queues
  beats := h'.beats.trans h.beats
  sums := fun m hm => (h'.sums m hm).trans (h.sums m hm)
  slots := fun k hk => (h'.slots k hk).trans (h.slots k hk)
theorem foldl {α : Type} {f : State → α → State} {l : List α} (hf : ∀ a ∈ l, ∀ s, BeatKeeps ds rs s (f s a)) (s : State) :
    BeatKeeps ds rs s (l.foldl f s) := by
  induction l generalizing s with
  | nil => exact refl s
  | cons a l ih => exact (hf a List.mem_cons_self s).trans (ih (fun b hb => hf b (List.mem_cons_of_mem _ hb)) _)
theorem of_accessed (h : Accessed s t) (hm : SameMemOff ds s t) : BeatKeeps ds rs s t where
  mem := hm
  v := by rw [h.vec]
  queues := h.queues
  beats := h.ctrs _ (by decide)
  sums := fun m _ => by simp only [State.sum, h.vec]
  slots := fun k _ => by simp only [State.slot, h.slots]
/-- A read of local memory. -/
theorem of_read (h : Accessed s t) (hm : t.mem = s.mem) : BeatKeeps ds rs s t :=
  of_accessed h fun x _ => by simp only [State.byte, hm]

/-! Counting, flags and slots -/

theorem count {off : Nat} (ho : off ≠ 0x40018) (n : Nat) (s : State) : BeatKeeps ds rs s (s.count off n) where
  mem := fun x _ => by simp
  v := by simp
  queues := by simp
  beats := by rw [State.count_ctr, if_neg (by tauto)]
  sums := fun m _ => by simp only [State.sum, State.count_vec]
  slots := fun k _ => by simp only [State.slot, State.count_slots]
theorem setCtr {off : Nat} (ho : off ≠ 0x40018) (v : DWord) (s : State) : BeatKeeps ds rs s (s.setCtr off v) where
  mem := fun _ _ => rfl
  v := rfl
  queues := rfl
  beats := by rw [State.setCtr_ctr, if_neg ho.symm]
  sums := fun _ _ => rfl
  slots := fun _ _ => rfl
theorem orReg (off : Nat) (m : Word) (s : State) : BeatKeeps ds rs s (s.orReg off m) :=
  ⟨fun _ _ => rfl, rfl, rfl, rfl, fun _ _ => rfl, fun _ _ => rfl⟩
theorem noteNonfinite (b : Bool) (s : State) : BeatKeeps ds rs s (s.noteNonfinite b) := by
  simp only [State.noteNonfinite]
  split
  · exact refl s
  · split
    exacts [orReg _ _ s, ⟨fun _ _ => rfl, rfl, rfl, rfl, fun _ _ => rfl, fun _ _ => rfl⟩]
theorem gather {n : Option Nat} (hn : ∀ k, n = some k → k ∈ ds.filterMap tSlot) (x : Option XVal) (c : SlotClass) (s : State) :
    BeatKeeps ds rs s (s.gather n x c) := by
  simp only [State.gather]
  split
  · exact refl s
  · next n =>
    split
    · exact refl s
    · refine ⟨fun _ _ => rfl, rfl, rfl, rfl, fun _ _ => rfl, fun k hk => ?_⟩
      exact Tab.get_set_other Slot.reset Slot.reset s.slots n k _ fun h => hk (hn k (by rw [h]))
/-- The telemetry of a format lies in other counters (R132). -/
theorem telemetry (f : Nat) (c : SlotClass) (s : State) : BeatKeeps ds rs s (s.telemetry f c) := by
  simp only [State.telemetry]
  split
  · exact setCtr (by omega) _ s
  all_goals exact (setCtr (by omega) _ s).trans (setCtr (by omega) _ _)
theorem redAbsorb {r : RedAtt} (hr : r.reg ∈ rs) (l : List (Option XVal)) (s : State) : BeatKeeps ds rs s (redAbsorb r l s) := by
  refine ⟨fun _ _ => rfl, rfl, rfl, rfl, fun m hm => ?_, fun _ _ => rfl⟩
  exact Tab.get_set_other Sum.reset Sum.reset s.vec.sums _ _ _ fun h => hm (BitVec.eq_of_toNat_eq h ▸ hr)

/-! Reads and stores -/

theorem accCheck (a n : Nat) (s : State) : BeatKeeps ds rs s (s.accCheck a n) := of_read (s.accCheck_accessed a n) (State.accCheck_mem a n s)
theorem touch (req a n : Nat) (s : State) : BeatKeeps ds rs s (s.touch req a n) := of_read (s.touchBy_accessed _ a n) (State.touch_mem req a n s)
theorem touchRun (req : Nat) (t : Tile) (sr c0 c1 : Nat) (s : State) : BeatKeeps ds rs s (touchRun req t sr c0 c1 s) := by
  simp only [Machine.touchRun]
  split
  · exact refl s
  · split
    exacts [touch _ _ _ s, (touch _ _ _ s).trans (touch _ _ _ _)]
theorem touchBox (req : Nat) (t : Tile) (b : Box) (s : State) : BeatKeeps ds rs s (touchBox req t b s) := by
  have hruns : BeatKeeps ds rs s ((List.range ((sBox t b).r1 - (sBox t b).r0)).foldl
      (fun s i => Machine.touchRun req t ((sBox t b).r0 + i) (sBox t b).c0 (sBox t b).c1 s) s) := foldl (fun _ _ s => touchRun _ _ _ _ _ s) s
  simp only [Machine.touchBox]
  split
  exacts [hruns.trans ((touch _ _ _ _).trans (touch _ _ _ _)), hruns]
/-- A store of elements that lie in one of the tiles. -/
theorem storeElems {req eng : Nat} {t : Tile} {spec : Half} {els : List Elem} (ht : t ∈ ds) (h0 : RowsOk t) (hin : InTile t els)
    (hc : specContainer spec = tCont t) (s : State) : BeatKeeps ds rs s (storeElems req eng t spec (tSlot t) els s) := by
  rw [storeElems_eq]
  refine (of_accessed (storeBytes_accessed req t spec els s) fun x hx => ?_).trans (foldl (fun d _ s => ?_) _)
  · exact storeBytes_off s (fun e he => h0 e.sr (hin e he).1) hc fun e he => hx t ht e.sr e.sc (hin e he).1 (hin e he).2
  · have hg : BeatKeeps ds rs s (s.gather (tSlot t) (some d.1.x) d.2.cls) := gather (fun k hk => List.mem_filterMap.mpr ⟨t, ht, hk⟩) _ _ s
    simp only [noteStored]
    split
    exacts [(hg.trans (telemetry _ _ _)).trans (orReg _ _ _), hg.trans (orReg _ _ _)]

end BeatKeeps

/-! One beat -/

/-- An element placed at a row and a column of a tile lies in it, whichever way the tile is stored (R39). -/
theorem elemAt_inTile {t : Tile} {r c : Nat} (hr : r < t.rows.toNat) (hc : c < t.cols.toNat) (x y : XVal) (fl : Bool) (rnd : Rnd) :
    (elemAt t r c x y fl rnd).sr < tSRows t ∧ (elemAt t r c x y fl rnd).sc < tSCols t := by
  cases h : tTrans t <;> simp [elemAt, tSRows, tSCols, h, hr, hc]
/-- The complete blocks of elements of a tile are elements of it. -/
theorem splitBlocks_inTile {t : Tile} {l k : List Elem} (hl : InTile t l) (hk : InTile t k) : InTile t (splitBlocks t (l ++ k)).1 := fun e he => by
  have hmem : e ∈ l ++ k := by
    simp only [splitBlocks] at he
    split at he
    exacts [he, List.mem_of_mem_filter he]
  exact (List.mem_append.mp hmem).elim (hl e) (hk e)

section
variable {d : DrainRun} {b : Nat × Nat × Nat × Nat × Nat} (rest : List (Nat × Nat × Nat × Nat × Nat)) (s : State)

/-- A beat changes no byte outside its destination tiles, no other summary register or slot, and counts itself (R152). -/
theorem drainBeat_keeps
    (hds : ∀ k ∈ (plainT d.op.dst).t :: (d.op.aux.map fun a => (plainT a.1).t).toList, RowsOk k ∧ b.2.1 - oVal d.op.c0 + 16 ≤ k.cols.toNat)
    (hheld : InTile (plainT d.op.dst).t d.held) (haux : ∀ k ∈ (d.op.aux.map fun a => (plainT a.1).t).toList, InTile k d.heldAux)
    (hspec : specContainer d.op.spec = tCont (plainT d.op.dst).t) (hspecA : ∀ a ∈ d.op.aux.toList, specContainer a.2 = tCont (plainT a.1).t) :
    BeatKeeps ((plainT d.op.dst).t :: (d.op.aux.map fun a => (plainT a.1).t).toList) (d.op.reds.map RedAtt.reg)
      ((s.count 0x40010 1).count 0x40018 1) (drainBeat d b rest s) := by
  generalize hD : (plainT d.op.dst).t :: (d.op.aux.map fun a => (plainT a.1).t).toList = ds at hds ⊢
  generalize hR : d.op.reds.map RedAtt.reg = rs
  unfold drainBeat
  extract_lets o still cb r0 m d0 dst k ka kall dc0 s1 boxIn touch s2 uses s3 s3' s3'' lanes mine els out s4 s4' s5 s6 tap s7
  have h1 : BeatKeeps ds rs ((s.count 0x40010 1).count 0x40018 1) s1 := BeatKeeps.foldl (fun _ _ s => BeatKeeps.accCheck _ _ s) _
  have htouch : ∀ r one s, BeatKeeps ds rs s (touch r one s) := fun r one s => by
    cases r with
    | none => exact BeatKeeps.refl s
    | some r => exact BeatKeeps.touchBox _ _ _ s
  have h2 : BeatKeeps ds rs s1 s2 := (((htouch _ _ _).trans (htouch _ _ _)).trans (htouch _ _ _)).trans (htouch _ _ _)
  have h3 : BeatKeeps ds rs s2 s3 := by
    simp only [s3]
    split
    exacts [BeatKeeps.refl s2, BeatKeeps.count (by decide) _ s2]
  have h3' : BeatKeeps ds rs s3 s3' := by
    simp only [s3']
    split
    exacts [BeatKeeps.count (by decide) _ s3, BeatKeeps.refl s3]
  have h3'' : BeatKeeps ds rs s3' s3'' := by
    simp only [s3'']
    split
    · split
      exacts [BeatKeeps.refl s3', BeatKeeps.count (by decide) _ s3']
    · exact BeatKeeps.refl s3'
  have hplace : ∀ t ∈ ds, ∀ l ∈ lanes, l.1 < t.rows.toNat - d0 → d0 + l.1 < t.rows.toNat ∧ dc0 + l.2.1 < t.cols.toNat := fun t ht l hl hrow => by
    have hcols : dc0 + 16 ≤ t.cols.toNat := (hds t ht).2
    simp only [lanes, List.mem_flatMap, List.mem_map, List.mem_range] at hl
    obtain ⟨j, hj, i, -, rfl⟩ := hl
    exact ⟨Nat.add_lt_of_lt_sub' hrow, lt_of_lt_of_le (Nat.add_lt_add_left hj dc0) hcols⟩
  have hdst : dst ∈ ds := hD ▸ List.mem_cons_self
  have hels : InTile dst els := fun e he => by
    obtain ⟨l, hl, rfl⟩ := List.mem_map.mp he
    obtain ⟨hl, hk⟩ := List.mem_filter.mp hl
    obtain ⟨hr, hc⟩ := hplace dst hdst l hl (lt_of_lt_of_le (of_decide_eq_true hk) (Nat.min_le_right _ _))
    exact elemAt_inTile hr hc _ _ _ _
  have h4 : BeatKeeps ds rs s3'' s4 := BeatKeeps.storeElems hdst (hds dst hdst).1 (splitBlocks_inTile hheld hels) hspec s3''
  have h4' : BeatKeeps ds rs s4 s4' := BeatKeeps.noteNonfinite _ s4
  have h5 : BeatKeeps ds rs s4' s5.1 := by
    simp only [s5]
    split
    · exact BeatKeeps.refl s4'
    next a ha =>
      have haux' : (plainT a.1).t ∈ (d.op.aux.map fun a => (plainT a.1).t).toList := by simp [show d.op.aux = some a from ha]
      have hmem : (plainT a.1).t ∈ ds := hD ▸ List.mem_cons_of_mem _ haux'
      have hka : ka = min m (a.1.t.rows.toNat - d0) := by simp only [ka, ha]; rfl
      refine (BeatKeeps.storeElems hmem (hds _ hmem).1 (splitBlocks_inTile (haux _ haux') fun e he => ?_)
        (hspecA a (by simp [show d.op.aux = some a from ha])) s4').trans (BeatKeeps.noteNonfinite _ _)
      obtain ⟨l, hl, rfl⟩ := List.mem_map.mp he
      obtain ⟨hl, hk⟩ := List.mem_filter.mp hl
      obtain ⟨hr, hc⟩ := hplace _ hmem l hl (lt_of_lt_of_le (of_decide_eq_true hk) (hka ▸ Nat.min_le_right _ _))
      exact elemAt_inTile hr hc _ _ _ _
  have h6 : BeatKeeps ds rs s5.1 s6 := (BeatKeeps.orReg _ _ _).trans (BeatKeeps.noteNonfinite _ _)
  have h7 : BeatKeeps ds rs s6 s7 := BeatKeeps.foldl (fun r hr s => BeatKeeps.redAbsorb (hR ▸ List.mem_map_of_mem hr) _ s) s6
  have hend : BeatKeeps ds rs ((s.count 0x40010 1).count 0x40018 1) s7 :=
    (((((((((h1.trans h2).trans h3).trans h3').trans h3'').trans h4).trans h4').trans h5).trans h6).trans h7)
  exact ⟨hend.mem, hend.v, hend.queues, hend.beats, hend.sums, hend.slots⟩
theorem drainBeat_beats : (drainBeat d b rest s).vec.drain.map DrainRun.beats = if rest = [] then none else some rest := by
  change Option.map DrainRun.beats (if rest = [] then none else some _) = _
  split <;> rfl
end

/-! Issue (R120, R151) -/

/-- The beats of a drain in still and column order. -/
def drainBeats (s : State) (o : DrainOp) : List (Nat × Nat × Nat × Nat × Nat) :=
  (drainParts s o).flatMap fun p => (List.range (oVal o.cols / 16)).map fun b => (p.1, oVal o.c0 + 16 * b, p.2.1, p.2.2.1, p.2.2.2)
/-- g_dec, the rounded product of the two DEC factors (R51). -/
def drainFactor (s : State) (o : DrainOp) : XVal := (fpMul (val32 (decOf s (o.decA.map BitVec.toNat))) (val32 (decOf s (o.decB.map BitVec.toNat)))).1
/-- The drain in progress that the issue makes of a command. -/
def drainLatched (c : EngCmd) (o : DrainOp) (s : State) : DrainRun :=
  let enc := encOf s (tSlot o.dst.t)
  ⟨c, o, drainBeats s o, bits32 (drainFactor s o), if drainVops o then enc else (rne32b ((drainFactor s o).mul (val32 enc))).1,
    encOf s ((o.aux.map fun a => tSlot a.1.t).join), s.genSeed, s.genStep, [], []⟩

theorem drainBeats_ne_nil {s : State} {o : DrainOp} (hp : drainParts s o ≠ []) (hc : 16 ≤ oVal o.cols) : drainBeats s o ≠ [] := by
  obtain ⟨p, l, hl⟩ := List.exists_cons_of_ne_nil hp
  have hn : 0 < oVal o.cols / 16 := Nat.div_pos hc (by decide)
  simp only [drainBeats, hl, ne_eq, List.flatMap_eq_nil_iff, List.map_eq_nil_iff, List.range_eq_nil]
  exact fun h => Nat.ne_of_gt hn (h p List.mem_cons_self)
/-- INIT of the attached reductions empties their summary registers and changes nothing else (R158). -/
theorem redInits_eq (l : List RedAtt) (s : State) : ∃ y, l.foldl (fun s r => redInit r s) s = { s with vec := { s.vec with sums := y } } ∧
    ∀ m, m ∉ l.map RedAtt.reg → Tab.get Sum.reset y m.toNat = s.sum m.toNat := by
  induction l generalizing s with
  | nil => exact ⟨s.vec.sums, rfl, fun _ _ => rfl⟩
  | cons r l ih =>
    obtain ⟨z, hz, hsum⟩ : ∃ z, redInit r s = { s with vec := { s.vec with sums := z } } ∧
        ∀ m, m ≠ r.reg → Tab.get Sum.reset z m.toNat = s.sum m.toNat := by
      simp only [redInit]
      split
      · exact ⟨_, rfl, fun m hm => Tab.get_set_other _ _ _ _ _ _ fun h => hm (BitVec.eq_of_toNat_eq h)⟩
      · exact ⟨s.vec.sums, rfl, fun _ _ => rfl⟩
    obtain ⟨y, hy, hsums⟩ := ih (redInit r s)
    refine ⟨y, by rw [List.foldl_cons, hy, hz], fun m hm => ?_⟩
    simp only [List.map_cons, List.mem_cons, not_or] at hm
    rw [hsums m hm.2, hz]
    exact hsum m hm.1

section
variable {c : EngCmd} {o : DrainOp} {s : State} (h : s.AtHead 19 c) (hop : c.op = .drain o)
include h hop

theorem exec_drain_rejected {r : Rej} (hchk : drainChk s o = some r) : exec .drain s = .next (s.reject 19 c r) := by
  change execDrain s = _
  rw [execDrain, h.runHead]
  simp only [hop, hchk, issueOr]
theorem exec_drain_noLanes (hchk : drainChk s o = none) (hv : vlenOf s c = 0) : exec .drain s = .next (s.issued 19 c) := by
  obtain ⟨u, k, hi⟩ := State.issued_queues (q := 19) (by decide) c s
  have hv' : vlenOf (s.issued 19 c) c = 0 := by
    rw [← hv, hi]
    cases hx : c.ctx <;> simp [vlenOf, State.ctxt, hx]
  change execDrain s = _
  rw [execDrain, h.runHead]
  simp only [hop, hchk, issueOr, hv', or_true, if_true]
theorem exec_drain_starts (hchk : drainChk s o = none) (hv : vlenOf s c ≠ 0) (hb : drainBeats s o ≠ []) : exec .drain s =
    .next { o.reds.foldl (fun s r => redInit r s) (s.issued 19 c) with
      vec := { (o.reds.foldl (fun s r => redInit r s) (s.issued 19 c)).vec with drain := some (drainLatched c o s) } } := by
  obtain ⟨u, k, hi⟩ := State.issued_queues (q := 19) (by decide) c s
  have hlatch : drainLatched c o s = drainLatched c o (s.issued 19 c) := by rw [hi]; rfl
  have hno : ¬(drainBeats (s.issued 19 c) o = [] ∨ vlenOf (s.issued 19 c) c = 0) := by
    rw [hi, not_or]
    refine ⟨hb, ?_⟩
    cases hx : c.ctx <;> simpa [vlenOf, State.ctxt, hx] using hv
  change execDrain s = _
  rw [execDrain, h.runHead, hlatch]
  simp only [hop, hchk, issueOr]
  exact congrArg Host.Outcome.next (if_neg hno)
end

/-- A column range that does not start at, or cover, a multiple of 16, or passes column 4,095, fails its check (R151). -/
theorem drainChk_columns {s : State} {o : DrainOp} (hopd : ∀ v ∈ [o.c0, o.cols, o.layer, o.base, o.pitch, o.auxOff], opdBad v = false)
    (hcol : oVal o.c0 % 16 ≠ 0 ∨ oVal o.cols % 16 ≠ 0 ∨ 4096 < oVal o.c0 + oVal o.cols) :
    drainChk s o = some { code := 0x3005, cond := 2, d0 := w32 (oVal o.c0) } := by
  simp only [List.mem_cons, List.not_mem_nil, or_false, forall_eq_or_imp, forall_eq] at hopd
  obtain ⟨h0, h1, h2, h3, h4, h5⟩ := hopd
  exact firstRej_second (by simp only [h0, h1, h2, h3, h4, h5, Bool.or_self]) (by simpa [or_assoc] using hcol)

/-! Stages of a lane (R51, R94, R152) -/

/-- Every word of a poisoned tile reads as the canonical NaN (R94). -/
theorem State.seenLe_poisoned {a : Nat} {s : State} (hacc : isAcc a = true) (h4 : a % 4 = 0) (hp : s.poison.contains (accTile a) = true) :
    s.seenLe a 4 = 0x7FC00000 := by
  have hseen : ∀ i < 4, s.seen (a + i) = if i = 2 then 0xC0 else if i = 3 then 0x7F else 0 := fun i hi => by
    simp only [isAcc, decide_eq_true_eq] at hacc
    have hin : isAcc (a + i) = true := by simp only [isAcc, decide_eq_true_eq]; omega
    have htile : accTile (a + i) = accTile a := by simp only [accTile, accStill, accCol, Prod.mk.injEq]; omega
    have hmod : (a + i) % 4 = i := by omega
    simp only [State.seen, hin, htile, hp, hmod, Bool.and_self, if_true]
  have h0 := hseen 0 (by decide)
  have h1 := hseen 1 (by decide)
  have h2 := hseen 2 (by decide)
  have h3 := hseen 3 (by decide)
  simp only [State.seenLe, State.seens, Nat.add_assoc, Nat.reduceAdd]
  rw [show s.seen a = 0 from h0, h1, h2, h3]
  rfl
theorem drainLane_poisoned (d : DrainRun) (full : Bool) (w : Word) (s : State) (r k : Nat) : (drainLane s d full true w r k).acc = .nan := by
  simp only [drainLane]
  split
  · rfl
  · split <;> rfl
/-- Without a stage among D3–D6 a lane gives its dequantised accumulator. -/
theorem drainLane_plain {d : DrainRun} (hv : drainVops d.op = false) (hi : d.op.accInt = false) (w : Word) (s : State) (r k : Nat) :
    (drainLane s d true false w r k).d2 = (fpMul (in32 w).1 (val32 d.gdec)).1 ∧
      (drainLane s d true false w r k).d6 = (drainLane s d true false w r k).d2 := by
  simp only [drainLane, hv, drainAcc, hi]
  exact ⟨rfl, rfl⟩
/-- Bias, special function and residual are applied in the order of R152. -/
theorem drainLane_stages {d : DrainRun} {b res : TRef} {f : Sfu} (hi : d.op.accInt = false) (hb : d.op.bias = some b)
    (ha : d.op.act = some (.sfu f)) (hderiv : d.op.deriv = none) (hdrop : d.op.drop = none) (hres : d.op.resid = some res)
    (w : Word) (s : State) (r k : Nat) :
    let d2 := (fpMul (in32 w).1 (val32 d.gdec)).1
    let d3 := (fpAdd d2 (inEl s b 0 k).1).1
    (drainLane s d true false w r k).d2 = d2 ∧ (drainLane s d true false w r k).d3 = d3 ∧
      (drainLane s d true false w r k).d6 = (fpAdd (sfuVal f d3).1 (inEl s res r k).1).1 := by
  have hv : drainVops d.op = true := by simp [drainVops, hb]
  simp only [drainLane, hv, drainAcc, hi, hb, ha, hderiv, hdrop, hres, Option.map_some, Option.map_none, ite_self]
  exact ⟨rfl, rfl, rfl⟩

/-! The beat of the drain in progress (R152) -/

theorem exec_drainBeat_runs {d : DrainRun} {b : Nat × Nat × Nat × Nat × Nat} {l : List (Nat × Nat × Nat × Nat × Nat)} {s : State}
    (hclk : s.Clocked) (hd : s.vec.drain = some d) (hb : d.beats = b :: l) (hw : writeWait s d.cmd (beatHalves d b) = false) :
    exec .drainBeat s = .next (drainBeat d b l s) := by
  change execDrainBeat s = _
  rw [execDrainBeat, hclk.runFast]
  simp only [hd, hb, hw, Bool.false_eq_true, if_false]
theorem beat_counted (s : State) : ((s.count 0x40010 1).count 0x40018 1).ctr 0x40018 =
    if s.frozen 0x40018 then s.ctr 0x40018 else s.ctr 0x40018 + 1 := by
  have hf : (s.count 0x40010 1).frozen 0x40018 = s.frozen 0x40018 := by
    simp only [State.frozen]
    split <;> simp
  have hctr : (s.count 0x40010 1).ctr 0x40018 = s.ctr 0x40018 := by rw [State.count_ctr, if_neg fun h => absurd h.1 (by decide)]
  rw [State.count_one, hf, hctr]

/-- Settles O42: what the issue latches, what it rejects, what a beat keeps, and the stages of a lane. -/
theorem drainsReadFactorsAtIssue : Obligations.DrainsReadFactorsAtIssue := by
  unfold Obligations.DrainsReadFactorsAtIssue
  refine ⟨fun c o s h hop hchk hv hp hc => ?starts, fun c o s h hop hchk hv => exec_drain_noLanes h hop hchk hv,
    fun c o s h hop hopd hcol => exec_drain_rejected h hop (drainChk_columns hopd hcol),
    fun d b l s hclk hd hb hw hds hheld haux hspec hspecA => ?beat,
    fun d w s r k hv hi => drainLane_plain hv hi w s r k, fun d full w s r k => drainLane_poisoned d full w s r k,
    fun d w s r k b res f hi hb ha hderiv hdrop hres => drainLane_stages hi hb ha hderiv hdrop hres w s r k,
    fun a s hacc h4 hp => State.seenLe_poisoned hacc h4 hp⟩
  case starts =>
    obtain ⟨u, k, hi⟩ := State.issued_queues (q := 19) (by decide) c s
    obtain ⟨y, hy, hsums⟩ := redInits_eq o.reds (s.issued 19 c)
    refine ⟨_, drainLatched c o s, exec_drain_starts h hop hchk hv (drainBeats_ne_nil hp hc), rfl, rfl, rfl, rfl, fun hv => ?_, fun hv => ?_,
      rfl, rfl, rfl, rfl, rfl, fun m hm => ?_, ?_⟩
    · simp only [drainLatched, hv, if_true]
    · simp only [drainLatched, hv, Bool.false_eq_true, if_false]
      rfl
    · rw [hy]
      refine (hsums m hm).trans ?_
      rw [hi]
      rfl
    · rw [hy, hi]
  case beat =>
    have hkeep := drainBeat_keeps (b := b) l s hds hheld haux hspec hspecA
    refine ⟨_, exec_drainBeat_runs hclk hd hb hw, fun x hx => ?_, drainBeat_beats l s, ?_, ?_, ?_, fun m hm => ?_, fun k hk => ?_⟩
    · rw [hkeep.mem x hx, State.count_byte, State.count_byte]
    · rw [hkeep.v, State.count_vec, State.count_vec]
    · rw [hkeep.queues, State.count_cc, State.count_cc]
    · rw [hkeep.beats, beat_counted]
    · rw [hkeep.sums m hm]
      simp only [State.sum, State.count_vec]
    · rw [hkeep.slots k hk]
      simp only [State.slot, State.count_slots]

end Sys2Proof.Machine
end

section
/-! Proofs about the settings of the still array (R44, R83, R188, R189): PAIRING, KLUT_LOAD and DW_MASK at the head of XCTL. -/

namespace Sys2Proof.Machine

/-- The word that entry w of a table loaded from address a takes: the canonical NaNs of a poisoned word (R44, R255). -/
def klutWord (s : State) (a w : Nat) : Word := if s.poisonedIn (a + 4 * w) 4 then 0x7FC07FC0 else s.word (a + 4 * w)

/-- Storing n consecutive registers from offset b on. -/
theorem setRegs_reg (b : Nat) (v : Nat → Word) (n o : Nat) (s : State) :
    ((List.range n).foldl (fun s w => s.setReg (b + 4 * w) (v w)) s).reg o =
      if o ∈ (List.range n).map (fun w => b + 4 * w) then v ((o - b) / 4) else s.reg o := by
  induction n with
  | zero => simp
  | succ n ih =>
    simp only [List.range_succ, List.foldl_append, List.foldl_cons, List.foldl_nil, State.setReg_reg, ih, List.map_append, List.mem_append]
    by_cases ho : o = b + 4 * n <;> simp [ho]
theorem setRegs_eq (b : Nat) (v : Nat → Word) (n : Nat) (s : State) :
    ∃ g, (List.range n).foldl (fun s w => s.setReg (b + 4 * w) (v w)) s = { s with regs := g } := by
  induction n with
  | zero => exact ⟨s.regs, rfl⟩
  | succ n ih =>
    obtain ⟨g, hg⟩ := ih
    rw [List.range_succ, List.foldl_append, hg]
    exact ⟨_, rfl⟩

section
variable {c : EngCmd} {s : State} (h : s.AtHead 22 c)
include h

theorem exec_pairing_issued {m : Bool} (hop : c.op = .pairing m) : exec .pairing s = .next { s.issued 22 c with
    still := { s.still with split := m, actA := none, actB := none, shaA := none, shaB := none, groups := [] } } := by
  obtain ⟨u, k, hi⟩ := State.issued_queues (q := 22) (by decide) c s
  change execPairing s = _
  rw [execPairing, h.runHead]
  simp only [hop, issueOr, hi]
theorem exec_klutLoad_issued {n : BitVec 8} {a : Opd} (hop : c.op = .klutLoad n a) (hn : n.toNat ≤ 31) (ha : opdBad a = false)
    (hsp : spaceChk s .gen false (oWord a).toNat 32 1 = none) : exec .klutLoad s = .next ((List.range 8).foldl
      (fun t w => t.setReg (0x28000 + 0x20 * n.toNat + 4 * w) (klutWord s (oWord a).toNat w)) ((s.issued 22 c).touch 0 (oWord a).toNat 32)) := by
  obtain ⟨u, k, hi⟩ := State.issued_queues (q := 22) (by decide) c s
  have hword : klutWord s (oWord a).toNat = klutWord (s.issued 22 c) (oWord a).toNat := by rw [hi]; rfl
  have hn' : ¬31 < n.toNat := Nat.not_lt.mpr hn
  change execKlutLoad s = _
  rw [execKlutLoad, h.runHead, hword]
  simp only [hop, hn', ha, hsp, decide_false, failIf, Bool.false_eq_true, if_false, firstRej, issueOr, klutWord]
/-- A mask command that passes its checks sets the mask, its origins and its table. -/
theorem exec_dwMask_issued {m : Word} {r0 c0 : Opd} {tab : Option TRef} (hop : c.op = .dwMask m r0 c0 tab) (h0 : opdBad r0 = false)
    (h1 : opdBad c0 = false) (htab : ∀ r, tab = some r → tStage1 r = none ∧ tStage2 r = none ∧ r.t.base.toNat % 8 = 0 ∧
      spaceChk s .gen false r.t.base.toNat r.t.extent.toNat 2 = none) :
    exec .dwMask s = .next { s.issued 22 c with still := { s.still with mask := m, row0 := oVal r0, col0 := oVal c0, table := tab } } := by
  obtain ⟨u, k, hi⟩ := State.issued_queues (q := 22) (by decide) c s
  change execDwMask s = _
  rw [execDwMask, h.runHead]
  cases tab with
  | none => simp only [hop, h0, h1, Bool.or_self, failIf, Bool.false_eq_true, if_false, firstRej, issueOr, hi]
  | some r =>
    obtain ⟨hs1, hs2, hal, hsp⟩ := htab r rfl
    simp only [hop, h0, h1, hs1, hs2, hal, hsp, Bool.or_self, failIf, ne_eq, not_true_eq_false, decide_false, Bool.false_eq_true, if_false,
      firstRej, issueOr, hi]
end

/-- KLUT_LOAD stores 32 bytes of local memory in its table and no other register (R44). -/
theorem klutLoad_table (c : EngCmd) (n : BitVec 8) (a : Opd) (s : State) (h : s.AtHead 22 c) (hop : c.op = .klutLoad n a)
    (hn : n.toNat ≤ 31) (ha : opdBad a = false) (hsp : spaceChk s .gen false (oWord a).toNat 32 1 = none) :
    ∃ t : State, exec .klutLoad s = .next t ∧
      (∀ w, w < 8 → t.reg (0x28000 + 0x20 * n.toNat + 4 * w) = klutWord s (oWord a).toNat w) ∧
      SameRegsBut (0x04000 :: (List.range 8).map fun w => 0x28000 + 0x20 * n.toNat + 4 * w) s t ∧ t.mem = s.mem ∧ t.still = s.still ∧
      t.cc = (s.issued 22 c).cc := by
  obtain ⟨u, k, hi⟩ := State.issued_queues (q := 22) (by decide) c s
  obtain ⟨e, q, d, l, x, g, ht⟩ := (s.issued 22 c).touch_eq 0 (oWord a).toNat 32
  have hregs : SameRegsBut [0x04000] (s.issued 22 c) ((s.issued 22 c).touch 0 (oWord a).toNat 32) :=
    (State.touchBy_accessed { req := 0 } _ _ _).regs
  obtain ⟨g', hg⟩ := setRegs_eq (0x28000 + 0x20 * n.toNat) (klutWord s (oWord a).toNat) 8 ((s.issued 22 c).touch 0 (oWord a).toNat 32)
  refine ⟨_, exec_klutLoad_issued h hop hn ha hsp, fun w hw => ?_, fun o ho => ?_, ?_, ?_, ?_⟩
  · rw [setRegs_reg, if_pos (List.mem_map.mpr ⟨w, List.mem_range.mpr hw, rfl⟩), Nat.add_sub_cancel_left, Nat.mul_div_cancel_left w (by decide)]
  · rw [List.mem_cons, not_or] at ho
    rw [setRegs_reg, if_neg ho.2, hregs o (by simpa using ho.1), hi]
    rfl
  all_goals rw [hg, ht, hi]

end Sys2Proof.Machine
end

section
/-! Proofs about placing commands in queues (R230), the packing stage (R100) and the walks of fills (R239). -/

namespace Sys2Proof.Machine

/-! Placing (R230) -/

theorem State.push_queue (q k : Nat) (e : EngCmd) (s : State) :
    (s.push q e).queue k = if k = q then { s.queue q with items := (s.queue q).items ++ [e] } else s.queue k :=
  Tab.get_set Queue.empty s.cc.queues q k _
/-- Placing a command in each of several queues. -/
theorem pushes_queue {qs : List Nat} (hnd : qs.Nodup) (e : EngCmd) (s : State) :
    ∃ u, qs.foldl (fun s q => s.push q e) s = { s with cc := { s.cc with queues := u } } ∧
      ∀ k, Tab.get Queue.empty u k = if k ∈ qs then { s.queue k with items := (s.queue k).items ++ [e] } else s.queue k := by
  induction qs generalizing s with
  | nil => exact ⟨s.cc.queues, rfl, fun _ => rfl⟩
  | cons q qs ih =>
    obtain ⟨hq, hnd⟩ := List.nodup_cons.mp hnd
    obtain ⟨u, hu, hk⟩ := ih hnd (s.push q e)
    refine ⟨u, hu, fun k => ?_⟩
    rw [hk, State.push_queue]
    by_cases h : k = q
    · subst h
      simp [hq]
    · simp [h]
theorem entersQueues_nodup (q : Nat) (op : EngOp) : (entersQueues q op).Nodup := by
  unfold entersQueues
  repeat' split
  all_goals simp

/-- From s to u command e has entered the queues qs, and nothing but the control core and the counters has changed. -/
structure Placed (qs : List Nat) (e : EngCmd) (s u : State) : Prop where
  frame : u = { s with cc := { s.cc with queues := u.cc.queues }, ctrs := u.ctrs }
  queue : ∀ k, u.queue k = if k ∈ qs then { s.queue k with items := (s.queue k).items ++ [e] } else s.queue k

theorem State.place_placed {q : Nat} {e : EngCmd} {s : State} (h : ∀ k ∈ entersQueues q e.op, s.room k = true) :
    ∃ u, s.place q e = some u ∧ Placed (entersQueues q e.op) e s u := by
  obtain ⟨u, hu, hk⟩ := pushes_queue (entersQueues_nodup q e.op) e s
  obtain ⟨x, hx⟩ := State.count_eq (if e.ctx.thread = .acc then 0x10128 else 0x10130) 1 { s with cc := { s.cc with queues := u } }
  refine ⟨{ s with cc := { s.cc with queues := u }, ctrs := x }, ?_, ⟨rfl, hk⟩⟩
  simp only [State.place, List.all_eq_true.mpr h, if_true, hu, hx]

/-! The packing stage (R100) -/

theorem State.packFlush_empty {s : State} (h : s.cc.pack = []) : s.packFlush = some s := by
  simp only [State.packFlush, h]
/-- The packed fill that a held set of thin requests forms (R101). -/
def packedFill (f : FillOp) (tag : Half) (x : Ctx) (n : Nat) (l : List (FillOp × Half × Ctx × Nat)) : EngCmd :=
  ⟨.packed (((f, tag, x, n) :: l).map fun p => (p.1, p.2.1)), tag, x, n⟩
theorem State.packFlush_held {f : FillOp} {tag : Half} {x : Ctx} {n : Nat} {l : List (FillOp × Half × Ctx × Nat)} {s : State}
    (h : s.cc.pack = (f, tag, x, n) :: l) (hroom : ∀ q ∈ entersQueues (fillQueue f) (packedFill f tag x n l).op, s.room q = true) :
    ∃ u, s.packFlush = some u ∧
      Placed (entersQueues (fillQueue f) (packedFill f tag x n l).op) (packedFill f tag x n l) { s with cc := { s.cc with pack := [] } } u := by
  obtain ⟨u, hu, hp⟩ := State.place_placed (q := fillQueue f) (e := packedFill f tag x n l) (s := { s with cc := { s.cc with pack := [] } }) hroom
  refine ⟨u, ?_, hp⟩
  rw [← hu]
  simp only [State.packFlush, h]
  rfl

theorem exec_packHoldExpire_clocked {s : State} (h : s.Clocked) : exec .packHoldExpire s = .next (s.packFlush.getD s) := h.runFast _
theorem exec_stillArrayCfgWrite_served {s : State} (v : Word) (h : s.Served) :
    exec (.stillArrayCfgWrite v) s = .next (s.stillCfgWrite v) := runSlow_served _ h
theorem exec_packFlush_issued {c : EngCmd} {s : State} (h : s.AtHead 22 c) (hop : c.op = .packFlush) :
    exec .packFlush s = .next ((s.issued 22 c).packFlush.getD (s.issued 22 c)) := by
  change execPackFlush s = _
  rw [execPackFlush, h.runHead]
  simp only [hop, issueOr]
/-- A write of STILL_ARRAY_CFG under which thin requests are held, or while none is, sets the register alone. -/
theorem State.stillCfgWrite_holds {v : Word} {s : State} (h : s.cc.pack = [] ∨ (s.setReg 0x24000 (v &&& 0xFFFF0003)).packOn = true) :
    s.stillCfgWrite v = s.setReg 0x24000 (v &&& 0xFFFF0003) := by
  simp only [State.stillCfgWrite]
  split
  · rfl
  next hoff =>
    have hpack : (s.setReg 0x24000 (v &&& 0xFFFF0003)).cc.pack = [] := h.resolve_right hoff
    rw [State.packFlush_empty hpack, Option.getD_some]

/-! Instructions that may run -/

/-- An instruction of a context that may run is executed on the state as it is. -/
theorem State.MayRunAs.instr {c : Ctx} {ks : List (Nat × Nat)} {s : State} (h : s.MayRunAs c ks) (f : State → State) :
    instr c ks s f = .next (f s) := by
  obtain ⟨hclk, hgo, hstall, hbad, hcorr⟩ := h
  have hfetch : s.fetched c = s := by simp only [State.fetched, hcorr, hbad, Bool.or_self, Bool.false_eq_true, if_false]
  simp only [Machine.instr]
  rw [hclk.runFast]
  simp only [hgo, hstall, hbad, hfetch, Bool.not_true, Bool.or_self, Bool.false_eq_true, if_false]
theorem State.MayRunAs.noWalk {c : Ctx} {ks : List (Nat × Nat)} {s : State} (h : s.MayRunAs c ks) : (s.ctxt c).walk = none := by
  obtain ⟨-, hgo, -⟩ := h
  simp only [State.threadGo, Bool.and_eq_true, Option.isNone_iff_eq_none] at hgo
  exact hgo.1.2

/-- From s to u command e, the next in program order, has entered queue q. -/
structure Enqueued (q : Nat) (e : EngCmd) (s u : State) : Prop where
  frame : u = { s with cc := { s.cc with seq := s.cc.seq + 1, queues := u.cc.queues }, ctrs := u.ctrs }
  items : (u.queue q).items = (s.queue q).items ++ [e]
  others : ∀ k, k ≠ q → u.queue k = s.queue k

/-- A context other than the access thread's enqueues a fill while no thin request is held (R230). -/
theorem State.enqueue_fill {c : Ctx} {g : FillOp} {s : State} (hc : c ≠ .acc) (hoff : s.packOn = false) (hpack : s.cc.pack = [])
    (hg : g.target ≠ .joint) (hroom : (s.queue (fillQueue g)).items.length < 32) (tag : Half) :
    ∃ u, s.enqueue c (fillQueue g) (.fill g) tag = some u ∧ Enqueued (fillQueue g) ⟨.fill g, tag, c, s.cc.seq⟩ s u := by
  have hqs : entersQueues (fillQueue g) (.fill g) = [fillQueue g] := by simp only [entersQueues, hg, if_false]
  obtain ⟨u, hu, hp⟩ := State.place_placed (q := fillQueue g) (e := ⟨.fill g, tag, c, s.cc.seq⟩)
    (s := { s with cc := { s.cc with seq := s.cc.seq + 1 } }) (by rw [hqs]; exact List.forall_mem_singleton.mpr (decide_eq_true hroom))
  rw [hqs] at hp
  refine ⟨u, ?_, hp.frame, ?_, fun k hk => ?_⟩
  · simp only [State.enqueue, hc, hoff, State.packFlush_empty hpack, Bool.and_false, Bool.false_eq_true, if_false, Option.bind_some, hu]
  · rw [hp.queue, if_pos (List.mem_singleton_self _)]
    rfl
  · rw [hp.queue, if_neg (by simpa using hk)]
    rfl

/-! Walks (R239) -/

/-- A walk at iteration i of its innermost level. -/
def walkAt (g : FillOp) (w : Nat) (levels : List (Word × Word × Word)) (i : Nat) : WalkRun := ⟨g, w, levels, [i, 0, 0, 0, 0, 0]⟩
/-- Levels 1 to 5 have one iteration, level 0 has n. -/
def OneLevel (n : Nat) (levels : List (Word × Word × Word)) : Prop := levels.map (fun l => fld l.1 0 16) = [n, 1, 1, 1, 1, 1]

/-- One level of n iterations goes from each of them to the next. -/
theorem walkNext_oneLevel (n i : Nat) : walkNext [n, 1, 1, 1, 1, 1] [i, 0, 0, 0, 0, 0] = if i + 1 < n then some [i + 1, 0, 0, 0, 0, 0] else none := by
  simp only [walkNext]
  split <;> simp

/-- From s to u a context has enqueued the fills of m iterations of a walk, from iteration i on, and its walk has ended. -/
structure Walked (c : Ctx) (q : Nat) (fill : Nat → FillOp) (i m : Nat) (s u : State) : Prop where
  frame : u = { s with cc := u.cc, ctrs := u.ctrs }
  ended : (u.ctxt c).walk = none
  others : ∀ k, k ≠ q → u.queue k = s.queue k
  items : ∃ es, (u.queue q).items = (s.queue q).items ++ es ∧ es.length = m ∧
    ∀ j, j < m → ∃ e : EngCmd, es[j]? = some e ∧ e.op = .fill (fill (i + j)) ∧ e.ctx = c ∧ e.seq = s.cc.seq + j

section
variable {c : Ctx} {q i : Nat} {fill : Nat → FillOp} {e : EngCmd} {s v : State} (hop : e.op = .fill (fill i)) (hctx : e.ctx = c)
  (hseq : e.seq = s.cc.seq) (hv : Enqueued q e s v)
include hop hctx hseq hv

/-- One more fill before those that a walk enqueues. -/
theorem Walked.cons {m : Nat} {u : State} (hu : Walked c q fill (i + 1) m v u) : Walked c q fill i (m + 1) s u where
  frame := by rw [hu.frame, hv.frame]
  ended := hu.ended
  others := fun k hk => (hu.others k hk).trans (hv.others k hk)
  items := by
    obtain ⟨es, hes, hlen, hall⟩ := hu.items
    refine ⟨e :: es, by rw [hes, hv.items, List.append_assoc, List.singleton_append], by rw [List.length_cons, hlen], fun j hj => ?_⟩
    cases j with
    | zero => exact ⟨e, rfl, hop, hctx, hseq⟩
    | succ j =>
      obtain ⟨e', he, hop, hctx, hseq⟩ := hall j (by omega)
      refine ⟨e', he, by rw [hop, show i + 1 + j = i + (j + 1) by omega], hctx, ?_⟩
      rw [hseq, hv.frame]
      exact Nat.add_right_comm s.cc.seq 1 j
/-- The last fill of a walk. -/
theorem Walked.single : Walked c q fill i 1 s (v.setCtxt c { v.ctxt c with walk := none }) := by
  have hqueue : ∀ k, (v.setCtxt c { v.ctxt c with walk := none }).queue k = v.queue k := fun k => by cases c <;> rfl
  refine ⟨?_, by rw [State.setCtxt_ctxt], fun k hk => (hqueue k).trans (hv.others k hk), [e], by rw [hqueue, hv.items], rfl, fun j hj => ?_⟩
  · rw [hv.frame]
    cases c <;> rfl
  · obtain rfl : j = 0 := by omega
    exact ⟨e, rfl, hop, hctx, hseq⟩
end

/-- With room for them, a walk of one level enqueues the fills that are left and goes on to the next instruction. -/
theorem walkGo_oneLevel {c : Ctx} {g : FillOp} {w n : Nat} {levels : List (Word × Word × Word)} (hc : c ≠ .acc) (hg : g.target ≠ .joint)
    (hlev : OneLevel n levels) (fuel m i : Nat) (s : State) (hn : i + m + 1 = n) (hoff : s.packOn = false) (hpack : s.cc.pack = [])
    (hroom : (s.queue (fillQueue g)).items.length + m < 32) :
    ∃ u, walkGo c (fuel + m + 1) (walkAt g w levels i) s = u.advance c ∧
      Walked c (fillQueue g) (fun j => walkFill (walkAt g w levels j)) i (m + 1) s u := by
  induction m generalizing i s with
  | zero =>
    obtain ⟨v, hv, hp⟩ := State.enqueue_fill (g := walkFill (walkAt g w levels i)) hc hoff hpack hg hroom
      ((walkFill (walkAt g w levels i)).tag.getD (s.ctxt c).tag)
    have hlast : walkNext (levels.map fun l => fld l.1 0 16) [i, 0, 0, 0, 0, 0] = none := by
      rw [hlev, walkNext_oneLevel, if_neg (by omega)]
    refine ⟨_, ?_, Walked.single rfl rfl rfl hp⟩
    simp only [walkGo, hv]
    simp only [walkAt, hlast]
  | succ m ih =>
    obtain ⟨v, hv, hp⟩ := State.enqueue_fill (g := walkFill (walkAt g w levels i)) hc hoff hpack hg
      (lt_of_le_of_lt (Nat.le_add_right _ _) hroom) ((walkFill (walkAt g w levels i)).tag.getD (s.ctxt c).tag)
    change Enqueued (fillQueue g) _ s v at hp
    have hnext : walkNext (levels.map fun l => fld l.1 0 16) [i, 0, 0, 0, 0, 0] = some [i + 1, 0, 0, 0, 0, 0] := by
      rw [hlev, walkNext_oneLevel, if_pos (by omega)]
    have hlen : (v.queue (fillQueue g)).items.length = (s.queue (fillQueue g)).items.length + 1 := by
      rw [hp.items, List.length_append, List.length_singleton]
    obtain ⟨u, hu, hw⟩ := ih (i + 1) v (by omega) (by rw [hp.frame]; exact hoff) (by rw [hp.frame]; exact hpack) (by omega)
    refine ⟨u, ?_, hw.cons rfl rfl rfl hp⟩
    rw [← hu, show fuel + (m + 1) + 1 = (fuel + m + 1) + 1 by omega, walkGo]
    simp only [hv]
    simp only [walkAt, hnext]

/-- A word of walk w, and its six levels: count and C0 stride, STAT stride, STRM stride. -/
def walkWord (s : State) (w : BitVec 6) (i : Nat) : Word := s.reg (0x13800 + 0x80 * w.toNat + 4 * i)
def walkLevels (s : State) (w : BitVec 6) : List (Word × Word × Word) :=
  (List.range 6).map fun l => (walkWord s w (4 * l), walkWord s w (4 * l + 1), walkWord s w (4 * l + 2))

theorem walkLevels_oneLevel {s : State} {w : BitVec 6} (h : ∀ l, l < 6 → 0 < l → fld (walkWord s w (4 * l)) 0 16 = 1) :
    OneLevel (fld (walkWord s w 0) 0 16) (walkLevels s w) := by
  have h1 := h 1 (by decide) (by decide)
  have h2 := h 2 (by decide) (by decide)
  have h3 := h 3 (by decide) (by decide)
  have h4 := h 4 (by decide) (by decide)
  have h5 := h 5 (by decide) (by decide)
  change [fld (walkWord s w (4 * 0)) 0 16, fld (walkWord s w (4 * 1)) 0 16, fld (walkWord s w (4 * 2)) 0 16, fld (walkWord s w (4 * 3)) 0 16,
    fld (walkWord s w (4 * 4)) 0 16, fld (walkWord s w (4 * 5)) 0 16] = _
  rw [h1, h2, h3, h4, h5]
/-- In a walk that is at iteration i of level 0, an address has moved by i strides of that level. -/
theorem walkAt_dot (s : State) (w : BitVec 6) (i : Nat) (f : Word × Word × Word → Int) :
    (((walkLevels s w).zip [i, 0, 0, 0, 0, 0]).map fun p => (p.2 : Int) * f p.1).sum = i * f (walkWord s w 0, walkWord s w 1, walkWord s w 2) := by
  simp [walkLevels, List.range_succ]

section
variable {c : Ctx} {f : FillOp} {w : BitVec 6} {s : State} (h : s.MayRun c) (hc : c ≠ .acc) (hw : w.toNat ≤ 15)
include h hc hw

theorem exec_fillWalk_empty {l : Nat} (hl : l < 6) (h0 : fld (walkWord s w (4 * l)) 0 16 = 0) : exec (.fillWalk c f w) s = .next (s.advance c) := by
  have hany : ((walkLevels s w).any fun l => fld l.1 0 16 == 0) = true := by
    refine List.any_eq_true.mpr ⟨_, List.mem_map.mpr ⟨l, List.mem_range.mpr hl, rfl⟩, ?_⟩
    simpa using h0
  change execFillWalk c f w s = _
  rw [execFillWalk, h.noWalk]
  refine (h.instr _).trans ?_
  rw [if_neg hc, if_neg (Nat.not_lt.mpr hw)]
  exact congrArg Host.Outcome.next (if_pos hany)
theorem exec_fillWalk_starts {g : FillOp} (hcap : s.capture c (.fill f) = .fill g) (hy : s.yields c = false)
    (hne : ∀ l, l < 6 → fld (walkWord s w (4 * l)) 0 16 ≠ 0) :
    exec (.fillWalk c f w) s = .next (walkGo c 1024 (walkAt g w.toNat (walkLevels s w) 0) (s.served c)) := by
  have hany : ¬((walkLevels s w).any fun l => fld l.1 0 16 == 0) = true := by
    rw [List.any_eq_true]
    rintro ⟨_, hmem, h0⟩
    obtain ⟨l, hl, rfl⟩ := List.mem_map.mp hmem
    exact hne l (List.mem_range.mp hl) (by simpa using h0)
  change execFillWalk c f w s = _
  rw [execFillWalk, h.noWalk]
  refine (h.instr _).trans ?_
  rw [if_neg hc, if_neg (Nat.not_lt.mpr hw)]
  refine congrArg Host.Outcome.next ((if_neg hany).trans ?_)
  rw [hcap, hy]
  rfl
end

/-- What serving a context leaves of the control core, as far as a walk goes by it. -/
theorem State.served_eq (c : Ctx) (s : State) : ∃ b, s.served c = { s with cc := { s.cc with e1Next := b } } := by
  simp only [State.served]
  split
  exacts [⟨false, rfl⟩, ⟨s.cc.e1Next, rfl⟩]

/-- A walk of one level, with room for its fills, enqueues them and goes on to the next instruction (R239). -/
theorem fillWalk_oneLevel {c : Ctx} {f g : FillOp} {w : BitVec 6} {s : State} (h : s.MayRun c) (hc : c ≠ .acc) (hw : w.toNat ≤ 15)
    (hcap : s.capture c (.fill f) = .fill g) (hy : s.yields c = false) (hoff : s.packOn = false) (hpack : s.cc.pack = [])
    (hg : g.target ≠ .joint) (hn : 0 < fld (walkWord s w 0) 0 16) (hone : ∀ l, l < 6 → 0 < l → fld (walkWord s w (4 * l)) 0 16 = 1)
    (hroom : (s.queue (fillQueue g)).items.length + fld (walkWord s w 0) 0 16 ≤ 32) :
    ∃ u, exec (.fillWalk c f w) s = .next (u.advance c) ∧
      Walked c (fillQueue g) (fun j => walkFill (walkAt g w.toNat (walkLevels s w) j)) 0 (fld (walkWord s w 0) 0 16) s u := by
  obtain ⟨m, hm⟩ := Nat.exists_eq_add_one_of_ne_zero (Nat.ne_of_gt hn)
  obtain ⟨b, hb⟩ := s.served_eq c
  have hne : ∀ l, l < 6 → fld (walkWord s w (4 * l)) 0 16 ≠ 0 := fun l hl => by
    cases l with
    | zero => exact Nat.ne_of_gt hn
    | succ l => simp [hone (l + 1) hl l.succ_pos]
  obtain ⟨u, hu, hwalk⟩ := walkGo_oneLevel (w := w.toNat) hc hg (walkLevels_oneLevel hone) (1023 - m) m 0 (s.served c) (by omega)
    (by rw [hb]; exact hoff) (by rw [hb]; exact hpack) (by rw [hb]; exact (by omega : (s.queue (fillQueue g)).items.length + m < 32))
  rw [hb] at hwalk
  refine ⟨u, ?_, hwalk.frame, hwalk.ended, hwalk.others, hm ▸ hwalk.items⟩
  rw [exec_fillWalk_starts h hc hw hcap hy hne, ← hu, show 1023 - m + m + 1 = 1024 by omega]

/-- Settles O45: each setting at the head of XCTL, the packed fill of a held set, and a walk of one level. -/
theorem stillSettingsTakeEffectInOrder : Obligations.StillSettingsTakeEffectInOrder := by
  unfold Obligations.StillSettingsTakeEffectInOrder
  refine ⟨fun c m s h hop => exec_pairing_issued h hop, klutLoad_table,
    fun c m r0 c0 s h hop h0 h1 => exec_dwMask_issued h hop h0 h1 fun r hr => (nomatch hr),
    fun c m r0 c0 r s h hop h0 h1 hs1 hs2 hal hsp => exec_dwMask_issued h hop h0 h1 fun r' hr => ?mask,
    fun f tag x n l s hs hroom => ?packed, fun s hclk hs => ?expire, fun v s hsv hs => ?config, fun c s u h hop hu => ?flush,
    fun c s h hop hs => ?flushNone, fun c f w l s h hc hw hl h0 => exec_fillWalk_empty h hc hw hl ?empty,
    fun c f g w s h hc hw hcap hy hoff hpack hg hn hone hroom => ?walk⟩
  case mask =>
    obtain rfl := Option.some.inj hr
    exact ⟨hs1, hs2, hal, hsp⟩
  case packed =>
    obtain ⟨u, hu, hp⟩ := State.packFlush_held hs hroom
    refine ⟨u, hu, by rw [hp.frame], hp.queue, hp.frame, fun hclk => ?_, fun v w' hsv hw hoff => ?_⟩
    · rw [exec_packHoldExpire_clocked hclk, hu]
      rfl
    · subst hw
      obtain ⟨t, ht, hq⟩ := State.packFlush_held (s := s.setReg 0x24000 (v &&& 0xFFFF0003)) hs hroom
      refine ⟨t, ?_, by rw [hq.frame], fun k => (hq.queue k).trans (hp.queue k).symm, ?_, fun o ho => ?_⟩
      · rw [exec_stillArrayCfgWrite_served v hsv]
        simp only [State.stillCfgWrite, hoff, ht]
        rfl
      · rw [hq.frame]
        exact (State.setReg_reg 0x24000 0x24000 _ s).trans (if_pos rfl)
      · rw [hq.frame]
        exact (State.setReg_reg 0x24000 o _ s).trans (if_neg (by simpa using ho))
  case expire =>
    rw [exec_packHoldExpire_clocked hclk, State.packFlush_empty hs]
    rfl
  case config => rw [exec_stillArrayCfgWrite_served v hsv, State.stillCfgWrite_holds hs]
  case flush =>
    rw [exec_packFlush_issued h hop, hu]
    rfl
  case flushNone =>
    obtain ⟨y, k, hi⟩ := State.issued_queues (q := 22) (by decide) c s
    have hpack : (s.issued 22 c).cc.pack = [] := by rw [hi]; exact hs
    rw [exec_packFlush_issued h hop, State.packFlush_empty hpack]
    rfl
  case empty =>
    rw [walkWord, show 4 * (4 * l) = 16 * l by omega]
    exact h0
  case walk =>
    obtain ⟨u, hu, hwalk⟩ := fillWalk_oneLevel h hc hw hcap hy hoff hpack hg hn hone hroom
    obtain ⟨es, hes, hlen, hall⟩ := hwalk.items
    refine ⟨u, hu, hwalk.frame, hwalk.ended, hwalk.others, es, hes, hlen, fun i hi => ?_⟩
    obtain ⟨e, he, hop, hctx, hseq⟩ := hall i hi
    rw [Nat.zero_add] at hop
    refine ⟨e, _, he, hop, hctx, hseq, ?_, ?_, ?_, rfl, rfl, rfl, rfl, rfl⟩
    · exact congrArg (fun d => g.stat.t.base + BitVec.ofInt 32 d) (walkAt_dot s w i fun l => l.2.1.toInt)
    · exact congrArg (fun d => g.strm.t.base + BitVec.ofInt 32 d) (walkAt_dot s w i fun l => l.2.2.toInt)
    · exact congrArg (fun d => g.c0.imm + BitVec.ofInt 64 (8 * d)) (walkAt_dot s w i fun l => (l.1.extractLsb' 20 12).toInt)

end Sys2Proof.Machine
end

section
/-! Proofs about the reads of operands (R94, R253, R287): what they change, and what of a state they and the values read go by. -/

namespace Sys2Proof.Machine

/-! What reads change -/

/-- The poisoned tiles once a word at a has been read with bad parity (R94). -/
def poisonTile (p : List (Nat × Nat)) (a : Nat) : List (Nat × Nat) := if p.contains (accTile a) then p else p ++ [accTile a]
/-- The poisoned tiles once [a, a + n) has been read, the words of `bad` holding bad parity. -/
def poisonRange (bad : List Nat) (a n : Nat) (p : List (Nat × Nat)) : List (Nat × Nat) :=
  (bad.filter fun e => isAcc e && decide (e < a + n) && decide (a < e + 4)).foldl poisonTile p

theorem State.accPoison_poison (a : Nat) (s : State) : (s.accPoison a).poison = poisonTile s.poison a := by
  simp [State.accPoison, poisonTile]
theorem State.accCheck_poison (a n : Nat) (s : State) : (s.accCheck a n).poison = poisonRange s.parBad a n s.poison := by
  simp only [State.accCheck, poisonRange]
  generalize s.parBad.filter _ = l
  induction l generalizing s with
  | nil => rfl
  | cons e l ih => rw [List.foldl_cons, List.foldl_cons, ih, State.accPoison_poison]
theorem State.touchBy_poison (r : Reader) (a n : Nat) (s : State) :
    (s.touchBy r a n).poison = if n = 0 then s.poison else poisonRange s.parBad a n s.poison := by
  simp only [State.touchBy]
  split
  · rfl
  · obtain ⟨d, k, hpf⟩ := State.pfRead_eq r.req a n ((s.eccCheck r a n).accCheck a n)
    obtain ⟨e, l, k', g, hecc⟩ := State.eccCheck_eq r a n s
    rw [hpf]
    refine (State.accCheck_poison a n _).trans ?_
    rw [hecc]

/-- From s to t local memory has been read and events have been counted, and nothing else has changed. -/
structure ReadFrom (s t : State) : Prop where
  frame : t = { s with eccCorr := t.eccCorr, poison := t.poison, dma := { s.dma with pf := t.dma.pf }, logs := t.logs, ctrs := t.ctrs, regs := t.regs }
  regs : SameRegsBut [0x04000] s t
  poison : s.parBad = [] → t.poison = s.poison

namespace ReadFrom
variable {s t u : State}

theorem refl (s : State) : ReadFrom s s := ⟨rfl, fun _ _ => rfl, fun _ => rfl⟩
theorem trans (h : ReadFrom s t) (h' : ReadFrom t u) : ReadFrom s u where
  frame := by rw [h'.frame, h.frame]
  regs := fun o ho => (h'.regs o ho).trans (h.regs o ho)
  poison := fun hp => (h'.poison (by rw [h.frame]; exact hp)).trans (h.poison hp)
theorem foldl {α : Type} {f : State → α → State} (hf : ∀ s x, ReadFrom s (f s x)) (l : List α) (s : State) : ReadFrom s (l.foldl f s) := by
  induction l generalizing s with
  | nil => exact refl s
  | cons x l ih => exact (hf s x).trans (ih _)

theorem mem (h : ReadFrom s t) : t.mem = s.mem := by rw [h.frame]
theorem parBad (h : ReadFrom s t) : t.parBad = s.parBad := by rw [h.frame]

theorem count (off n : Nat) (s : State) : ReadFrom s (s.count off n) where
  frame := by
    obtain ⟨k, hk⟩ := State.count_eq off n s
    rw [hk]
  regs := fun o _ => by simp
  poison := fun _ => by simp
theorem accCheck (a n : Nat) (s : State) : ReadFrom s (s.accCheck a n) where
  frame := by
    obtain ⟨p, l, k, g, h⟩ := State.accCheck_eq a n s
    rw [h]
  regs := (s.accCheck_accessed a n).regs
  poison := fun hp => by rw [State.accCheck_poison, hp]; rfl
theorem touch (req a n : Nat) (s : State) : ReadFrom s (s.touch req a n) where
  frame := by
    obtain ⟨e, p, d, l, k, g, h⟩ := State.touch_eq req a n s
    rw [h]
  regs := (s.touchBy_accessed { req := req } a n).regs
  poison := fun hp => by
    rw [State.touch, State.touchBy_poison, hp]
    exact ite_self _
theorem touchRun (req : Nat) (t : Tile) (sr c0 c1 : Nat) (s : State) : ReadFrom s (touchRun req t sr c0 c1 s) := by
  simp only [Machine.touchRun]
  split
  · exact refl s
  · split
    exacts [touch _ _ _ s, (touch _ _ _ s).trans (touch _ _ _ _)]
theorem touchBox (req : Nat) (t : Tile) (b : Box) (s : State) : ReadFrom s (touchBox req t b s) := by
  simp only [Machine.touchBox]
  split
  · exact (foldl (fun s i => touchRun req t _ _ _ s) _ s).trans ((touch _ _ _ _).trans (touch _ _ _ _))
  · exact foldl (fun s i => touchRun req t _ _ _ s) _ s

end ReadFrom

/-! What the values read go by -/

/-- Two states show an operand alike: the same bytes, bad words, poisoned tiles, vector registers and tables, and the same words
still to be found with bad parity. -/
structure SameView (s t : State) : Prop where
  mem : t.mem = s.mem
  eccBad : t.eccBad = s.eccBad
  parBad : t.parBad = s.parBad
  poison : t.poison = s.poison
  v : t.vec.v = s.vec.v
  regs : SameRegsBut [0x04000] s t

namespace SameView
variable {s t : State}

theorem of_reads {s' t' : State} (h : SameView s t) (hs : ReadFrom s s') (ht : ReadFrom t t') (hp : t'.poison = s'.poison) : SameView s' t' where
  mem := by rw [hs.frame, ht.frame]; exact h.mem
  eccBad := by rw [hs.frame, ht.frame]; exact h.eccBad
  parBad := by rw [hs.frame, ht.frame]; exact h.parBad
  poison := hp
  v := by rw [hs.frame, ht.frame]; exact h.v
  regs := fun o ho => by rw [ht.regs o ho, hs.regs o ho, h.regs o ho]
theorem touch (h : SameView s t) (req a n : Nat) : SameView (s.touch req a n) (t.touch req a n) := by
  refine h.of_reads (.touch req a n s) (.touch req a n t) ?_
  rw [State.touch, State.touch, State.touchBy_poison, State.touchBy_poison, h.parBad, h.poison]
theorem touchRun (h : SameView s t) (req : Nat) (k : Tile) (sr c0 c1 : Nat) : SameView (touchRun req k sr c0 c1 s) (touchRun req k sr c0 c1 t) := by
  simp only [Machine.touchRun]
  split
  · exact h
  · split
    exacts [h.touch _ _ _, (h.touch _ _ _).touch _ _ _]
theorem touchBox (h : SameView s t) (req : Nat) (k : Tile) (b : Box) : SameView (touchBox req k b s) (touchBox req k b t) := by
  have hruns := List.foldl_rel (l := List.range ((sBox k b).r1 - (sBox k b).r0)) h
    fun i _ s t h => h.touchRun req k ((sBox k b).r0 + i) (sBox k b).c0 (sBox k b).c1
  simp only [Machine.touchBox]
  split
  exacts [(hruns.touch _ _ _).touch _ _ _, hruns]

theorem byte (h : SameView s t) (a : Nat) : t.byte a = s.byte a := by simp only [State.byte, h.mem]
theorem seenLe (h : SameView s t) (a n : Nat) : t.seenLe a n = s.seenLe a n := by
  have hseen : ∀ a, t.seen a = s.seen a := fun a => by simp only [State.seen, h.poison, h.byte]
  have hseens : t.seens a n = s.seens a n := by
    induction n generalizing a with
    | zero => rfl
    | succ n ih => rw [State.seens, State.seens, hseen, ih]
  rw [State.seenLe, State.seenLe, hseens]
theorem klutEntry (h : SameView s t) (k i : Nat) : klutEntry t k i = klutEntry s k i := by
  simp only [Machine.klutEntry]
  rw [h.regs _ (by simp only [List.mem_singleton]; omega)]
theorem readElem (h : SameView s t) (k : Tile) (r c : Nat) : readElem t k r c = readElem s k r c := by
  have hle : ∀ a n, t.le a n = s.le a n := fun a n => congrArg leNat (State.bytes_congr s t a n fun _ _ => h.byte _)
  have hbad : ∀ a, t.poisonedAt a = s.poisonedAt a := fun a => by simp only [State.poisonedAt, h.eccBad]
  have hbads : ∀ a n, t.poisonedIn a n = s.poisonedIn a n := fun a n => by simp only [State.poisonedIn, h.eccBad]
  have hcode : ∀ sr sc, readCode t k sr sc = readCode s k sr sc := fun sr sc => by simp only [readCode, h.seenLe, hbads]
  have hscale : ∀ sr sc, readScale t k sr sc = readScale s k sr sc := fun sr sc => by simp only [readScale, hbad, h.byte]
  have hstored : ∀ sr sc, readStored t k sr sc = readStored s k sr sc := fun sr sc => by
    simp only [readStored, hcode, hscale, h.klutEntry, h.byte, hle, hbad, hbads]
  simp only [Machine.readElem, hstored]
theorem srcVal (h : SameView s t) (p : Option Packed) (v : VSrc) (i : Nat) : srcVal t p v i = srcVal s p v i := by
  have hlane : ∀ d i, t.lane d i = s.lane d i := fun d i => by simp only [State.lane, h.v]
  cases v with
  | bcast o => rfl
  | reg r => cases p <;> simp only [Machine.srcVal, State.packedEl, hlane]
  | cols k c0 => simp only [Machine.srcVal, inEl, h.readElem]

end SameView

end Sys2Proof.Machine
end

section
/-! Proofs about vector operations and splits (R105, R146–R149, R158): the lanes, flags and summary registers they write. -/

namespace Sys2Proof.Machine

/-! Lists -/

theorem getAt_map_range {α : Type} (d : α) (f : Nat → α) {n i : Nat} (h : i < n) : getAt d ((List.range n).map f) i = f i := by
  have hget : ∀ (l : List α) (i : Nat), getAt d l i = l.getD i d := fun l => by
    induction l with
    | nil => exact fun _ => rfl
    | cons a l ih =>
      rintro (_ | i)
      · rfl
      · exact (ih i).trans (List.getD_cons_succ).symm
  rw [hget, List.getD_eq_getElem _ _ (by simpa using h), List.getElem_map, List.getElem_range]
/-- Flags are ORed one after the other: what was there before can be ORed last. -/
theorem foldl_or {α : Type} (g : α → Flags) (l : List α) (a : Flags) : l.foldl (fun f x => f ||| g x) a = a ||| l.foldl (fun f x => f ||| g x) 0 := by
  induction l generalizing a with
  | nil => simp
  | cons x l ih => rw [List.foldl_cons, List.foldl_cons, ih, ih (0 ||| g x), BitVec.or_assoc, show 0 ||| g x = g x from BitVec.zero_or]
theorem foldl_results {α : Type} (r : Nat → α) (g : α → Flags) (n : Nat) (a : Flags) :
    a ||| ((List.range n).map r).foldl (fun f x => f ||| g x) 0 = (List.range n).foldl (fun f i => f ||| g (r i)) a := by
  rw [List.foldl_map, ← foldl_or (fun i => g (r i))]

/-- Checks that pass one after the other pass each. -/
theorem firstRej_none {l : List (Option Rej)} (h : firstRej l = none) : ∀ r ∈ l, r = none := by
  induction l with
  | nil => exact fun _ hr => absurd hr List.not_mem_nil
  | cons a l ih =>
    cases a with
    | some r => cases h
    | none => exact List.forall_mem_cons.mpr ⟨rfl, ih h⟩

/-! Vector registers (R144) -/

/-- A half of a lane, after either half is set. -/
theorem fld_setFld_half (w : Word) (c : Nat) {b k : Nat} (hb : b < 2) (hk : k < 2) :
    fld (setFld w (16 * b) 16 c) (16 * k) 16 = if k = b then c % 65536 else fld w (16 * k) 16 := by
  have hw := w.isLt
  obtain rfl | rfl : b = 0 ∨ b = 1 := by omega
  all_goals
    obtain rfl | rfl : k = 0 ∨ k = 1 := by omega
    all_goals
      simp only [fld, setFld, BitVec.toNat_ofNat]
      simp
      omega

theorem State.setLane_lane (r d : Nat) {i j : Nat} (w : Word) (s : State) (hi : i < 512) (hj : j < 512) :
    (s.setLane r i w).lane d j = if j = i then (if d = r then w else s.lane d i) else s.lane d j := by
  refine (Tab.get_set 0 s.vec.v (512 * r + i) (512 * d + j) w).trans ?_
  by_cases hj' : j = i
  · subst hj'
    simp [State.lane]
  · rw [if_neg hj', if_neg (by omega)]
    rfl
theorem State.setPacked_packedEl (r d c : Nat) {i j : Nat} (s : State) (hi : i < 1024) (hj : j < 1024) :
    (s.setPacked r i c).packedEl d j = if j = i then (if d = r then c % 65536 else s.packedEl d i) else s.packedEl d j := by
  simp only [State.packedEl, State.setPacked]
  rw [State.setLane_lane r d _ s (by omega) (by omega)]
  by_cases hl : j / 2 = i / 2
  · by_cases hd : d = r
    · subst hd
      rw [if_pos hl, if_pos rfl, if_pos rfl, fld_setFld_half _ c (Nat.mod_lt _ (by decide)) (Nat.mod_lt _ (by decide)), hl]
      exact if_congr (by omega) rfl rfl
    · rw [if_pos hl, if_neg hd, if_neg hd, ← hl]
      split
      exacts [by subst_vars; rfl, rfl]
  · rw [if_neg hl, if_neg fun h => hl (by rw [h])]
/-- Elements of registers written in turn, each step its own element i of every register d: each is written once. -/
theorem foldl_writes {β : Type} {get : State → Nat → Nat → β} {put : State → Nat → State} {new : Nat → Nat → β → β} {m : Nat}
    (h : ∀ s d i j, i < m → j < m → get (put s i) d j = if j = i then new d i (get s d i) else get s d j) {n i : Nat} (hn : n ≤ m) (hi : i < m)
    (d : Nat) (s : State) : get ((List.range n).foldl put s) d i = if i < n then new d i (get s d i) else get s d i := by
  induction n with
  | zero => simp
  | succ n ih =>
    rw [List.range_succ, List.foldl_append, List.foldl_cons, List.foldl_nil, h _ _ _ _ hn hi, ih (Nat.le_of_succ_le hn)]
    by_cases hin : i = n
    · subst hin
      rw [if_pos rfl, ih (Nat.le_of_succ_le hn), if_neg (Nat.lt_irrefl i), if_pos (Nat.lt_succ_self i)]
    · rw [if_neg hin]
      exact if_congr (by omega) rfl rfl

theorem State.lane_congr {s t : State} (h : t.vec.v = s.vec.v) (d i : Nat) : t.lane d i = s.lane d i := by rw [State.lane, State.lane, h]
theorem State.packedEl_congr {s t : State} (h : t.vec.v = s.vec.v) (d i : Nat) : t.packedEl d i = s.packedEl d i := by
  rw [State.packedEl, State.packedEl, State.lane_congr h]

/-- From s to t only vector registers have changed. -/
def LanesOnly (s t : State) : Prop := t = { s with vec := { s.vec with v := t.vec.v } }

theorem LanesOnly.trans {s t u : State} (h : LanesOnly s t) (h' : LanesOnly t u) : LanesOnly s u := by
  rw [LanesOnly] at *
  rw [h', h]
theorem LanesOnly.foldl {α : Type} {f : State → α → State} (hf : ∀ s x, LanesOnly s (f s x)) (l : List α) (s : State) : LanesOnly s (l.foldl f s) := by
  induction l generalizing s with
  | nil => rfl
  | cons x l ih => exact (hf s x).trans (ih _)

theorem State.setLane_only (r i : Nat) (w : Word) (s : State) : LanesOnly s (s.setLane r i w) := rfl
theorem State.setPacked_only (r i c : Nat) (s : State) : LanesOnly s (s.setPacked r i c) := rfl
theorem setLanes_only (r n : Nat) (w : Nat → Word) (s : State) : LanesOnly s ((List.range n).foldl (fun s i => s.setLane r i (w i)) s) :=
  .foldl (fun s i => s.setLane_only r i (w i)) _ s
theorem setPackeds_only (r n : Nat) (c : Nat → Nat) (s : State) : LanesOnly s ((List.range n).foldl (fun s i => s.setPacked r i (c i)) s) :=
  .foldl (fun s i => s.setPacked_only r i (c i)) _ s

/-- The three parts of each of the first n lanes, set one after the other. -/
def setParts (d0 d1 d2 n : Nat) (p : Nat → Nat × Nat × Nat) (s : State) : State :=
  (List.range n).foldl (fun s i => ((s.setPacked d0 i (p i).1).setPacked d1 i (p i).2.1).setPacked d2 i (p i).2.2) s
theorem setParts_only (d0 d1 d2 n : Nat) (p : Nat → Nat × Nat × Nat) (s : State) : LanesOnly s (setParts d0 d1 d2 n p s) :=
  .foldl (fun s i => ((s.setPacked_only d0 i _).trans (State.setPacked_only d1 i _ _)).trans (State.setPacked_only d2 i _ _)) _ s

/-- Setting the first n lanes of a register. -/
theorem setLanes_lane (r d : Nat) {n i : Nat} (w : Nat → Word) (s : State) (hn : n ≤ 512) (hi : i < 512) :
    ((List.range n).foldl (fun s i => s.setLane r i (w i)) s).lane d i = if d = r ∧ i < n then w i else s.lane d i := by
  rw [foldl_writes (get := State.lane) (new := fun d i x => if d = r then w i else x) (fun s d i j => State.setLane_lane r d (w i) s) hn hi, ← ite_and]
  exact if_congr and_comm rfl rfl
/-- Setting the first n elements of a packed register. -/
theorem setPackeds_packedEl (r d : Nat) {n i : Nat} (c : Nat → Nat) (s : State) (hn : n ≤ 1024) (hi : i < 1024) :
    ((List.range n).foldl (fun s i => s.setPacked r i (c i)) s).packedEl d i = if d = r ∧ i < n then c i % 65536 else s.packedEl d i := by
  rw [foldl_writes (get := State.packedEl) (new := fun d i x => if d = r then c i % 65536 else x)
    (fun s d i j => State.setPacked_packedEl r d (c i) s) hn hi, ← ite_and]
  exact if_congr and_comm rfl rfl
/-- Of destinations of the three parts that coincide the last one holds its part. -/
theorem setParts_packedEl (d0 d1 d2 d : Nat) {n i : Nat} (p : Nat → Nat × Nat × Nat) (s : State) (hn : n ≤ 1024) (hi : i < 1024) :
    (setParts d0 d1 d2 n p s).packedEl d i = if i < n then
      (if d = d2 then (p i).2.2 % 65536 else if d = d1 then (p i).2.1 % 65536 else if d = d0 then (p i).1 % 65536 else s.packedEl d i)
      else s.packedEl d i := by
  refine foldl_writes (get := State.packedEl) (new := fun d i x => if d = d2 then (p i).2.2 % 65536 else if d = d1 then (p i).2.1 % 65536 else
    if d = d0 then (p i).1 % 65536 else x) (fun s d i j hi hj => ?_) hn hi d s
  rw [State.setPacked_packedEl d2 d _ _ hi hj, State.setPacked_packedEl d1 d _ _ hi hi, State.setPacked_packedEl d0 d _ _ hi hi,
    State.setPacked_packedEl d1 d _ _ hi hj, State.setPacked_packedEl d0 d _ _ hi hj]
  by_cases h : j = i <;> simp [h]

/-! Reductions (R158) -/

/-- A summary register as an attached reduction finds it: emptied under INIT. -/
def redStart (r : RedAtt) (v : Sum) : Sum := if r.init then ⟨redEmpty r.kind, 0xFFFFFFFF, r.kind, true, 0⟩ else v

/-- A step of an attached reduction changes its summary register alone. -/
def SumStep (f : State → RedAtt → State) (g : RedAtt → Sum → Sum) : Prop :=
  ∀ s r, ∃ y, f s r = { s with vec := { s.vec with sums := y } } ∧ ∀ m, Tab.get Sum.reset y m = if m = r.reg.toNat then g r (s.sum m) else s.sum m

theorem redInit_sumStep : SumStep (fun s r => redInit r s) redStart := fun s r => by
  simp only [redInit, redStart]
  split
  · refine ⟨_, rfl, fun m => (Tab.get_set _ _ _ _ _).trans ?_⟩
    rfl
  · exact ⟨s.vec.sums, rfl, fun m => (ite_self _).symm⟩
theorem redAbsorb_sumStep (l : List (Option XVal)) : SumStep (fun s r => redAbsorb r l s) (fun _ v => redBeat v l) := fun s r => by
  refine ⟨_, rfl, fun m => (Tab.get_set _ _ _ _ _).trans ?_⟩
  split
  · subst_vars; rfl
  · rfl
/-- Steps of reductions into different registers change each its own. -/
theorem SumStep.foldl {f : State → RedAtt → State} {g : RedAtt → Sum → Sum} (hf : SumStep f g) {l : List RedAtt} (hnd : (l.map RedAtt.reg).Nodup) (s : State) :
    ∃ y, l.foldl f s = { s with vec := { s.vec with sums := y } } ∧ (∀ m, m ∉ l.map RedAtt.reg → Tab.get Sum.reset y m.toNat = s.sum m.toNat) ∧
      ∀ a ∈ l, Tab.get Sum.reset y a.reg.toNat = g a (s.sum a.reg.toNat) := by
  induction l generalizing s with
  | nil => exact ⟨s.vec.sums, rfl, fun _ _ => rfl, fun _ h => absurd h List.not_mem_nil⟩
  | cons r l ih =>
    obtain ⟨hr, hnd⟩ := List.nodup_cons.mp hnd
    obtain ⟨x, hx, hone⟩ := hf s r
    obtain ⟨y, hy, hoff, hon⟩ := ih hnd (f s r)
    have hother : ∀ m, m ≠ r.reg → (f s r).sum m.toNat = s.sum m.toNat := fun m hm => by
      rw [hx]
      exact (hone m.toNat).trans (if_neg fun h => hm (BitVec.eq_of_toNat_eq h))
    refine ⟨y, by rw [List.foldl_cons, hy, hx], fun m hm => ?_, fun a ha => ?_⟩
    · rw [List.map_cons, List.mem_cons, not_or] at hm
      rw [hoff m hm.2, hother m hm.1]
    · obtain rfl | ha := List.mem_cons.mp ha
      · rw [hoff _ hr, hx]
        exact (hone _).trans (if_pos rfl)
      · rw [hon a ha, hother _ fun h => hr (h ▸ List.mem_map_of_mem ha)]
/-- Reductions that pass their checks name different registers. -/
theorem redChk_nodup {s : State} {rs : List RedAtt} (h : redChk s rs = none) : (rs.map RedAtt.reg).Nodup := by
  have hlen : ¬ 2 < rs.length := fun hl => by simp [redChk, hl, operandInvalid] at h
  have hdup : (rs.map RedAtt.reg).eraseDups.length = rs.length := by
    by_contra hne
    simp only [redChk, hlen, hne, if_false, ne_eq, not_false_eq_true, if_true, operandInvalid] at h
    split at h <;> cases h
  match rs with
  | [] => exact List.nodup_nil
  | [a] => exact List.nodup_singleton _
  | [a, b] =>
    simp only [List.map_cons, List.map_nil, List.nodup_cons, List.mem_singleton, List.not_mem_nil, not_false_eq_true, List.nodup_nil, and_true]
    intro hab
    simp [List.eraseDups_cons, hab] at hdup
  | _ :: _ :: _ :: _ => simp at hlen

theorem vopChk_nodup {s : State} {n : Nat} {o : VOp} (h : vopChk s n o = none) : (o.reds.map RedAtt.reg).Nodup := by
  refine redChk_nodup (s := s) ?_
  rw [vopChk] at h
  exact firstRej_none h _ (by simp)

/-! Vector operations (R146–R149) -/

/-- The state in which a vector operation over n lanes computes: its reductions emptied under INIT, its column operands read. -/
def vopStart (o : VOp) (n : Nat) (s : State) : State :=
  (vCols o n).foldl (fun s p => touchBox 2 p.1.t p.2 s) ((o.reds.foldl (fun s r => redInit r s) s).count 0x40010 1)
/-- The state whose column operands have been read. -/
def vopReads (o : VOp) (n : Nat) (s : State) : State := (vCols o n).foldl (fun s p => touchBox 2 p.1.t p.2 s) s
/-- The result and flags of lane i, and of packed element i. -/
def vopLane (o : VOp) (s : State) (i : Nat) : XVal × Flags := vElem o.f ((vSources o).map fun v => srcVal s none v i)
def vopElem (o : VOp) (p : Packed) (ieee : Bool) (s : State) (i : Nat) : Nat × Flags :=
  vPackElem ieee p o.f ((vSources o).map fun v => srcVal s (some p) v i)
/-- The special functions evaluated are counted (R153). -/
def countSfu (f : VFun) (n : Nat) (s : State) : State := match f with | .sfu _ => s.count 0x40020 n | _ => s

/-- From the state s after the issue to t a vector operation has raised the flags fl; beside the vector registers and its summary
registers nothing else has changed but by the reads of column operands. -/
structure VopDone (o : VOp) (fl : Flags) (s t : State) : Prop where
  flags : t.flags 4 = s.flags 4 ||| fl
  sumsOff : ∀ m, m ∉ o.reds.map RedAtt.reg → t.sum m.toNat = s.sum m.toNat
  regs : SameRegsBut [0x38040, 0x04000] s t
  frame : t = { s with vec := { s.vec with v := t.vec.v, sums := t.vec.sums }, regs := t.regs, ctrs := t.ctrs, logs := t.logs
                       eccCorr := t.eccCorr, poison := t.poison, dma := { s.dma with pf := t.dma.pf } }
  noCols : (∀ v ∈ vSources o, colTile v = none) →
    t = { s with vec := { s.vec with v := t.vec.v, sums := t.vec.sums }, regs := t.regs, ctrs := t.ctrs } ∧ t.reg 0x04000 = s.reg 0x04000

/-- The reductions of an operation have absorbed vals. -/
def Absorbed (o : VOp) (vals : List (Option XVal)) (s t : State) : Prop :=
  ∀ a ∈ o.reds, t.sum a.reg.toNat = redBeat (redStart a (s.sum a.reg.toNat)) vals

theorem VopDone.refl (o : VOp) (s : State) : VopDone o 0 s s :=
  ⟨(BitVec.or_zero).symm, fun _ _ => rfl, fun _ _ => rfl, rfl, fun _ => ⟨rfl, rfl⟩⟩
theorem vCols_nil {o : VOp} (n : Nat) (h : ∀ v ∈ vSources o, colTile v = none) : vCols o n = [] := by
  refine List.filterMap_eq_nil_iff.mpr fun v hv => ?_
  have := h v hv
  cases v with
  | reg r => rfl
  | bcast w => rfl
  | cols k c0 => cases this
theorem countSfu_eq (f : VFun) (n : Nat) (s : State) : ∃ k, countSfu f n s = { s with ctrs := k } := by
  unfold countSfu
  split
  exacts [State.count_eq _ _ s, ⟨s.ctrs, rfl⟩]
theorem State.raiseFlags_flags (f : Flags) (s : State) : (s.raiseFlags 4 f).flags 4 = s.flags 4 ||| f := by
  simp [State.raiseFlags, State.flags, BitVec.setWidth_or]
/-- Where a vector operation starts, its columns have been read from a state whose summary registers are those of its reductions. -/
theorem vopStart_eq {o : VOp} (hnd : (o.reds.map RedAtt.reg).Nodup) (n : Nat) (s : State) : ∃ y k u, vopStart o n s = u ∧
    ReadFrom { s with vec := { s.vec with sums := y }, ctrs := k } u ∧
    ((∀ v ∈ vSources o, colTile v = none) → u = { s with vec := { s.vec with sums := y }, ctrs := k }) ∧
    (∀ m, m ∉ o.reds.map RedAtt.reg → Tab.get Sum.reset y m.toNat = s.sum m.toNat) ∧
    ∀ a ∈ o.reds, Tab.get Sum.reset y a.reg.toNat = redStart a (s.sum a.reg.toNat) := by
  obtain ⟨y, hy, hoff, hon⟩ := redInit_sumStep.foldl hnd s
  obtain ⟨k, hk⟩ := State.count_eq 0x40010 1 (o.reds.foldl (fun s r => redInit r s) s)
  rw [hy] at hk
  refine ⟨y, k, _, rfl, ?_, fun hcols => ?_, hoff, hon⟩
  · rw [vopStart, hy, hk]
    exact ReadFrom.foldl (fun s (p : TRef × Box) => ReadFrom.touchBox 2 p.1.t p.2 s) _ _
  · rw [vopStart, vCols_nil n hcols, List.foldl_nil, hy, hk]
/-- What an operation's lanes w, its flags and its reductions leave, whatever lanes it has written. -/
theorem vopDone {o : VOp} (hnd : (o.reds.map RedAtt.reg).Nodup) (n : Nat) (fl : Flags) (vals : List (Option XVal)) {s w x : State}
    (hw : LanesOnly (vopStart o n s) w) (hx : ∃ k, x = { w.raiseFlags 4 fl with ctrs := k }) :
    let t := o.reds.foldl (fun s r => redAbsorb r vals s) x
    t.vec.v = w.vec.v ∧ VopDone o fl s t ∧ Absorbed o vals s t := by
  intro t
  obtain ⟨y, k0, u, hu, hread, hcols, hoff, hon⟩ := vopStart_eq hnd n s
  rw [hu] at hw
  obtain ⟨v, rfl⟩ : ∃ v, w = { u with vec := { u.vec with v := v } } := ⟨_, hw⟩
  obtain ⟨k, rfl⟩ := hx
  obtain ⟨z, hz, hoff', hon'⟩ := (redAbsorb_sumStep vals).foldl hnd { (({ u with vec := { u.vec with v := v } } : State).raiseFlags 4 fl) with ctrs := k }
  have hsum : ∀ m, u.sum m = Tab.get Sum.reset y m := fun m => by
    rw [hread.frame]
    rfl
  have hreg : ∀ o', o' ≠ 0x04000 → u.reg o' = s.reg o' := fun o' ho => hread.regs o' (by simpa using ho)
  have hflag : ∀ o', (({ u with vec := { u.vec with v := v } } : State).raiseFlags 4 fl).reg o' = if o' = 0x38040 then u.reg 0x38040 ||| fl.setWidth 32 else u.reg o' :=
    fun o' => State.orReg_reg _ _ _ _
  rw [show t = _ from hz]
  refine ⟨rfl, ⟨?_, fun m hm => ((hoff' m hm).trans (hsum _)).trans (hoff m hm), fun o' ho => ?_, ?_, fun hnone => ⟨?_, ?_⟩⟩, fun a ha => ?_⟩
  · refine (State.raiseFlags_flags fl { u with vec := { u.vec with v := v } }).trans (congrArg (· ||| fl) ?_)
    exact congrArg (BitVec.setWidth 4) (hreg _ (by decide))
  · simp only [List.mem_cons, List.not_mem_nil, or_false, not_or] at ho
    exact ((hflag o').trans (if_neg ho.1)).trans (hreg o' ho.2)
  · rw [hread.frame]
    rfl
  · rw [hcols hnone]
    rfl
  · refine ((hflag _).trans (if_neg (by decide))).trans ?_
    rw [hcols hnone]
    rfl
  · refine (hon' a ha).trans ?_
    rw [← hon a ha, ← hsum]
    rfl

/-- The values of operands are those of the state before the issue, once the columns are read there. -/
theorem vopStart_view {o : VOp} (hnd : (o.reds.map RedAtt.reg).Nodup) (n : Nat) (c : EngCmd) (s : State) :
    SameView (vopReads o n s) (vopStart o n (s.issued 19 c)) := by
  obtain ⟨u, k, hi⟩ := State.issued_queues (q := 19) (by decide) c s
  obtain ⟨y, hy, -⟩ := redInit_sumStep.foldl hnd (s.issued 19 c)
  obtain ⟨k0, hk0⟩ := State.count_eq 0x40010 1 (o.reds.foldl (fun s r => redInit r s) (s.issued 19 c))
  refine List.foldl_rel ?_ fun p _ s t h => h.touchBox 2 p.1.t p.2
  rw [hk0, hy, hi]
  exact ⟨rfl, rfl, rfl, rfl, rfl, fun _ _ => rfl⟩

/-- The reads before an operation leave the vector registers. -/
theorem vopStart_v {o : VOp} (hnd : (o.reds.map RedAtt.reg).Nodup) (n : Nat) (c : EngCmd) (s : State) :
    (vopStart o n (s.issued 19 c)).vec.v = s.vec.v := by
  have hread : ReadFrom s (vopReads o n s) := ReadFrom.foldl (fun s (p : TRef × Box) => ReadFrom.touchBox 2 p.1.t p.2 s) _ _
  rw [(vopStart_view hnd n c s).v, hread.frame]
theorem State.issued_vec (q : Nat) (c : EngCmd) (s : State) : (s.issued q c).vec = s.vec := by
  obtain ⟨u, a, b, k, hi⟩ := State.issued_eq q c s
  rw [hi]
theorem State.issued_reg (q : Nat) (c : EngCmd) (s : State) (o : Nat) : (s.issued q c).reg o = s.reg o := by
  obtain ⟨u, a, b, k, hi⟩ := State.issued_eq q c s
  rw [hi]
  rfl
theorem State.issued_lane (q : Nat) (c : EngCmd) (s : State) (d i : Nat) : (s.issued q c).lane d i = s.lane d i :=
  State.lane_congr (by rw [State.issued_vec]) d i
theorem State.issued_packedEl (q : Nat) (c : EngCmd) (s : State) (d i : Nat) : (s.issued q c).packedEl d i = s.packedEl d i :=
  State.packedEl_congr (by rw [State.issued_vec]) d i
theorem State.issued_vlen (q : Nat) (c : EngCmd) (s : State) : vlenOf (s.issued q c) c = vlenOf s c := by
  obtain ⟨u, a, b, k, hi⟩ := State.issued_eq q c s
  rw [hi]
  cases hx : c.ctx <;> simp [vlenOf, State.ctxt, hx]

section
variable {c : EngCmd} {o : VOp} {s : State} (h : s.AtHead 19 c) (hop : c.op = .vop o)
include h hop

theorem exec_vop_rejected {r : Rej} (hchk : vopChk s (vlenOf s c) o = some r) : exec .vop s = .next (s.reject 19 c r) := by
  change execVop s = _
  rw [execVop, h.runHead]
  simp only [hop, hchk, issueOr]
theorem exec_vop_noLanes (hchk : vopChk s (vlenOf s c) o = none) (hn : vlenOf s c = 0) : exec .vop s = .next (s.issued 19 c) := by
  change execVop s = _
  rw [execVop, h.runHead]
  rw [hn] at hchk
  simp only [hop, issueOr, State.issued_vlen, hn, hchk, if_true]
/-- An FP32 operation computes its lanes, writes them, raises their flags and lets the reductions absorb them. -/
theorem exec_vop_lanes (hp : o.packed = none) (hchk : vopChk s (vlenOf s c) o = none) (hn : vlenOf s c ≠ 0) :
    let u := vopStart o (vlenOf s c) (s.issued 19 c)
    let res := (List.range (vlenOf s c)).map (vopLane o u)
    exec .vop s = .next (o.reds.foldl (fun s r => redAbsorb r (res.map fun x => some x.1) s) (countSfu o.f (vlenOf s c)
      (((List.range (vlenOf s c)).foldl (fun s i => s.setLane o.dst.toNat i (bits32 (getAt (xZero, 0) res i).1)) u).raiseFlags 4
        (res.foldl (fun f r => f ||| r.2) 0)))) := by
  change execVop s = _
  rw [execVop, h.runHead]
  simp only [hop, hchk, issueOr, State.issued_vlen, hn, if_false, hp]
  rfl
/-- A packed operation does so with its elements. -/
theorem exec_vop_elems {p : Packed} (hp : o.packed = some p) (hchk : vopChk s (vlenOf s c) o = none) (hn : vlenOf s c ≠ 0) :
    let u := vopStart o (vlenOf s c) (s.issued 19 c)
    let res := (List.range (2 * vlenOf s c)).map (vopElem o p ((s.issued 19 c).regBit 0x40004 0) u)
    exec .vop s = .next (o.reds.foldl (fun s r => redAbsorb r (res.map fun x => some (decodeElem (packFmt p) x.1)) s)
      (((List.range (2 * vlenOf s c)).foldl (fun s i => s.setPacked o.dst.toNat i (getAt (0, 0) res i).1) u).raiseFlags 4
        (res.foldl (fun f r => f ||| r.2) 0))) := by
  change execVop s = _
  rw [execVop, h.runHead]
  simp only [hop, hchk, issueOr, State.issued_vlen, hn, if_false, hp]
  rfl
end

/-- What an FP32 operation leaves. -/
theorem vop_lanes_done {c : EngCmd} {o : VOp} {s : State} (h : s.AtHead 19 c) (hop : c.op = .vop o) (hp : o.packed = none)
    (hchk : vopChk s (vlenOf s c) o = none) (hv : vlenOf s c ≤ 512) :
    let res := vopLane o (vopReads o (vlenOf s c) s)
    ∃ t, exec .vop s = .next t ∧
      (∀ d i, i < 512 → t.lane d i = if d = o.dst.toNat ∧ i < vlenOf s c then bits32 (res i).1 else s.lane d i) ∧
      VopDone o (((List.range (vlenOf s c)).map res).foldl (fun f r => f ||| r.2) 0) (s.issued 19 c) t ∧
      (vlenOf s c ≠ 0 → Absorbed o ((List.range (vlenOf s c)).map fun i => some (res i).1) (s.issued 19 c) t) ∧
      (vlenOf s c = 0 → t = s.issued 19 c) := by
  intro res
  have hnd := vopChk_nodup hchk
  by_cases hn : vlenOf s c = 0
  · refine ⟨_, exec_vop_noLanes h hop hchk hn, fun d i _ => ?_, hn ▸ VopDone.refl o _, fun h0 => absurd hn h0, fun _ => rfl⟩
    rw [hn, if_neg (by omega)]
    exact State.issued_lane 19 c s d i
  have hview := vopStart_view hnd (vlenOf s c) c s
  have hexec := exec_vop_lanes h hop hp hchk hn
  have hres : vopLane o (vopStart o (vlenOf s c) (s.issued 19 c)) = res := funext fun i => by simp only [res, vopLane, hview.srcVal]
  simp only [hres, List.map_map] at hexec
  obtain ⟨hlanes, hdone, hsums⟩ := vopDone hnd (vlenOf s c) (((List.range (vlenOf s c)).map res).foldl (fun f r => f ||| r.2) 0)
    ((List.range (vlenOf s c)).map fun i => some (res i).1) (setLanes_only _ _ _ _) (countSfu_eq o.f (vlenOf s c) _)
  refine ⟨_, hexec, fun d i hi => ?_, hdone, fun _ => hsums, fun h0 => absurd h0 hn⟩
  refine (State.lane_congr hlanes d i).trans ((setLanes_lane o.dst.toNat d _ _ hv hi).trans ?_)
  split
  · rw [getAt_map_range _ _ (by tauto)]
  · exact State.lane_congr (vopStart_v hnd _ c s) d i
/-- What a packed operation leaves. -/
theorem vop_elems_done {c : EngCmd} {o : VOp} {p : Packed} {s : State} (h : s.AtHead 19 c) (hop : c.op = .vop o) (hp : o.packed = some p)
    (hchk : vopChk s (vlenOf s c) o = none) (hv : vlenOf s c ≤ 512) :
    let res := vopElem o p (s.regBit 0x40004 0) (vopReads o (vlenOf s c) s)
    ∃ t, exec .vop s = .next t ∧
      (∀ d i, i < 1024 → t.packedEl d i = if d = o.dst.toNat ∧ i < 2 * vlenOf s c then (res i).1 % 65536 else s.packedEl d i) ∧
      VopDone o (((List.range (2 * vlenOf s c)).map res).foldl (fun f r => f ||| r.2) 0) (s.issued 19 c) t := by
  intro res
  have hnd := vopChk_nodup hchk
  by_cases hn : vlenOf s c = 0
  · refine ⟨_, exec_vop_noLanes h hop hchk hn, fun d i _ => ?_, hn ▸ VopDone.refl o _⟩
    rw [hn, if_neg (by omega)]
    exact State.issued_packedEl 19 c s d i
  have hview := vopStart_view hnd (vlenOf s c) c s
  have hexec := exec_vop_elems h hop hp hchk hn
  have hres : vopElem o p (s.regBit 0x40004 0) (vopStart o (vlenOf s c) (s.issued 19 c)) = res :=
    funext fun i => by simp only [res, vopElem, hview.srcVal]
  simp only [show (s.issued 19 c).regBit 0x40004 0 = s.regBit 0x40004 0 from congrArg (BitVec.getLsbD · 0) (State.issued_reg 19 c s _), hres] at hexec
  obtain ⟨hlanes, hdone, -⟩ := vopDone hnd (vlenOf s c) (((List.range (2 * vlenOf s c)).map res).foldl (fun f r => f ||| r.2) 0)
    (((List.range (2 * vlenOf s c)).map res).map fun x => some (decodeElem (packFmt p) x.1)) (setPackeds_only _ _ _ _) ⟨_, rfl⟩
  refine ⟨_, hexec, fun d i hi => ?_, hdone⟩
  refine (State.packedEl_congr hlanes d i).trans ((setPackeds_packedEl o.dst.toNat d _ _ (by omega) hi).trans ?_)
  split
  · rw [getAt_map_range _ _ (by tauto)]
  · exact State.packedEl_congr (vopStart_v hnd _ c s) d i

/-! Splits (R105) -/

/-- What the destinations of a split hold of lane i. -/
def splitEl (a d0 d1 d2 : BitVec 5) (s : State) (d i : Nat) : Nat :=
  let p := (splitVal (s.lane a.toNat i)).1
  if d = d2.toNat then p.2.2 % 65536 else if d = d1.toNat then p.2.1 % 65536 else if d = d0.toNat then p.1 % 65536 else s.packedEl d i
/-- What a split leaves. -/
theorem vsplit_done {c : EngCmd} {a d0 d1 d2 : BitVec 5} {s : State} (h : s.AtHead 19 c) (hop : c.op = .vsplit a d0 d1 d2)
    (hv : vlenOf s c ≤ 512) : ∃ t, exec .vsplit s = .next t ∧
      (∀ d i, i < 1024 → t.packedEl d i = if i < vlenOf s c then splitEl a d0 d1 d2 s d i else s.packedEl d i) ∧
      SameRegsBut [0x38040] (s.issued 19 c) t ∧
      t = { s.issued 19 c with vec := { (s.issued 19 c).vec with v := t.vec.v }, regs := t.regs, ctrs := t.ctrs } := by
  by_cases hn : vlenOf s c = 0
  · refine ⟨s.issued 19 c, ?_, fun d i _ => ?_, fun _ _ => rfl, rfl⟩
    · change execVsplit s = _
      rw [execVsplit, h.runHead]
      simp only [hop, issueOr, State.issued_vlen, hn, if_true]
    · rw [hn, if_neg (Nat.not_lt_zero i)]
      exact State.issued_packedEl 19 c s d i
  obtain ⟨k, hk⟩ := State.count_eq 0x40010 1 (s.issued 19 c)
  let res := (List.range (vlenOf s c)).map fun i => splitVal (s.lane a.toNat i)
  let w := setParts d0.toNat d1.toNat d2.toNat (vlenOf s c) (fun i => (getAt ((0, 0, 0), 0) res i).1) { s.issued 19 c with ctrs := k }
  have hw : LanesOnly { s.issued 19 c with ctrs := k } w := setParts_only _ _ _ _ _ _
  refine ⟨w.raiseFlags 4 (res.foldl (fun f r => f ||| r.2) 0), ?_, fun d i hlt => ?_, fun o ho => ?_, ?_⟩
  · change execVsplit s = _
    rw [execVsplit, h.runHead]
    simp only [hop, issueOr, State.issued_vlen, hn, if_false, State.issued_lane, hk]
    rfl
  · refine (setParts_packedEl d0.toNat d1.toNat d2.toNat d (fun i => (getAt ((0, 0, 0), 0) res i).1) _ (by omega) hlt).trans ?_
    have hel : ({ s.issued 19 c with ctrs := k } : State).packedEl d i = s.packedEl d i := State.issued_packedEl 19 c s d i
    rw [hel]
    split
    next hin => rw [getAt_map_range _ _ hin]; rfl
    next => rfl
  · refine (State.orReg_reg _ _ _ _).trans ((if_neg fun he => ho (List.mem_singleton.mpr he)).trans ?_)
    rw [hw]
    rfl
  · rw [hw]
    rfl

/-! Single results (R148, R149) -/

/-- An operation of two or three finite operands that may set flags rounds its exact value once. -/
theorem fpRes_fin (x : Ex) : (fpRes false (.fin x)).2 ||| flFlags false = (rne32 (.fin x)).2 := by
  simp [fpRes, XVal.isNan, flFlags]
theorem vElem_quiet {f : VFun} (xs : List (XVal × Bool)) (h : vQuiet f = true) : (vElem f xs).2 = 0 := by
  simp only [vElem]
  split
  · cases h
  · rw [if_pos h]
/-- A comparison with a NaN does not hold. -/
theorem vElem_unordered {f : VFun} {a b : XVal × Bool} (hf : f = .eq ∨ f = .lt ∨ f = .le) (hn : a.1.isNan = true ∨ b.1.isNan = true) :
    vElem f [a, b] = (xZero, 0) := by
  have hlt : a.1.lt b.1 = false := by
    obtain ⟨x, _⟩ := a
    obtain ⟨y, _⟩ := b
    cases x <;> cases y <;> simp_all [XVal.lt, XVal.isNan]
  obtain rfl | rfl | rfl := hf
  · obtain h | h := hn <;> simp [vElem, vQuiet, vExact, getAt, XVal.eqv, h, xBool]
  · simp [vElem, vQuiet, vExact, getAt, hlt, xBool]
  · obtain h | h := hn <;> simp [vElem, vQuiet, vExact, getAt, h, xBool]

/-- Settles O40: a vector operation by the form of its elements, a rejected one, a split, and the results of single elements. -/
theorem vectorOperationsActBelowVlen : Obligations.VectorOperationsActBelowVlen := by
  unfold Obligations.VectorOperationsActBelowVlen
  refine ⟨fun c o s h hop hp hchk hv => ?fp32, fun c o p s h hop hp hchk hv => ?packed, fun c o r s h hop hchk => exec_vop_rejected h hop hchk,
    fun c a d0 d1 d2 s h hop hv => ?split, fun a b => ?add, fun a b c => ?fma, fun f a b hf hn => vElem_unordered hf hn,
    fun f xs hq => vElem_quiet xs hq⟩
  case fp32 =>
    obtain ⟨u, k, hi⟩ := State.issued_queues (q := 19) (by decide) c s
    obtain ⟨t, hexec, hlanes, hdone, hsums, hnone⟩ := vop_lanes_done h hop hp hchk hv
    rw [hi] at hdone hsums hnone ⊢
    exact ⟨t, hexec, hlanes, hdone.flags.trans (foldl_results _ _ _ _), hdone.sumsOff, fun h0 => hsums (Nat.ne_of_gt h0), hdone.regs,
      by rw [hdone.frame], hdone.noCols, hdone.frame, hnone⟩
  case packed =>
    obtain ⟨u, k, hi⟩ := State.issued_queues (q := 19) (by decide) c s
    obtain ⟨t, hexec, helems, hdone⟩ := vop_elems_done h hop hp hchk hv
    rw [hi] at hdone ⊢
    exact ⟨t, hexec, helems, hdone.flags.trans (foldl_results _ _ _ _), hdone.sumsOff, hdone.regs, by rw [hdone.frame], hdone.noCols, hdone.frame⟩
  case split =>
    obtain ⟨u, k, hi⟩ := State.issued_queues (q := 19) (by decide) c s
    obtain ⟨t, hexec, hparts, hregs, hframe⟩ := vsplit_done h hop hv
    rw [hi] at hregs hframe ⊢
    exact ⟨t, hexec, hparts, hregs, hframe⟩
  case add => exact Prod.ext rfl (fpRes_fin _)
  case fma => exact Prod.ext rfl (fpRes_fin _)

end Sys2Proof.Machine
end

section
/-! Proofs about fills (R65–R71, R73, R84, R94, R99, R101): the accumulator words they write, and all that they leave unchanged. -/

namespace Sys2Proof.Machine

/-! Lists -/

/-- The element a, at one place of a list, is the only one there that p holds of. -/
def OnlyAt {α : Type} (p : α → Prop) (a : α) (l : List α) : Prop := ∃ l1 l2, l = l1 ++ a :: l2 ∧ ∀ x ∈ l1 ++ l2, ¬ p x

theorem onlyAt_of_nodup {α κ : Type} (key : α → κ) {l : List α} {a : α} (h : (l.map key).Nodup) (ha : a ∈ l) :
    OnlyAt (fun x => key x = key a) a l := by
  obtain ⟨l1, l2, rfl⟩ := List.append_of_mem ha
  rw [List.map_append, List.map_cons, List.nodup_middle, List.nodup_cons, ← List.map_append] at h
  exact ⟨l1, l2, rfl, fun x hx he => h.1 (he ▸ List.mem_map_of_mem hx)⟩
/-- A fold whose steps keep I and g. -/
theorem foldl_keeps {α σ β : Type} {f : σ → α → σ} {I : σ → Prop} {g : σ → β} {l : List α} (hI : ∀ x ∈ l, ∀ s, I s → I (f s x))
    (hg : ∀ x ∈ l, ∀ s, I s → g (f s x) = g s) {s : σ} (hs : I s) : I (l.foldl f s) ∧ g (l.foldl f s) = g s := by
  induction l generalizing s with
  | nil => exact ⟨hs, rfl⟩
  | cons x l ih =>
    obtain ⟨h1, h2⟩ := ih (fun y hy => hI y (List.mem_cons_of_mem _ hy)) (fun y hy => hg y (List.mem_cons_of_mem _ hy))
      (hI x List.mem_cons_self s hs)
    exact ⟨h1, h2.trans (hg x List.mem_cons_self s hs)⟩
/-- A fold whose steps keep I, and of which the step at a alone can change g. -/
theorem foldl_onlyAt {α σ β : Type} {f : σ → α → σ} {I : σ → Prop} {g : σ → β} {p : α → Prop} {a : α} {l : List α} (h : OnlyAt p a l)
    (hI : ∀ x ∈ l, ∀ s, I s → I (f s x)) (hg : ∀ x ∈ l, ¬ p x → ∀ s, I s → g (f s x) = g s) {s : σ} (hs : I s) :
    ∃ s', I s' ∧ g s' = g s ∧ g (l.foldl f s) = g (f s' a) := by
  obtain ⟨l1, l2, rfl, hno⟩ := h
  have h1 : ∀ x ∈ l1, x ∈ l1 ++ a :: l2 := fun x hx => List.mem_append_left _ hx
  have h2 : ∀ x ∈ l2, x ∈ l1 ++ a :: l2 := fun x hx => List.mem_append_right _ (List.mem_cons_of_mem _ hx)
  obtain ⟨hs1, hg1⟩ := foldl_keeps (l := l1) (fun x hx => hI x (h1 x hx)) (fun x hx => hg x (h1 x hx) (hno x (List.mem_append_left _ hx))) hs
  obtain ⟨-, hg2⟩ := foldl_keeps (l := l2) (fun x hx => hI x (h2 x hx)) (fun x hx => hg x (h2 x hx) (hno x (List.mem_append_right _ hx)))
    (hI a (List.mem_append_right _ List.mem_cons_self) _ hs1)
  exact ⟨_, hs1, hg1, by rw [List.foldl_append, List.foldl_cons, hg2]⟩

theorem blocksOf_flatten {α : Type} {n : Nat} (hn : 0 < n) {k : Nat} {l : List α} (h : l.length ≤ k) : (blocksOf n k l).flatten = l := by
  induction k generalizing l with
  | zero => rw [List.length_eq_zero_iff.mp (Nat.le_zero.mp h)]; rfl
  | succ k ih =>
    rw [blocksOf]
    split
    next hnil => rw [hnil]; rfl
    next hne =>
      have hpos := List.length_pos_iff.mpr hne
      rw [List.flatten_cons, ih (by rw [List.length_drop]; omega), List.take_append_drop]
/-- One column of a fill lies in one slice, at one place of it. -/
theorem onlyAt_slices {cols : List (Nat × List XVal)} {c : Nat × List XVal} (hnd : (cols.map Prod.fst).Nodup) (hc : c ∈ cols) :
    ∃ sl, OnlyAt (fun sl => ∃ x ∈ sl, x.1 = c.1) sl (slices cols) ∧ OnlyAt (fun x => x.1 = c.1) c sl := by
  have hflat : (slices cols).flatten = cols := blocksOf_flatten (by decide) (Nat.le_refl _)
  have hpair : (slices cols).flatten.Pairwise fun x y => x.1 ≠ y.1 := by rw [hflat]; exact List.pairwise_map.mp hnd
  obtain ⟨hin, hacross⟩ := List.pairwise_flatten.mp hpair
  obtain ⟨sl, hsl, hcsl⟩ := List.mem_flatten.mp (hflat.symm ▸ hc)
  refine ⟨sl, ?_, onlyAt_of_nodup Prod.fst (List.pairwise_map.mpr (hin sl hsl)) hcsl⟩
  obtain ⟨l1, l2, heq⟩ := List.append_of_mem hsl
  rw [heq] at hacross
  obtain ⟨-, hafter, hbefore⟩ := List.pairwise_append.mp hacross
  refine ⟨l1, l2, heq, fun b hb => ?_⟩
  rintro ⟨x, hx, he⟩
  obtain hb | hb := List.mem_append.mp hb
  · exact hbefore b hb sl List.mem_cons_self x hx c hcsl he
  · exact (List.pairwise_cons.mp hafter).1 b hb c hcsl x hx he.symm

/-! What a fill leaves unchanged -/

/-- No poisoned tile, and no word with bad parity. -/
def Clean (s : State) : Prop := s.poison = [] ∧ s.parBad = []
/-- Byte x belongs to none of the words W of the accumulators. -/
def OffWords (W : Nat → Nat → Nat → Prop) (x : Nat) : Prop := ∀ i n m, W i n m → x < accAddr i n m ∨ accAddr i n m + 4 ≤ x
/-- The registers that a fill may change: INT_STATUS, and the flags and first-NaN registers of the stills. -/
def fillRegs : List Nat := 0x04000 :: [0, 1, 2, 3].flatMap fun i => [0x20080 + 0x1000 * i, 0x20084 + 0x1000 * i, 0x20088 + 0x1000 * i]

/-- From s to t a fill has changed no byte outside the accumulator words W. -/
structure FillKeeps (W : Nat → Nat → Nat → Prop) (s t : State) : Prop where
  bytes : ∀ x, OffWords W x → t.byte x = s.byte x
  sys : t.sys = s.sys
  slots : t.slots = s.slots
  vec : t.vec = s.vec
  cc : t.cc = s.cc
  still : t.still = s.still
  regs : SameRegsBut fillRegs s t
  clean : Clean s → Clean t

theorem accAddr_apart {i n m i' n' m' : Nat} (hn : n < 4096) (hm : m < 32) (hn' : n' < 4096) (hm' : m' < 32) (h : ¬(i' = i ∧ n' = n ∧ m' = m)) :
    accAddr i n m + 4 ≤ accAddr i' n' m' ∨ accAddr i' n' m' + 4 ≤ accAddr i n m := by
  simp only [accAddr]
  omega
theorem State.word_congr {s t : State} {a : Nat} (h : ∀ x, a ≤ x → x < a + 4 → t.byte x = s.byte x) : t.word a = s.word a :=
  congrArg (fun l => w32 (leNat l)) (State.bytes_congr s t a 4 fun i hi => h (a + i) (by omega) (by omega))

theorem State.stillFenced_congr {s t : State} (h : t.sys = s.sys) (i : Nat) : t.stillFenced i = s.stillFenced i := by
  rw [State.stillFenced, State.stillFenced, State.cubeFence, State.cubeFence, h]
theorem State.mEff_congr {s t : State} (h : t.sys = s.sys) (i : Nat) : t.mEff i = s.mEff i := by
  rw [State.mEff, State.mEff, State.stillFenced_congr h, State.cubeFence, State.cubeFence, h]

namespace FillKeeps
variable {W W' : Nat → Nat → Nat → Prop} {s t u : State}

theorem refl (W : Nat → Nat → Nat → Prop) (s : State) : FillKeeps W s s := ⟨fun _ _ => rfl, rfl, rfl, rfl, rfl, rfl, fun _ _ => rfl, id⟩
theorem trans (h : FillKeeps W s t) (h' : FillKeeps W t u) : FillKeeps W s u where
  bytes := fun x hx => (h'.bytes x hx).trans (h.bytes x hx)
  sys := h'.sys.trans h.sys
  slots := h'.slots.trans h.slots
  vec := h'.vec.trans h.vec
  cc := h'.cc.trans h.cc
  still := h'.still.trans h.still
  regs := fun o ho => (h'.regs o ho).trans (h.regs o ho)
  clean := h'.clean ∘ h.clean
theorem mono (h : FillKeeps W s t) (hW : ∀ i n m, W i n m → W' i n m) : FillKeeps W' s t :=
  { h with bytes := fun x hx => h.bytes x fun i n m hw => hx i n m (hW i n m hw) }
/-- A fold whose state is a part of what it carries. -/
theorem foldl {α σ : Type} (st : σ → State) {f : σ → α → σ} {l : List α} {p : σ}
    (hf : ∀ a ∈ l, ∀ q, (st q).sys = (st p).sys → FillKeeps W (st q) (st (f q a))) : FillKeeps W (st p) (st (l.foldl f p)) := by
  induction l generalizing p with
  | nil => exact refl W _
  | cons a l ih =>
    have h := hf a List.mem_cons_self p rfl
    exact h.trans (ih fun b hb q hq => hf b (List.mem_cons_of_mem _ hb) q (hq.trans h.sys))
theorem of_read (W : Nat → Nat → Nat → Prop) (h : ReadFrom s t) : FillKeeps W s t where
  bytes := fun x _ => by simp only [State.byte, h.mem]
  sys := by rw [h.frame]
  slots := by rw [h.frame]
  vec := by rw [h.frame]
  cc := by rw [h.frame]
  still := by rw [h.frame]
  regs := fun o ho => h.regs o fun hm => ho (List.mem_singleton.mp hm ▸ List.mem_cons_self)
  clean := fun ⟨hp, hb⟩ => ⟨(h.poison hb).trans hp, h.parBad.trans hb⟩
/-- A word that is none of W holds what it held. -/
theorem word (h : FillKeeps W s t) (hW : ∀ i n m, W i n m → n < 4096 ∧ m < 32) {i n m : Nat} (hn : n < 4096) (hm : m < 32) (hno : ¬ W i n m) :
    t.word (accAddr i n m) = s.word (accAddr i n m) := by
  refine State.word_congr fun x hlo hhi => h.bytes x fun i' n' m' hw => ?_
  obtain ⟨hn', hm'⟩ := hW i' n' m' hw
  have := accAddr_apart (i := i) (i' := i') hn hm hn' hm' (by rintro ⟨rfl, rfl, rfl⟩; exact hno hw)
  omega

theorem putAcc {i c m : Nat} (hW : W i c m) (w : Word) (s : State) : FillKeeps W s (s.putAcc i c m w) where
  bytes := fun x hx => putBytes_outside _ s.mem _ x (by rw [leBytes_length]; exact hx i c m hW)
  sys := rfl
  slots := rfl
  vec := rfl
  cc := rfl
  still := rfl
  regs := fun _ _ => rfl
  clean := fun ⟨hp, hb⟩ => ⟨hp, by simp [State.putAcc, hb]⟩
theorem stillFlags {i : Nat} (hi : i < 4) (f : Flags) (b : Option Birth) (s : State) : FillKeeps W s (s.stillFlags i f b) := by
  have hset : ∀ (off : Nat) (v : Word) (s : State), off ∈ fillRegs → FillKeeps W s (s.setReg off v) := fun off v s ho =>
    ⟨fun _ _ => rfl, rfl, rfl, rfl, rfl, rfl, fun o hno => by
      rw [State.setReg_reg, if_neg]
      rintro rfl
      exact hno ho, id⟩
  have hctr : ∀ (off : Nat) (v : DWord) (s : State), FillKeeps W s (s.setCtr off v) := fun off v s =>
    ⟨fun _ _ => rfl, rfl, rfl, rfl, rfl, rfl, fun _ _ => rfl, id⟩
  have hin : ∀ d ∈ [0x20080, 0x20084, 0x20088], d + 0x1000 * i ∈ fillRegs := fun d hd => by
    simp only [List.mem_cons, List.not_mem_nil, or_false] at hd
    simp only [fillRegs, List.mem_cons, List.mem_flatMap, List.not_mem_nil, or_false]
    exact .inr ⟨i, by omega, by omega⟩
  have hflag : FillKeeps W s (s.raiseFlags i f) := hset _ _ s (by rw [flagReg, if_pos hi]; exact hin 0x20080 (by decide))
  simp only [State.stillFlags]
  split
  · exact hflag
  · split
    · exact hflag
    · exact ((hflag.trans (hset _ _ _ (hin 0x20084 (by decide)))).trans (hset _ _ _ (hin 0x20088 (by decide)))).trans (hctr _ _ _)

end FillKeeps

end Sys2Proof.Machine
end

section
/-! Proofs about one still's part of a fill (R67, R70, R94): each slice writes its columns, and each word is written once. -/

namespace Sys2Proof.Machine

/-! One word -/

/-- The value of an accumulator word (R67, R70): of the integer or the float path, from the previous value or, with none, from zero. -/
def fillWord (isInt : Bool) (k : Nat) (prev : Option Word) (a b : List XVal) : Word :=
  if k = 0 then prev.getD 0 else if isInt then (addInt prev a b).1 else (addGroup prev a b).1
/-- The previous value that a fill takes of the word at an address. -/
def prevWord (ovw : Bool) (a : Nat) (s : State) : Option Word := if ovw then none else some (s.word a)

theorem State.putAcc_word (i c m : Nat) (w : Word) (s : State) : (s.putAcc i c m w).word (accAddr i c m) = w := by
  have hbytes : (s.putAcc i c m w).bytes (accAddr i c m) (leBytes 4 w.toNat).length = leBytes 4 w.toNat :=
    State.bytes_eq_of_getD _ _ _ fun j hj => putBytes_inside _ s.mem _ j hj
  rw [leBytes_length] at hbytes
  rw [State.word, State.le, hbytes, leNat_leBytes]
  exact BitVec.eq_of_toNat_eq (by rw [w32, BitVec.toNat_ofNat]; have := w.isLt; omega)

section
variable (isInt ovw : Bool) (k : Nat) (f : FillOp) (i : Nat)

theorem fillElem_word (c : Nat) (r : PRow) (col : List XVal) (p : State × FillAcc) :
    (fillElem isInt ovw k f i c r col p).1.word (accAddr i c r.row) = fillWord isInt k (prevWord ovw (accAddr i c r.row) p.1) r.vals col := by
  simp only [fillElem, fillWord, prevWord]
  by_cases hk : k = 0
  · cases ovw <;> simp [hk, State.putAcc_word]
  · simp only [hk, if_false, State.putAcc_word]
    cases isInt <;> rfl
theorem fillElem_keeps {W : Nat → Nat → Nat → Prop} {c : Nat} {r : PRow} (hW : W i c r.row) (col : List XVal) (p : State × FillAcc) :
    FillKeeps W p.1 (fillElem isInt ovw k f i c r col p).1 := by
  simp only [fillElem]
  split
  · split
    exacts [.putAcc hW _ _, .refl W _]
  · exact .putAcc hW _ _

/-! One slice -/

variable (rows : List PRow) (live : PRow → Nat → Bool) (c0 : Nat) (cols : List (Nat × List XVal))

/-- The parity checks of a slice (R94), its words, and the rows beyond M_EFF cleared once all others are overwritten (R70, R94). -/
def sliceCheck (s : State) : State :=
  if ovw then s else cols.foldl (fun s c => rows.foldl (fun s r => if live r c.1 then s.accCheck (accAddr i (c0 + c.1) r.row) 4 else s) s) s
def sliceWrite (p : State × FillAcc) : State × FillAcc :=
  cols.foldl (fun p c => rows.foldl (fun p r => if live r c.1 then fillElem isInt ovw k f i (c0 + c.1) r c.2 p else p) p) p
def sliceClear (p : State × FillAcc) : State × FillAcc :=
  if !(ovw && decide (cols.length = 8) && (List.range (p.1.mEff i)).all fun m => cols.all fun c => rows.any fun r => r.row == m && live r c.1) then p
  else
    let s := cols.foldl (fun s c => (List.range (32 - s.mEff i)).foldl (fun s m => s.putAcc i (c0 + c.1) (s.mEff i + m) 0) s) p.1
    ({ s with poison := s.poison.filter fun t => t != (i, (c0 + (cols.headD (0, [])).1) / 8) }, p.2)
theorem fillSlice_eq (tab : Nat → Nat → Bool) (p : State × FillAcc) : fillSlice isInt ovw k f i rows tab c0 cols p =
    let live := fun (r : PRow) (n : Nat) => r.on && tab r.m n
    let s := sliceCheck ovw i rows live c0 cols p.1
    if !ovw && s.poison.contains (i, (c0 + (cols.headD (0, [])).1) / 8) then (s, p.2)
    else sliceClear ovw i rows live c0 cols (sliceWrite isInt ovw k f i rows live c0 cols (s, p.2)) := rfl

/-- The words of a still in given columns, from row lo on. -/
def ColWords (i c0 lo : Nat) (cols : List (Nat × List XVal)) : Nat → Nat → Nat → Prop :=
  fun i' n m => i' = i ∧ (∃ c ∈ cols, n = c0 + c.1) ∧ lo ≤ m ∧ m < 32

variable {i rows live c0 cols ovw}

theorem sliceCheck_read (s : State) : ReadFrom s (sliceCheck ovw i rows live c0 cols s) := by
  simp only [sliceCheck]
  split
  · exact .refl s
  · refine .foldl (fun s c => .foldl (fun s r => ?_) _ s) _ s
    split
    exacts [.accCheck _ _ s, .refl s]
theorem sliceRows_keeps {W : Nat → Nat → Nat → Prop} {c : Nat × List XVal} (hW : ∀ r ∈ rows, W i (c0 + c.1) r.row) (p : State × FillAcc) :
    FillKeeps W p.1 (rows.foldl (fun p r => if live r c.1 then fillElem isInt ovw k f i (c0 + c.1) r c.2 p else p) p).1 := by
  refine FillKeeps.foldl Prod.fst fun r hr q _ => ?_
  split
  exacts [fillElem_keeps _ _ _ _ _ (hW r hr) _ _, .refl W _]
theorem sliceWrite_keeps (hrows : ∀ r ∈ rows, r.row < 32) (p : State × FillAcc) :
    FillKeeps (ColWords i c0 0 cols) p.1 (sliceWrite isInt ovw k f i rows live c0 cols p).1 :=
  FillKeeps.foldl Prod.fst fun c hc q _ => sliceRows_keeps _ _ _ (fun r hr => ⟨rfl, ⟨c, hc, rfl⟩, Nat.zero_le _, hrows r hr⟩) q
theorem sliceClear_keeps (p : State × FillAcc) : FillKeeps (ColWords i c0 (p.1.mEff i) cols) p.1 (sliceClear ovw i rows live c0 cols p).1 := by
  have hfold : FillKeeps (ColWords i c0 (p.1.mEff i) cols) p.1
      (cols.foldl (fun s c => (List.range (32 - s.mEff i)).foldl (fun s m => s.putAcc i (c0 + c.1) (s.mEff i + m) 0) s) p.1) :=
    FillKeeps.foldl id fun c hc s hs => FillKeeps.foldl id fun m hm t ht => by
      have hM : s.mEff i = p.1.mEff i := State.mEff_congr hs i
      have hM' : t.mEff i = p.1.mEff i := State.mEff_congr (ht.trans hs) i
      rw [List.mem_range, hM] at hm
      rw [hM']
      exact .putAcc ⟨rfl, ⟨c, hc, rfl⟩, by omega, by omega⟩ _ _
  simp only [sliceClear]
  split
  · exact .refl _ _
  · exact hfold.trans ⟨fun _ _ => rfl, rfl, rfl, rfl, rfl, rfl, fun _ _ => rfl, fun ⟨hp, hb⟩ => ⟨by rw [hp]; rfl, hb⟩⟩
theorem fillSlice_keeps (hrows : ∀ r ∈ rows, r.row < 32) (tab : Nat → Nat → Bool) (p : State × FillAcc) :
    FillKeeps (ColWords i c0 0 cols) p.1 (fillSlice isInt ovw k f i rows tab c0 cols p).1 := by
  have hcheck : FillKeeps (ColWords i c0 0 cols) p.1 (sliceCheck ovw i rows (fun r n => r.on && tab r.m n) c0 cols p.1) :=
    .of_read _ (sliceCheck_read p.1)
  rw [fillSlice_eq]
  dsimp only
  split
  · exact hcheck
  · refine (hcheck.trans (sliceWrite_keeps isInt k f hrows (_, p.2))).trans ((sliceClear_keeps _).mono fun i n m h => ?_)
    obtain ⟨hi, hn, -, hm⟩ := h
    exact ⟨hi, hn, Nat.zero_le _, hm⟩

theorem OnlyAt.mem {α : Type} {p : α → Prop} {a : α} {l : List α} (h : OnlyAt p a l) : a ∈ l := by
  obtain ⟨l1, l2, rfl, -⟩ := h
  exact List.mem_append_right _ List.mem_cons_self
/-- One word of a column of a slice: that of row r. -/
theorem sliceRows_word {c : Nat × List XVal} {r : PRow} (hr : OnlyAt (fun x => x.row = r.row) r rows) (hlive : live r c.1 = true)
    (hrows : ∀ r ∈ rows, r.row < 32) (hc : c0 + c.1 < 4096) (p : State × FillAcc) :
    (rows.foldl (fun p r => if live r c.1 then fillElem isInt ovw k f i (c0 + c.1) r c.2 p else p) p).1.word (accAddr i (c0 + c.1) r.row) =
      fillWord isInt k (prevWord ovw (accAddr i (c0 + c.1) r.row) p.1) r.vals c.2 := by
  have hother : ∀ x ∈ rows, ¬ x.row = r.row → ∀ q : State × FillAcc, True →
      (if live x c.1 then fillElem isInt ovw k f i (c0 + c.1) x c.2 q else q).1.word (accAddr i (c0 + c.1) r.row) =
        q.1.word (accAddr i (c0 + c.1) r.row) := fun x hx hne q _ => by
    split
    · refine (fillElem_keeps (W := fun i' n m => i' = i ∧ n = c0 + c.1 ∧ m = x.row) isInt ovw k f i ⟨rfl, rfl, rfl⟩ c.2 q).word ?_ hc
        (hrows r hr.mem) fun h => hne h.2.2.symm
      rintro i' n m ⟨-, rfl, rfl⟩
      exact ⟨hc, hrows x hx⟩
    · rfl
  obtain ⟨q, -, hq, hword⟩ := foldl_onlyAt (g := fun p : State × FillAcc => p.1.word (accAddr i (c0 + c.1) r.row)) hr
    (fun _ _ _ _ => trivial) hother (s := p) trivial
  rw [hword, if_pos hlive, fillElem_word, prevWord, prevWord, hq]
/-- One word of a slice, in the column c and the row r. -/
theorem sliceWrite_word {c : Nat × List XVal} {r : PRow} (hc : OnlyAt (fun x => x.1 = c.1) c cols) (hr : OnlyAt (fun x => x.row = r.row) r rows)
    (hlive : live r c.1 = true) (hrows : ∀ r ∈ rows, r.row < 32) (hcols : ∀ x ∈ cols, c0 + x.1 < 4096) (p : State × FillAcc) :
    (sliceWrite isInt ovw k f i rows live c0 cols p).1.word (accAddr i (c0 + c.1) r.row) =
      fillWord isInt k (prevWord ovw (accAddr i (c0 + c.1) r.row) p.1) r.vals c.2 := by
  have hother : ∀ x ∈ cols, ¬ x.1 = c.1 → ∀ q : State × FillAcc, True →
      (rows.foldl (fun p r => if live r x.1 then fillElem isInt ovw k f i (c0 + x.1) r x.2 p else p) q).1.word (accAddr i (c0 + c.1) r.row) =
        q.1.word (accAddr i (c0 + c.1) r.row) := fun x hx hne q _ => by
    refine (sliceRows_keeps (W := fun i' n m => i' = i ∧ n = c0 + x.1 ∧ m < 32) isInt k f (fun r hr => ⟨rfl, rfl, hrows r hr⟩) q).word ?_
      (hcols c hc.mem) (hrows r hr.mem) fun h => hne (by omega)
    rintro i' n m ⟨-, rfl, hm⟩
    exact ⟨hcols x hx, hm⟩
  obtain ⟨q, -, hq, hword⟩ := foldl_onlyAt (g := fun p : State × FillAcc => p.1.word (accAddr i (c0 + c.1) r.row)) hc
    (fun _ _ _ _ => trivial) hother (s := p) trivial
  rw [sliceWrite, hword, sliceRows_word isInt k f hr hlive hrows (hcols c hc.mem), prevWord, prevWord, hq]
/-- The words a fill takes are those of memory: it overwrites, or nothing is poisoned. -/
def Readable (ovw : Bool) (s : State) : Prop := ovw = true ∨ Clean s

theorem FillKeeps.readable {W : Nat → Nat → Nat → Prop} {s t : State} (h : FillKeeps W s t) (hs : Readable ovw s) : Readable ovw t := hs.imp_right h.clean
theorem prevWord_congr {a : Nat} {s t : State} (h : t.word a = s.word a) : prevWord ovw a t = prevWord ovw a s := by rw [prevWord, prevWord, h]

/-- One word of a slice whose parity is checked first and whose unused rows are cleared last. -/
theorem fillSlice_word {tab : Nat → Nat → Bool} {c : Nat × List XVal} {r : PRow} (hc : OnlyAt (fun x => x.1 = c.1) c cols)
    (hr : OnlyAt (fun x => x.row = r.row) r rows) (hlive : (r.on && tab r.m c.1) = true) (hrows : ∀ r ∈ rows, r.row < 32)
    (hcols : ∀ x ∈ cols, c0 + x.1 < 4096) {p : State × FillAcc} (hread : Readable ovw p.1) (hM : r.row < p.1.mEff i) :
    (fillSlice isInt ovw k f i rows tab c0 cols p).1.word (accAddr i (c0 + c.1) r.row) =
      fillWord isInt k (prevWord ovw (accAddr i (c0 + c.1) r.row) p.1) r.vals c.2 := by
  have hcheck := sliceCheck_read (ovw := ovw) (i := i) (rows := rows) (live := fun r n => r.on && tab r.m n) (c0 := c0) (cols := cols) p.1
  rw [fillSlice_eq]
  dsimp only
  generalize sliceCheck ovw i rows (fun r n => r.on && tab r.m n) c0 cols p.1 = s at hcheck
  have hgo : (!ovw && s.poison.contains (i, (c0 + (cols.headD (0, [])).1) / 8)) = false := by
    obtain rfl | ⟨hp, hb⟩ := hread
    · rfl
    · rw [hcheck.poison hb, hp]
      exact Bool.and_false _
  have hword : s.word (accAddr i (c0 + c.1) r.row) = p.1.word (accAddr i (c0 + c.1) r.row) :=
    State.word_of_byte _ _ _ fun x => by simp only [State.byte, hcheck.mem]
  have hwrite := sliceWrite_word (ovw := ovw) (i := i) (live := fun r n => r.on && tab r.m n) isInt k f hc hr hlive hrows hcols (s, p.2)
  have hkeep := sliceWrite_keeps (ovw := ovw) (i := i) (live := fun r n => r.on && tab r.m n) (c0 := c0) (cols := cols) isInt k f hrows (s, p.2)
  rw [hgo, if_neg Bool.false_ne_true]
  refine ((sliceClear_keeps _).word ?_ (hcols c hc.mem) (hrows r hr.mem) ?_).trans (hwrite.trans (by rw [prevWord_congr hword]))
  · rintro i' n m ⟨-, ⟨x, hx, rfl⟩, -, hm⟩
    exact ⟨hcols x hx, hm⟩
  · rintro ⟨-, -, hle, -⟩
    rw [State.mEff_congr hkeep.sys, State.mEff_congr (s := p.1) (by rw [hcheck.frame])] at hle
    exact Nat.not_le.mpr hM hle
end

/-! One still -/

section
variable (isInt : Bool) (f : FillOp) {tab : Nat → Nat → Bool} {cols : List (Nat × List XVal)} {all : List PRow} {i : Nat}

theorem fillStill_keeps (hi : i < 4) (hrows : ∀ r ∈ all, r.row < 32) (s : State) :
    FillKeeps (ColWords i (oVal f.c0) 0 cols) s (fillStill isInt f tab cols all i s) := by
  have hmine : ∀ r ∈ all.filter fun r => r.still == i, r.row < 32 := fun r hr => hrows r (List.mem_of_mem_filter hr)
  have hfold : ∀ p : State × FillAcc, FillKeeps (ColWords i (oVal f.c0) 0 cols) p.1 ((slices cols).foldl (fun p sl =>
      fillSlice isInt f.overwrite (oVal f.k) f i (all.filter fun r => r.still == i) tab (oVal f.c0) sl p) p).1 := fun p =>
    FillKeeps.foldl Prod.fst fun sl hsl q _ => (fillSlice_keeps isInt (oVal f.k) f hmine tab q).mono fun i' n m h => by
      obtain ⟨hi', ⟨c, hc, hn⟩, hm⟩ := h
      exact ⟨hi', ⟨c, mem_blocksOf hsl hc, hn⟩, hm⟩
  simp only [fillStill]
  split
  · exact .refl _ s
  · exact (hfold (s, ⟨0, none⟩)).trans (.stillFlags hi _ _ _)
/-- One word of a still: that of the column c and the row r. -/
theorem fillStill_word {c : Nat × List XVal} {r : PRow} (hi : i < 4) (hc : c ∈ cols) (hnd : (cols.map Prod.fst).Nodup)
    (hr : OnlyAt (fun x => x.row = r.row) r (all.filter fun r => r.still == i)) (hlive : (r.on && tab r.m c.1) = true)
    (hrows : ∀ r ∈ all, r.row < 32) (hcols : ∀ x ∈ cols, oVal f.c0 + x.1 < 4096) {s : State} (hread : Readable f.overwrite s) (hM : r.row < s.mEff i) :
    (fillStill isInt f tab cols all i s).word (accAddr i (oVal f.c0 + c.1) r.row) =
      fillWord isInt (oVal f.k) (prevWord f.overwrite (accAddr i (oVal f.c0 + c.1) r.row) s) r.vals c.2 := by
  have hmine : ∀ r ∈ all.filter fun r => r.still == i, r.row < 32 := fun r hr => hrows r (List.mem_of_mem_filter hr)
  have hne : all.filter (fun r => r.still == i) ≠ [] := List.ne_nil_of_mem hr.mem
  have hin : ∀ sl ∈ slices cols, ∀ x ∈ sl, oVal f.c0 + x.1 < 4096 := fun sl hsl x hx => hcols x (mem_blocksOf hsl hx)
  obtain ⟨sl, hsl, hcsl⟩ := onlyAt_slices hnd hc
  simp only [fillStill, if_neg hne]
  generalize hp : (s, (⟨0, none⟩ : FillAcc)) = p
  obtain rfl : p.1 = s := by rw [← hp]
  have hkeep : ∀ x ∈ slices cols, ∀ q : State × FillAcc, Readable f.overwrite q.1 ∧ q.1.sys = p.1.sys →
      Readable f.overwrite (fillSlice isInt f.overwrite (oVal f.k) f i (all.filter fun r => r.still == i) tab (oVal f.c0) x q).1 ∧
        (fillSlice isInt f.overwrite (oVal f.k) f i (all.filter fun r => r.still == i) tab (oVal f.c0) x q).1.sys = p.1.sys := fun x _ q hq =>
    have h := fillSlice_keeps isInt (oVal f.k) f hmine tab q
    ⟨h.readable hq.1, h.sys.trans hq.2⟩
  have hother : ∀ x ∈ slices cols, (¬ ∃ y ∈ x, y.1 = c.1) → ∀ q : State × FillAcc, Readable f.overwrite q.1 ∧ q.1.sys = p.1.sys →
      (fillSlice isInt f.overwrite (oVal f.k) f i (all.filter fun r => r.still == i) tab (oVal f.c0) x q).1.word (accAddr i (oVal f.c0 + c.1) r.row) =
        q.1.word (accAddr i (oVal f.c0 + c.1) r.row) := fun x hx hno q _ => by
    refine (fillSlice_keeps isInt (oVal f.k) f hmine tab q).word ?_ (hcols c hc) (hmine r hr.mem) ?_
    · rintro i' n m ⟨-, ⟨y, hy, rfl⟩, -, hm⟩
      exact ⟨hin x hx y hy, hm⟩
    · rintro ⟨-, ⟨y, hy, he⟩, -⟩
      exact hno ⟨y, hy, by omega⟩
  obtain ⟨q, ⟨hq, hsys⟩, hword, hlast⟩ := foldl_onlyAt (g := fun p : State × FillAcc => p.1.word (accAddr i (oVal f.c0 + c.1) r.row)) hsl hkeep hother
    (s := p) ⟨hread, rfl⟩
  refine ((FillKeeps.stillFlags (W := fun _ _ _ => False) hi _ _ _).word (fun _ _ _ h => h.elim) (hcols c hc) (hmine r hr.mem) id).trans (hlast.trans ?_)
  rw [fillSlice_word isInt (oVal f.k) f hcsl hr hlive hmine (hin sl hsl.mem) hq (by rw [State.mEff_congr hsys]; exact hM), prevWord_congr hword]
end

/-! All stills of a target -/

section
variable (isInt : Bool) (f : FillOp) {tab : Nat → Nat → Bool} {cols : List (Nat × List XVal)} {all : List PRow} {tgt : List Nat}

theorem fillStills_keeps (htgt : ∀ i ∈ tgt, i < 4) (hrows : ∀ r ∈ all, r.row < 32) (s : State) :
    FillKeeps (fun i n m => i ∈ tgt ∧ (∃ c ∈ cols, n = oVal f.c0 + c.1) ∧ m < 32) s (tgt.foldl (fun s i => fillStill isInt f tab cols all i s) s) :=
  FillKeeps.foldl id fun i hi s _ => (fillStill_keeps isInt f (htgt i hi) hrows s).mono fun i' n m h => by
    obtain ⟨rfl, hn, -, hm⟩ := h
    exact ⟨hi, hn, hm⟩
/-- One word of a fill: that of the column c and the row r, on the still of the row. -/
theorem fillStills_word {c : Nat × List XVal} {r : PRow} {i : Nat} (htgt : ∀ i ∈ tgt, i < 4) (hnt : tgt.Nodup) (hi : i ∈ tgt) (hc : c ∈ cols)
    (hnd : (cols.map Prod.fst).Nodup) (hr : OnlyAt (fun x => x.row = r.row) r (all.filter fun r => r.still == i))
    (hlive : (r.on && tab r.m c.1) = true) (hrows : ∀ r ∈ all, r.row < 32) (hcols : ∀ x ∈ cols, oVal f.c0 + x.1 < 4096) {s : State}
    (hread : Readable f.overwrite s) (hM : r.row < s.mEff i) :
    (tgt.foldl (fun s i => fillStill isInt f tab cols all i s) s).word (accAddr i (oVal f.c0 + c.1) r.row) =
      fillWord isInt (oVal f.k) (prevWord f.overwrite (accAddr i (oVal f.c0 + c.1) r.row) s) r.vals c.2 := by
  have hrow : r.row < 32 := hrows r (List.mem_of_mem_filter hr.mem)
  have hkeep : ∀ x ∈ tgt, ∀ t, Readable f.overwrite t ∧ t.sys = s.sys →
      Readable f.overwrite (fillStill isInt f tab cols all x t) ∧ (fillStill isInt f tab cols all x t).sys = s.sys := fun x hx t ht =>
    have h := fillStill_keeps isInt f (htgt x hx) hrows t
    ⟨h.readable ht.1, h.sys.trans ht.2⟩
  have hother : ∀ x ∈ tgt, ¬ x = i → ∀ t, Readable f.overwrite t ∧ t.sys = s.sys →
      (fillStill isInt f tab cols all x t).word (accAddr i (oVal f.c0 + c.1) r.row) = t.word (accAddr i (oVal f.c0 + c.1) r.row) := fun x hx hne t _ => by
    refine (fillStill_keeps isInt f (htgt x hx) hrows t).word ?_ (hcols c hc) hrow fun h => hne h.1.symm
    rintro i' n m ⟨-, ⟨y, hy, rfl⟩, -, hm⟩
    exact ⟨hcols y hy, hm⟩
  obtain ⟨t, ⟨ht, hsys⟩, hword, hlast⟩ := foldl_onlyAt (g := fun s : State => s.word (accAddr i (oVal f.c0 + c.1) r.row))
    (onlyAt_of_nodup id (by rwa [List.map_id]) hi) hkeep hother (s := s) ⟨hread, rfl⟩
  rw [hlast, fillStill_word isInt f (htgt i hi) hc hnd hr hlive hrows hcols ht (by rw [State.mEff_congr hsys]; exact hM), prevWord_congr hword]
end

end Sys2Proof.Machine
end

section
/-! Proofs about the issue of fills (R65, R67–R71, R73, R84, R99, R101): the rows they place and the words these write. -/

namespace Sys2Proof.Machine

/-! Rows -/

theorem State.mEff_le (s : State) (i : Nat) : s.mEff i ≤ 32 := by
  rw [State.mEff]
  split <;> omega
theorem targetStills_lt {s : State} {t : Target} {i : Nat} (h : i ∈ targetStills s t) : i < 4 := by
  have hu : i ∈ s.usable := by
    cases t
    exacts [h, List.mem_of_mem_filter h, List.mem_of_mem_filter h]
  have : i ∈ [0, 1, 2, 3] := List.mem_of_mem_filter hu
  simp only [List.mem_cons, List.not_mem_nil, or_false] at this
  omega
theorem targetStills_nodup (s : State) (t : Target) : (targetStills s t).Nodup := by
  have hu : s.usable.Nodup := List.Nodup.filter _ (by decide)
  cases t
  exacts [hu, hu.filter _, hu.filter _]

theorem placeRow_mem {s : State} {l : List Nat} {m i r : Nat} (h : placeRow s l m = some (i, r)) : i ∈ l ∧ r < s.mEff i := by
  induction l generalizing m with
  | nil => cases h
  | cons j l ih =>
    rw [placeRow] at h
    split at h
    next hlt =>
      cases h
      exact ⟨List.mem_cons_self, hlt⟩
    next => exact (ih h).imp_left (List.mem_cons_of_mem j)
/-- Different rows of a fill go to different places. -/
theorem placeRow_inj {s : State} {l : List Nat} (hnd : l.Nodup) {m m' : Nat} {p : Nat × Nat} (h : placeRow s l m = some p)
    (h' : placeRow s l m' = some p) : m = m' := by
  induction l generalizing m m' with
  | nil => cases h
  | cons j l ih =>
    obtain ⟨hj, hnd⟩ := List.nodup_cons.mp hnd
    rw [placeRow] at h h'
    split at h <;> split at h'
    · cases h
      cases h'
      rfl
    · cases h
      exact absurd (placeRow_mem h').1 hj
    · cases h'
      exact absurd (placeRow_mem h).1 hj
    · have := ih hnd h h'
      omega

/-- A row that a mask keeps from writing holds zeros. -/
def blankOff (r : PRow) : PRow := if r.on then r else { r with vals := r.vals.map fun _ => XVal.fin (Ex.zero false) }
theorem blankOff_place (r : PRow) : (blankOff r).still = r.still ∧ (blankOff r).row = r.row := by
  rw [blankOff]
  split <;> exact ⟨rfl, rfl⟩

/-- The rows that a fill writes. -/
def fillRows (packed : Bool) (f : FillOp) (tag : Half) (l : List (FillOp × Half)) (s : State) : List PRow :=
  let old := newestTile s f.target
  let data := if packed then [] else if f.keep then (old.map StatTile.data).getD [] else readRows s f.stat.t (oVal f.m) (oVal f.k)
  let mask := if f.keep then (old.map StatTile.mask).getD s.still.mask else s.still.mask
  (if packed then placePacked s ((f, tag) :: l) else placeRows s f tag data mask).map blankOff
/-- The columns it streams. -/
def fillCols (f : FillOp) (s : State) : List (Nat × List XVal) := (List.range (oVal f.n)).map fun j => (j, streamCol s f j)

theorem fillCols_nodup (f : FillOp) (s : State) : ((fillCols f s).map Prod.fst).Nodup := by
  have : (fillCols f s).map Prod.fst = List.range (oVal f.n) := by
    rw [fillCols, List.map_map]
    exact List.map_id _
  exact this ▸ List.nodup_range
theorem mem_fillCols {f : FillOp} {s : State} {c : Nat × List XVal} (h : c ∈ fillCols f s) : c.1 < oVal f.n := by
  obtain ⟨j, hj, rfl⟩ := List.mem_map.mp h
  exact List.mem_range.mp hj

/-! Checks (R68) -/

theorem failIf_none {b : Bool} {r : Rej} (h : failIf b (some r) = none) : b = false := by
  cases b
  exacts [rfl, by cases h]
/-- The rows that one request of a fill may have. -/
def fillCap (s : State) (packed : Bool) (fs : List FillOp) (t : Target) : Nat :=
  if packed then (if (packSlots s t).length < fs.length then 0 else 8) else capacity s t
theorem fillChk_shape {s : State} {packed : Bool} {f g : FillOp} {l : List FillOp} (h : fillChk s packed (f :: l) = none) (hg : g ∈ f :: l) :
    oVal g.m ≤ fillCap s packed (f :: l) f.target ∧ oVal g.c0 + oVal g.n ≤ 4096 := by
  have hshape := firstRej_none (firstRej_none h (firstRej ((f :: l).map fun g => shapeChk s g
    ((pairTiles g.stat.t f.strm.t).map Prod.snd |>.getD 0) (oVal g.m) (fillCap s packed (f :: l) f.target)))
    (by simp [fillCap])) _ (List.mem_map_of_mem hg)
  have hm := failIf_none (firstRej_none hshape _ List.mem_cons_self)
  have hc := failIf_none (firstRej_none hshape (failIf (oVal g.c0 % 8 ≠ 0 || 4096 < oVal g.c0 + 8 * ((oVal g.n + 7) / 8))
    (shapeInvalid 4 ((targetStills s g.target).headD 0xFF))) (by simp))
  simp only [Bool.or_eq_false_iff, decide_eq_false_iff_not] at hm hc
  omega

/-! The places of rows -/

section
variable {f : FillOp} {tag : Half} {l : List (FillOp × Half)} {s : State}

theorem fillRows_unpacked_row {r : PRow} (h : r ∈ fillRows false f tag l s) : r.row < 32 := by
  obtain ⟨r', hr', rfl⟩ := List.mem_map.mp h
  obtain ⟨m, -, hm⟩ := List.mem_filterMap.mp hr'
  obtain ⟨⟨i, r⟩, hp, rfl⟩ := Option.map_eq_some_iff.mp hm
  rw [(blankOff_place _).2]
  exact lt_of_lt_of_le (placeRow_mem hp).2 (s.mEff_le i)
/-- The groups of a packed fill that passes its checks lie in their slots of 8 rows (R99). -/
theorem fillRows_packed_row (hchk : fillChk s true (f :: l.map Prod.fst) = none) {r : PRow} (h : r ∈ fillRows true f tag l s) : r.row < 32 := by
  obtain ⟨r', hr', rfl⟩ := List.mem_map.mp h
  obtain ⟨⟨⟨g, gtag⟩, i, base⟩, hp, hr'⟩ := List.mem_flatMap.mp hr'
  obtain ⟨m, hm, rfl⟩ := List.mem_map.mp hr'
  obtain ⟨hg, hslot⟩ := List.of_mem_zip hp
  obtain ⟨hcap, -⟩ := fillChk_shape hchk (List.mem_map_of_mem (f := Prod.fst) hg)
  obtain ⟨i', -, hslot⟩ := List.mem_flatMap.mp hslot
  obtain ⟨b, hb, heq⟩ := List.mem_map.mp hslot
  obtain ⟨rfl, rfl⟩ := Prod.mk.inj heq
  have hle : fillCap s true (f :: l.map Prod.fst) f.target ≤ 8 := by
    rw [fillCap, if_pos rfl]
    split <;> omega
  have := s.mEff_le i'
  rw [List.mem_range] at hm hb
  rw [(blankOff_place _).2]
  change 8 * b + m < 32
  change oVal g.m ≤ _ at hcap
  change m < oVal g.m at hm
  omega

/-- The stationary values that an unpacked fill computes with. -/
def fillData (f : FillOp) (s : State) : List (List XVal) :=
  if f.keep then ((newestTile s f.target).map StatTile.data).getD [] else readRows s f.stat.t (oVal f.m) (oVal f.k)
/-- The real row that A row m becomes at a place (R84). -/
def rowAt (f : FillOp) (tag : Half) (s : State) (i row m : Nat) : PRow := ⟨i, row, m, getAt [] (fillData f s) m, tag, f.stat.idx.toNat, true⟩

theorem fillRows_unmasked (hmask : maskedFill f = false) : fillRows false f tag l s =
    (List.range (fillData f s).length).filterMap fun m => (placeRow s (targetStills s f.target) m).map fun p => rowAt f tag s p.1 p.2 m := by
  simp only [fillRows, placeRows, hmask, Bool.not_false, Bool.true_or, Bool.false_eq_true, if_false]
  rw [List.map_filterMap]
  refine List.filterMap_congr fun m _ => ?_
  rw [Option.map_map]
  rfl
/-- A row of an unmasked fill is written, and alone at its place. -/
theorem fillRows_onlyAt (hmask : maskedFill f = false) {m i row : Nat} (hm : m < (fillData f s).length)
    (hp : placeRow s (targetStills s f.target) m = some (i, row)) :
    OnlyAt (fun x => x.row = row) (rowAt f tag s i row m) ((fillRows false f tag l s).filter fun r => r.still == i) := by
  rw [fillRows_unmasked hmask]
  refine onlyAt_of_nodup PRow.row (a := rowAt f tag s i row m) (List.pairwise_map.mpr ?_) ?_
  · have hrows : ((List.range (fillData f s).length).filterMap fun m => (placeRow s (targetStills s f.target) m).map fun p =>
        rowAt f tag s p.1 p.2 m).Pairwise fun x y => x.still = y.still → x.row ≠ y.row := by
      refine List.pairwise_filterMap.mpr (List.nodup_range.imp fun {m m'} hne x hx y hy hstill hrow => hne ?_)
      obtain ⟨p, hp, rfl⟩ := Option.map_eq_some_iff.mp hx
      obtain ⟨p', hp', rfl⟩ := Option.map_eq_some_iff.mp hy
      exact placeRow_inj (targetStills_nodup s f.target) hp (by rw [hp', Prod.ext_iff.mpr ⟨hstill, hrow⟩])
    refine (hrows.filter _).imp_of_mem fun {x y} hx hy h => h ?_
    rw [eq_of_beq (List.mem_filter.mp hx).2, eq_of_beq (List.mem_filter.mp hy).2]
  · refine List.mem_filter.mpr ⟨List.mem_filterMap.mpr ⟨m, List.mem_range.mpr hm, ?_⟩, beq_self_eq_true i⟩
    rw [hp]
    rfl
end

/-! The effect of a fill -/

theorem fillReads_read (c : Nat) (t : Tile) (b : Box) (s : State) : ReadFrom s (fillReads c t b s) := by
  simp only [fillReads, countTransposer]
  split
  · exact .touchBox _ _ _ s
  · exact ((ReadFrom.touchBox _ _ _ s).trans (.count _ _ _)).trans (.count _ _ _)
theorem fillCounts_read (packed gate : Bool) (depth : Nat) (f : FillOp) (tab : Nat → Nat → Bool) (all : List PRow) (cols : List (Nat × List XVal))
    (i : Nat) (s : State) : ReadFrom s (fillCounts packed gate depth f tab all cols i s) := by
  unfold fillCounts
  extract_lets o rows useful s1 s2 s3 s4
  have h1 : ReadFrom s s1 := .count _ _ s
  have h2 : ReadFrom s1 s2 := by
    simp only [s2]
    split
    exacts [.count _ _ s1, .refl s1]
  have h3 : ReadFrom s s3 := (h1.trans h2).trans (.count _ _ s2)
  have h4 : ReadFrom s s4 := h3.trans (.count _ _ s3)
  split
  · exact h3
  · split
    exacts [h4.trans (.count _ _ s4), h4]

/-- From s to t only the still array has changed, and not its directory of groups. -/
def TilesOnly (s t : State) : Prop := t = { s with still := t.still } ∧ t.still.groups = s.still.groups

theorem TilesOnly.trans {s t u : State} (h : TilesOnly s t) (h' : TilesOnly t u) : TilesOnly s u :=
  ⟨by rw [h'.1, h.1], h'.2.trans h.2⟩
theorem latchTile_tiles (t : Target) (v : StatTile) (s : State) : TilesOnly s (latchTile t v s) := by
  cases t <;> simp only [latchTile] <;> split <;> exact ⟨rfl, rfl⟩
theorem startRun_tiles (c : EngCmd) (t : Target) (hs : List (Nat × Nat)) (gs : List Group) (s : State) : TilesOnly s (startRun c t hs gs s) := by
  simp only [startRun]
  split <;> exact ⟨rfl, rfl⟩

section
variable (c : EngCmd) (packed : Bool) (f : FillOp) (tag : Half) (l : List (FillOp × Half)) (had : Bool × Bool) (s : State)

/-- The groups of a fill's completion token (R101). -/
def fillGroups (packed : Bool) (fs : List (FillOp × Half)) (s : State) : List Group := if packed then packGroups s fs else []

/-- A fill of no rows or no columns counts itself, and its token is complete at once. -/
theorem fillEffect_empty (h : oVal f.m = 0 ∨ oVal f.n = 0) : ∃ u, ReadFrom s u ∧ fillEffect c packed ((f, tag) :: l) had s =
    { u with still := { (s.enterGroups (fillGroups packed ((f, tag) :: l) s)).still with token := fillGroups packed ((f, tag) :: l) s } } := by
  refine ⟨_, ReadFrom.foldl (fun s' i => fillCounts_read packed (s.regBit 0x24000 0) ((pairTiles f.stat.t f.strm.t).getD (false, 32)).2 f
    (fun _ _ => true) [] [] i s') (targetStills s f.target) s, ?_⟩
  exact if_pos h
/-- The reads of a fill's operands and of its mask table (R85, R190). -/
def fillOperands : State :=
  let s1 := if f.keep || had.1 then s else ((f, tag) :: l).foldl (fun s g => fillReads 0x44018 g.1.stat.t ⟨0, oVal g.1.m, 0, oVal f.k⟩ s) s
  let s2 := if had.2 then s1 else fillReads 0x44010 f.strm.t ⟨0, oVal f.k, 0, oVal f.n⟩ s1
  match maskTable s f with
  | some r => s2.touch 0 r.t.base.toNat (8 + (fld64 (s.dword r.t.base.toNat) 16 16 * fld64 (s.dword r.t.base.toNat) 0 16 + 63) / 64 * 8)
  | none => s2
/-- The stills written by a fill. -/
def fillWritten : State := (targetStills s f.target).foldl (fun u i => fillStill ((pairTiles f.stat.t f.strm.t).getD (false, 32)).1 f (tableOn s f)
  (fillCols f s) (fillRows packed f tag l s) i u) (fillOperands f tag l had s)

theorem fillOperands_read : ReadFrom s (fillOperands f tag l had s) := by
  unfold fillOperands
  extract_lets s1 s2
  have h1 : ReadFrom s s1 := by
    simp only [s1]
    split
    exacts [.refl s, .foldl (fun s (g : FillOp × Half) => fillReads_read _ _ _ s) _ s]
  have h2 : ReadFrom s1 s2 := by
    simp only [s2]
    split
    exacts [.refl s1, fillReads_read _ _ _ s1]
  split
  exacts [(h1.trans h2).trans (.touch _ _ _ s2), h1.trans h2]
/-- Any other fill reads its operands, writes its stills, counts itself, and latches its tile. -/
theorem fillEffect_runs (h : ¬(oVal f.m = 0 ∨ oVal f.n = 0)) : ∃ w, ReadFrom (fillWritten packed f tag l had s) w ∧
    TilesOnly (w.enterGroups (fillGroups packed ((f, tag) :: l) s)) (fillEffect c packed ((f, tag) :: l) had s) := by
  let w := (targetStills s f.target).foldl (fun u i => fillCounts packed (s.regBit 0x24000 0) ((pairTiles f.stat.t f.strm.t).getD (false, 32)).2 f
    (tableOn s f) (fillRows packed f tag l s) (fillCols f s) i u) (fillWritten packed f tag l had s)
  obtain ⟨x, hx, heff⟩ : ∃ x, TilesOnly w x ∧ fillEffect c packed ((f, tag) :: l) had s = startRun c f.target (fillHalves s c.op)
      (fillGroups packed ((f, tag) :: l) s) (x.enterGroups (fillGroups packed ((f, tag) :: l) s)) := by
    refine ⟨if f.keep then w else latchTile f.target _ w, ?_, if_neg h⟩
    split
    exacts [⟨rfl, rfl⟩, latchTile_tiles _ _ w]
  refine ⟨w, ReadFrom.foldl (fun s i => fillCounts_read _ _ _ _ _ _ _ i s) _ _, heff ▸ TilesOnly.trans ⟨?_, ?_⟩ (startRun_tiles _ _ _ _ _)⟩
  · rw [State.enterGroups, hx.1]
    rfl
  · simp only [State.enterGroups, hx.2]
end

end Sys2Proof.Machine
end

section
/-! O44: what a fill leaves and what it writes, its issue from its queue, and its completion. -/

namespace Sys2Proof.Machine

/-- The accumulator words of a fill: those of its target's stills in the columns C0 to C0 + N − 1. -/
def FillWords (f : FillOp) (s : State) (i n m : Nat) : Prop := i ∈ targetStills s f.target ∧ oVal f.c0 ≤ n ∧ n < oVal f.c0 + oVal f.n ∧ m < 32

/-- What a fill that enters groups has left at t. -/
structure FillDone (f : FillOp) (gs : List Group) (s t : State) : Prop where
  bytes : ∀ x, OffWords (FillWords f s) x → t.byte x = s.byte x
  slots : t.slots = s.slots
  vec : t.vec = s.vec
  cc : t.cc = s.cc
  groups : t.still.groups = (s.still.groups ++ gs).drop ((s.still.groups ++ gs).length - 64)
  regs : SameRegsBut fillRegs s t

theorem FillDone.of_keeps {f : FillOp} {gs : List Group} {s w t : State} (h : FillKeeps (FillWords f s) s w) (ht : TilesOnly (w.enterGroups gs) t) :
    FillDone f gs s t := by
  obtain ⟨ht, hgroups⟩ := ht
  have hstill := h.still
  refine ⟨fun x hx => ?_, ?_, ?_, ?_, ?_, fun o ho => ?_⟩
  · rw [ht]
    exact h.bytes x hx
  · rw [ht]
    exact h.slots
  · rw [ht]
    exact h.vec
  · rw [ht]
    exact h.cc
  · rw [hgroups, State.enterGroups, hstill]
  · rw [ht]
    exact h.regs o ho

section
variable {packed : Bool} {f : FillOp} {tag : Half} {l : List (FillOp × Half)} {s : State} (c : EngCmd) (had : Bool × Bool)

theorem fillWritten_keeps (hrows : ∀ r ∈ fillRows packed f tag l s, r.row < 32) : FillKeeps (FillWords f s) s (fillWritten packed f tag l had s) := by
  refine (FillKeeps.of_read _ (fillOperands_read f tag l had s)).trans
    ((fillStills_keeps _ f (fun i hi => targetStills_lt hi) hrows _).mono fun i n m h => ?_)
  obtain ⟨hi, ⟨c, hc, rfl⟩, hm⟩ := h
  have := mem_fillCols hc
  exact ⟨hi, by omega, by omega, hm⟩
theorem fillEffect_done (hrows : ∀ r ∈ fillRows packed f tag l s, r.row < 32) :
    FillDone f (fillGroups packed ((f, tag) :: l) s) s (fillEffect c packed ((f, tag) :: l) had s) := by
  by_cases h : oVal f.m = 0 ∨ oVal f.n = 0
  · obtain ⟨u, hu, heff⟩ := fillEffect_empty c packed f tag l had s h
    refine .of_keeps (.of_read _ hu) (heff ▸ ⟨rfl, ?_⟩)
    rw [State.enterGroups, State.enterGroups, hu.frame]
  · obtain ⟨w, hw, heff⟩ := fillEffect_runs c packed f tag l had s h
    exact .of_keeps ((fillWritten_keeps had hrows).trans (.of_read _ hw)) heff

theorem fillEffect_word (hmask : maskedFill f = false) (hread : Readable f.overwrite s) (hcols : oVal f.c0 + oVal f.n ≤ 4096) {m n i row : Nat}
    (hm : m < oVal f.m) (hlen : m < (fillData f s).length) (hn : n < oVal f.n) (hp : placeRow s (targetStills s f.target) m = some (i, row)) :
    (fillEffect c false ((f, tag) :: l) had s).word (accAddr i (oVal f.c0 + n) row) =
      fillWord (((pairTiles f.stat.t f.strm.t).map Prod.fst).getD false) (oVal f.k) (prevWord f.overwrite (accAddr i (oVal f.c0 + n) row) s)
        (getAt [] (fillData f s) m) (streamCol s f n) := by
  have hempty : ¬(oVal f.m = 0 ∨ oVal f.n = 0) := by omega
  have hops := fillOperands_read f tag l had s
  have hmem : (fillOperands f tag l had s).word (accAddr i (oVal f.c0 + n) row) = s.word (accAddr i (oVal f.c0 + n) row) :=
    State.word_congr fun x _ _ => by simp only [State.byte, hops.mem]
  have hcol : (n, streamCol s f n) ∈ fillCols f s := List.mem_map.mpr ⟨n, List.mem_range.mpr hn, rfl⟩
  have hon : ((rowAt f tag s i row m).on && tableOn s f (rowAt f tag s i row m).m n) = true := by
    simp [rowAt, tableOn, maskTable, hmask]
  have hint : ((pairTiles f.stat.t f.strm.t).getD (false, 32)).1 = ((pairTiles f.stat.t f.strm.t).map Prod.fst).getD false := by
    cases pairTiles f.stat.t f.strm.t <;> rfl
  obtain ⟨hi, hrow⟩ := placeRow_mem hp
  obtain ⟨w, hw, heff, -⟩ := fillEffect_runs c false f tag l had s hempty
  have hword := fillStills_word (((pairTiles f.stat.t f.strm.t).getD (false, 32)).1) f (fun i hi => targetStills_lt hi) (targetStills_nodup s f.target) hi hcol
    (fillCols_nodup f s) (fillRows_onlyAt (l := l) (tag := tag) hmask hlen hp) hon (fun r hr => fillRows_unpacked_row hr)
    (fun x hx => by have := mem_fillCols hx; omega) ((FillKeeps.of_read (fun _ _ _ => False) hops).readable hread)
    (by rw [State.mEff_congr (by rw [hops.frame])]; exact hrow)
  rw [← hint, ← prevWord_congr hmem]
  refine Eq.trans (State.word_congr fun x _ _ => ?_) hword
  rw [heff]
  change w.byte x = (fillWritten false f tag l had s).byte x
  simp only [State.byte, hw.mem]
end

/-! Issue -/

section
variable (q : Nat) (c : EngCmd) (f : FillOp) (s : State)

theorem targetStills_issued (t : Target) : targetStills (s.issued q c) t = targetStills s t := by
  obtain ⟨u, a, b, k, hi⟩ := State.issued_eq q c s
  rw [hi]
  rfl
theorem packSlots_issued (t : Target) : packSlots (s.issued q c) t = packSlots s t := by
  obtain ⟨u, a, b, k, hi⟩ := State.issued_eq q c s
  rw [hi]
  rfl
theorem placeRow_issued (l : List Nat) (m : Nat) : placeRow (s.issued q c) l m = placeRow s l m := by
  obtain ⟨u, a, b, k, hi⟩ := State.issued_eq q c s
  rw [hi]
  induction l generalizing m with
  | nil => rfl
  | cons i l ih =>
    rw [placeRow, placeRow, ih]
    rfl
theorem readElem_issued (t : Tile) (i j : Nat) : readElem (s.issued q c) t i j = readElem s t i j := by
  obtain ⟨u, a, b, k, hi⟩ := State.issued_eq q c s
  refine SameView.readElem ?_ t i j
  rw [hi]
  exact ⟨rfl, rfl, rfl, rfl, rfl, fun _ _ => rfl⟩
theorem newestTile_issued (t : Target) : newestTile (s.issued q c) t = newestTile s t := by
  obtain ⟨u, a, b, k, hi⟩ := State.issued_eq q c s
  rw [hi]
  rfl
theorem fillData_issued : fillData f (s.issued q c) = fillData f s := by
  simp only [fillData, newestTile_issued, readRows, readElem_issued]
theorem streamCol_issued (n : Nat) : streamCol (s.issued q c) f n = streamCol s f n := by
  simp only [streamCol, readElem_issued]
theorem fillChk_issued (packed : Bool) (l : List FillOp) : fillChk (s.issued q c) packed l = fillChk s packed l := by
  obtain ⟨u, a, b, k, hi⟩ := State.issued_eq q c s
  rw [hi]
  rfl
end

/-- What a fill leaves, once issued. -/
theorem FillDone.of_issued {q : Nat} {c : EngCmd} {f : FillOp} {gs : List Group} {s t : State} (h : FillDone f gs (s.issued q c) t) :
    (∀ x, OffWords (FillWords f s) x → t.byte x = s.byte x) ∧ t.still.groups = (s.still.groups ++ gs).drop ((s.still.groups ++ gs).length - 64) ∧
      t.slots = s.slots ∧ t.vec = s.vec ∧ t.cc = (s.issued q c).cc ∧ SameRegsBut fillRegs s t := by
  have hwords : FillWords f (s.issued q c) = FillWords f s := by
    unfold FillWords
    rw [targetStills_issued]
  obtain ⟨hbytes, hslots, hvec, hcc, hgroups, hregs⟩ := h
  rw [hwords] at hbytes
  obtain ⟨u, a, b, k, hi⟩ := State.issued_eq q c s
  rw [hi] at hbytes hslots hvec hgroups
  exact ⟨hbytes, hgroups, hslots, hvec, hcc, fun o ho => (hregs o ho).trans (State.issued_reg q c s o)⟩

/-- No rejection reads the mask table. -/
theorem touchTable_none (f : FillOp) (s : State) : touchTable f none s = s := by
  unfold touchTable
  split
  next hr => cases hr
  next => rfl

section
variable {b : Bool} {q : Nat} {c : EngCmd} {f : FillOp} {s : State}

/-- A fill does not wait for the other queue when it heads that one too, or is not JOINT (R230). -/
theorem joint_ready (hjoint : f.target = .joint → (s.headCmd (35 - q)).map EngCmd.seq = some c.seq) :
    (decide (f.target = .joint) && (s.headCmd (35 - q)).map EngCmd.seq != some c.seq) = false := by
  by_cases hj : f.target = .joint
  · simp [hj, hjoint hj]
  · simp [hj]

variable (hq : q = if b then 18 else 17) (h : s.AtHead q c)
  (hjoint : f.target = .joint → (s.headCmd (35 - q)).map EngCmd.seq = some c.seq) (hsha : shadowBusy s f = false)
include hq h hjoint hsha

theorem exec_fill (hop : c.op = .fill f) (hfan : f.fanout = false) : exec (.fill b) s =
    .next (issueOr q c (fillChk s false [f]) (fillEffect c false [(f, c.tag)] (false, false)) (touchTable f (fillChk s false [f]) s)) := by
  change execFill b s = _
  rw [execFill, ← hq, h.runHead]
  simp only [fillHead, issueFill, hop, hfan, joint_ready hjoint, hsha, Bool.false_eq_true, if_false]
theorem exec_fill_packed {tag : Half} {l : List (FillOp × Half)} (hop : c.op = .packed ((f, tag) :: l)) (hchk : fillChk s true (f :: l.map Prod.fst) = none) :
    exec (.fill b) s = .next (fillEffect c true ((f, tag) :: l) (false, false) (s.issued q c)) := by
  change execFill b s = _
  rw [execFill, ← hq, h.runHead]
  simp only [fillHead, issueFill, hop, joint_ready hjoint, hsha, List.map_cons, hchk, issueOr, touchTable_none, Bool.false_eq_true, if_false]
end

/-- The word of a fill, from the state before its issue. -/
theorem fillEffect_issued_word {q : Nat} {c : EngCmd} {f : FillOp} {s : State} (hchk : fillChk s false [f] = none) (hmask : maskedFill f = false)
    (hread : f.overwrite = true ∨ (s.poison = [] ∧ s.parBad = [])) {m n i r : Nat} (hm : m < oVal f.m) (hlen : m < (fillData f s).length)
    (hn : n < oVal f.n) (hp : placeRow s (targetStills s f.target) m = some (i, r)) :
    (fillEffect c false [(f, c.tag)] (false, false) (s.issued q c)).word (accAddr i (oVal f.c0 + n) r) =
      fillWord (((pairTiles f.stat.t f.strm.t).map Prod.fst).getD false) (oVal f.k) (prevWord f.overwrite (accAddr i (oVal f.c0 + n) r) s)
        (getAt [] (fillData f s) m) (streamCol s f n) := by
  have hword : (s.issued q c).word (accAddr i (oVal f.c0 + n) r) = s.word (accAddr i (oVal f.c0 + n) r) ∧ Readable f.overwrite (s.issued q c) := by
    obtain ⟨u, a, b, k, hi⟩ := State.issued_eq q c s
    rw [hi]
    exact ⟨State.word_congr fun _ _ _ => rfl, hread⟩
  obtain ⟨hprev, hread⟩ := hword
  have hres := fillEffect_word (l := []) (tag := c.tag) c (false, false) hmask hread (fillChk_shape hchk List.mem_cons_self).2 hm
    (by rwa [fillData_issued]) hn (by rwa [targetStills_issued, placeRow_issued])
  rwa [prevWord_congr hprev, fillData_issued, streamCol_issued] at hres

/-! Completion -/

section
variable {r : FillRun} {l : List FillRun} {s : State} (hclk : s.Clocked)
include hclk

theorem exec_fillComplete_A (hrun : s.still.runA = r :: l) : exec (.fillComplete false) s = .next { s with still := { s.still with
    token := r.groups, runA := l, actA := if s.still.shaA.isSome then s.still.shaA else s.still.actA,
    actB := if r.joint then (if s.still.shaA.isSome then s.still.shaA else s.still.actA) else s.still.actB, shaA := none } } := by
  change execFillComplete false s = _
  rw [execFillComplete, hclk.runFast]
  simp only [hrun, Bool.false_and, Bool.false_eq_true, if_false]
theorem exec_fillComplete_B (hrun : s.still.runB = r :: l) (hsplit : ∀ e ∈ s.still.runA.head?, e.joint = false) :
    exec (.fillComplete true) s = .next { s with still := { s.still with
      token := r.groups, runB := l, actB := if s.still.shaB.isSome then s.still.shaB else s.still.actB, shaB := none } } := by
  change execFillComplete true s = _
  rw [execFillComplete, hclk.runFast]
  cases hA : s.still.runA with
  | nil => simp only [hA, hrun, Bool.not_false, Bool.and_self, if_true]
  | cons e t =>
    have he : e.joint = false := hsplit e (by rw [hA]; rfl)
    simp only [hA, hrun, he, Bool.not_false, Bool.and_self, if_true]
end

/-- Settles O44: a fill that passes its checks writes each word once, from the operands as they stood before its issue. -/
theorem fillsWriteTheirAccumulatorWords : Obligations.FillsWriteTheirAccumulatorWords := by
  unfold Obligations.FillsWriteTheirAccumulatorWords
  refine ⟨fun b q c f s hq h hop hfan hjoint hsha => ⟨fun r hchk => ?rejected, fun hchk => ?fill⟩,
    fun b q c f tag l s hq h hop hjoint hsha hchk => ?packed, fun r l s hclk hrun => ?completeA, fun r l s hclk hrun hsplit => ?completeB⟩
  case rejected => rw [exec_fill hq h hjoint hsha hop hfan, hchk, issueOr]
  case fill =>
    intro tgt data isInt
    obtain ⟨hbytes, -, hslots, hvec, hcc, hregs⟩ := (fillEffect_done (packed := false) (f := f) (tag := c.tag) (l := []) (s := s.issued q c) c
      (false, false) fun r hr => fillRows_unpacked_row hr).of_issued
    have hexec := exec_fill hq h hjoint hsha hop hfan
    rw [hchk, issueOr, touchTable_none] at hexec
    refine ⟨_, hexec, fun x hx => hbytes x fun i n m hw => ?_, fun m n i r hm hn hp hmask hread hdata => ?_, fun hempty => ?_, hslots, hvec, hcc, hregs⟩
    · obtain ⟨hi, hlo, hhi, hm⟩ := hw
      exact hx i n m hi hlo hhi hm
    · have hlen : (fillData f s).length = oVal f.m := by
        obtain hkeep | hlen := hdata
        · rw [fillData, hkeep]
          simp [readRows]
        · exact hlen
      exact fillEffect_issued_word hchk hmask hread hm (hlen ▸ hm) hn hp
    · obtain ⟨u, hu, heff⟩ := fillEffect_empty c false f c.tag [] (false, false) (s.issued q c) hempty
      obtain ⟨v, a, b, k, hi⟩ := State.issued_eq q c s
      rw [heff]
      exact ⟨hu.mem.trans (by rw [hi]), rfl⟩
  case packed =>
    have hchk' : fillChk (s.issued q c) true (f :: l.map Prod.fst) = none := (fillChk_issued q c s true _).trans hchk
    obtain ⟨hbytes, hgroups, hslots, hvec, hcc, -⟩ := (fillEffect_done (packed := true) (f := f) (tag := tag) (l := l) (s := s.issued q c) c
      (false, false) fun r hr => fillRows_packed_row hchk' hr).of_issued
    refine ⟨_, exec_fill_packed hq h hjoint hsha hop hchk, fun x hx => hbytes x fun i n m hw => ?_, ⟨_, rfl, ?_⟩, hslots, hvec, hcc⟩
    · obtain ⟨hi, hlo, hhi, hm⟩ := hw
      exact hx i n m hi hlo hhi hm
    · rw [hgroups, fillGroups, if_pos rfl, packGroups, packSlots_issued]
  case completeA => exact ⟨_, exec_fillComplete_A hclk hrun, rfl, rfl, rfl, rfl, rfl, rfl⟩
  case completeB => exact ⟨_, exec_fillComplete_B hclk hrun hsplit, rfl, rfl, rfl, rfl, rfl, rfl⟩

end Sys2Proof.Machine
end

section
/-! Rules of the scale slots, the predicates, the X registers and the issue of a command, used by the proofs of chapter 04. -/

namespace Sys2Proof.Machine

/-! The issue of a command (R210) -/

theorem State.issued_slot (q : Nat) (c : EngCmd) (k : Nat) (s : State) : (s.issued q c).slot k = s.slot k := by
  obtain ⟨u, a, b, x, hi⟩ := State.issued_eq q c s
  rw [hi]
  rfl
theorem State.issued_logs (q : Nat) (c : EngCmd) (s : State) : (s.issued q c).logs = s.logs := by
  obtain ⟨u, a, b, x, hi⟩ := State.issued_eq q c s
  rw [hi]
theorem State.issued_pred (q : Nat) (c : EngCmd) (p : BitVec 3) (s : State) : (s.issued q c).pred p = s.pred p := by
  obtain ⟨u, a, b, x, hi⟩ := State.issued_eq q c s
  rw [hi]
  rfl
theorem State.issued_ctxt (q : Nat) (c : EngCmd) (d : Ctx) (s : State) : (s.issued q c).ctxt d = s.ctxt d := by
  obtain ⟨u, a, b, x, hi⟩ := State.issued_eq q c s
  rw [hi]
  cases d <;> rfl
theorem State.issued_x (q : Nat) (c : EngCmd) (d : Ctx) (r : BitVec 5) (s : State) : (s.issued q c).x d r = s.x d r := by
  rw [State.x, State.issued_ctxt, ← State.x]
theorem State.issued_flags (q : Nat) (c : EngCmd) (e : Nat) (s : State) : (s.issued q c).flags e = s.flags e := by
  rw [State.flags, State.issued_reg, ← State.flags]
/-- A command that leaves a queue other than the fill queues is popped from it, and counted in one of two counters. -/
theorem State.issued_pops {q : Nat} (h17 : q ≠ 17) (h18 : q ≠ 18) (c : EngCmd) (s : State) :
    s.issued q c = { s.popQueue q with ctrs := (s.issued q c).ctrs } ∧ SameCtrsBut [0x14010, 0x14018] s (s.issued q c) := by
  have hdone : s.done q c = s.popQueue q := by simp [State.done, h17, h18]
  have hcount : ∀ off ∈ [0x14010, 0x14018], (s.popQueue q).count off 1 = { s.popQueue q with ctrs := ((s.popQueue q).count off 1).ctrs } ∧
      SameCtrsBut [0x14010, 0x14018] s ((s.popQueue q).count off 1) := fun off hoff => by
    obtain ⟨k, hk⟩ := State.count_eq off 1 (s.popQueue q)
    refine ⟨by rw [hk], fun o ho => ?_⟩
    have hne : o ≠ off := fun he => ho (he ▸ hoff)
    rw [State.count_ctr, if_neg fun hc => hne hc.1]
    rfl
  simp only [State.issued, hdone]
  split
  · exact ⟨rfl, fun _ _ => rfl⟩
  · exact hcount 0x14010 (by decide)
  · exact hcount 0x14018 (by decide)
theorem State.popQueue_queue (q k : Nat) (s : State) :
    (s.popQueue q).queue k = if k = q then { s.queue q with items := (s.queue q).items.drop 1, wait := .none } else s.queue k :=
  Tab.get_set Queue.empty s.cc.queues q k _

/-! Slots -/

theorem State.setSlot_slot (n k : Nat) (v : Slot) (s : State) : (s.setSlot n v).slot k = if k = n then v else s.slot k :=
  Tab.get_set Slot.reset s.slots n k v
/-- A slot set on a state that holds the slots of s: it holds the value, the others what they held in s, and nothing else changes. -/
theorem State.setSlot_only {s u : State} (hu : ∀ k, u.slot k = s.slot k) (n : Nat) (v : Slot) : (u.setSlot n v).slot n = v ∧
    (∀ k, k ≠ n → (u.setSlot n v).slot k = s.slot k) ∧ u.setSlot n v = { u with slots := (u.setSlot n v).slots } :=
  ⟨by rw [State.setSlot_slot, if_pos rfl], fun k hk => by rw [State.setSlot_slot, if_neg hk, hu], rfl⟩
theorem State.raise_slot (e : Err) (k : Nat) (s : State) : (s.raise e).slot k = s.slot k := by
  rw [State.slot, State.raise_slots, ← State.slot]
theorem slotChk_le {n : BitVec 10} (h : n.toNat ≤ 255) : slotChk n = none := by
  rw [slotChk, decide_eq_false (Nat.not_lt.mpr h)]
  rfl

/-! Predicates and X registers (R219, R227) -/

/-- The mask of predicate p holds bit p alone. -/
theorem predMask_bit (p q : BitVec 3) : ((1 : BitVec 8) <<< p.toNat).getLsbD q.toNat = decide (q = p) := by
  revert p q
  decide
theorem State.setPred_pred (p q : BitVec 3) (v : Bool) (s : State) : (s.setPred p v).pred q = if q = p then v else s.pred q := by
  have hbit := predMask_bit p q
  have hq : decide (q.toNat < 8) = true := decide_eq_true q.isLt
  cases v with
  | false =>
    change (s.cc.p &&& ~~~((1 : BitVec 8) <<< p.toNat)).getLsbD q.toNat = _
    rw [BitVec.getLsbD_and, BitVec.getLsbD_not, hbit, hq]
    by_cases h : q = p <;> simp [h, State.pred]
  | true =>
    change (s.cc.p ||| (1 : BitVec 8) <<< p.toNat).getLsbD q.toNat = _
    rw [BitVec.getLsbD_or, hbit]
    by_cases h : q = p <;> simp [h, State.pred]
theorem State.setX_x (c : Ctx) (r i : BitVec 5) (v : DWord) (s : State) :
    (s.setX c r v).x c i = if i = r ∧ r ≠ 0 then v else s.x c i := by
  by_cases hr : r = 0
  · rw [State.setX, if_pos hr, if_neg (c := i = r ∧ r ≠ 0) fun h => h.2 hr]
  by_cases hi : i = r
  · subst hi
    rw [State.x, State.setX, if_neg hr, if_neg hr, State.setCtxt_ctxt, Tab.get_set_same, if_pos ⟨rfl, hr⟩]
  · have hne : i.toNat ≠ r.toNat := fun h => hi (BitVec.eq_of_toNat_eq h)
    rw [State.x, State.setX, if_neg hr, State.setCtxt_ctxt, Tab.get_set_other 0 0 _ _ _ _ hne, if_neg (c := i = r ∧ r ≠ 0) fun h => hi h.1]
    rfl
theorem State.setCtxt_other {c d : Ctx} (h : d ≠ c) (v : Ctxt) (s : State) : (s.setCtxt c v).ctxt d = s.ctxt d :=
  match c, d, h with
  | .acc, .e0, _ | .acc, .e1, _ | .e0, .acc, _ | .e0, .e1, _ | .e1, .acc, _ | .e1, .e0, _ => rfl
/-- Writing an X register changes its context, and no other. -/
theorem State.setX_only (c : Ctx) (r : BitVec 5) (v : DWord) (s : State) :
    s.setX c r v = s.setCtxt c ((s.setX c r v).ctxt c) ∧ ∀ d, d ≠ c → (s.setX c r v).ctxt d = s.ctxt d := by
  simp only [State.setX]
  split
  · refine ⟨?_, fun _ _ => rfl⟩
    cases c <;> rfl
  · exact ⟨by rw [State.setCtxt_ctxt], fun d hd => State.setCtxt_other hd _ s⟩

end Sys2Proof.Machine
end

section
/-! Proofs about the commit of a scale slot (R121 to R124, R128). -/

namespace Sys2Proof.Machine

/-! The policy (R123, R124) -/

/-- The exponent k of the factors that the policy sets, by the largest entry h of the history. -/
def Slot.policyExp (v : Slot) (h : Ex) : Int := min (max (((fmaxOf (fld v.cfg 27 5)).div h).log2 - (fld v.cfg 8 3 : Int)) (-126)) 126
theorem Slot.policyExp_bounds (v : Slot) (h : Ex) : -126 ≤ v.policyExp h ∧ v.policyExp h ≤ 126 := by
  simp only [Slot.policyExp]
  omega
/-- The largest entry of a slot's history gives no factor: it is not a positive number, or the format code names no element format. -/
def Slot.NoFactor (v : Slot) : Prop := ∀ h, v.histMax = .fin h → h.num = 0 ∨ h.neg = true ∨ 10 < fld v.cfg 27 5

theorem Slot.policy_holds {v : Slot} (hno : v.NoFactor) : v.policy = { v with held := true } := by
  simp only [Slot.policy]
  split
  next h hmax =>
    refine if_pos ?_
    simpa [or_assoc] using hno h hmax
  · rfl
theorem Slot.policy_sets {v : Slot} {h : Ex} (hmax : v.histMax = .fin h) (hnum : h.num ≠ 0) (hneg : h.neg = false)
    (hfmt : fld v.cfg 27 5 ≤ 10) : v.policy = { v with
      held := false, enc := w32 ((v.policyExp h + 127).toNat * 2 ^ 23), dec := w32 ((127 - v.policyExp h).toNat * 2 ^ 23) } := by
  simp only [Slot.policy, hmax]
  exact if_neg (by simp [hnum, hneg, hfmt])
/-- The policy holds the factors, or sets both by the history. -/
theorem Slot.policy_cases (v : Slot) : v.NoFactor ∨ ∃ h, v.histMax = .fin h ∧ h.num ≠ 0 ∧ h.neg = false ∧ fld v.cfg 27 5 ≤ 10 := by
  by_cases hno : v.NoFactor
  · exact .inl hno
  · exact .inr (by simpa [Slot.NoFactor, and_assoc] using hno)
/-- The policy changes POLICY_HELD and the factors only. -/
theorem Slot.policy_frame (v : Slot) : v.policy = { v with held := v.policy.held, enc := v.policy.enc, dec := v.policy.dec } := by
  obtain hno | ⟨h, hmax, hnum, hneg, hfmt⟩ := v.policy_cases
  · rw [Slot.policy_holds hno]
  · rw [Slot.policy_sets hmax hnum hneg hfmt]
/-- What the factors were does not matter where the policy sets them (R125). -/
theorem Slot.policy_overwrites {v : Slot} (hheld : v.policy.held = false) (e d : Word) : ({ v with enc := e, dec := d } : Slot).policy = v.policy := by
  obtain hno | ⟨h, hmax, hnum, hneg, hfmt⟩ := v.policy_cases
  · rw [Slot.policy_holds hno] at hheld
    exact nomatch hheld
  · rw [Slot.policy_sets hmax hnum hneg hfmt, Slot.policy_sets (v := { v with enc := e, dec := d }) hmax hnum hneg hfmt]
    rfl
/-- The FP32 word with exponent field k and fraction 0. -/
theorem factorWord_toNat {k : Int} (hlo : 0 ≤ k) (hhi : k < 512) : ((w32 (k.toNat * 2 ^ 23)).toNat : Int) = k * 2 ^ 23 := by
  rw [w32, BitVec.toNat_ofNat, Nat.mod_eq_of_lt (by omega)]
  omega

/-! The commit (R121, R128) -/

/-- The slot after the first two steps of a commit: MAX_CUR has entered the history. -/
def Slot.entered (v : Slot) : Slot :=
  { v with hist := Tab.set 0 v.hist v.ptr v.maxCur, ptr := (v.ptr + 1) % 16, valid := min (v.valid + 1) 16, maxCur := 0 }

theorem Slot.commit_fixed {v : Slot} (h : v.cfg.getLsbD 24 = false) : v.commit = v.entered.watch := by
  simp only [Slot.commit, h, Bool.false_eq_true, if_false]
  rfl
theorem Slot.commit_policy {v : Slot} (h : v.cfg.getLsbD 24 = true) : v.commit = v.entered.policy.watch := by
  simp only [Slot.commit, h, if_true]
  rfl
/-- But for POLICY_HELD and the factors, a commit is the same in both policy modes. -/
theorem Slot.commit_eq (v : Slot) : ∃ b e d, v.commit = ({ v.entered with held := b, enc := e, dec := d } : Slot).watch := by
  cases h : v.cfg.getLsbD 24 with
  | false => exact ⟨v.held, v.enc, v.dec, Slot.commit_fixed h⟩
  | true => exact ⟨_, _, _, (Slot.commit_policy h).trans (congrArg Slot.watch v.entered.policy_frame)⟩
/-- The watch on one end of the format: the promote bit stays, or the share of elements in the interval exceeds the threshold (R128). -/
theorem watchBit_iff (b : Bool) (dt d t : Nat) :
    (b || (decide (0 < dt) && decide (t ≤ 2 ^ 20) && decide (t * dt < d * 2 ^ 20))) = true ↔
      b = true ∨ (0 < dt ∧ t ≤ 2 ^ 20 ∧ t * dt < d * 2 ^ 20) := by
  simp [and_assoc]

/-- SCALE_COMMIT at the head of XCTL commits its slot as it issues (R122). -/
theorem exec_scaleCommit_issued {c : EngCmd} {n : BitVec 10} {s : State} (h : s.AtHead 22 c) (hop : c.op = .scaleCommit n) (hn : n.toNat ≤ 255) :
    exec .scaleCommit s = .next ((s.issued 22 c).setSlot n.toNat (s.slot n.toNat).commit) := by
  change execScaleCommit s = _
  rw [execScaleCommit, h.runHead]
  simp only [hop, slotChk_le hn, issueOr, State.issued_slot]

/-- SLOT_CTRL.COMMIT commits its slot (R122). -/
theorem exec_slotCommit_served (n : Byte) {s : State} (h : s.Served) :
    exec (.slotCommit n) s = .next (s.setSlot n.toNat (s.slot n.toNat).commit) :=
  runSlow_served (fun s => s.setSlot n.toNat (s.slot n.toNat).commit) h

/-- Settles O35: both ways to commit set the one slot, and the steps of the commit by its first two, its policy and its watch. -/
theorem commitFollowsItsSteps : Obligations.CommitFollowsItsSteps := by
  unfold Obligations.CommitFollowsItsSteps
  refine ⟨fun c n s h hop hn => ⟨_, exec_scaleCommit_issued h hop hn, State.setSlot_only (fun k => State.issued_slot 22 c k s) _ _⟩,
    fun n s hs => ⟨_, exec_slotCommit_served n hs, State.setSlot_only (fun _ => rfl) _ _⟩, fun v => ?steps, fun v hno => ?held,
    fun v h hmax hnum hneg hfmt => ?sets, fun v w hpol hw => ?policy⟩
  case steps =>
    obtain ⟨b, e, d, hc⟩ := v.commit_eq
    refine ⟨fun i => ?hist, ?_, ?_, ?_, ?ovf, ?van, ?_, ?_, ?_, ?_, ?_, ?_, ?_, fun hfix => ?fixed⟩
    case hist =>
      rw [hc]
      exact Tab.get_set 0 v.hist v.ptr i v.maxCur
    case ovf | van =>
      rw [hc]
      exact watchBit_iff _ _ _ _
    case fixed =>
      rw [Slot.commit_fixed hfix]
      exact ⟨rfl, rfl, rfl⟩
    all_goals
      rw [hc]
      rfl
  case held =>
    have hno' : v.NoFactor := fun h hmax => by
      rw [hmax] at hno
      exact hno
    rw [Slot.policy_holds hno']
    exact ⟨rfl, rfl, rfl⟩
  case sets =>
    obtain ⟨hlo, hhi⟩ := v.policyExp_bounds h
    rw [Slot.policy_sets hmax hnum hneg hfmt]
    exact ⟨v.policyExp h, rfl, rfl, factorWord_toNat (by omega) (by omega), factorWord_toNat (by omega) (by omega)⟩
  case policy =>
    rw [Slot.commit_policy hpol, hw]
    exact ⟨rfl, rfl, rfl⟩

end Sys2Proof.Machine
end

section
/-! Proofs about the factors of a scale slot (R125), and about its clears and promote bits (R127, R130, R131). -/

namespace Sys2Proof.Machine

/-! Factors -/

/-- A positive normal value sets its factor and nothing else, on a state that holds the slots of s. -/
theorem State.setFactor_taken {s u : State} (hu : ∀ k, u.slot k = s.slot k) {v : Word} (hlo : 0 < fld v 23 8) (hhi : fld v 23 8 < 255)
    (hsign : v.getLsbD 31 = false) (n : Nat) (dec : Bool) (tag : Half) (th : Nat) :
    (u.setFactor n dec v tag th).slot n = (if dec then { s.slot n with dec := v } else { s.slot n with enc := v }) ∧
      u.setFactor n dec v tag th = { u with slots := (u.setFactor n dec v tag th).slots } := by
  have hok : factorOk v = true := by
    rw [factorOk, hsign, decide_eq_true ⟨hlo, hhi⟩]
    rfl
  obtain ⟨hset, -, hframe⟩ := State.setSlot_only hu n (if dec then { s.slot n with dec := v } else { s.slot n with enc := v })
  rw [State.setFactor, if_pos hok, hu]
  exact ⟨hset, hframe⟩
theorem State.setFactor_refused {v : Word} (h : fld v 23 8 = 0 ∨ fld v 23 8 = 255 ∨ v.getLsbD 31 = true)
    (n : Nat) (dec : Bool) (tag : Half) (th : Nat) (s : State) :
    s.setFactor n dec v tag th = s.raise { code := 0x3004, unit := 3, tag := tag, thread := th, d0 := w32 n, d1 := v } := by
  refine if_neg ?_
  obtain h | h | h := h <;> simp [factorOk, h]
theorem State.setFactor_other {n k : Nat} (hk : k ≠ n) (dec : Bool) (v : Word) (tag : Half) (th : Nat) (s : State) :
    (s.setFactor n dec v tag th).slot k = s.slot k := by
  simp only [State.setFactor]
  split
  · rw [State.setSlot_slot, if_neg hk]
  · exact State.raise_slot _ k s
theorem State.setFactor_frame (s : State) (n : Nat) (dec : Bool) (v : Word) (tag : Half) (th : Nat) :
    (s.setFactor n dec v tag th).mem = s.mem ∧ (s.setFactor n dec v tag th).cc = s.cc := by
  simp only [State.setFactor]
  split
  · exact ⟨rfl, rfl⟩
  · exact ⟨State.raise_mem _ s, State.raise_cc _ s⟩
/-- A refused value leaves every slot, and while the log has room its last entry is SCALE_VALUE_INVALID with the slot and the value. -/
theorem State.setFactor_refused_logs {v : Word} (h : fld v 23 8 = 0 ∨ fld v 23 8 = 255 ∨ v.getLsbD 31 = true)
    (s : State) (n : Nat) (dec : Bool) (tag : Half) (th : Nat) :
    (s.setFactor n dec v tag th).slot n = s.slot n ∧ (s.logs.errs.length < 512 → ∃ e, (s.setFactor n dec v tag th).logs.errs = s.logs.errs ++ [e] ∧
      e.code = 0x3004 ∧ e.d0 = w32 n ∧ e.d1 = v ∧ e.tag = tag) := by
  rw [State.setFactor_refused h]
  exact ⟨State.raise_slot _ n s, fun hroom => ⟨_, State.raise_errs _ s hroom, rfl, rfl, rfl, rfl⟩⟩

theorem exec_scaleSet_issued {c : EngCmd} {n : BitVec 10} {dec : Bool} {v : Opd} {s : State} (h : s.AtHead 22 c) (hop : c.op = .scaleSet n dec v)
    (hn : n.toNat ≤ 255) (hv : opdBad v = false) :
    exec .scaleSet s = .next ((s.issued 22 c).setFactor n.toNat dec (oWord v) c.tag (ctxNum c.ctx)) := by
  change execScaleSet s = _
  rw [execScaleSet, h.runHead]
  simp only [hop, slotChk_le hn, hv, failIf, Bool.false_eq_true, if_false, firstRej, issueOr]

theorem exec_scaleRegisterWrite_served (n : Byte) (dec : Bool) (v : Word) {s : State} (h : s.Served) :
    exec (.scaleRegisterWrite n dec v) s = .next (s.setFactor n.toNat dec v 0 15) := runSlow_served _ h

/-- Settles O36: the command and the register write set the factor by the same rule, and a commit by the policy overwrites both. -/
theorem factorsTakePositiveNormals : Obligations.FactorsTakePositiveNormals := by
  unfold Obligations.FactorsTakePositiveNormals
  refine ⟨fun c n dec v s h hop hn hv => ⟨_, exec_scaleSet_issued h hop hn hv, fun k hk => ?other, fun hlo hhi hsign => ?taken, fun hbad => ?refused⟩,
    fun n dec v s hs => ⟨_, exec_scaleRegisterWrite_served n dec v hs, fun k hk => State.setFactor_other hk dec v 0 15 s, ?mem, ?cc, fun hlo hhi hsign => ?regTaken,
      fun hbad => ?regRefused⟩, fun v e d hpol hheld => ?commit⟩
  case other => rw [State.setFactor_other hk, State.issued_slot]
  case taken => exact State.setFactor_taken (fun k => State.issued_slot 22 c k s) hlo hhi hsign n.toNat dec c.tag (ctxNum c.ctx)
  case refused =>
    obtain ⟨hslot, hlog⟩ := State.setFactor_refused_logs hbad (s.issued 22 c) n.toNat dec c.tag (ctxNum c.ctx)
    rw [State.issued_slot] at hslot
    rw [State.issued_logs] at hlog
    exact ⟨hslot, hlog⟩
  case mem => exact (s.setFactor_frame n.toNat dec v 0 15).1
  case cc => exact (s.setFactor_frame n.toNat dec v 0 15).2
  case regTaken => exact State.setFactor_taken (s := s) (fun _ => rfl) hlo hhi hsign n.toNat dec 0 15
  case regRefused =>
    obtain ⟨hslot, hlog⟩ := State.setFactor_refused_logs hbad s n.toNat dec 0 15
    refine ⟨hslot, fun hroom => ?_⟩
    obtain ⟨x, hx, hcode, hd0, hd1, -⟩ := hlog hroom
    exact ⟨x, hx, hcode, hd0, hd1⟩
  case commit =>
    rw [Slot.commit_policy hpol] at hheld ⊢
    rw [Slot.commit_policy (v := { v with enc := e, dec := d }) hpol]
    have hsame : ({ v with enc := e, dec := d } : Slot).entered.policy = v.entered.policy := v.entered.policy_overwrites hheld e d
    rw [hsame]
    exact ⟨rfl, rfl⟩

/-! Clears and promote bits -/

theorem exec_clearCounts_served (n : Byte) {s : State} (h : s.Served) :
    exec (.clearCounts n) s = .next (s.setSlot n.toNat (s.slot n.toNat).clearCounts) :=
  runSlow_served (fun s => s.setSlot n.toNat (s.slot n.toNat).clearCounts) h
theorem exec_resetHist_served (n : Byte) {s : State} (h : s.Served) :
    exec (.resetHist n) s = .next (s.setSlot n.toNat (s.slot n.toNat).resetHist) :=
  runSlow_served (fun s => s.setSlot n.toNat (s.slot n.toNat).resetHist) h

section
variable {c : EngCmd} {n : BitVec 10} {s : State} (h : s.AtHead 22 c) (hn : n.toNat ≤ 255)
include h hn

theorem exec_promoteClear_issued (hop : c.op = .promoteClear n) :
    exec .promoteClear s = .next ((s.issued 22 c).setSlot n.toNat (s.slot n.toNat).promoteClear) := by
  change execPromoteClear s = _
  rw [execPromoteClear, h.runHead]
  simp only [hop, slotChk_le hn, issueOr, State.issued_slot]
theorem exec_promotePred_issued {p : BitVec 3} (hop : c.op = .promotePred n p) :
    exec .promotePred s = .next ((s.issued 22 c).setPred p (s.slot n.toNat).promoted) := by
  change execPromotePred s = _
  rw [execPromotePred, h.runHead]
  simp only [hop, slotChk_le hn, issueOr, State.issued_slot]
end

/-- Settles O37: each clear sets its slot alone, and PROMOTE_PRED its predicate alone. -/
theorem slotClearsAndPromoteBits : Obligations.SlotClearsAndPromoteBits := by
  unfold Obligations.SlotClearsAndPromoteBits
  refine ⟨fun n s hs => ⟨_, exec_clearCounts_served n hs, State.setSlot_only (fun _ => rfl) _ _⟩,
    fun n s hs => ⟨_, exec_resetHist_served n hs, ?reset⟩,
    fun c n s h hop hn => ⟨_, exec_promoteClear_issued h hn hop, State.setSlot_only (fun k => State.issued_slot 22 c k s) _ _⟩,
    fun c n p s h hop hn => ⟨_, exec_promotePred_issued h hn hop, fun q => ?_, rfl⟩⟩
  case reset =>
    obtain ⟨hset, hframe⟩ := State.setSlot_only (s := s) (fun _ => rfl) n.toNat (s.slot n.toNat).resetHist
    refine ⟨fun i => ?_, hset, hframe⟩
    rw [hset]
    rfl
  · rw [State.setPred_pred, State.issued_pred]
    rfl

end Sys2Proof.Machine
end

section
/-! Proofs about the sticky flags of the engines (R133 to R135, R138), PRED_SET (R219) and GEN_STEP (R201). -/

namespace Sys2Proof.Machine

/-! Flag registers -/

/-- FIRST_NAN0 of a still is no engine's flag register. -/
theorem flagReg_ne_firstNan {d : Nat} (hd : d ≤ 7) (e : Nat) : 0x20084 + 0x1000 * e ≠ flagReg d := by
  simp only [flagReg]
  split <;> omega
theorem flagReg_inj {d e : Nat} (hd : d ≤ 7) (he : e ≤ 7) (h : flagReg d = flagReg e) : d = e := by
  simp only [flagReg] at h
  split at h <;> split at h <;> omega
/-- Clearing flags clears the mask in the engine's register, and VALID of a still's FIRST_NAN0 with INVALID. -/
theorem State.clearFlags_reg {e : Nat} (he : e ≤ 7) (m : Flags) (o : Nat) (s : State) : (s.clearFlags e m).reg o =
    if o = flagReg e then s.reg o &&& ~~~(m.setWidth 32)
    else if o = 0x20084 + 0x1000 * e ∧ e < 4 ∧ m.getLsbD 3 = true then s.reg o &&& ~~~0x80000000 else s.reg o := by
  have hne := flagReg_ne_firstNan he e
  have hclr : (decide (e < 4) && m.getLsbD 3) = true ↔ e < 4 ∧ m.getLsbD 3 = true := by simp
  simp only [State.clearFlags, hclr]
  by_cases hc : e < 4 ∧ m.getLsbD 3 = true
  · rw [if_pos hc, State.clrReg_reg, State.clrReg_reg, State.clrReg_reg, if_neg hne]
    by_cases ho : o = 0x20084 + 0x1000 * e
    · subst ho
      rw [if_pos rfl, if_neg hne, if_pos ⟨rfl, hc⟩]
    · rw [if_neg ho, if_neg (c := o = _ ∧ _) fun h => ho h.1]
      by_cases hf : o = flagReg e <;> simp [hf]
  · rw [if_neg hc, State.clrReg_reg, if_neg (c := o = _ ∧ _) fun h => hc h.2]
    by_cases hf : o = flagReg e <;> simp [hf]
theorem State.clearFlags_eq (e : Nat) (m : Flags) (s : State) : s.clearFlags e m = { s with regs := (s.clearFlags e m).regs } := by
  simp only [State.clearFlags]
  split <;> rfl
theorem State.clearFlags_flags {e d : Nat} (he : e ≤ 7) (hd : d ≤ 7) (m : Flags) (s : State) :
    (s.clearFlags e m).flags d = if d = e then s.flags e &&& ~~~m else s.flags d := by
  simp only [State.flags, State.clearFlags_reg he]
  by_cases h : d = e
  · subst h
    simp only [if_true]
    ext i hi
    simp
  · rw [if_neg fun hr => h (flagReg_inj hd he hr), if_neg fun hr => flagReg_ne_firstNan hd e hr.1.symm, if_neg h]

/-! The commands -/

theorem engineChk_le {e : Nat} (h : e ≤ 7) : engineChk e = none := by
  rw [engineChk, decide_eq_false (Nat.not_lt.mpr h)]
  rfl

section
variable {c : EngCmd} {s : State}

theorem exec_flagClear_issued {e : Nat} {m : Flags} (h : s.AtHead 22 c) (hop : c.op = .flagClear e m) (he : e ≤ 7) :
    exec .flagClear s = .next ((s.issued 22 c).clearFlags e m) := by
  change execFlagClear s = _
  rw [execFlagClear, h.runHead]
  simp only [hop, engineChk_le he, issueOr]
theorem exec_flagClear_rejected {e : Nat} {m : Flags} (h : s.AtHead 22 c) (hop : c.op = .flagClear e m) (he : 7 < e) :
    exec .flagClear s = .next (s.reject 22 c { code := 0x3005, cond := 1, d0 := w32 e }) := by
  change execFlagClear s = _
  rw [execFlagClear, h.runHead]
  simp only [hop, engineChk, decide_eq_true he, failIf, if_true, operandInvalid, issueOr]
theorem exec_flagRead_issued {e : Nat} {x : BitVec 5} (h : s.AtHead 22 c) (hop : c.op = .flagRead e x) (he : e ≤ 7) :
    exec .flagRead s = .next ((s.issued 22 c).setX c.ctx x ((s.flags e).setWidth 64)) := by
  change execFlagRead s = _
  rw [execFlagRead, h.runHead]
  simp only [hop, engineChk_le he, issueOr, State.issued_flags]
theorem exec_predSet_issued {q : Nat} {p : BitVec 3} {v : Opd} (h : s.AtHead q c) (hop : c.op = .predSet p v) (hv : opdBad v = false) :
    exec (.predSet q) s = .next ((s.issued q c).setPred p (v.imm != 0)) := by
  change execPredSet q s = _
  rw [execPredSet, h.runHead]
  simp only [hop, hv, failIf, Bool.false_eq_true, if_false, issueOr]
theorem exec_genStep_issued {q : Nat} {v : Opd} (h : s.AtHead q c) (hop : c.op = .genStep v) (hv : opdBad v = false) :
    exec (.genStep q) s = .next ((s.issued q c).setReg 0x43008 (oWord v)) := by
  change execGenStep q s = _
  rw [execGenStep, h.runHead]
  simp only [hop, hv, failIf, Bool.false_eq_true, if_false, issueOr]
end

/-- Settles O38: what each command does to the registers, the context or the predicates, after an issue that pops its queue. -/
theorem flagsPredicatesAndGeneratorStep : Obligations.FlagsPredicatesAndGeneratorStep := by
  unfold Obligations.FlagsPredicatesAndGeneratorStep
  refine ⟨fun c e m s h hop he => ⟨_, exec_flagClear_issued h hop he, ?same, fun d hd hne => ?other, fun hstill => ?firstNan, fun o ho => ?regs,
      fun hunit => ?unit, State.clearFlags_eq e m _⟩,
    fun c e x s h hop he => ⟨_, exec_flagRead_issued h hop he, fun r => ?xreg, fun d hd => ?ctxt, (State.setX_only c.ctx x _ _).1⟩,
    fun c e m s h hop he => exec_flagClear_rejected h hop he, fun q c p v s h hop hv => ⟨_, exec_predSet_issued h hop hv, fun r => ?pred, rfl⟩,
    fun q c v s h hop hv => ⟨_, exec_genStep_issued h hop hv, ?step, fun o ho => ?stepRegs, rfl⟩, fun q c s h17 h18 => ?issue⟩
  case same => rw [State.clearFlags_flags he he, if_pos rfl, State.issued_flags]
  case other => rw [State.clearFlags_flags he hd, if_neg hne, State.issued_flags]
  case firstNan =>
    simp only [State.regBit, State.clearFlags_reg he, State.issued_reg, flagReg_ne_firstNan he e, if_false, hstill, true_and]
    cases m.getLsbD 3 <;> simp
  case regs =>
    simp only [List.mem_cons, List.not_mem_nil, or_false, not_or] at ho
    rw [State.clearFlags_reg he, if_neg ho.1, if_neg fun hr => ho.2 hr.1, State.issued_reg]
  case unit => rw [State.clearFlags_reg he, if_neg (flagReg_ne_firstNan he e), if_neg fun hr => Nat.not_lt.mpr hunit hr.2.1, State.issued_reg]
  case xreg => rw [State.setX_x, State.issued_x]
  case ctxt => rw [(State.setX_only c.ctx x _ _).2 d hd, State.issued_ctxt]
  case pred => rw [State.setPred_pred, State.issued_pred]
  case step => rw [State.genStep, State.setReg_reg, if_pos rfl]
  case stepRegs => rw [State.setReg_reg, if_neg (by simpa using ho), State.issued_reg]
  case issue =>
    obtain ⟨hpop, hctrs⟩ := State.issued_pops h17 h18 c s
    refine ⟨?_, fun k hk => ?_, ?_, hctrs⟩
    · rw [hpop]
      exact (s.popQueue_queue q q).trans (if_pos rfl)
    · rw [hpop]
      exact (s.popQueue_queue q k).trans (if_neg hk)
    · rw [hpop]
      rfl

end Sys2Proof.Machine
end

section
/-! Proofs about what reaches the control core from the vector unit: VLEN (R145) and the summary registers (R158, R161, R162). -/

namespace Sys2Proof.Machine

/-! Reading and setting single fields -/

theorem State.issued_sum (q : Nat) (c : EngCmd) (m : Nat) (s : State) : (s.issued q c).sum m = s.sum m := by
  rw [State.sum, State.issued_vec, ← State.sum]
theorem State.setSum_sum (i k : Nat) (v : Sum) (s : State) : (s.setSum i v).sum k = if k = i then v else s.sum k :=
  Tab.get_set Sum.reset s.vec.sums i k v
theorem State.issued_sumBits (q : Nat) (c : EngCmd) (m : Nat) (s : State) : (s.issued q c).sumBits m = s.sumBits m := by
  rw [State.sumBits, State.issued_vec, State.issued_sum, ← State.sumBits]
/-- SUM[15] reads as its bit, another register as its 64 bits. -/
theorem State.sumBits_toNat (i : BitVec 4) (s : State) :
    s.sumBits i.toNat = if i = 15 then (if s.vec.nonfinite then 1 else 0) else (s.sum i.toNat).val := by
  have hi : i.toNat = 15 ↔ i = 15 := ⟨fun h => BitVec.eq_of_toNat_eq h, fun h => h ▸ rfl⟩
  simp only [State.sumBits, hi]
  cases s.vec.nonfinite <;> rfl
theorem State.setCtxt_setCtxt (c : Ctx) (v w : Ctxt) (s : State) : (s.setCtxt c v).setCtxt c w = s.setCtxt c w := by
  cases c <;> rfl
theorem State.setX_vlen (c : Ctx) (r : BitVec 5) (v : DWord) (s : State) : ((s.setX c r v).ctxt c).vlen = (s.ctxt c).vlen := by
  simp only [State.setX]
  split
  · rfl
  · rw [State.setCtxt_ctxt]

/-! The commands -/

section
variable {c : EngCmd} {s : State}

theorem exec_sumRead_issued {i : BitVec 4} {x : BitVec 5} (h : s.AtHead 22 c) (hop : c.op = .sumRead i x) :
    exec .sumRead s = .next ((s.issued 22 c).setX c.ctx x (s.sumBits i.toNat)) := by
  change execSumRead s = _
  rw [execSumRead, h.runHead]
  simp only [hop, issueOr, State.issued_sumBits]
theorem exec_sumIndexRead_issued {i : BitVec 4} {x : BitVec 5} (h : s.AtHead 22 c) (hop : c.op = .sumIndexRead i x) :
    exec .sumIndexRead s = .next ((s.issued 22 c).setX c.ctx x ((s.sum i.toNat).idx.setWidth 64)) := by
  change execSumIndexRead s = _
  rw [execSumIndexRead, h.runHead]
  simp only [hop, issueOr, State.issued_sum]
theorem exec_sumClear_nonfinite (h : s.AtHead 22 c) (hop : c.op = .sumClear 15) :
    exec .sumClear s = .next { s.issued 22 c with vec := { s.vec with nonfinite := false } } := by
  change execSumClear s = _
  rw [execSumClear, h.runHead]
  simp only [hop, issueOr, if_true, State.issued_vec]
theorem exec_sumClear_other {i : BitVec 4} (h : s.AtHead 22 c) (hop : c.op = .sumClear i) (hi : i ≠ 15) :
    exec .sumClear s = .next ((s.issued 22 c).setSum i.toNat Sum.reset) := by
  change execSumClear s = _
  rw [execSumClear, h.runHead]
  simp only [hop, issueOr, hi, if_false]
theorem exec_predCopy_issued {i : BitVec 4} {k : Cmp} {v : Opd} {p : BitVec 3} (h : s.AtHead 22 c) (hop : c.op = .predCopy i k v p)
    (hv : opdBad v = false) : exec .predCopy s = .next ((s.issued 22 c).setPred p
      (if i = 15 then s.vec.nonfinite else cmp64 k (val64 (s.sum i.toNat).val) (val64 v.imm))) := by
  change execPredCopy s = _
  rw [execPredCopy, h.runHead]
  simp only [hop, hv, failIf, Bool.false_eq_true, if_false, issueOr, State.issued_vec, State.issued_sum]
theorem exec_vsetlen_issued {n : Opd} {x : BitVec 5} (h : s.AtHead 19 c) (hop : c.op = .vsetlen n x) (hn : opdBad n = false) :
    exec .vsetlen s = .next (((s.issued 19 c).setCtxt c.ctx { s.ctxt c.ctx with vlen := min (oVal n) 512 }).setX c.ctx x
      (w64 (min (oVal n) 512))) := by
  change execVsetlen s = _
  rw [execVsetlen, h.runHead]
  simp only [hop, hn, failIf, Bool.false_eq_true, if_false, issueOr, State.issued_ctxt]
end

/-! Comparisons (R162) -/

theorem XVal.lt_nan {a b : XVal} (h : a.isNan = true ∨ b.isNan = true) : a.lt b = false := by
  cases a <;> cases b <;> simp_all [XVal.lt, XVal.isNan]
theorem cmp64_nan (k : Cmp) {a b : XVal} (h : a.isNan = true ∨ b.isNan = true) : cmp64 k a b = decide (k = .unord) := by
  have hun : (a.isNan || b.isNan) = true := Bool.or_eq_true_iff.mpr h
  have hno : (!a.isNan && !b.isNan) = false := by rw [← Bool.not_or, hun]; rfl
  cases k with
  | lt => exact XVal.lt_nan h
  | gt => exact XVal.lt_nan h.symm
  | eq => simp only [cmp64, XVal.eqv, hno, Bool.false_and]; rfl
  | le | ge | ne | unord => simp only [cmp64, hun]; rfl
theorem cmp64_ordered {a b : XVal} (ha : a.isNan = false) (hb : b.isNan = false) :
    cmp64 .unord a b = false ∧ cmp64 .ne a b = !cmp64 .eq a b ∧ cmp64 .ge a b = !cmp64 .lt a b ∧ cmp64 .le a b = !cmp64 .gt a b ∧
      cmp64 .gt a b = cmp64 .lt b a := by
  simp only [cmp64, ha, hb, Bool.or_self, Bool.not_false, Bool.true_and, and_self]

/-- Settles O39: each command at the head of its queue, and the comparisons with and without a NaN. -/
theorem summariesReachTheControlCore : Obligations.SummariesReachTheControlCore := by
  unfold Obligations.SummariesReachTheControlCore
  refine ⟨fun c i x s h hop => ⟨_, exec_sumRead_issued h hop, fun r => ?read, (State.setX_only c.ctx x _ _).1⟩,
    fun c i x s h hop => ⟨_, exec_sumIndexRead_issued h hop, fun r => ?index, (State.setX_only c.ctx x _ _).1⟩,
    fun c s h hop => exec_sumClear_nonfinite h hop,
    fun c i s h hop hi => ⟨_, exec_sumClear_other h hop hi, ?bit, fun k hk => ?sum, ?clear⟩,
    fun c i k v p s h hop hv => ⟨_, exec_predCopy_issued h hop hv, fun q hq => ?pred, fun hi => ?nonfinite, fun hi => ?compare, rfl⟩,
    fun k a b hnan => cmp64_nan k hnan, fun a b ha hb => cmp64_ordered ha hb,
    fun c n x s h hop hn => ⟨_, exec_vsetlen_issued h hop hn, ?vlen, fun r => ?x, fun d hd => ?ctxt, ?frame⟩⟩
  case read => rw [State.setX_x, State.issued_x, State.sumBits_toNat]
  case index => rw [State.setX_x, State.issued_x]
  case bit => rw [State.setSum, State.issued_vec]
  case sum => rw [State.setSum_sum, if_neg hk, State.issued_sum]
  case clear => rw [State.setSum, State.issued_vec]
  case pred => rw [State.setPred_pred, if_neg hq, State.issued_pred]
  case nonfinite => rw [State.setPred_pred, if_pos rfl, if_pos hi]
  case compare => rw [State.setPred_pred, if_pos rfl, if_neg hi]
  case vlen => rw [State.setX_vlen, State.setCtxt_ctxt]
  case x =>
    rw [State.setX_x, State.x, State.setCtxt_ctxt]
    rfl
  case ctxt => rw [(State.setX_only c.ctx x _ _).2 d hd, State.setCtxt_other hd, State.issued_ctxt]
  case frame =>
    have honly := (State.setX_only c.ctx x (w64 (min (oVal n) 512)) ((s.issued 19 c).setCtxt c.ctx { s.ctxt c.ctx with vlen := min (oVal n) 512 })).1
    rwa [State.setCtxt_setCtxt] at honly

end Sys2Proof.Machine
end

section
/-! Rules of the stores that the vector unit and the row engine make through a tile (R37, R38, R116, R148, R163): the bytes, the scale
slot, the flags and the counters that an operation may change, and that reads and stores stay within them. -/

namespace Sys2Proof.Machine

/-- What an engine's operation may change: bytes of local memory, its scale slot, its engine's flags, and counters beside those that
accesses to local memory advance. -/
structure Scope where
  bytes : Nat → Prop
  slot : Option Nat
  eng : Nat
  ctrs : Nat → Prop

/-- From s to t an operation has changed nothing that an engine can reach outside its scope. -/
structure Within (w : Scope) (s t : State) : Prop where
  bytes : ∀ x, ¬ w.bytes x → t.byte x = s.byte x
  vec : t.vec = s.vec
  queues : t.cc.queues = s.cc.queues
  preds : t.cc.p = s.cc.p
  slots : ∀ k, w.slot ≠ some k → t.slot k = s.slot k
  regs : SameRegsBut [flagReg w.eng, 0x04000] s t
  ctrs : ∀ o, accessCtr o = false → ¬ w.ctrs o → t.ctr o = s.ctr o

/-! Reads and writes -/

/-- What holds of every read of local memory, and of one after the other, holds of the reads of a box. -/
theorem touchBox_of_touch {R : State → State → Prop} (hrefl : ∀ s, R s s) (htrans : ∀ {s t u}, R s t → R t u → R s u)
    (htouch : ∀ req a n s, R s (s.touch req a n)) (req : Nat) (k : Tile) (b : Box) (s : State) : R s (touchBox req k b s) := by
  have hrun : ∀ sr c0 c1 s, R s (touchRun req k sr c0 c1 s) := fun sr c0 c1 s => by
    simp only [touchRun]
    split
    · exact hrefl s
    · split
      exacts [htouch _ _ _ s, htrans (htouch _ _ _ s) (htouch _ _ _ _)]
  have hruns : ∀ (l : List Nat) s, R s (l.foldl (fun s i => touchRun req k ((sBox k b).r0 + i) (sBox k b).c0 (sBox k b).c1 s) s) := fun l => by
    induction l with
    | nil => exact hrefl
    | cons i l ih => exact fun s => htrans (hrun _ _ _ s) (ih _)
  simp only [touchBox]
  split
  exacts [htrans (hruns _ s) (htrans (htouch _ _ _ _) (htouch _ _ _ _)), hruns _ s]
theorem State.touch_preds (req a n : Nat) (s : State) : (s.touch req a n).cc.p = s.cc.p := by
  obtain ⟨e, q, d, l, k, g, h⟩ := State.touch_eq req a n s
  rw [h]
theorem State.write_preds (req a : Nat) (bs : List Byte) (s : State) : (s.write req a bs).cc.p = s.cc.p := by
  obtain ⟨m, e1, e2, y, v0, v1, d, p, l, k, g, h⟩ := State.write_eq req a bs s
  rw [h]
theorem State.issued_byte {q : Nat} (h : q ≠ 17 ∧ q ≠ 18) (c : EngCmd) (x : Nat) (s : State) : (s.issued q c).byte x = s.byte x := by
  obtain ⟨u, k, hi⟩ := State.issued_queues h c s
  rw [hi]
  rfl
theorem State.issued_preds {q : Nat} (h : q ≠ 17 ∧ q ≠ 18) (c : EngCmd) (s : State) : (s.issued q c).cc.p = s.cc.p := by
  obtain ⟨u, k, hi⟩ := State.issued_queues h c s
  rw [hi]

namespace Within
variable {w w' : Scope} {s t u : State}

theorem refl (w : Scope) (s : State) : Within w s s := ⟨fun _ _ => rfl, rfl, rfl, rfl, fun _ _ => rfl, fun _ _ => rfl, fun _ _ _ => rfl⟩
theorem trans (h : Within w s t) (h' : Within w t u) : Within w s u where
  bytes := fun x hx => (h'.bytes x hx).trans (h.bytes x hx)
  vec := h'.vec.trans h.vec
  queues := h'.queues.trans h.queues
  preds := h'.preds.trans h.preds
  slots := fun k hk => (h'.slots k hk).trans (h.slots k hk)
  regs := fun o ho => (h'.regs o ho).trans (h.regs o ho)
  ctrs := fun o ho hc => (h'.ctrs o ho hc).trans (h.ctrs o ho hc)
theorem foldl {α : Type} {f : State → α → State} {l : List α} (hf : ∀ a ∈ l, ∀ s, Within w s (f s a)) (s : State) :
    Within w s (l.foldl f s) := by
  induction l generalizing s with
  | nil => exact refl w s
  | cons a l ih => exact (hf a List.mem_cons_self s).trans (ih (fun b hb => hf b (List.mem_cons_of_mem _ hb)) _)
/-- A scope of the same slot and engine that holds more bytes and counters. -/
theorem mono (h : Within w s t) (hslot : w'.slot = w.slot) (heng : w'.eng = w.eng) (hb : ∀ x, w.bytes x → w'.bytes x)
    (hc : ∀ o, w.ctrs o → w'.ctrs o) : Within w' s t where
  bytes := fun x hx => h.bytes x fun h => hx (hb x h)
  vec := h.vec
  queues := h.queues
  preds := h.preds
  slots := fun k hk => h.slots k (hslot ▸ hk)
  regs := heng ▸ h.regs
  ctrs := fun o ho hn => h.ctrs o ho fun h => hn (hc o h)
theorem of_accessed (h : Accessed s t) (hp : t.cc.p = s.cc.p) (hb : ∀ x, ¬ w.bytes x → t.byte x = s.byte x) : Within w s t where
  bytes := hb
  vec := h.vec
  queues := h.queues
  preds := hp
  slots := fun k _ => by rw [State.slot, h.slots, ← State.slot]
  regs := fun o ho => h.regs o fun hm => ho (List.mem_cons_of_mem _ hm)
  ctrs := fun o ho _ => h.ctrs o ho
/-- An engine's counters stay frozen, or go on, as its CNT_CTRL has it. -/
theorem frozen (h : Within w s t) {o k : Nat} (hk : cntCtrlOf o = some k) (hne : k ∉ [flagReg w.eng, 0x04000]) : t.frozen o = s.frozen o := by
  simp only [State.frozen, hk, State.regBit, h.regs k hne]

theorem touch (req a n : Nat) (s : State) : Within w s (s.touch req a n) :=
  of_accessed (s.touchBy_accessed _ a n) (s.touch_preds req a n) fun x _ => State.touch_byte req a n x s
theorem touchBox (req : Nat) (k : Tile) (b : Box) (s : State) : Within w s (touchBox req k b s) :=
  touchBox_of_touch (refl w) trans touch req k b s
theorem write {a : Nat} {bs : List Byte} (hb : ∀ x, a ≤ x → x < a + bs.length → w.bytes x) (req : Nat) (s : State) : Within w s (s.write req a bs) :=
  of_accessed (s.write_accessed req a bs) (s.write_preds req a bs) fun x hx => State.write_outside req a x bs s (by
    by_contra hin
    exact hx (hb x (by omega) (by omega)))

/-! Counting, flags and slots -/

theorem count {off : Nat} (ho : w.ctrs off) (n : Nat) (s : State) : Within w s (s.count off n) where
  bytes := fun x _ => State.count_byte off n x s
  vec := State.count_vec off n s
  queues := by rw [State.count_cc]
  preds := by rw [State.count_cc]
  slots := fun k _ => by rw [State.slot, State.count_slots, ← State.slot]
  regs := fun o _ => State.count_reg off n o s
  ctrs := fun o _ hc => by
    rw [State.count_ctr, if_neg]
    rintro ⟨rfl, -⟩
    exact hc ho
theorem setCtr {off : Nat} (ho : w.ctrs off) (v : DWord) (s : State) : Within w s (s.setCtr off v) where
  bytes := fun _ _ => rfl
  vec := rfl
  queues := rfl
  preds := rfl
  slots := fun _ _ => rfl
  regs := fun _ _ => rfl
  ctrs := fun o _ hc => by
    rw [State.setCtr_ctr, if_neg]
    rintro rfl
    exact hc ho
theorem raiseFlags (f : Flags) (s : State) : Within w s (s.raiseFlags w.eng f) where
  bytes := fun _ _ => rfl
  vec := rfl
  queues := rfl
  preds := rfl
  slots := fun _ _ => rfl
  regs := fun o ho => (State.orReg_reg _ o _ s).trans (if_neg fun (h : o = flagReg w.eng) => ho (h ▸ List.mem_cons_self))
  ctrs := fun _ _ _ => rfl
theorem gather {n : Option Nat} (hn : ∀ k, n = some k → w.slot = some k) (x : Option XVal) (c : SlotClass) (s : State) :
    Within w s (s.gather n x c) := by
  cases n with
  | none => exact refl w s
  | some n =>
    simp only [State.gather]
    split
    · exact refl w s
    · have hslot : ∀ k, w.slot ≠ some k → k ≠ n := fun k hk h => hk (h ▸ hn n rfl)
      exact ⟨fun _ _ => rfl, rfl, rfl, rfl, fun k hk => (State.setSlot_slot n k _ s).trans (if_neg (hslot k hk)), fun _ _ => rfl, fun _ _ _ => rfl⟩
theorem telemetry (hc : ∀ o, w.ctrs o) (f : Nat) (c : SlotClass) (s : State) : Within w s (s.telemetry f c) := by
  cases c with
  | none => exact setCtr (hc _) _ s
  | overflowed | vanished => exact (setCtr (hc _) _ s).trans (setCtr (hc _) _ _)

/-! Stores -/

/-- A run of codes, in the bytes that hold bits of them. -/
theorem writeRun {req : Nat} {k : Tile} {sr sc : Nat} {codes : List Nat} (h0 : 0 ≤ (k.base.toNat : Int) + sr * k.stride.toInt)
    (hb : ∀ i < codes.length, ∀ x, OnStored k sr (sc + i) x → w.bytes x) (s : State) : Within w s (writeRun req k sr sc codes s) := by
  refine of_accessed (writeRun_accessed req k sr sc codes s) ?_ fun x hx => writeRun_off s h0 fun i hi hon => hx (hb i hi x hon)
  simp only [Machine.writeRun]
  split
  exacts [rfl, State.write_preds _ _ _ s]
/-- Codes in stored order, in runs. -/
theorem writeRuns {req : Nat} {k : Tile} {codes : List (Nat × Nat × Nat)} (h0 : ∀ p ∈ codes, 0 ≤ (k.base.toNat : Int) + p.1 * k.stride.toInt)
    (hb : ∀ p ∈ codes, ∀ x, OnStored k p.1 p.2.1 x → w.bytes x) (s : State) :
    Within w s ((runsOf codes).foldl (fun s u => Machine.writeRun req k u.1 u.2.1 u.2.2 s) s) := by
  refine foldl (fun u hu s => ?_) s
  by_cases hne : u.2.2 = []
  · rw [Machine.writeRun, if_pos hne]
    exact refl w s
  · obtain ⟨v, hv⟩ := mem_runsOf hu 0 (List.length_pos_iff.mpr hne)
    refine writeRun (h0 _ hv) (fun i hi x hon => ?_) s
    obtain ⟨v, hv⟩ := mem_runsOf hu i hi
    exact hb _ hv x hon
theorem noteStored {spec : Half} {slot : Option Nat} (hslot : ∀ k, slot = some k → w.slot = some k) (hc : w.eng = 4 → ∀ o, w.ctrs o) (s : State)
    (d : Done) : Within w s (noteStored w.eng spec slot s d) := by
  have hg : Within w s (s.gather slot (some d.1.x) d.2.cls) := gather hslot _ _ s
  simp only [Machine.noteStored]
  split
  next h4 => exact (hg.trans (telemetry (hc h4) _ _ _)).trans (raiseFlags _ _)
  next => exact hg.trans (raiseFlags _ _)

section
variable {k : Tile} {spec : Half} {els : List Elem} (h0 : ∀ e ∈ els, 0 ≤ (k.base.toNat : Int) + e.sr * k.stride.toInt)
  (hspec : specContainer spec = 0 ∨ specContainer spec = tCont k) (hb : ∀ e ∈ els, ∀ x, OnStored k e.sr e.sc x → w.bytes x)
include h0 hspec hb

/-- The codes and the scale bytes of elements. -/
theorem storeBytes (req : Nat) (s : State) : Within w s (storeBytes req k spec els s) := by
  have hels : ∀ p ∈ (convElems spec (sortElems els)).2.map fun d => (d.1.sr, d.1.sc, d.2.code), ∃ e ∈ els, e.sr = p.1 ∧ e.sc = p.2.1 := fun p hp => by
    obtain ⟨d, hd, rfl⟩ := List.mem_map.mp hp
    exact ⟨d.1, mem_sortElems (mem_convElems_done hd), rfl, rfl⟩
  refine (writeRuns (fun p hp => ?_) (fun p hp x hon => ?_) s).trans (foldl (fun b hb' s => write (fun x hlo hhi => ?_) req s) _)
  · obtain ⟨e, he, hsr, -⟩ := hels p hp
    exact hsr ▸ h0 e he
  · obtain ⟨e, he, hsr, hsc⟩ := hels p hp
    exact hb e he x (by rwa [hsr, hsc])
  · obtain ⟨hne, e, he, hsr, hsc⟩ := mem_convElems_scale hb'
    refine hb e (mem_sortElems he) x (.inr ⟨fun h => hne (hspec.elim id fun hs => hs.trans h), ?_⟩)
    rw [← hsr, ← hsc]
    exact Nat.le_antisymm (Nat.le_of_lt_succ hhi) hlo
/-- A store of elements whose bytes lie in the scope. -/
theorem storeElems {slot : Option Nat} (hslot : ∀ k, slot = some k → w.slot = some k) (hc : w.eng = 4 → ∀ o, w.ctrs o) (req : Nat) (s : State) :
    Within w s (storeElems req w.eng k spec slot els s) := by
  rw [storeElems_eq]
  exact (storeBytes h0 hspec hb req s).trans (foldl (fun d _ s => noteStored hslot hc s d) _)
end

end Within

end Sys2Proof.Machine
end

section
/-! Proofs about loads of the vector unit (R146, R148): the lanes that they fill, and all that they leave unchanged. -/

namespace Sys2Proof.Machine

theorem failIf_true {b : Bool} (h : b = true) (r : Option Rej) : failIf b r = r := if_pos h
theorem firstRej_isSome {l : List (Option Rej)} {r : Option Rej} (hr : r ∈ l) (h : r.isSome = true) : (firstRej l).isSome = true := by
  by_contra hnone
  rw [firstRej_none (Option.not_isSome_iff_eq_none.mp hnone) r hr] at h
  cases h
/-- A span that passes the last element of its tile fails its check (R148). -/
theorem spanChk_passes {t : Tile} {e0 n : Nat} (hn : 0 < n) (hpast : t.rows.toNat * t.cols.toNat < e0 + n) : (spanChk t e0 n).isSome = true := by
  rw [spanChk, failIf_true (by simp [hn, hpast])]
  rfl

theorem vspan_fp32 {c : EngCmd} {o : VMem} {s : State} (h : o.packed = none) : vspan s c o = vlenOf s c := by
  rw [vspan, h]
  exact Nat.mul_one _
theorem vspan_packed {c : EngCmd} {o : VMem} {p : Packed} {s : State} (h : o.packed = some p) : vspan s c o = 2 * vlenOf s c := by
  rw [vspan, h]
  exact Nat.mul_comm _ 2
theorem vspan_eq_zero {c : EngCmd} {o : VMem} {s : State} (h : vlenOf s c = 0) : vspan s c o = 0 := by
  rw [vspan, h, Nat.zero_mul]
theorem vspan_pos {c : EngCmd} {o : VMem} {s : State} (h : 0 < vlenOf s c) : 0 < vspan s c o := by
  rw [vspan]
  split <;> omega

/-! The elements that a load reads -/

/-- The state whose elements e0 to e0 + n − 1 of a tile have been read. -/
def loadReads (t : Tile) (e0 n : Nat) (s : State) : State := (spanBoxes t e0 n).foldl (fun s b => touchBox 2 t b s) s
/-- Element i of a span, in row-major logical order. -/
def spanEl (t : Tile) (e0 : Nat) (s : State) (i : Nat) : XVal := readElem s t ((e0 + i) / t.cols.toNat) ((e0 + i) % t.cols.toNat)
/-- The state in which a load at the head of VCQ reads its elements. -/
def loadStart (c : EngCmd) (o : VMem) (s : State) : State :=
  loadReads (plainT o.tile).t (oVal o.first) (vspan s c o) ((s.issued 19 c).count 0x40010 1)
/-- Lane i of a load, and element i of a packed one. -/
def loadLane (c : EngCmd) (o : VMem) (s : State) (i : Nat) : XVal × Flags := rne32 (spanEl (plainT o.tile).t (oVal o.first) (loadStart c o s) i)
def loadElem (c : EngCmd) (o : VMem) (p : Packed) (s : State) (i : Nat) : Conv :=
  let y := flushIn (tFmt (plainT o.tile).t) (spanEl (plainT o.tile).t (oVal o.first) (loadStart c o s) i)
  convElem (packFmt p) (s.regBit 0x40004 0) false .rne y.2 y.1

theorem loadStart_read (c : EngCmd) (o : VMem) (s : State) : ReadFrom (s.issued 19 c) (loadStart c o s) :=
  (ReadFrom.count _ _ _).trans (ReadFrom.foldl (fun s b => ReadFrom.touchBox 2 _ b s) _ _)
theorem loadStart_v (c : EngCmd) (o : VMem) (s : State) : (loadStart c o s).vec.v = s.vec.v := by
  rw [(loadStart_read c o s).frame]
  exact congrArg Vec.v (State.issued_vec 19 c s)

/-- From s to t a load has changed no part of the state but vector registers, flags and what its reads note. -/
structure Loaded (c : EngCmd) (s t : State) : Prop where
  mem : t.mem = s.mem
  slots : t.slots = s.slots
  cc : t.cc = (s.issued 19 c).cc
  vec : t.vec = { s.vec with v := t.vec.v }
  regs : SameRegsBut [0x38040, 0x04000] s t

theorem Loaded.of_lanes {c : EngCmd} {o : VMem} {s w : State} (hw : LanesOnly (loadStart c o s) w) (f : Flags) : Loaded c s (w.raiseFlags 4 f) := by
  obtain ⟨v, rfl⟩ : ∃ v, w = { loadStart c o s with vec := { (loadStart c o s).vec with v := v } } := ⟨_, hw⟩
  have hread := loadStart_read c o s
  obtain ⟨u, k, hi⟩ := State.issued_queues (q := 19) (by decide) c s
  refine ⟨hread.mem.trans (by rw [hi]), ?_, ?_, ?_, fun r hr => ?_⟩
  · exact (show (loadStart c o s).slots = s.slots by rw [hread.frame, hi])
  · exact (show (loadStart c o s).cc = (s.issued 19 c).cc by rw [hread.frame])
  · exact congrArg (fun x : Vec => { x with v := v }) (show (loadStart c o s).vec = s.vec by rw [hread.frame, hi])
  · simp only [List.mem_cons, List.not_mem_nil, or_false, not_or] at hr
    exact (State.orReg_reg _ r _ _).trans ((if_neg (show r ≠ flagReg 4 from hr.1)).trans
      ((hread.regs r (by simpa using hr.2)).trans (State.issued_reg 19 c s r)))

/-! The command -/

section
variable {c : EngCmd} {o : VMem} {s : State} (h : s.AtHead 19 c) (hop : c.op = .vload o)
include h hop

theorem exec_vload_rejected {r : Rej} (hchk : vloadChk s c o = some r) : exec .vload s = .next (s.reject 19 c r) := by
  change execVload s = _
  rw [execVload, h.runHead]
  simp only [hop, hchk, issueOr]
theorem exec_vload_noLanes (hchk : vloadChk s c o = none) (hn : vlenOf s c = 0) : exec .vload s = .next (s.issued 19 c) := by
  change execVload s = _
  rw [execVload, h.runHead]
  simp only [hop, hchk, issueOr, vspan_eq_zero hn, if_true]
theorem exec_vload_lanes (hp : o.packed = none) (hchk : vloadChk s c o = none) (hn : vspan s c o ≠ 0) :
    let res := (List.range (vspan s c o)).map (loadLane c o s)
    exec .vload s = .next (((List.range (vspan s c o)).foldl (fun s i => s.setLane o.reg.toNat i (bits32 (getAt (xZero, 0) res i).1))
      (loadStart c o s)).raiseFlags 4 (res.foldl (fun f x => f ||| x.2) 0)) := by
  change execVload s = _
  rw [execVload, h.runHead]
  simp only [hop, hchk, issueOr, hn, if_false, hp, spanEls, List.map_map]
  rfl
theorem exec_vload_elems {p : Packed} (hp : o.packed = some p) (hchk : vloadChk s c o = none) (hn : vspan s c o ≠ 0) :
    let res := (List.range (vspan s c o)).map (loadElem c o p s)
    exec .vload s = .next (((List.range (vspan s c o)).foldl (fun s i => s.setPacked o.reg.toNat i (getAt ⟨0, 0, .none⟩ res i).code)
      (loadStart c o s)).raiseFlags 4 (res.foldl (fun f x => f ||| x.flags) 0)) := by
  have hieee : (s.issued 19 c).regBit 0x40004 0 = s.regBit 0x40004 0 := congrArg (BitVec.getLsbD · 0) (State.issued_reg 19 c s _)
  change execVload s = _
  rw [execVload, h.runHead]
  simp only [hop, hchk, issueOr, hn, if_false, hp, spanEls, List.map_map, hieee]
  rfl
end

/-- What a load leaves. -/
theorem vload_done {c : EngCmd} {o : VMem} {s : State} (h : s.AtHead 19 c) (hop : c.op = .vload o) (hchk : vloadChk s c o = none)
    (hv : vlenOf s c ≤ 512) (hpos : 0 < vlenOf s c) : ∃ t, exec .vload s = .next t ∧
      (o.packed = none → ∀ d i, i < 512 → t.lane d i = if d = o.reg.toNat ∧ i < vlenOf s c then bits32 (loadLane c o s i).1 else s.lane d i) ∧
      (∀ p, o.packed = some p → ∀ d i, i < 1024 →
        t.packedEl d i = if d = o.reg.toNat ∧ i < 2 * vlenOf s c then (loadElem c o p s i).code % 65536 else s.packedEl d i) ∧
      Loaded c s t := by
  have hn : vspan s c o ≠ 0 := Nat.ne_of_gt (vspan_pos hpos)
  cases hp : o.packed with
  | none =>
    refine ⟨_, exec_vload_lanes h hop hp hchk hn, fun _ d i hi => ?_, nofun, .of_lanes (setLanes_only _ _ _ _) _⟩
    rw [vspan_fp32 hp]
    refine (setLanes_lane o.reg.toNat d _ _ hv hi).trans ?_
    split
    · rw [getAt_map_range _ _ (by tauto)]
    · exact State.lane_congr (loadStart_v c o s) d i
  | some p =>
    refine ⟨_, exec_vload_elems h hop hp hchk hn, nofun, fun p' hp' d i hi => ?_, .of_lanes (setPackeds_only _ _ _ _) _⟩
    obtain rfl := Option.some.inj hp'
    rw [vspan_packed hp]
    refine (setPackeds_packedEl o.reg.toNat d _ _ (by omega) hi).trans ?_
    split
    · rw [getAt_map_range _ _ (by tauto)]
    · exact State.packedEl_congr (loadStart_v c o s) d i

end Sys2Proof.Machine
end

section
/-! Proofs about stores of the vector unit (R116, R118, R148): the bytes and the slot that they change, and the words of an FP32 store
that copies its lanes (R49). -/

namespace Sys2Proof.Machine

/-! Elements in stored order and their runs -/

theorem insElem_length (e : Elem) (l : List Elem) : (insElem e l).length = l.length + 1 := by
  induction l with
  | nil => rfl
  | cons a l ih =>
    rw [insElem]
    split
    exacts [rfl, congrArg (· + 1) ih]
theorem sortElems_length (l : List Elem) : (sortElems l).length = l.length := by
  induction l with
  | nil => rfl
  | cons e l ih => exact (insElem_length e _).trans (congrArg (· + 1) ih)
/-- Elements of one stored row whose columns ascend are in stored order. -/
theorem sortElems_of_row {l : List Elem} (h : l.Pairwise fun a b => a.sr = b.sr ∧ a.sc ≤ b.sc) : sortElems l = l := by
  induction h with
  | nil => rfl
  | @cons e l hall _ ih =>
    change insElem e (sortElems l) = _
    rw [ih]
    cases l with
    | nil => rfl
    | cons b l => exact if_pos (.inr (hall b List.mem_cons_self))
/-- Codes of consecutive columns of one stored row are one run. -/
theorem runsOf_row (r c : Nat) (f : Nat → Nat) (n : Nat) :
    runsOf ((List.range (n + 1)).map fun i => (r, c + i, f i)) = [(r, c, (List.range (n + 1)).map f)] := by
  induction n generalizing c f with
  | zero => rfl
  | succ n ih =>
    have htail : (List.range (n + 1)).map ((fun i => (r, c + i, f i)) ∘ Nat.succ) = (List.range (n + 1)).map fun i => (r, c + 1 + i, f (i + 1)) :=
      List.map_congr_left fun i _ => by simp only [Function.comp_apply, Nat.succ_eq_add_one, Nat.add_assoc, Nat.add_comm 1 i]
    rw [List.range_succ_eq_map, List.map_cons, List.map_map, htail, runsOf, ih (c + 1) fun i => f (i + 1)]
    simp only [and_self, if_true, List.map_cons, List.map_map]
    rfl
/-- Every element of a store is converted. -/
theorem convElems_length (spec : Half) (els : List Elem) : (convElems spec els).2.length = els.length := by
  have hblock : ∀ k f l, (convBlock k f l).2.length = l.length := fun k f l => by
    rw [convBlock]
    split <;> exact List.length_map _
  have hsize : 0 < blockSize (specContainer spec) := by
    rw [blockSize]
    split <;> [decide; split <;> decide]
  rw [convElems]
  split
  · exact List.length_map _
  · simp only [List.flatMap_map, List.length_flatMap, List.length_zip, hblock, List.length_map, Nat.min_self]
    rw [← List.length_flatten, blocksOf_flatten hsize le_rfl]

/-! Codes in memory -/

theorem leNat_lt (l : List Byte) : leNat l < 256 ^ l.length := by
  induction l with
  | nil => exact Nat.one_pos
  | cons b l ih =>
    have hb : b.toNat < 256 := b.isLt
    rw [leNat, List.length_cons, pow_succ]
    omega
/-- Part of a run of bytes, as a number. -/
theorem State.le_part (s : State) (a : Nat) {k m n : Nat} (h : k + m ≤ n) : s.le (a + k) m = s.le a n / 256 ^ k % 256 ^ m := by
  obtain ⟨r, rfl⟩ := Nat.exists_eq_add_of_le h
  have hhead := leNat_lt (s.bytes a k)
  have hmid := leNat_lt (s.bytes (a + k) m)
  simp only [State.bytes_length] at hhead hmid
  simp only [State.le]
  rw [Nat.add_assoc, State.bytes_split, State.bytes_split, leNat_append, leNat_append, State.bytes_length, State.bytes_length,
    Nat.add_mul_div_left _ _ (by positivity), Nat.div_eq_of_lt hhead, Nat.zero_add, Nat.add_mul_mod_self_left, Nat.mod_eq_of_lt hmid]
/-- Code i of codes of w bits side by side. -/
theorem codes_digit (w : Nat) {l : List Nat} {i : Nat} (h : i < l.length) :
    l.foldr (fun c acc => c % 2 ^ w + 2 ^ w * acc) 0 / 2 ^ (w * i) % 2 ^ w = l[i] % 2 ^ w := by
  induction l generalizing i with
  | nil => cases h
  | cons c l ih =>
    have hc : c % 2 ^ w < 2 ^ w := Nat.mod_lt _ (by positivity)
    rw [List.foldr_cons]
    cases i with
    | zero => rw [Nat.mul_zero, pow_zero, Nat.div_one, Nat.add_mul_mod_self_left, Nat.mod_mod]; rfl
    | succ i =>
      rw [Nat.mul_succ, Nat.add_comm (w * i), pow_add, ← Nat.div_div_eq_div_mul, Nat.add_mul_div_left _ _ (by positivity), Nat.div_eq_of_lt hc,
        Nat.zero_add, ih (Nat.lt_of_succ_lt_succ h)]
      rfl
/-- Code i of a packed run that begins at a byte. -/
theorem packRun_digit (old w : Nat) {l : List Nat} {i : Nat} (h : i < l.length) :
    packRun old 0 w l % 2 ^ (w * l.length) / 2 ^ (w * i) % 2 ^ w = l[i] % 2 ^ w := by
  obtain ⟨r, hr⟩ := Nat.exists_eq_add_of_lt h
  have hcut : (2 : Nat) ^ (w * l.length) = 2 ^ (w * i) * (2 ^ w * 2 ^ (w * r)) := by
    rw [← pow_add, ← pow_add, hr]
    congr 1
    ring
  simp only [packRun, pow_zero, Nat.mod_one, Nat.zero_add, Nat.one_mul]
  rw [Nat.add_mul_mod_self_left, hcut, Nat.mod_mul_right_div_self, Nat.mod_mul_right_mod, codes_digit w h]
/-- A run of 32-bit codes reads back word by word. -/
theorem writeRun_word {req : Nat} {t : Tile} {sr sc i : Nat} {codes : List Nat} (s : State) (h0 : 0 ≤ (t.base.toNat : Int) + sr * t.stride.toInt)
    (hf : tFmt t = 0) (hi : i < codes.length) : (writeRun req t sr sc codes s).word (codeAddr t sr (sc + i)) = w32 codes[i] := by
  have hne : codes ≠ [] := List.ne_nil_of_length_pos (Nat.zero_lt_of_lt hi)
  have hw : fmtWidth (tFmt t) = 32 := congrArg fmtWidth hf
  have haddr : codeAddr t sr (sc + i) = codeAddr t sr sc + 4 * i := by
    rw [codeAddr_eq h0, codeAddr_eq h0, hw]
    omega
  have hoff : 32 * sc % 8 = 0 := by omega
  have hlen : (32 * codes.length + 7) / 8 = 4 * codes.length := by omega
  simp only [writeRun, if_neg hne, hw, hoff, Nat.zero_add, hlen]
  have hread := State.bytes_write req (codeAddr t sr sc)
    (leBytes (4 * codes.length) (packRun (s.le (codeAddr t sr sc) (4 * codes.length)) 0 32 codes)) s
  rw [leBytes_length] at hread
  have hpow : ∀ k, (256 : Nat) ^ (4 * k) = 2 ^ (32 * k) := fun k => by rw [pow_mul, pow_mul]; rfl
  rw [State.word, haddr, State.le_part _ _ (n := 4 * codes.length) (by omega), State.le, hread, leNat_leBytes, hpow, hpow, hpow 1,
    packRun_digit _ _ hi]
  exact BitVec.eq_of_toNat_eq (by simp [w32])

/-! The elements of a store -/

/-- Element e0 + i of a tile, as a store of register r makes it. -/
def storeEl (s : State) (o : VMem) (i : Nat) : Elem :=
  let t := (plainT o.tile).t
  let v := srcVal s o.packed (.reg o.reg) i
  elemAt t ((oVal o.first + i) / t.cols.toNat) ((oVal o.first + i) % t.cols.toNat) v.1 (v.1.mul (val32 (encOf s (tSlot t)))) v.2
    (storeRnd o.spec s.genSeed s.genStep (oVal o.layer)
      (genIdx o.base.imm o.pitch.imm ((oVal o.first + i) / t.cols.toNat) ((oVal o.first + i) % t.cols.toNat)))
theorem vstoreEls_eq (s : State) (c : EngCmd) (o : VMem) : vstoreEls s c o = (List.range (vspan s c o)).map (storeEl s o) :=
  List.map_congr_left fun i hi => by
    simp only [spanEls, getAt_map_range _ _ (List.mem_range.mp hi)]
    rfl
theorem vstoreEls_length (s : State) (c : EngCmd) (o : VMem) : (vstoreEls s c o).length = vspan s c o := by
  rw [vstoreEls_eq, List.length_map, List.length_range]
/-- An element belongs to the bytes of its place, in either orientation (R39). -/
theorem onStored_elemAt {t : Tile} {r c x : Nat} {a b : XVal} {fl : Bool} {rnd : Rnd} :
    OnStored t (elemAt t r c a b fl rnd).sr (elemAt t r c a b fl rnd).sc x ↔ if tTrans t then OnStored t c r x else OnStored t r c x := by
  rw [elemAt]
  split <;> rfl

/-! The command -/

/-- The state in which a store at the head of VCQ writes its elements. -/
def storeStart (c : EngCmd) (o : VMem) (s : State) : State :=
  let s' := (s.issued 19 c).count 0x40010 1
  if specStochastic o.spec then s'.count 0x43010 ((vspan s c o + 3) / 4) else s'
/-- A store of one format into itself under ENC 1.0 copies codes (R49). -/
def storeCopies (o : VMem) (s : State) : Prop :=
  (o.packed.map packFmt).getD 0 = tFmt (plainT o.tile).t ∧ tCont (plainT o.tile).t = 0 ∧ encOf s (tSlot (plainT o.tile).t) = one32
/-- The code that a store copies to a place of its tile. -/
def copyCode (o : VMem) (s : State) (e : Elem) : Nat × Nat × Nat :=
  let t := (plainT o.tile).t
  let i := if tTrans t then e.sc * t.cols.toNat + e.sr - oVal o.first else e.sr * t.cols.toNat + e.sc - oVal o.first
  (e.sr, e.sc, if o.packed.isSome then s.packedEl o.reg.toNat i else (s.lane o.reg.toNat i).toNat)
/-- The codes that a store copies, in runs. -/
def copyRuns (o : VMem) (els : List Elem) (s : State) : State :=
  (runsOf ((sortElems els).map (copyCode o s))).foldl (fun s u => writeRun 2 (plainT o.tile).t u.1 u.2.1 u.2.2 s) s

section
variable {c : EngCmd} {o : VMem} {s : State} (h : s.AtHead 19 c) (hop : c.op = .vstore o)
include h hop

theorem exec_vstore_rejected {r : Rej} (hchk : vstoreChk s c o = some r) : exec .vstore s = .next (s.reject 19 c r) := by
  change execVstore s = _
  rw [execVstore, h.runHead]
  simp only [hop, hchk, issueOr]
theorem exec_vstore_noLanes (hchk : vstoreChk s c o = none) (hn : vlenOf s c = 0) : exec .vstore s = .next (s.issued 19 c) := by
  change execVstore s = _
  rw [execVstore, h.runHead]
  simp only [hop, hchk, issueOr, vspan_eq_zero hn, if_true]
theorem exec_vstore_copies (hchk : vstoreChk s c o = none) (hn : vspan s c o ≠ 0) (hcopy : storeCopies o s) :
    exec .vstore s = .next ((vstoreEls s c o).foldl (fun s e => s.gather (tSlot (plainT o.tile).t) (some e.x) .none)
      (copyRuns o (vstoreEls s c o) (storeStart c o s))) := by
  change execVstore s = _
  rw [execVstore, h.runHead]
  simp only [hop, hchk, issueOr, hn, if_false]
  exact congrArg Host.Outcome.next (if_pos hcopy)
theorem exec_vstore_converts (hchk : vstoreChk s c o = none) (hn : vspan s c o ≠ 0) (hcopy : ¬ storeCopies o s) :
    exec .vstore s = .next (storeElems 2 4 (plainT o.tile).t o.spec (tSlot (plainT o.tile).t) (vstoreEls s c o) (storeStart c o s)) := by
  change execVstore s = _
  rw [execVstore, h.runHead]
  simp only [hop, hchk, issueOr, hn, if_false]
  exact congrArg Host.Outcome.next (if_neg hcopy)
end

/-! Checks (R48, R148, R237) -/

/-- A specifier that passes its check names the container of its tile (R48). -/
theorem specChk_container {src cont : Nat} {spec : Half} {t : Tile} (h : specChk src cont spec t = none) : specContainer spec = tCont t := by
  rw [specChk] at h
  split at h
  · cases h
  · split at h
    · cases h
    · next hne =>
      simp only [ne_eq, Bool.or_eq_true, decide_eq_true_eq, not_or, not_not] at hne
      exact hne.2

section
variable {c : EngCmd} {o : VMem} {s : State} (h : vstoreChk s c o = none)
include h

theorem vstoreChk_container : specContainer o.spec = tCont (plainT o.tile).t := by
  have htile := firstRej_none h _ (.tail _ (.head _))
  have hfmt := firstRej_none htile _ (.tail _ (.tail _ (.head _)))
  exact specChk_container (firstRej_none hfmt _ (.head _))
/-- A store's elements lie in its tile. -/
theorem vstoreChk_span (hpos : 0 < vspan s c o) : oVal o.first + vspan s c o ≤ (plainT o.tile).t.rows.toNat * (plainT o.tile).t.cols.toNat := by
  have hspan := firstRej_none h _ (.tail _ (.tail _ (.head _)))
  simpa [hpos] using failIf_none hspan
theorem vstoreEls_inTile : InTile (plainT o.tile).t (vstoreEls s c o) := fun e he => by
  rw [vstoreEls_eq] at he
  obtain ⟨i, hi, rfl⟩ := List.mem_map.mp he
  have hlast := vstoreChk_span h (Nat.zero_lt_of_lt (List.mem_range.mp hi))
  have hin : oVal o.first + i < (plainT o.tile).t.rows.toNat * (plainT o.tile).t.cols.toNat := by
    have := List.mem_range.mp hi
    omega
  have hcols : 0 < (plainT o.tile).t.cols.toNat := Nat.pos_of_ne_zero fun h0 => by simp [h0] at hin
  exact elemAt_inTile ((Nat.div_lt_iff_lt_mul hcols).mpr hin) (Nat.mod_lt _ hcols) _ _ _ _
end

/-! What a store keeps, and what it counts -/

/-- What a store of elements may change: their bytes, the slot of its tile, flags and counters. -/
def storeScope (t : Tile) (els : List Elem) : Scope := ⟨fun x => ∃ e ∈ els, OnStored t e.sr e.sc x, tSlot t, 4, fun _ => True⟩
theorem storeStart_within (w : Scope) (hw : ∀ k, w.ctrs k) (c : EngCmd) (o : VMem) (s : State) : Within w (s.issued 19 c) (storeStart c o s) := by
  rw [storeStart]
  split
  exacts [(Within.count (hw _) _ _).trans (Within.count (hw _) _ _), Within.count (hw _) _ _]
theorem copyRuns_accessed (o : VMem) (els : List Elem) (s : State) : Accessed s (copyRuns o els s) :=
  Accessed.foldl (fun s (u : Nat × Nat × List Nat) => writeRun_accessed 2 _ u.1 u.2.1 u.2.2 s) _ s
theorem copyRuns_within {o : VMem} {els : List Elem} (h0 : RowsOk (plainT o.tile).t) (hin : InTile (plainT o.tile).t els) (s : State) :
    Within (storeScope (plainT o.tile).t els) s (copyRuns o els s) := by
  have hmem : ∀ p ∈ (sortElems els).map (copyCode o s), ∃ e ∈ els, p.1 = e.sr ∧ p.2.1 = e.sc := fun p hp => by
    obtain ⟨e, he, rfl⟩ := List.mem_map.mp hp
    exact ⟨e, mem_sortElems he, rfl, rfl⟩
  refine Within.writeRuns (fun p hp => ?_) (fun p hp x hon => ?_) s
  · obtain ⟨e, he, hr, -⟩ := hmem p hp
    exact hr ▸ h0 _ (hin e he).1
  · obtain ⟨e, he, hr, hc⟩ := hmem p hp
    exact ⟨e, he, hr ▸ hc ▸ hon⟩

/-- Steps that each gather one element into a slot outside EVAL mode advance its TOTAL_COUNT by their number (R118). -/
theorem foldl_tot {α : Type} {f : State → α → State} {n : Nat}
    (hf : ∀ s a, s.evalMode = false → (f s a).evalMode = false ∧ ((f s a).slot n).tot = (s.slot n).tot + 1) (l : List α) {s : State}
    (hs : s.evalMode = false) : ((l.foldl f s).slot n).tot = (s.slot n).tot + l.length := by
  induction l generalizing s with
  | nil => rfl
  | cons a l ih =>
    obtain ⟨heval, htot⟩ := hf s a hs
    rw [List.foldl_cons, ih heval, htot, List.length_cons, Nat.add_assoc, Nat.add_comm 1]
theorem gather_tot (n : Nat) (x : Option XVal) (c : SlotClass) {s : State} (hs : s.evalMode = false) :
    (s.gather (some n) x c).evalMode = false ∧ ((s.gather (some n) x c).slot n).tot = (s.slot n).tot + 1 := by
  simp only [State.gather, hs, Bool.false_eq_true, if_false]
  exact ⟨hs, by rw [State.setSlot_slot, if_pos rfl]; rfl⟩
theorem noteStored_tot (spec : Half) (n : Nat) (s : State) (d : Done) (hs : s.evalMode = false) :
    (noteStored 4 spec (some n) s d).evalMode = false ∧ ((noteStored 4 spec (some n) s d).slot n).tot = (s.slot n).tot + 1 := by
  obtain ⟨heval, htot⟩ := gather_tot n (some d.1.x) d.2.cls hs
  have htel : ∀ u : State, (∀ k, (u.telemetry (specFmt spec) d.2.cls).slot k = u.slot k) ∧
      ∀ k, (u.telemetry (specFmt spec) d.2.cls).reg k = u.reg k := fun u => by cases d.2.cls <;> exact ⟨fun _ => rfl, fun _ => rfl⟩
  refine ⟨heval ▸ congrArg (BitVec.getLsbD · 8) ?_, htot ▸ congrArg Slot.tot ((htel _).1 n)⟩
  exact (State.orReg_reg _ 0x45010 _ _).trans ((if_neg (by decide)).trans ((htel _).2 _))

/-- What a store leaves. -/
theorem vstore_done {c : EngCmd} {o : VMem} {s : State} (h : s.AtHead 19 c) (hop : c.op = .vstore o) (hchk : vstoreChk s c o = none)
    (hpos : 0 < vlenOf s c) (h0 : RowsOk (plainT o.tile).t) : ∃ t, exec .vstore s = .next t ∧
      Within (storeScope (plainT o.tile).t (vstoreEls s c o)) (s.issued 19 c) t ∧
      ∀ k, tSlot (plainT o.tile).t = some k → s.evalMode = false → (t.slot k).tot = (s.slot k).tot + vspan s c o := by
  have hn : vspan s c o ≠ 0 := Nat.ne_of_gt (vspan_pos hpos)
  have hin := vstoreEls_inTile hchk
  have hstart := storeStart_within (storeScope (plainT o.tile).t (vstoreEls s c o)) (fun _ => trivial) c o s
  have heval : s.evalMode = false → (storeStart c o s).evalMode = false := fun hs => by
    rw [← hs]
    exact congrArg (BitVec.getLsbD · 8) ((hstart.regs 0x45010 (by change _ ∉ [0x38040, 0x04000]; decide)).trans (State.issued_reg 19 c s _))
  have hslot : ∀ k, (storeStart c o s).slot k = s.slot k := fun k => by
    rw [← State.issued_slot 19 c k s]
    refine congrArg (Tab.get Slot.reset · k) ?_
    rw [storeStart]
    split <;> simp only [State.count_slots]
  by_cases hcopy : storeCopies o s
  · refine ⟨_, exec_vstore_copies h hop hchk hn hcopy, (hstart.trans (copyRuns_within h0 hin _)).trans
      (Within.foldl (fun e _ s => Within.gather (fun _ hk => hk) _ _ s) _), fun k hk hs => ?_⟩
    have hacc := copyRuns_accessed o (vstoreEls s c o) (storeStart c o s)
    rw [hk, foldl_tot (fun s e => gather_tot k _ _) _ ?_, vstoreEls_length, State.slot, hacc.slots, ← State.slot, hslot]
    rw [← heval hs]
    exact congrArg (BitVec.getLsbD · 8) (hacc.regs 0x45010 (by decide))
  · refine ⟨_, exec_vstore_converts h hop hchk hn hcopy, hstart.trans (Within.storeElems (w := storeScope _ _) (fun e he => h0 _ (hin e he).1)
      (.inr (vstoreChk_container hchk)) (fun e he x hon => ⟨e, he, hon⟩) (fun _ hk => hk) (fun _ _ => trivial) 2 _), fun k hk hs => ?_⟩
    have hacc := storeBytes_accessed 2 (plainT o.tile).t o.spec (vstoreEls s c o) (storeStart c o s)
    rw [hk, storeElems_eq, foldl_tot (noteStored_tot _ k) _ ?_, convElems_length, sortElems_length, vstoreEls_length, State.slot, hacc.slots,
      ← State.slot, hslot]
    rw [← heval hs]
    exact congrArg (BitVec.getLsbD · 8) (hacc.regs 0x45010 (by decide))

/-! An FP32 store that copies its lanes (R49) -/

/-- Elements of one row of a tile are those of consecutive columns. -/
theorem storeEl_place {o : VMem} {i n : Nat} (s : State) (htrans : tTrans (plainT o.tile).t = false)
    (hrow : oVal o.first % (plainT o.tile).t.cols.toNat + n ≤ (plainT o.tile).t.cols.toNat) (hi : i < n) :
    (storeEl s o i).sr = oVal o.first / (plainT o.tile).t.cols.toNat ∧ (storeEl s o i).sc = oVal o.first % (plainT o.tile).t.cols.toNat + i := by
  have hmod : (oVal o.first + i) % (plainT o.tile).t.cols.toNat = oVal o.first % (plainT o.tile).t.cols.toNat + i := by
    rw [Nat.add_mod_of_add_mod_lt] <;> rw [Nat.mod_eq_of_lt (a := i)] <;> omega
  have hdiv : (oVal o.first + i) / (plainT o.tile).t.cols.toNat = oVal o.first / (plainT o.tile).t.cols.toNat := by
    have hcols : 0 < (plainT o.tile).t.cols.toNat := by omega
    refine Nat.eq_of_mul_eq_mul_left hcols ?_
    have h1 := Nat.div_add_mod (oVal o.first + i) (plainT o.tile).t.cols.toNat
    have h2 := Nat.div_add_mod (oVal o.first) (plainT o.tile).t.cols.toNat
    omega
  simp only [storeEl, elemAt, htrans, Bool.false_eq_true, if_false]
  exact ⟨hdiv, hmod⟩
/-- A store into one row copies its lanes as one run of codes. -/
theorem copyRuns_row {c : EngCmd} {o : VMem} {s u : State} (hp : o.packed = none) (htrans : tTrans (plainT o.tile).t = false)
    (hrow : oVal o.first % (plainT o.tile).t.cols.toNat + vlenOf s c ≤ (plainT o.tile).t.cols.toNat) (hpos : 0 < vlenOf s c) :
    copyRuns o (vstoreEls s c o) u = writeRun 2 (plainT o.tile).t (oVal o.first / (plainT o.tile).t.cols.toNat)
      (oVal o.first % (plainT o.tile).t.cols.toNat) ((List.range (vlenOf s c)).map fun i => (u.lane o.reg.toNat i).toNat) u := by
  have hplace := fun i (hi : i < vlenOf s c) => storeEl_place s htrans hrow hi
  have hsorted : sortElems (vstoreEls s c o) = vstoreEls s c o := sortElems_of_row (by
    rw [vstoreEls_eq, vspan_fp32 hp, List.pairwise_map]
    refine List.pairwise_lt_range.imp_of_mem fun {i j} hi hj hlt => ?_
    obtain ⟨hri, hci⟩ := hplace i (List.mem_range.mp hi)
    obtain ⟨hrj, hcj⟩ := hplace j (List.mem_range.mp hj)
    exact ⟨hri.trans hrj.symm, hci ▸ hcj ▸ by omega⟩)
  have hcodes : (vstoreEls s c o).map (copyCode o u) = (List.range (vlenOf s c)).map fun i =>
      (oVal o.first / (plainT o.tile).t.cols.toNat, oVal o.first % (plainT o.tile).t.cols.toNat + i, (u.lane o.reg.toNat i).toNat) := by
    rw [vstoreEls_eq, vspan_fp32 hp, List.map_map]
    refine List.map_congr_left fun i hi => ?_
    obtain ⟨hr, hc⟩ := hplace i (List.mem_range.mp hi)
    have hlane : oVal o.first / (plainT o.tile).t.cols.toNat * (plainT o.tile).t.cols.toNat + (oVal o.first % (plainT o.tile).t.cols.toNat + i) -
        oVal o.first = i := by
      have := Nat.div_add_mod' (oVal o.first) (plainT o.tile).t.cols.toNat
      omega
    simp only [Function.comp_apply, copyCode, hr, hc, htrans, hp, Option.isSome_none, Bool.false_eq_true, if_false, hlane]
  obtain ⟨n, hn⟩ := Nat.exists_eq_add_one_of_ne_zero (Nat.ne_of_gt hpos)
  rw [copyRuns, hsorted, hcodes, hn, runsOf_row _ _ fun i => (u.lane o.reg.toNat i).toNat]
  rfl
theorem vstore_words {c : EngCmd} {o : VMem} {s t : State} (h : s.AtHead 19 c) (hop : c.op = .vstore o) (hchk : vstoreChk s c o = none)
    (hpos : 0 < vlenOf s c) (h0 : RowsOk (plainT o.tile).t) (ht : exec .vstore s = .next t) (hp : o.packed = none)
    (hcopy : storeCopies o s) (htrans : tTrans (plainT o.tile).t = false)
    (hrow : oVal o.first % (plainT o.tile).t.cols.toNat + vlenOf s c ≤ (plainT o.tile).t.cols.toNat) {i : Nat} (hi : i < vlenOf s c) :
    t.word (codeAddr (plainT o.tile).t (oVal o.first / (plainT o.tile).t.cols.toNat) (oVal o.first % (plainT o.tile).t.cols.toNat + i)) =
      s.lane o.reg.toNat i := by
  rw [exec_vstore_copies h hop hchk (Nat.ne_of_gt (vspan_pos hpos)) hcopy] at ht
  obtain rfl := Host.Outcome.next.inj ht
  have hfmt : tFmt (plainT o.tile).t = 0 := by rw [← hcopy.1, hp]; rfl
  have hin := vstoreEls_inTile hchk (storeEl s o i) (by
    rw [vstoreEls_eq]
    exact List.mem_map_of_mem (List.mem_range.mpr (hi.trans_le ((vspan_fp32 hp).symm ▸ le_rfl))))
  have hstart := (storeStart_within ⟨fun _ => False, none, 4, fun _ => True⟩ (fun _ => trivial) c o s).vec
  rw [State.word_of_byte _ _ _ fun x => foldl_byte (fun e _ s => ?_) _, copyRuns_row hp htrans hrow hpos,
    writeRun_word _ (h0 _ ((storeEl_place s htrans hrow hi).1 ▸ hin.1)) hfmt (by simpa using hi)]
  · rw [List.getElem_map, List.getElem_range, State.lane_congr (congrArg Vec.v hstart), State.issued_lane]
    exact BitVec.ofNat_toNat 32 _
  · simp only [State.gather]
    split <;> [rfl; (split <;> rfl)]

/-- Settles O41: the lanes of a load are set one by one from a state that its reads only touch, a store stays within the bytes of its
elements and gathers each, and an FP32 store into one row is one run of codes. -/
theorem loadsAndStoresMoveElements : Obligations.LoadsAndStoresMoveElements := by
  refine ⟨?load, ?store, fun c o r s h hop hchk => exec_vload_rejected h hop hchk, fun c o r s h hop hchk => exec_vstore_rejected h hop hchk,
    fun c o s h hn => ⟨fun hop hchk => exec_vload_noLanes h hop hchk hn, fun hop hchk => exec_vstore_noLanes h hop hchk hn⟩,
    fun c o s hpos hpast => ?past⟩
  case load =>
    intro c o s h hop hchk hv hpos
    obtain ⟨t, ht, hlanes, hels, hkeep⟩ := vload_done h hop hchk hv hpos
    exact ⟨t, ht, hlanes, hels, hkeep.mem, hkeep.slots, hkeep.cc, hkeep.vec, hkeep.regs⟩
  case store =>
    intro c o s h hop hchk hpos h0
    obtain ⟨t, ht, hkeep, htot⟩ := vstore_done h hop hchk hpos h0
    refine ⟨t, ht, fun x hx => ?_, fun k hk => (hkeep.slots k hk).trans (State.issued_slot 19 c k s), htot,
      hkeep.vec.trans (State.issued_vec 19 c s), hkeep.queues, hkeep.preds.trans (State.issued_preds (by decide) c s),
      fun r hr => (hkeep.regs r hr).trans (State.issued_reg 19 c s r),
      fun hp hf hc htrans henc hrow i hi => vstore_words h hop hchk hpos h0 ht hp ⟨?_, hc, henc⟩ htrans hrow hi⟩
    · refine (hkeep.bytes x fun ⟨e, he, hon⟩ => ?_).trans (State.issued_byte (by decide) c x s)
      rw [vstoreEls_eq] at he
      obtain ⟨i, hi, rfl⟩ := List.mem_map.mp he
      have hoff := hx i (List.mem_range.mp hi)
      have hon := onStored_elemAt.mp hon
      split at hon
      next ht => exact (if_pos ht).mp hoff hon
      next ht => exact (if_neg ht).mp hoff hon
    · rw [hp, hf]
      rfl
  case past =>
    have hspan := spanChk_passes (t := (plainT o.tile).t) hpos hpast
    exact ⟨firstRej_isSome (.tail _ (.tail _ (.head _))) hspan, firstRej_isSome (.tail _ (.tail _ (.head _))) hspan⟩

end Sys2Proof.Machine
end

section
/-! Proofs about one row of a row-engine operation (R163 to R169): what it may change. -/

namespace Sys2Proof.Machine

/-! Operands without expansion (R236) -/

/-- Clearing the expansion of a format leaves its bits from 12 on. -/
theorem fld_setFld_expand (w : Word) {lo n : Nat} (h : 12 ≤ lo) : fld (setFld w 10 2 0) lo n = fld w lo n := by
  obtain ⟨k, rfl⟩ := Nat.exists_eq_add_of_le h
  have hw : w.toNat < 4294967296 := w.isLt
  have hval : (setFld w 10 2 0).toNat = w.toNat - w.toNat / 1024 % 4 * 1024 := by
    simp only [setFld, fld, BitVec.toNat_ofNat]
    omega
  have hhigh : (setFld w 10 2 0).toNat / 2 ^ 12 = w.toNat / 2 ^ 12 := by
    rw [hval]
    omega
  simp only [fld, pow_add, ← Nat.div_div_eq_div_mul, hhigh]
theorem plainT_slot (r : TRef) : tSlot (plainT r).t = tSlot r.t := by
  have hbit : ∀ w : Word, w.getLsbD 24 = decide (fld w 24 1 = 1) := fun w => by
    simp only [fld, BitVec.getLsbD, Nat.testBit_eq_decide_div_mod_eq, pow_one]
  simp only [tSlot, tSlotEn, tSlotNo, hbit, plainT, fld_setFld_expand _ (show 12 ≤ 24 by decide), fld_setFld_expand _ (show 12 ≤ 14 by decide)]

/-! What one row may change -/

/-- A row adds no more values to dγ and dβ than it has elements (R168). -/
theorem rowOne_adds (k : RowKind) (i : RowIn) : (rowOne k i).dg.length ≤ i.x2.length ∧ (rowOne k i).db.length ≤ i.x2.length := by
  have hnone : ∀ r : RowRes, r.dg = [] → r.db = [] → r.dg.length ≤ i.x2.length ∧ r.db.length ≤ i.x2.length := fun r hg hb => by
    simp [hg, hb]
  have hnorm : ∀ rms, (rowNormBwd rms i).dg.length ≤ i.x2.length ∧ (rowNormBwd rms i).db.length ≤ i.x2.length := fun rms => by
    constructor
    · simp only [rowNormBwd, List.length_map, List.length_zip]
      exact Nat.min_le_left _ _
    · simp only [rowNormBwd, List.length_map, le_refl]
  cases k with
  | lnFwd | rmsFwd => exact hnone (rowNorm _ i) rfl rfl
  | softmaxFwd => exact hnone (rowSoftmax i) rfl rfl
  | softmaxBwd => exact hnone (rowSoftmaxBwd i) rfl rfl
  | lnBwd | rmsBwd => exact hnorm _
  | merge =>
    refine hnone (rowMerge i) ?_ ?_ <;> simp only [rowMerge] <;> split <;> rfl
  | finalise =>
    refine hnone (rowFinal i) ?_ ?_ <;> simp only [rowFinal] <;> split <;> rfl

/-- The tiles that an operation writes. -/
def rowTiles (o : RowOp) : List TRef := [o.out] ++ o.dgamma.toList ++ o.dbeta.toList
/-- What the rows of an operation whose statistics entries are at lo to hi of their tile may change. -/
def rowScope (o : RowOp) (lo hi : Nat) : Scope where
  bytes := fun x => ¬ ((∀ v ∈ rowTiles o, OffTile (plainT v).t x) ∧ ∀ st ∈ o.statOut.toList, x < st.t.base.toNat + lo ∨ st.t.base.toNat + hi ≤ x)
  slot := tSlot o.out.t
  eng := 5
  ctrs := (· = 0x43010)
theorem rowScope_tile {o : RowOp} {v : TRef} {sr sc x lo hi : Nat} (hv : v ∈ rowTiles o) (hr : sr < tSRows (plainT v).t)
    (hc : sc < tSCols (plainT v).t) (hx : OnStored (plainT v).t sr sc x) : (rowScope o lo hi).bytes x := fun h => h.1 v hv sr sc hr hc hx

/-- A vector written to the first row of a tile (R163). -/
theorem vecWrite_within {w : Scope} {r : TRef} {vs : List XVal} (h0 : RowsOk (plainT r).t) (hrow : 0 < r.t.rows.toNat)
    (hcols : vs.length ≤ r.t.cols.toNat) (heng : w.eng = 5)
    (hb : ∀ sr sc x, sr < tSRows (plainT r).t → sc < tSCols (plainT r).t → OnStored (plainT r).t sr sc x → w.bytes x) (s : State) :
    Within w s (vecWrite 3 5 r vs s) := by
  have hin : InTile (plainT r).t ((List.range vs.length).map fun i => elemAt (plainT r).t 0 i (getAt xZero vs i) (getAt xZero vs i) false .rne) :=
    fun e he => by
      obtain ⟨i, hi, rfl⟩ := List.mem_map.mp he
      exact elemAt_inTile (t := (plainT r).t) hrow ((List.mem_range.mp hi).trans_le hcols) _ _ _ _
  simp only [vecWrite]
  split
  · refine Within.foldl (fun e he s => ?_) s
    obtain ⟨hr, hc⟩ := hin e (mem_sortElems he)
    refine Within.writeRun (h0 _ hr) (fun i hi x hon => ?_) s
    obtain rfl : i = 0 := by simpa using hi
    exact hb _ _ x hr hc hon
  · have hspec : specContainer (BitVec.ofNat 16 (2048 * tFmt (plainT r).t)) = 0 := by
      simp only [specContainer, BitVec.extractLsb'_toNat, BitVec.toNat_ofNat, Nat.shiftRight_eq_div_pow]
      omega
    rw [← heng]
    exact Within.storeElems (fun e he => h0 _ (hin e he).1) (.inl hspec) (fun e he x hon => hb _ _ x (hin e he).1 (hin e he).2 hon)
      (slot := none) nofun (fun h => absurd (heng.symm.trans h) (by decide)) 3 s
/-- The accumulation of a row into dγ or dβ. -/
theorem vecAccum_within {w : Scope} {v : Option TRef} {adds : List Fl} (heng : w.eng = 5)
    (hv : ∀ r ∈ v.toList, RowsOk (plainT r).t ∧ 0 < r.t.rows.toNat ∧ adds.length ≤ r.t.cols.toNat ∧
      ∀ sr sc x, sr < tSRows (plainT r).t → sc < tSCols (plainT r).t → OnStored (plainT r).t sr sc x → w.bytes x) (s : State) :
    Within w s (vecAccum v adds s) := by
  cases v with
  | none => exact .refl w s
  | some r =>
    obtain ⟨h0, hrow, hcols, hb⟩ := hv r (by simp)
    have hlen : ∀ l : List Fl, (((l.zip adds).map fun p => fl2 fpAdd p.1 p.2).map Prod.fst).length ≤ r.t.cols.toNat := fun l => by
      simp only [List.length_map, List.length_zip]
      omega
    have hflags : ∀ f s, Within w s (s.raiseFlags 5 f) := fun f s => heng ▸ Within.raiseFlags f s
    exact ((Within.touchBox _ _ _ s).trans (hflags _ _)).trans (vecWrite_within h0 hrow (hlen _) heng hb _)

/-! One row -/

/-- The outputs of an operation fit its rows. -/
structure RowFits (o : RowOp) : Prop where
  rows : RowsOk (plainT o.out).t
  cols : oVal o.n ≤ o.out.t.cols.toNat
  spec : specContainer o.spec = tCont (plainT o.out).t
  vecs : ∀ v ∈ o.dgamma.toList ++ o.dbeta.toList, RowsOk (plainT v).t ∧ 0 < v.t.rows.toNat ∧ oVal o.n ≤ v.t.cols.toNat

theorem splitBlocks_rest_inTile {t : Tile} {l k : List Elem} (hl : InTile t l) (hk : InTile t k) : InTile t (splitBlocks t (l ++ k)).2 := fun e he => by
  have hmem : e ∈ l ++ k := by
    simp only [splitBlocks] at he
    split at he
    exacts [absurd he List.not_mem_nil, List.mem_of_mem_filter he]
  exact (List.mem_append.mp hmem).elim (hl e) (hk e)

/-- A row changes nothing outside its scope, and counts itself and its elements last (R163 to R170). -/
theorem rowRun_within (r : RowRun) (j : Nat) (p : State × List Elem) (hfit : RowFits r.op) (hj : j < r.op.out.t.rows.toNat)
    (hheld : InTile (plainT r.op.out).t p.2) :
    (∃ u, Within (rowScope r.op (8 * j) (8 * j + 8)) p.1 u ∧ (rowRun r j p).1 = (u.count 0x42010 1).count 0x42018 (oVal r.op.n)) ∧
      InTile (plainT r.op.out).t (rowRun r j p).2 := by
  generalize hw : rowScope r.op (8 * j) (8 * j + 8) = w
  have heng : w.eng = 5 := by rw [← hw]; rfl
  unfold rowRun
  extract_lets o s0 n row xs x2 g b fac fac2 vals uses i res touchRow touchStat rows s1 s2 s3 t els out s4 s5 s6 s7
  have htouchRow : ∀ v one s, Within w s (touchRow v one s) := fun v one s => by
    cases v with
    | none => exact .refl w s
    | some v => exact .touchBox _ _ _ s
  have htouchStat : ∀ v s, Within w s (touchStat v s) := fun v s => by
    cases v with
    | none => exact .refl w s
    | some v => exact .touch _ _ _ s
  have hrows : Within w s0 rows := Within.foldl (fun _ _ s => (htouchRow (some o.x) false s).trans (htouchRow o.x2 false _)) s0
  have h1 : Within w rows s1 := (htouchRow o.gamma true rows).trans (htouchRow o.beta true _)
  have h2 : Within w s1 s2 := by
    simp only [s2]
    split
    exacts [(htouchStat _ _).trans (htouchStat _ _), .refl w s1]
  have hflags : ∀ f s, Within w s (s.raiseFlags 5 f) := fun f s => heng ▸ Within.raiseFlags f s
  have h3 : Within w s2 s3 := hflags _ s2
  have hrow : j < t.rows.toNat := hj
  have hcols : n ≤ t.cols.toNat := hfit.cols
  have hels : InTile t els := fun e he => by
    obtain ⟨c, hc, rfl⟩ := List.mem_map.mp he
    have hc' : c < t.cols.toNat := (List.mem_range.mp hc).trans_le hcols
    exact elemAt_inTile hrow hc' _ _ _ _
  have hout : InTile t out.1 := splitBlocks_inTile hheld hels
  have htile : ∀ v ∈ rowTiles o, ∀ sr sc x, sr < tSRows (plainT v).t → sc < tSCols (plainT v).t → OnStored (plainT v).t sr sc x → w.bytes x :=
    fun v hv sr sc x hr hc hx => hw ▸ rowScope_tile hv hr hc hx
  have hslot : ∀ k, tSlot t = some k → w.slot = some k := fun k hk => by rw [← hw, ← hk]; exact (plainT_slot _).symm
  have h4 : Within w s3 s4 := by
    have hcount : Within w s3 (if specStochastic o.spec then s3.count 0x43010 ((n + 3) / 4) else s3) := by
      split
      exacts [.count (by rw [← hw]; rfl) _ s3, .refl w s3]
    refine hcount.trans ?_
    simp only [s4]
    rw [← heng]
    exact .storeElems (fun e he => hfit.rows _ (hout e he).1) (.inr hfit.spec)
      (fun e he x => htile _ List.mem_cons_self _ _ x (hout e he).1 (hout e he).2) hslot (fun h => absurd (heng.symm.trans h) (by decide)) 3 _
  have h5 : Within w s4 s5 := by
    simp only [s5]
    split
    next st hst =>
      split
      · refine .write (fun x hlo hhi => hw ▸ fun h => ?_) 3 s4
        have hlen : ∀ a b : Nat, (leBytes 4 a ++ leBytes 4 b).length = 8 := fun a b => by simp only [List.length_append, leBytes_length]
        rw [hlen] at hhi
        have hoff := h.2 st (by rw [show r.op.statOut = some st from hst]; exact List.mem_singleton_self st)
        omega
      · exact .refl w s4
    · exact .refl w s4
  have hx2 : i.x2.length ≤ n := by
    simp only [i, x2, vals, List.length_map]
    cases o.x2 with
    | none => exact Nat.zero_le n
    | some v => simp only [Option.map_some, Option.getD_some, row, List.length_map, List.length_range, le_refl]
  have hvec : ∀ v : Option TRef, (∀ u ∈ v.toList, u ∈ o.dgamma.toList ++ o.dbeta.toList) → ∀ adds : List Fl, adds.length ≤ i.x2.length → ∀ s,
      Within w s (vecAccum v adds s) := fun v hv adds hlen s => by
    refine vecAccum_within heng (fun u hu => ?_) s
    obtain ⟨hr, hrow, hcol⟩ := hfit.vecs u (hv u hu)
    exact ⟨hr, hrow, (hlen.trans hx2).trans hcol, htile u (List.mem_cons_of_mem _ (hv u hu))⟩
  obtain ⟨hdg, hdb⟩ := rowOne_adds o.kind i
  have h6 : Within w s5 s6 := by
    simp only [s6]
    split
    exacts [hvec _ (fun u hu => List.mem_append_left _ hu) _ hdg s5, .refl w s5]
  have h7 : Within w s6 s7 := by
    simp only [s7]
    split
    exacts [hvec _ (fun u hu => List.mem_append_right _ hu) _ hdb s6, .refl w s6]
  exact ⟨⟨s7, (((((((hrows.trans h1).trans h2).trans h3).trans h4).trans h5).trans h6).trans h7), rfl⟩, splitBlocks_rest_inTile hheld hels⟩

end Sys2Proof.Machine
end

section
/-! Proofs about operations of the row engine (R163 to R169): their issue, their completion, and the values of single rows. -/

namespace Sys2Proof.Machine

/-! Checks (R163, R237) -/

section
variable {s : State} {o : RowOp} (h : rowChk s o = none)
include h

/-- A row operation's specifier names the container of its output (R48). -/
theorem rowChk_container : specContainer o.spec = tCont (plainT o.out).t := by
  have htile := firstRej_none h _ (List.mem_of_getElem? (i := 9) rfl)
  have hfmt := firstRej_none htile _ (List.mem_of_getElem? (i := 2) rfl)
  exact specChk_container (firstRej_none hfmt _ (List.mem_of_getElem? (i := 2) rfl))

variable (hpos : 0 < oVal o.rows)
include hpos

/-- Outputs hold every row and column of an operation that passes its checks. -/
theorem rowChk_sizes : (oVal o.rows ≤ o.out.t.rows.toNat ∧ oVal o.n ≤ o.out.t.cols.toNat) ∧
    ∀ v ∈ o.dgamma.toList ++ o.dbeta.toList, 0 < v.t.rows.toNat ∧ oVal o.n ≤ v.t.cols.toNat := by
  have hsmall := failIf_none (firstRej_none h _ (List.mem_of_getElem? (i := 10) rfl))
  simp only [hpos, decide_true, Bool.true_and, Bool.or_eq_false_iff, decide_eq_false_iff_not, Nat.not_lt, List.any_eq_false,
    List.mem_append, Bool.or_eq_true, decide_eq_true_eq, not_or] at hsmall
  obtain ⟨⟨-, hout⟩, hvecs⟩ := hsmall
  refine ⟨hout, fun v hv => hvecs v ?_⟩
  have := List.mem_append.mp hv
  tauto
theorem rowChk_fits (h0 : ∀ v ∈ rowTiles o, RowsOk (plainT v).t) : RowFits o where
  rows := h0 _ List.mem_cons_self
  cols := (rowChk_sizes h hpos).1.2
  spec := rowChk_container h
  vecs := fun v hv => ⟨h0 v (List.mem_cons_of_mem _ hv), (rowChk_sizes h hpos).2 v hv⟩
end

/-! Issue (R163, R165) -/

/-- The operation in progress that the issue makes of a command, before it processes a row. -/
def rowLatched (c : EngCmd) (o : RowOp) (s : State) : RowRun := ⟨c, o, oVal o.rows - 1, [], encOf s (tSlot o.out.t), s.genSeed, s.genStep⟩
/-- The state and the held elements after all rows but the last. -/
def rowsBut (c : EngCmd) (o : RowOp) (s : State) : State × List Elem :=
  (List.range (oVal o.rows - 1)).foldl (fun p j => rowRun (rowLatched c o s) j p) (s.issued 20 c, [])

section
variable {c : EngCmd} {o : RowOp} {s : State} (h : s.AtHead 20 c) (hop : c.op = .row o) (hchk : rowChk s o = none)
include h hop hchk

theorem rowIssue_noRow (hrows : oVal o.rows = 0) : rowIssue o.kind s = .next (s.issued 20 c) := by
  rw [rowIssue, h.runHead]
  simp only [hop, hchk, issueOr, hrows, ne_eq, not_true_eq_false, if_false, if_true]
theorem rowIssue_rows (hrows : oVal o.rows ≠ 0) : rowIssue o.kind s =
    .next { (rowsBut c o s).1 with row := some { rowLatched c o s with held := (rowsBut c o s).2 } } := by
  have hlatch : rowLatched c o s = rowLatched c o (s.issued 20 c) := by
    obtain ⟨u, k, hi⟩ := State.issued_queues (q := 20) (by decide) c s
    rw [hi]
    rfl
  rw [rowIssue, h.runHead, rowsBut, hlatch]
  simp only [hop, hchk, issueOr, ne_eq, not_true_eq_false, if_false]
  exact congrArg Host.Outcome.next (if_neg hrows)
end

/-- The scope of an operation's rows from its first on. -/
def rowsScope (o : RowOp) : Scope := { rowScope o 0 (8 * oVal o.rows) with ctrs := fun _ => True }
theorem rowRuns_within (r : RowRun) (hfit : RowFits r.op) {l : List Nat} (hl : ∀ j ∈ l, j < r.op.out.t.rows.toNat ∧ j < oVal r.op.rows)
    (p : State × List Elem) (hheld : InTile (plainT r.op.out).t p.2) :
    Within (rowsScope r.op) p.1 (l.foldl (fun p j => rowRun r j p) p).1 := by
  induction l generalizing p with
  | nil => exact .refl _ _
  | cons j l ih =>
    obtain ⟨hj, hlast⟩ := hl j List.mem_cons_self
    obtain ⟨⟨u, hu, hrun⟩, hin⟩ := rowRun_within r j p hfit hj hheld
    have hrow : Within (rowsScope r.op) p.1 (rowRun r j p).1 := by
      rw [hrun]
      have hwide : Within (rowsScope r.op) p.1 u := hu.mono rfl rfl (fun x hx hoff => hx ⟨hoff.1, fun st hst => ?_⟩) fun _ _ => trivial
      · exact (hwide.trans (.count trivial _ _)).trans (.count trivial _ _)
      · have := hoff.2 st hst
        omega
    exact hrow.trans (ih (fun i hi => hl i (List.mem_cons_of_mem _ hi)) _ hin)

/-- What the issue of an operation with rows leaves. -/
theorem rowIssue_within {c : EngCmd} {o : RowOp} {s : State} (hchk : rowChk s o = none) (hpos : 0 < oVal o.rows)
    (h0 : ∀ v ∈ rowTiles o, RowsOk (plainT v).t) : Within (rowsScope o) (s.issued 20 c) (rowsBut c o s).1 := by
  refine rowRuns_within (rowLatched c o s) (rowChk_fits hchk hpos h0) (fun j hj => ?_) (s.issued 20 c, []) (fun e he => absurd he List.not_mem_nil)
  have hsize := (rowChk_sizes hchk hpos).1.1
  have := List.mem_range.mp hj
  exact ⟨by change j < o.out.t.rows.toNat; omega, by change j < oVal o.rows; omega⟩

/-! Completion (R165) -/

theorem exec_rowComplete {r : RowRun} {s : State} (hclk : s.Clocked) (hrow : s.row = some r) :
    exec .rowOperationComplete s = .next { (rowRun r r.next (s, r.held)).1 with row := none } := by
  change execRowOperationComplete s = _
  rw [execRowOperationComplete, hclk.runFast]
  simp only [hrow]
/-- The counters of rows and elements after a row (R165). -/
theorem rowCounted {w : Scope} {s u : State} (h : Within w s u) (heng : w.eng = 5) (hctrs : w.ctrs = (· = 0x43010)) (n : Nat) :
    ((u.count 0x42010 1).count 0x42018 n).ctr 0x42010 = (if s.frozen 0x42010 then s.ctr 0x42010 else s.ctr 0x42010 + 1) ∧
    ((u.count 0x42010 1).count 0x42018 n).ctr 0x42018 = (if s.frozen 0x42018 then s.ctr 0x42018 else s.ctr 0x42018 + w64 n) := by
  have hne : 0x42060 ∉ [flagReg w.eng, 0x04000] := by rw [heng]; decide
  have hkeep : ∀ k, accessCtr k = false → k ≠ 0x43010 → u.ctr k = s.ctr k := fun k hk hk' => h.ctrs k hk (by rwa [hctrs])
  have hf1 : u.frozen 0x42010 = s.frozen 0x42010 := h.frozen (k := 0x42060) (by decide) hne
  have hf2 : u.frozen 0x42018 = s.frozen 0x42018 := h.frozen (k := 0x42060) (by decide) hne
  constructor
  · rw [State.count_ctr, if_neg fun h => absurd h.1 (by decide), State.count_one, hf1, hkeep _ (by decide) (by decide)]
  · have hf : (u.count 0x42010 1).frozen 0x42018 = u.frozen 0x42018 := by simp only [State.frozen, State.regBit, State.count_reg]
    have hc : (u.count 0x42010 1).ctr 0x42018 = u.ctr 0x42018 := by rw [State.count_ctr, if_neg fun h => absurd h.1 (by decide)]
    rw [State.count_ctr, hf, hc, hf2, hkeep _ (by decide) (by decide)]
    cases s.frozen 0x42018 <;> rfl

/-! Values of a row (R166, R167, R169) -/

theorem orFlags_const {α : Type} (l : List α) : orFlags (l.map fun _ => (xZero, 0)) = 0 := by
  induction l with
  | nil => rfl
  | cons _ l ih => simpa [orFlags] using ih
/-- Outputs from the statistics of a fully masked row (R167). -/
theorem smOut_masked (alpha : XVal) {l : XVal} (xs : List XVal) (hl : isPlusZero l = true) :
    smOut alpha (.inf true) l xs = xs.map fun _ => (xZero, 0) := by
  simp only [smOut, maskedStat, beq_self_eq_true, hl, Bool.and_self, if_true]
theorem rowSoftmax_masked {i : RowIn} (h : maskedRow i.xs = true) :
    (rowSoftmax i).ys = i.xs.map (fun _ => xZero) ∧ (rowSoftmax i).stat = (.inf true, xZero) ∧ (rowSoftmax i).fl = 0 := by
  have hstat : smStat i.xs i.fac = ((.inf true, 0), (xZero, 0)) := if_pos h
  simp only [rowSoftmax, hstat, smOut_masked _ _ (show isPlusZero xZero = true from rfl), orFlags_const, List.map_map]
  exact ⟨rfl, trivial, rfl⟩
theorem rowMerge_masked {i : RowIn} {a b : XVal} (ha : i.st = some (.inf true, a)) (hb : i.st2 = (.inf true, b)) :
    (rowMerge i).ys = i.xs.map (fun _ => xZero) ∧ (rowMerge i).stat = (.inf true, xZero) ∧ (rowMerge i).fl = 0 := by
  have hres : rowMerge i = ⟨i.xs.map fun _ => xZero, 0, (.inf true, xZero), [], []⟩ := by
    simp only [rowMerge, ha, hb, Option.getD_some, beq_self_eq_true, Bool.and_self, if_true]
  rw [hres]
  exact ⟨rfl, rfl, rfl⟩
theorem rowFinal_zero {i : RowIn} {m l : XVal} (hst : i.st = some (m, l)) (hl : isPlusZero l = true) :
    (rowFinal i).ys = i.xs.map (fun _ => xZero) ∧ (rowFinal i).fl = 0 := by
  have hres : rowFinal i = ⟨i.xs.map fun _ => xZero, 0, (xZero, xZero), [], []⟩ := by
    simp only [rowFinal, hst, Option.getD_some, hl, if_true]
  rw [hres]
  exact ⟨rfl, rfl⟩
/-- A third list of factors that a formula does not use can be left out. -/
theorem map_zip_left {α β γ δ : Type} (f : α → β → δ) {xs : List α} {g : List β} {b : List γ} (hg : g.length = b.length) :
    (xs.zip (g.zip b)).map (fun p => f p.1 p.2.1) = (xs.zip g).map fun p => f p.1 p.2 := by
  rw [show (fun p : α × β × γ => f p.1 p.2.1) = (fun p : α × β => f p.1 p.2) ∘ Prod.map id Prod.fst from rfl, ← List.map_map,
    ← List.zip_map_right, List.map_fst_zip hg.le]
theorem rowNorm_rms {i : RowIn} (hg : i.g.length = i.b.length) :
    (rowNorm true i).ys = (i.xs.zip i.g).map fun p => (fpMul (fpMul p.1 (rmsStat i.xs i.fac).2.1).1 p.2).1 := by
  rw [← map_zip_left (fun x g => (fpMul (fpMul x (rmsStat i.xs i.fac).2.1).1 g).1) hg]
  simp only [rowNorm, xhat, if_true, List.zip_map_left, List.map_map]
  rfl
theorem rowNorm_ln (i : RowIn) : (rowNorm false i).ys = (i.xs.zip (i.g.zip i.b)).map fun p =>
    (fpAdd (fpMul (fpMul (fpSub p.1 (lnStat i.xs i.fac).1.1).1 (lnStat i.xs i.fac).2.1).1 p.2.1).1 p.2.2).1 := by
  simp only [rowNorm, xhat, Bool.false_eq_true, if_false, List.zip_map_left, List.map_map]
  rfl

/-- Settles O43: every row stays within the bytes of its outputs, its statistics entry and its slot, and the issue and the completion are
made of rows; the values are those of single rows. -/
theorem rowOperationsRunRowByRow : Obligations.RowOperationsRunRowByRow := by
  refine ⟨?issue, ?complete, fun i h => rowSoftmax_masked h, fun alpha l xs hl => smOut_masked alpha xs hl,
    fun i a b ha hb => rowMerge_masked ha hb, fun i m l hst hl => rowFinal_zero hst hl, fun i hg hb => rowNorm_rms (hg.trans hb.symm),
    fun i hg hb => ⟨_, _, rfl, rowNorm_ln i⟩⟩
  case issue =>
    intro i k hik c o s h hop hk hchk
    subst hk
    have hexec : exec i s = rowIssue o.kind s := by
      simp only [List.mem_cons, Prod.mk.injEq, List.not_mem_nil, or_false] at hik
      obtain ⟨rfl, hk⟩ | ⟨rfl, hk⟩ | ⟨rfl, hk⟩ | ⟨rfl, hk⟩ | ⟨rfl, hk⟩ | ⟨rfl, hk⟩ | ⟨rfl, hk⟩ | ⟨rfl, hk⟩ := hik <;> rw [hk] <;> rfl
    rw [hexec]
    refine ⟨rowIssue_noRow h hop hchk, fun hrows h0 => ?_⟩
    have hpos := Nat.pos_of_ne_zero hrows
    have hkeep := rowIssue_within (c := c) hchk hpos h0
    refine ⟨_, _, rowIssue_rows h hop hchk hrows, rfl, rfl, rfl, Nat.sub_add_cancel hpos, rfl, rfl, rfl, fun x hoff hst => ?_,
      hkeep.vec.trans (State.issued_vec 20 c s), hkeep.queues, hkeep.preds.trans (State.issued_preds (by decide) c s),
      fun n hn => (hkeep.slots n hn).trans (State.issued_slot 20 c n s)⟩
    exact (hkeep.bytes x fun hx => hx ⟨hoff, hst⟩).trans (State.issued_byte (by decide) c x s)
  case complete =>
    intro r s hclk hrow hj hn h0 hheld hspec hvecs
    obtain ⟨⟨u, hkeep, hrun⟩, -⟩ := rowRun_within r r.next (s, r.held) ⟨h0, hn, hspec, hvecs⟩ hj hheld
    obtain ⟨hrows, hels⟩ := rowCounted hkeep rfl rfl (oVal r.op.n)
    have hexec := exec_rowComplete hclk hrow
    rw [hrun] at hexec
    have hcount : Within (rowsScope r.op) u ((u.count 0x42010 1).count 0x42018 (oVal r.op.n)) := (Within.count trivial 1 u).trans (.count trivial _ _)
    refine ⟨_, hexec, rfl, fun x hoff hst => ?_, hrows, hels, hcount.vec.trans hkeep.vec, hcount.queues.trans hkeep.queues,
      fun n hn => (hcount.slots n hn).trans (hkeep.slots n hn)⟩
    exact ((State.count_byte _ _ x _).trans (State.count_byte _ _ x u)).trans (hkeep.bytes x fun hx => hx ⟨hoff, hst⟩)

end Sys2Proof.Machine
end

section
/-! The bounds that every step keeps (O59): memory canonical, the bounded stores within their bounds, the operating point at
N = 7 to 22. One lemma per function of the model, named after it and proved by its branches: a state that the function is
given bounded it leaves bounded. Only the few functions that write the bounded fields need more than the lemmas of the
functions they call. -/

set_option Elab.async false

namespace Sys2Proof.Machine

/-- What the bounds of StepKeepsTheInvariants speak of. -/
def State.view (s : State) : Tab Byte × Logs × (List Word × List (List Word)) × List RunEntry × Nat × Option Nat :=
  (s.mem, s.logs, (s.mgmt.req, s.mgmt.replies), s.cc.runahead, s.pwr.n, s.pwr.nNext)

/-- The bounds of StepKeepsTheInvariants. -/
structure State.Bounded (s : State) : Prop where
  mem : s.MemOk
  stores : s.StoresOk
  point : s.PointOk

/-- The state of an optional result is bounded. -/
def BoundedOption (o : Option State) : Prop := ∀ t, o = some t → t.Bounded
/-- The same of an optional result with a value beside the state. -/
def BoundedPair {α} (o : Option (α × State)) : Prop := ∀ t, o = some t → t.2.Bounded
/-- A command's outcome leaves a bounded state when it leaves one. -/
def Keeps (o : Out) : Prop := ∀ t, o = .next t → t.Bounded

/-- The state that an evaluation of a wait leaves. -/
def Eval.state : Eval → State
  | .go s | .hold _ s | .bad _ s => s
/-- The state that an attempt to arrive leaves. -/
def Arrive.state : Arrive → State
  | .made s | .xlate _ s | .later s | .bad _ s => s

namespace BoundedOption
theorem some {s : State} (h : s.Bounded) : BoundedOption (.some s) := fun _ e => Option.some.inj e ▸ h
theorem none : BoundedOption .none := fun _ e => absurd e.symm (Option.some_ne_none _)
theorem ite {p : Prop} [Decidable p] {a b : Option State} (ha : BoundedOption a) (hb : BoundedOption b) : BoundedOption (if p then a else b) := by
  split <;> assumption
theorem getD {o : Option State} {s : State} (ho : BoundedOption o) (h : s.Bounded) : (o.getD s).Bounded := by
  cases o with
  | none => exact h
  | some t => exact ho t rfl
theorem bind {o : Option State} {f : State → Option State} (ho : BoundedOption o) (hf : ∀ {s : State}, s.Bounded → BoundedOption (f s)) : BoundedOption (o.bind f) := by
  cases o with
  | none => exact none
  | some t => exact hf (ho t rfl)
theorem map {o : Option State} {f : State → State} (ho : BoundedOption o) (hf : ∀ {s : State}, s.Bounded → (f s).Bounded) : BoundedOption (o.map f) := by
  cases o with
  | none => exact none
  | some t => exact some (hf (ho t rfl))
end BoundedOption

namespace BoundedPair
variable {α : Type}
theorem some {p : α × State} (h : p.2.Bounded) : BoundedPair (.some p) := fun _ e => Option.some.inj e ▸ h
theorem none : BoundedPair (.none : Option (α × State)) := fun _ e => absurd e.symm (Option.some_ne_none _)
theorem ite {p : Prop} [Decidable p] {a b : Option (α × State)} (ha : BoundedPair a) (hb : BoundedPair b) : BoundedPair (if p then a else b) := by
  split <;> assumption
end BoundedPair

namespace State.Bounded

theorem of_view {s t : State} (e : t.view = s.view) (h : s.Bounded) : t.Bounded := by
  obtain ⟨hm, hl, hg, hc, hn, hx⟩ : t.mem = s.mem ∧ t.logs = s.logs ∧ (t.mgmt.req = s.mgmt.req ∧ t.mgmt.replies = s.mgmt.replies) ∧
      t.cc.runahead = s.cc.runahead ∧ t.pwr.n = s.pwr.n ∧ t.pwr.nNext = s.pwr.nNext := by
    simpa only [State.view, Prod.mk.injEq] using e
  refine ⟨by rw [State.MemOk, hm]; exact h.mem, ?_, ?_⟩
  · rw [State.StoresOk, hl, hg.1, hg.2, hc]; exact h.stores
  · rw [State.PointOk, hn, hx]; exact h.point

/-- An update that touches none of it. -/
theorem same {s t : State} (h : s.Bounded) (e : t.view = s.view := by rfl) : t.Bounded := of_view e h

theorem ite {p : Prop} [Decidable p] {a b : State} (ha : a.Bounded) (hb : b.Bounded) : (if p then a else b).Bounded := by
  split <;> assumption
theorem ite_snd {α : Type} {p : Prop} [Decidable p] {a b : α × State} (ha : a.2.Bounded) (hb : b.2.Bounded) : (if p then a else b).2.Bounded := by
  split <;> assumption
theorem ite_fst {α : Type} {p : Prop} [Decidable p] {a b : State × α} (ha : a.1.Bounded) (hb : b.1.Bounded) : (if p then a else b).1.Bounded := by
  split <;> assumption
theorem foldl {α : Type} {f : State → α → State} {s : State} {l : List α} (hf : ∀ {s} x, s.Bounded → (f s x).Bounded) (h : s.Bounded) :
    (l.foldl f s).Bounded := by
  induction l generalizing s with
  | nil => exact h
  | cons x l ih => exact ih (hf x h)
theorem foldl_snd {α β : Type} {f : β × State → α → β × State} {s : β × State} {l : List α} (hf : ∀ {s} x, s.2.Bounded → (f s x).2.Bounded) (h : s.2.Bounded) :
    (l.foldl f s).2.Bounded := by
  induction l generalizing s with
  | nil => exact h
  | cons x l ih => exact ih (hf x h)
theorem foldl_fst {α β : Type} {f : State × β → α → State × β} {s : State × β} {l : List α} (hf : ∀ {s} x, s.1.Bounded → (f s x).1.Bounded) (h : s.1.Bounded) :
    (l.foldl f s).1.Bounded := by
  induction l generalizing s with
  | nil => exact h
  | cons x l ih => exact ih (hf x h)
theorem ite' {p : Prop} [Decidable p] {a b : State} (ha : p → a.Bounded) (hb : ¬ p → b.Bounded) : (if p then a else b).Bounded := by
  split
  · exact ha ‹_›
  · exact hb ‹_›
theorem ite_snd' {α : Type} {p : Prop} [Decidable p] {a b : α × State} (ha : p → a.2.Bounded) (hb : ¬ p → b.2.Bounded) : (if p then a else b).2.Bounded := by
  split
  · exact ha ‹_›
  · exact hb ‹_›
theorem ite_pair {α : Type} {p : Prop} [Decidable p] {x y : α} {a b : State} (ha : a.Bounded) (hb : b.Bounded) :
    (if p then (x, a) else (y, b)).2.Bounded := by
  split <;> assumption
theorem of_eq {α : Type} {p q : α × State} (h : q.2.Bounded) (e : p = q) : p.2.Bounded := e ▸ h
theorem of_eq_fst {α : Type} {p q : State × α} (h : q.1.Bounded) (e : p = q) : p.1.Bounded := e ▸ h
theorem of_snd {α : Type} {p : α × State} {a : α} {u : State} (h : p.2.Bounded) (e : p = (a, u)) : u.Bounded := by
  subst e
  exact h
theorem of_fst {α : Type} {p : State × α} {a : α} {u : State} (h : p.1.Bounded) (e : p = (u, a)) : u.Bounded := by
  subst e
  exact h
end State.Bounded

namespace State.Bounded
variable {s : State} (h : s.Bounded)
include h

/-! Machine/Ops -/

theorem setReg {off v} : (s.setReg off v).Bounded := h.same
theorem setRegFld {off lo n v} : (s.setRegFld off lo n v).Bounded := h.setReg
theorem orReg {off m} : (s.orReg off m).Bounded := h.setReg
theorem clrReg {off m} : (s.clrReg off m).Bounded := h.setReg
theorem setCtr {off v} : (s.setCtr off v).Bounded := h.same
theorem count {off n} : (s.count off n).Bounded := .ite h h.setCtr
theorem withMem {m : Tab Byte} (hm : Memory.wf m = true) : { s with mem := m }.Bounded := ⟨hm, h.stores, h.point⟩
theorem withLogs {l : Logs} (he : l.errs.length ≤ 512) (hb : l.blot.length ≤ 4096) : { s with logs := l }.Bounded :=
  ⟨h.mem, ⟨he, hb, h.stores.2.2⟩, h.point⟩
theorem withMgmt {m : Mgmt} (hq : m.req.length ≤ 1027) (hr : m.replies.length ≤ 2) : { s with mgmt := m }.Bounded :=
  ⟨h.mem, ⟨h.stores.1, h.stores.2.1, hq, hr, h.stores.2.2.2.2⟩, h.point⟩
theorem withCc {c : Cc} (ha : c.runahead.length ≤ 512) : { s with cc := c }.Bounded :=
  ⟨h.mem, ⟨h.stores.1, h.stores.2.1, h.stores.2.2.1, h.stores.2.2.2.1, ha⟩, h.point⟩
theorem withPwr {p : Pwr} (hp : 7 ≤ p.n ∧ p.n ≤ 22 ∧ ∀ n, p.nNext = some n → 7 ≤ n ∧ n ≤ 22) : { s with pwr := p }.Bounded :=
  ⟨h.mem, h.stores, hp⟩
theorem errs_le : s.logs.errs.length ≤ 512 := h.stores.1
theorem blot_le : s.logs.blot.length ≤ 4096 := h.stores.2.1
theorem req_le : s.mgmt.req.length ≤ 1027 := h.stores.2.2.1
theorem replies_le : s.mgmt.replies.length ≤ 2 := h.stores.2.2.2.1
theorem runahead_le : s.cc.runahead.length ≤ 512 := h.stores.2.2.2.2

theorem blotter {type source tag data} : (s.blotter type source tag data).Bounded := by
  have hb := h.blot_le
  refine .ite (.ite' (fun hl => h.withLogs h.errs_le ?_) fun _ => .ite h.count (h.withLogs h.errs_le ?_)) h
  · rw [List.length_append, List.length_singleton]
    omega
  · rw [List.length_append, List.length_singleton, List.length_drop]
    omega
theorem interrupt {m} : (s.interrupt m).Bounded := h.orReg
theorem raise {e} : (s.raise e).Bounded := by
  unfold State.raise
  extract_lets n ent l s1
  have h1 : s1.Bounded := by
    refine .ite' (fun hl => h.withLogs ?_ h.blot_le) fun _ => ?_
    · rw [List.length_append, List.length_singleton]
      omega
    · have k : { s with logs := { s.logs with raised := n } }.Bounded := h.withLogs h.errs_le h.blot_le
      exact k.count
  exact h1.interrupt.blotter
theorem eccLog {r e} : (s.eccLog r e).Bounded := h.raise.count
theorem pfRead {req a n} : (s.pfRead req a n).Bounded := .ite h (.ite h.same h.same.count)
theorem pfWrite {a n} : (s.pfWrite a n).Bounded := .ite h h.same.count
theorem accPoison {a} : (s.accPoison a).Bounded := h.same.raise.count
theorem accCheck {a n} : (s.accCheck a n).Bounded := .foldl (fun _ h => h.accPoison) h
theorem eccCheck {r a n} : (s.eccCheck r a n).Bounded := .foldl (fun _ h => h.eccLog) (.foldl (fun _ h => h.count) h.same)
theorem touchBy {r a n} : (s.touchBy r a n).Bounded := .ite h h.eccCheck.accCheck.pfRead
theorem touch {req a n} : (s.touch req a n).Bounded := h.touchBy
theorem watchMark {a n} : (s.watchMark a n).Bounded := h.same
theorem imemMark {a n} : (s.imemMark a n).Bounded := h.same
theorem partCheck {req a n} : (s.partCheck req a n).Bounded := .foldl (fun _ h => h.eccLog) (.foldl (fun _ h => h.count) h)
theorem write {req a bs} : (s.write req a bs).Bounded :=
  .ite h (.pfWrite (.imemMark (.watchMark (.same (h.partCheck.withMem (putBytes_wf bs _ a h.partCheck.mem))))))
theorem poisonBytes {as} : (s.poisonBytes as).Bounded := h.same
theorem writeDword {req a v} : (s.writeDword req a v).Bounded := h.write
theorem setQueue {q v} : (s.setQueue q v).Bounded := h.same
theorem popQueue {q} : (s.popQueue q).Bounded := h.setQueue
theorem done {q c} : (s.done q c).Bounded := by
  obtain ⟨u, a, b, e⟩ := State.done_eq q c s
  exact h.same (by rw [e]; rfl)
theorem haltQueue {q c} : (s.haltQueue q c).Bounded := by
  obtain ⟨u, e⟩ := State.haltQueue_eq q c s
  exact h.same (by rw [e]; rfl)
theorem haltThread {t} : (s.haltThread t).Bounded := by
  unfold State.haltThread
  split <;> exact h.same
theorem rejectNote {q c r} : (s.rejectNote q c r).Bounded := .orReg (.count (.ite h h.raise))
theorem reject {q c r} : (s.reject q c r).Bounded := .ite h.rejectNote.haltQueue.haltThread h.rejectNote.done
theorem endWait {party} : (s.endWait party).Bounded := h.same
theorem scramble {u} : (s.scramble u).Bounded := by
  obtain ⟨he, hb, hq, hr, _⟩ := h.stores
  refine ⟨?_, ⟨he, hb, hq, hr, List.length_take_le 512 _⟩, ?_⟩
  · show Memory.wf (if Memory.wf u.mem then u.mem else []) = true
    split
    · assumption
    · rfl
  · simp only [State.PointOk, State.scramble]
    split
    case isTrue hp => exact ⟨hp.1.1, hp.1.2, fun n hn => by simpa [hn] using hp.2⟩
    case isFalse => exact h.point
theorem scrambleAll {u} : (s.scrambleAll u).Bounded :=
  have k : (s.scramble u).Bounded := h.scramble
  ⟨k.mem, ⟨List.length_take_le 512 _, List.length_take_le 4096 _, List.length_take_le 1027 _, List.length_take_le 2 _,
    k.stores.2.2.2.2⟩, k.point⟩
theorem undef : (s.undef).Bounded := .ite h.scrambleAll (.ite h.scramble h)

/-! Machine/Operands -/

theorem touchRun {req t sr c0 c1} : (touchRun req t sr c0 c1 s).Bounded := .ite h (.ite h.touch h.touch.touch)
theorem touchBox {req t lb} : (touchBox req t lb s).Bounded :=
  .ite (.touch (.touch (.foldl (fun _ h => h.touchRun) h))) (.foldl (fun _ h => h.touchRun) h)
theorem writeRun {req t sr sc codes} : (writeRun req t sr sc codes s).Bounded := .ite h h.write
theorem writeScale {req t sr sc code} : (writeScale req t sr sc code s).Bounded := h.write

/-! Machine/Flags -/

theorem raiseFlags {e f} : (s.raiseFlags e f).Bounded := h.orReg
theorem clearFlags {e m} : (s.clearFlags e m).Bounded := .ite h.clrReg.clrReg h.clrReg
theorem stillFlags {i f b} : (s.stillFlags i f b).Bounded := by
  unfold State.stillFlags
  split
  · exact h.raiseFlags
  · exact .ite h.raiseFlags h.raiseFlags.setReg.setReg.setCtr
theorem noteNonfinite {b} : (s.noteNonfinite b).Bounded := .ite h (.ite h.orReg h.same)
theorem setSlot {n v} : (s.setSlot n v).Bounded := h.same
theorem gather {n x c} : (s.gather n x c).Bounded := by
  unfold State.gather
  split
  · exact h
  · exact .ite h h.setSlot
theorem setFactor {n dec v tag thread} : (s.setFactor n dec v tag thread).Bounded := .ite h.setSlot h.raise
theorem telemetry {f c} : (s.telemetry f c).Bounded := by
  unfold State.telemetry
  split
  exacts [h.setCtr, h.setCtr.setCtr, h.setCtr.setCtr]
theorem storeElems {req eng t spec slot els} : (storeElems req eng t spec slot els s).Bounded :=
  .foldl (fun _ h => .raiseFlags (.ite h.gather.telemetry h.gather)) (.foldl (fun _ h => h.writeScale) (.foldl (fun _ h => h.writeRun) h))

/-! Machine/Order -/

theorem issued {q c} : (s.issued q c).Bounded := by
  unfold State.issued
  split
  exacts [h.done, h.done.count, h.done.count]
theorem withHead {q} {f : EngCmd → State → State} (hf : ∀ {u : State} c, u.Bounded → (f c u).Bounded) : (withHead q s f).Bounded := by
  unfold Machine.withHead
  split
  · exact .ite h (hf _ h)
  · exact h
omit h in
theorem issueOr {q c r} {f : State → State} (hf : ∀ {u : State}, u.Bounded → (f u).Bounded) (h : s.Bounded) : (issueOr q c r f s).Bounded := by
  unfold Machine.issueOr
  split
  · exact h.reject
  · exact hf h.issued
theorem setCtxt {c v} : (s.setCtxt c v).Bounded := by
  unfold State.setCtxt
  split <;> exact h.same
theorem setX {c r v} : (s.setX c r v).Bounded := .ite h h.setCtxt
theorem setPred {p v} : (s.setPred p v).Bounded := h.same

/-! Machine/Control -/

theorem setTileWord {t n w v} : (s.setTileWord t n w v).Bounded := h.setReg
theorem setParam {t p v} : (s.setParam t p v).Bounded := h.setCtr
theorem push {q e} : (s.push q e).Bounded := h.setQueue
theorem place {q e} : BoundedOption (s.place q e) := .ite (.some (.count (.foldl (fun _ h => h.push) h))) .none
theorem packFlush : BoundedOption (s.packFlush) := by
  unfold State.packFlush
  split
  · exact .some h
  · exact h.same.place
theorem packHold {f tag c} : (s.packHold f tag c).Bounded := .ite (h.same.packFlush.getD h.same) h.same
theorem enqueue {c q op tag} : BoundedOption (s.enqueue c q op tag) := by
  have put {s : State} (h : s.Bounded) : BoundedOption ({ s with cc := { s.cc with seq := s.cc.seq + 1 } }.place q ⟨op, tag, c, s.cc.seq⟩) :=
    h.same.place
  refine .ite (put h) ?_
  split
  · refine .ite ?_ (h.packFlush.bind put)
    split
    · exact .some h.packHold
    · exact .ite (.some h.packHold) (h.packFlush.map fun h => h.packHold)
  · exact h.packFlush.bind put
theorem goto {c pc} : (s.goto c pc).Bounded := h.setCtxt
theorem advance {c} : (s.advance c).Bounded := h.goto
theorem dropInstr {c} : (s.dropInstr c).Bounded := .advance (.ite h.count.orReg.haltThread h.count.orReg)
theorem rejectInstr {c e} : (s.rejectInstr c e).Bounded := h.raise.dropInstr
theorem fetched {c} : (s.fetched c).Bounded := .ite h.touchBy h
theorem setCore {c} : (s.setCore c).Bounded := h.same.blotter
theorem setFence {f} : (s.setFence f).Bounded := h.same.setCore
theorem settleMode : s.settleMode.Bounded := by
  unfold State.settleMode
  split
  · exact .ite h.same.setCore h
  · exact h
theorem served {c} : (s.served c).Bounded := .ite h.same h
theorem stalled {c kind n} : (s.stalled c kind n).Bounded := h.setCtxt
theorem setTq {i v} : (s.setTq i v).Bounded := h.same
theorem tqBind {i v} : (s.tqBind i v).Bounded := .ite h.setReg h
theorem walkGo {c n r} : (walkGo c n r s).Bounded := by
  induction n generalizing s r with
  | zero => exact h.setCtxt
  | succ n ih =>
    unfold Machine.walkGo
    extract_lets f
    split
    · exact h.setCtxt
    · next u hu =>
      have hu : u.Bounded := h.enqueue _ hu
      split
      · exact ih hu
      · exact hu.setCtxt.advance
theorem stillCfgWrite {v} : (s.stillCfgWrite v).Bounded := .ite h.setReg (h.setReg.packFlush.getD h.setReg)
theorem skipQueue {q} : (s.skipQueue q).Bounded := .ite h.setQueue.endWait h
theorem skipQueues {qs} : (s.skipQueues qs).Bounded := .foldl (fun _ h => h.skipQueue) h
theorem skipAcc : s.skipAcc.Bounded := by
  unfold State.skipAcc
  have hu : (s.skipQueues (List.range 17)).Bounded := h.skipQueues
  generalize s.skipQueues (List.range 17) = u at hu ⊢
  exact hu.same
theorem skipExe : s.skipExe.Bounded := by
  unfold State.skipExe
  have hu : (s.skipQueues [17, 18, 19, 20, 21, 22]).Bounded := h.skipQueues
  generalize s.skipQueues [17, 18, 19, 20, 21, 22] = u at hu ⊢
  exact hu.same

/-! Machine/Macro -/

theorem setDisp {t d} : (s.setDisp t d).Bounded := by
  unfold State.setDisp
  split <;> exact h.same
theorem settleCredits : s.settleCredits.Bounded := .ite h h.same
theorem placeMacro {w m parBad} : (s.placeMacro w m parBad).Bounded := by
  refine .ite' (fun _ => h.raise) fun hl => .count (h.withCc ?_)
  rw [List.length_append, List.length_singleton]
  omega
theorem parityFail {w} : (s.parityFail w).Bounded := h.raise.count
theorem ringRefuse {e} : (s.ringRefuse e).Bounded := h.raise.same.orReg
theorem ringHeader : s.ringHeader.Bounded := .ite h.touch.same h.touch.ringRefuse
theorem ringErrClear : s.ringErrClear.Bounded := .ite h (.ite h.clrReg.ringHeader h.clrReg)
omit h in
theorem length_dropDone_le (l : List RunEntry) : (dropDone l).length ≤ l.length := by
  induction l with
  | nil => exact Nat.le_refl _
  | cons e l ih =>
    unfold dropDone
    split
    · exact Nat.le_succ_of_le ih
    · exact Nat.le_refl _
omit h in
theorem length_markNext (t : Thread) (l : List RunEntry) : (markNext t l).length = l.length := by
  induction l with
  | nil => rfl
  | cons e l ih =>
    unfold markNext
    split
    · simpa using ih
    · rfl
theorem entryDone {t} : (s.entryDone t).Bounded :=
  have hl : (dropDone (markNext t s.cc.runahead)).length ≤ 512 :=
    ((length_dropDone_le _).trans_eq (length_markNext t _)).trans h.runahead_le
  .settleCredits (h.withCc hl)
theorem endMacro {t} : (s.endMacro t).Bounded := by
  unfold State.endMacro
  extract_lets
  split
  · exact .ite h.setDisp h.setDisp.entryDone.settleMode
  · exact h.setDisp.entryDone.settleMode
theorem rejectMacro {t r tag} : (s.rejectMacro t r tag).Bounded :=
  .endMacro (.ite (.setDisp (.ite h (.orReg (.count (.ite h h.raise))))) (.ite h (.orReg (.count (.ite h h.raise)))))
theorem breakAt {t tag hits} : (s.breakAt t tag hits).Bounded :=
  .interrupt (.ite (.setDisp (.setDisp (.foldl (fun _ h => h.orReg.blotter) h))) (.setDisp (.foldl (fun _ h => h.orReg.blotter) h)))
theorem dispatch {t m parBad} : (s.dispatch t m parBad).Bounded := by
  unfold State.dispatch
  extract_lets d body s1 s2 s3
  have h1 : s1.Bounded := by
    simp only [s1]
    split
    · exact h.touch
    · exact h
  have h3 : s3.Bounded := h1.setCtr.setDisp
  split
  · exact h3.rejectMacro
  · refine .ite h3.rejectMacro (.ite (.endMacro (.ite h3.blotter.count h3.blotter)) ?_)
    split
    · exact h3.blotter.endMacro
    · exact h3.blotter.setDisp
theorem rejectBoth {r tag} : (s.rejectBoth r tag).Bounded := h.rejectMacro.rejectMacro

/-! Machine/Out -/

theorem setOutLane {i v} : (s.setOutLane i v).Bounded := h.same
theorem setInLane {i v} : (s.setInLane i v).Bounded := h.same
theorem placeFlit {i f} : (s.placeFlit i f).Bounded := h.setOutLane.setInLane.count
theorem idleFlit {i} : (s.idleFlit i).Bounded := .ite h.setOutLane.setInLane h
theorem idleFlits : s.idleFlits.Bounded := .ite (.foldl (fun _ h => h.idleFlit) h) h
theorem placePkt {p ls} : (s.placePkt p ls).Bounded := .foldl (fun _ h => h.placeFlit) h.same
theorem pumpGo {l held} : (pumpGo l held s).2.Bounded := by
  induction l generalizing s held with
  | nil => exact h
  | cons p l ih => exact .ite_snd (ih h) (ih h.placePkt)
theorem pump : s.pump.Bounded := .ite h.pumpGo.same h
theorem send {cls fs} : (s.send cls fs).Bounded := h.same.pump
theorem sendRead {ep route rec'} : (s.sendRead ep route rec').Bounded := .ite h.same h.send
theorem setStream {i u} : (s.setStream i u).Bounded := h.same
theorem windowAdd {g n} : (s.windowAdd g n).Bounded := h.same
theorem windowSub {g n} : (s.windowSub g n).Bounded := h.same
theorem miss {vpn write} : BoundedPair (s.miss vpn write) := by
  unfold State.miss
  split
  · exact .some h
  · split
    · exact .none
    · exact .some h.same.count.send
theorem sendSync {i o sop v ep route addr} : (s.sendSync i o sop v ep route addr).Bounded := h.setStream.windowAdd.count.send
theorem trySync {fabric a sop v o} : (s.trySync fabric a sop v o).2.Bounded := by
  unfold State.trySync
  split
  · exact h
  · split
    · next e => exact h.miss _ e
    · exact h
  · split
    · exact h
    · exact .ite_snd h.sendSync h

/-! Machine/Sync -/

theorem putCount {a sem c} : (s.putCount a sem c).Bounded := h.writeDword.count
theorem wordFail {a op src w r} : (s.wordFail a op src w r).Bounded := by
  unfold State.wordFail
  split
  · exact h.raise
  · exact h
theorem syncApply {op a v src r} : (s.syncApply op a v src r).2.Bounded := by
  have t : (s.touchBy r a 8).Bounded := h.touchBy
  unfold State.syncApply
  split
  · exact h
  · extract_lets
    split
    · refine .putCount ?_
      split
      · exact t.raise
      · exact t
    · exact .ite t t.wordFail
theorem hostsig {h'} : (s.hostsig h').Bounded := h.orReg
theorem rejectLate {q c r} : (s.rejectLate q c r).Bounded := .ite h.rejectNote (.ite h.setQueue.reject h.setQueue.reject.setQueue)
theorem setWatch {n w} : (s.setWatch n w).Bounded := h.same
theorem startWait {party a t sem} : (s.startWait party a t sem).2.Bounded := by
  unfold State.startWait
  extract_lets n y s1
  have h1 : s1.Bounded := .count h.same
  clear_value s1
  split
  · exact h1.setWatch
  · exact .count h1.same
theorem evalWait {r op a t v} (e : s.evalWait r op a t = v) : v.state.Bounded := by
  have u : (s.touchBy r a 8).Bounded := h.touchBy
  subst e
  unfold State.evalWait
  split
  · exact h
  · split
    · split
      · exact .ite u.putCount u
      · exact u
    · exact u
theorem waitHead {q op c a t} : (waitHead q op c a t s).Bounded := by
  refine .ite h (.ite h.reject ?_)
  split
  · next u e => exact (h.evalWait e : u.Bounded).issued
  · next u e => exact (h.evalWait e : u.Bounded).reject
  · next u e => exact (h.evalWait e : u.Bounded).startWait.setQueue
theorem recheck {party} : (s.recheck party).Bounded := by
  refine .ite ?_ ?_
  · split
    · split
      · next u e => exact (h.evalWait e : u.Bounded).endWait.endMacro.endMacro
      · next u e => exact (h.evalWait e : u.Bounded).endWait.rejectBoth
      · next u e => exact h.evalWait e
    · exact h
  · split
    · exact h
    · split
      · exact h
      · split
        · next u e => exact (h.evalWait e : u.Bounded).endWait.issued
        · next u e => exact (h.evalWait e : u.Bounded).endWait.reject
        · next u e => exact h.evalWait e
theorem armedRead {w} : (s.armedRead w).Bounded := .ite h h.touchBy.wordFail
theorem watchArm : s.watchArm.Bounded := by
  unfold State.watchArm
  split
  · exact h.orReg
  · exact .ite h.setReg.armedRead.hostsig h.setReg.armedRead.setWatch
theorem watchFree {n} : (s.watchFree n).Bounded := .ite h.setWatch h
theorem signalHead {q op c f a v n} : (signalHead q op c f a v n s).Bounded := by
  refine .ite h (.ite h.reject (.ite ?_ ?_))
  · split
    · next e => exact (of_snd h.syncApply e).reject
    · next e =>
      have hu := of_snd h.syncApply e
      exact .ite hu.issued.hostsig hu.issued
  · split
    · exact h
    · exact .ite h h.setQueue
    · split
      · next e => exact (of_snd h.trySync e).reject
      · next e => exact (of_snd h.trySync e).setQueue
      · next e => exact (of_snd h.trySync e).setQueue
      · next e => exact of_snd h.trySync e
theorem release {b g} : (s.release b g).Bounded := by
  unfold State.release
  extract_lets a s1
  split
  · exact h.raise
  · split
    · extract_lets up s2 s3 now y
      have h3 : s3.Bounded := .blotter (.ite h.touchBy.putCount h.touchBy)
      clear_value s3
      split
      · exact .ite h3.same h3
      · exact h3
    · exact h.touchBy.wordFail
theorem sendReleases {b g} : (s.sendReleases b g).Bounded := by
  unfold State.sendReleases
  extract_lets rg es bad one s1
  have sent {i : Nat} {u : State} (hu : u.Bounded) : (one u i).Bounded := by
    simp only [one]
    split
    · exact hu.send
    · exact hu
  have h1 : s1.Bounded := .foldl (fun _ => sent) h
  clear_value bad
  split
  · exact h1.raise
  · exact h1
theorem lastTest {b g old} : (s.lastTest b g old).Bounded := .ite h.count.sendReleases.release h
theorem noteArrival {b g tag} : (s.noteArrival b g tag).Bounded :=
  .blotter (.count (.same (h.setReg (off := 0x60114 + 0x20 * b) (v := g + 1))))
theorem lineArrive {g} : (s.lineArrive g).Bounded := .ite h.same h.same
theorem arriveAt {b q cmd r v} (e : s.arriveAt b q cmd r = v) : v.state.Bounded := by
  subst e
  unfold State.arriveAt
  extract_lets tag cfg g central
  split
  · exact h
  · split
    · split
      · next u e => exact of_snd h.syncApply e
      · next u e => exact (of_snd h.syncApply e).noteArrival.lastTest
    · split
      · exact h.noteArrival.lineArrive
      · split
        · next u e => exact (of_snd h.trySync e).noteArrival
        · next u e => exact of_snd h.trySync e
        · next u e => exact of_snd h.trySync e
        · next u e => exact of_snd h.trySync e
theorem syncAnswer {i o st old} : (s.syncAnswer i o st old).Bounded := by
  unfold State.syncAnswer
  extract_lets s1 ok s2
  have h2 : s2.Bounded := .ite h.setStream.windowSub.raise h.setStream.windowSub
  split
  · exact .ite h2 (.ite (.ite h2.issued.hostsig h2.issued) h2.reject)
  · refine .ite h2.lastTest ?_
    split
    · exact h2.rejectLate
    · exact .ite h2.endWait.rejectBoth h2.raise
  · exact .ite h2 h2.rejectLate
  · exact h2

/-! Machine/Reply -/

theorem mringInvalid : s.mringInvalid.Bounded := h.same.raise
theorem ringTest {b} : (s.ringTest b).Bounded := .ite h.mringInvalid h
theorem bumpWord {a} : (s.bumpWord a).Bounded := h.writeDword
theorem placeReply {r} (room : s.replyRoom r.dest = true) : (s.placeReply r).Bounded := by
  have k : (if r.irq || r.notice then s.interrupt 4 else s).Bounded := .ite h.interrupt h
  have hm : (if r.irq || r.notice then s.interrupt 4 else s).mgmt = s.mgmt := by split <;> rfl
  unfold State.placeReply
  extract_lets t b
  split
  · next e =>
    have hl : s.mgmt.replies.length < 2 := by simpa [State.replyRoom, e] using room
    refine k.withMgmt k.req_le ?_
    rw [List.length_append, List.length_singleton, hm]
    omega
  · exact .ite k.write.bumpWord.hostsig k.write.bumpWord
theorem placeGo {l held} : (placeGo l held s).2.Bounded := by
  induction l generalizing s held with
  | nil => exact h
  | cons r l ih =>
    have k : (if r.dest = .ring then s.ringTest s.rspBase else s).Bounded := .ite h.ringTest h
    refine .ite_snd' (fun _ => ih k) fun hr => ih (k.placeReply ?_)
    simp only [Bool.or_eq_true, not_or, Bool.not_eq_true', Bool.not_eq_false] at hr
    exact hr.2
theorem placeReplies : s.placeReplies.Bounded := h.placeGo.same
theorem answer {p status off code notice pay} : (s.answer p status off code notice pay).Bounded :=
  .placeReplies (.same (.blotter (.ite h h.setCtr)))
theorem served1 : s.served1.Bounded := h.same
theorem ok {p pay} : (s.ok p pay).Bounded := h.served1.answer
theorem refuse {p status off code} : (s.refuse p status off code).Bounded := h.served1.answer
theorem takePacket {src ws bad} : (s.takePacket src ws bad).Bounded := by
  unfold State.takePacket
  extract_lets
  split
  · exact h.setCtr.same.answer
  · exact h.setCtr.same.same
theorem takeMail : s.takeMail.Bounded := by
  unfold State.takeMail
  split
  · exact h
  · exact .ite h h.same.takePacket
theorem accept {p d pay} : (s.accept p d pay).Bounded := h.same.ok
theorem complete {status off code pay} : (s.complete status off code pay).Bounded := by
  unfold State.complete
  split
  · exact h.same.answer
  · exact h

/-! Machine/Flacon -/

theorem flTouch {form a n} : (s.flTouch form a n).Bounded := .count (.ite h.touch h)
theorem flFree : s.flFree.Bounded := by
  unfold State.flFree
  split
  · exact .ite h.same.setStream h
  · exact h
theorem flPlace : BoundedOption (s.flPlace) := by
  unfold State.flPlace
  split
  · exact .none
  · next w t _ =>
    extract_lets n lines seat waits go
    have placed {i cls vc g f} : BoundedOption (go i cls vc g f) :=
      have hu : ((s.setStream i .flacon).windowAdd g lines.length).Bounded := h.setStream.windowAdd
      .ite (.some (.send (.count (.count (.count hu.same))))) .none
    clear_value go seat
    refine .ite .none ?_
    split
    · exact .none
    · refine .ite placed ?_
      split
      · exact placed
      · exact .none
theorem flPlaceGo {n} : (flPlaceGo n s).Bounded := by
  induction n generalizing s with
  | zero => exact h
  | succ n ih =>
    unfold Machine.flPlaceGo
    split
    · next t ht => exact ih (h.flPlace _ ht)
    · exact h
theorem flMiss : s.flMiss.Bounded := by
  unfold State.flMiss
  split
  · exact h
  · refine .ite h ?_
    split
    · next e => exact (h.miss _ e).same
    · exact h
theorem flPump : s.flPump.Bounded := h.flPlaceGo.flMiss.flFree
theorem flAnswer {la len st} : (s.flAnswer la len st).Bounded := by
  unfold State.flAnswer
  extract_lets hit
  clear_value hit
  split
  · exact h
  · next q =>
    have hu : (s.windowSub q.group 1).Bounded := h.windowSub
    exact .ite (.flFree (.count hu.same)) (.flFree hu.same)
theorem flTimeout : s.flTimeout.Bounded := .ite h h.same
theorem flExpire : s.flExpire.Bounded := .ite h (.flFree (.same (.foldl (fun _ h => h.windowSub) h)))
theorem flRefuse {x} : (s.flRefuse x).Bounded := by
  unfold State.flRefuse
  split
  · exact h
  · exact .ite h.same.flFree h
theorem flWrite {form a chunk src bs bad} : (s.flWrite form a chunk src bs bad).2.Bounded :=
  .ite_snd h (.ite_snd (.ite_snd h.write h) (.ite_snd h h.same))
theorem entryStored {i e} : (s.entryStored i e).Bounded := .ite h.same.raise.orReg h.same
theorem setWindow {base n v} : (s.setWindow base n v).Bounded := .foldl (fun _ h => h.setReg) h
theorem registryWrite : s.registryWrite.Bounded := by
  unfold State.registryWrite
  extract_lets i e c1 c2
  clear_value c2
  split
  · exact h.raise.setRegFld
  · exact h.entryStored.setRegFld
theorem registryRead : s.registryRead.Bounded := h.setWindow
theorem setGt {i e} : (s.setGt i e).Bounded := h.same
theorem gtRefuse {i c} : (s.gtRefuse i c).Bounded := h.raise.setRegFld
theorem gtWrite : s.gtWrite.Bounded := by
  unfold State.gtWrite
  extract_lets
  split
  · exact h.gtRefuse
  · exact h.setGt.setRegFld
theorem gtRead : s.gtRead.Bounded := h.setWindow
theorem setCvuHold {c h'} : (s.setCvuHold c h').Bounded := h.same
theorem cvuAbsorb {c bs} : (s.cvuAbsorb c bs).Bounded := h.setCtr.count
theorem cvuInit {c} : (s.cvuInit c).Bounded := h.setCtr
theorem cvuWriteCfg {c v} : (s.cvuWriteCfg c v).Bounded := .ite h (.ite h.setReg.cvuInit h.setReg)
theorem setXfers {ch l} : (s.setXfers ch l).Bounded := h.same
theorem putXfer {x} : (s.putXfer x).Bounded := h.setXfers
theorem flaconTake : BoundedPair (s.flaconTake) := by
  unfold State.flaconTake
  split
  · exact .some h
  · exact .ite .none (.some h.setCvuHold.setReg.setCtr.setCtr.setCtr.cvuInit)
theorem flaconRelease : s.flaconRelease.Bounded := h.same
theorem digest {c bs} : (s.digest c bs).2.Bounded := h.cvuInit.cvuAbsorb
theorem formSlices {r e b t w q late form a chunk src} : (s.formSlices r e b t w q late form a chunk src).2.Bounded :=
  .foldl_snd (fun _ h => h.same.count.flWrite) h
theorem snapSkip : s.snapSkip.Bounded := h.count.orReg
theorem advanceWord {a g} : (s.advanceWord a g).Bounded := h.syncApply
theorem snapBegin {byOp} : (s.snapBegin byOp).Bounded := by
  refine .ite h.snapSkip ?_
  extract_lets g s1 s2 s3 valid todo n y s4
  have h3 : s3.Bounded := .advanceWord (.ite h.setReg.write h.setReg)
  clear_value s3
  have h4 : s4.Bounded := h3.same
  clear_value s4
  split
  · next p e => exact h4.flaconTake _ e
  · exact h4
theorem endTrigger : s.endTrigger.Bounded := .ite h.same.snapBegin h.same
theorem setSnap {n} : (s.setSnap n).Bounded := h.same
theorem drainDone {n} : (s.drainDone n).Bounded := h.setSnap
theorem manHeader {n e} : (s.manHeader n e).Bounded := .ite h.flWrite.flPump.setSnap h.flWrite.flPump.drainDone
theorem manRecords {n e} : (s.manRecords n e).Bounded := .ite h.flWrite.flPump.setSnap h.flWrite.flPump.manHeader
theorem chunkEnd {n i k} : (s.chunkEnd n i k).Bounded :=
  .ite (.setSnap (.ite h.same.raise h.same)) (.manRecords (.ite h.same.raise h.same))
theorem chunkFormed {n i k} : (s.chunkFormed n i k).Bounded := .ite h.flPump.setSnap h.flPump.chunkEnd
theorem drainOwn {r c n i} : (s.drainOwn r c n i).Bounded := .chunkFormed (.ite_snd h.same.flTouch.digest.flWrite h.same.flTouch.digest)
theorem drainParity {r c n i} : (s.drainParity r c n i).Bounded := .ite h h.formSlices.digest.chunkFormed
theorem drainStep {r c n i} : (s.drainStep r c n i).Bounded := by
  unfold State.drainStep
  split
  · exact h.chunkEnd
  · exact .ite h.drainDone (.ite h.manHeader (.ite h.drainOwn (.ite h.drainParity h.manRecords)))
theorem rebuildChunk {r c i b g n want} : (s.rebuildChunk r c i b g n want).2.Bounded := by
  unfold State.rebuildChunk
  extract_lets
  split
  · exact h.raise
  · exact .ite_snd (.ite h.digest.flWrite.count h.digest.flWrite) h.digest.flWrite.raise
theorem verifyChunk {r c i b g ds t n} : (s.verifyChunk r c i b g ds t n).2.Bounded := by
  unfold State.verifyChunk
  extract_lets e k want got s1 d s2 q
  have h1 : s1.Bounded := h.flTouch
  clear_value got s1
  have hd : d.2.Bounded := by
    cases got with
    | none => exact h1
    | some p => exact h1.digest
  have hq : q.2.Bounded := of_eq hd.raise.count.rebuildChunk rfl
  exact .ite_pair hd hq
theorem restoreChunk {r c i b g ds t n} : (s.restoreChunk r c i b g ds t n).2.Bounded := h.rebuildChunk
theorem loadRecord : s.loadRecord.Bounded := by
  unfold State.loadRecord
  extract_lets a w slots gt s1 s2
  have h2 : s2.Bounded := h.touch.setCtr.setReg.setReg.setReg.setReg.setReg
  clear_value s2 slots gt
  exact .same (h2.setReg (off := 0x8000C) (v := w 0))
theorem restored {mode i g t status code} : (s.restored mode i g t status code).Bounded := h.same.flPump
theorem restoreRun {r mode i g c} : (s.restoreRun r mode i g c).Bounded := by
  unfold State.restoreRun
  extract_lets e mform s0
  have h0 : s0.Bounded := h.flTouch
  split
  · exact h0.raise.restored
  · extract_lets one q s1 bad
    have hq : q.2.Bounded := of_eq (.foldl_snd (fun _ h => .ite_snd h.restoreChunk h.verifyChunk) h0) rfl
    have h1 : s1.Bounded := .ite hq.orReg hq
    exact .ite h1.restored (.ite (.ite h1.loadRecord.restored h1.restored) h1.restored)
theorem restoreOp {r mode p} : (s.restoreOp r mode p).Bounded := by
  refine .ite h.refuse (.ite h.refuse (.ite h.refuse (.ite h ?_)))
  split
  · exact h
  · next e => exact (h.flaconTake _ e).same.restoreRun.accept
omit h in
theorem restoreLost {n p} (h : p.2.Bounded) : (State.restoreLost p n).2.Bounded := h.raise

/-! Machine/Arith -/

theorem setLane {r i w} : (s.setLane r i w).Bounded := h.same
theorem setPacked {r i c} : (s.setPacked r i c).Bounded := h.setLane
theorem setSum {i v} : (s.setSum i v).Bounded := h.same
theorem redInit {r} : (redInit r s).Bounded := .ite h.setSum h
theorem redAbsorb {r l} : (redAbsorb r l s).Bounded := h.setSum

/-! Machine/Vector -/

omit h in
theorem drainBeat {d b rest} (h : s.Bounded) : (drainBeat d b rest s).Bounded := by
  unfold Machine.drainBeat
  extract_lets o still cb r0 m d0 dst k ka kall dc0 s1 boxIn touch s2 uses s3 s3a s3b lanes mine els out s4 s4a s5 s6 tap s7
  have touched {r : Option TRef} {one : Bool} {u : State} (hu : u.Bounded) : (touch r one u).Bounded := by
    cases r with
    | none => exact hu
    | some r => exact hu.touchBox
  have h1 : s1.Bounded := .foldl (fun _ h => h.accCheck) h.count.count
  have h2 : s2.Bounded := touched (touched (touched (touched h1)))
  have h3 : s3.Bounded := .ite h2 h2.count
  have h3a : s3a.Bounded := by
    simp only [s3a]
    split
    · exact h3.count
    · exact h3
  have h3b : s3b.Bounded := by
    simp only [s3b]
    split
    · exact .ite h3a h3a.count
    · exact h3a
  have h4 : s4a.Bounded := h3b.storeElems.noteNonfinite
  have h5 : s5.1.Bounded := by
    simp only [s5]
    split
    · exact h4
    · exact h4.storeElems.noteNonfinite
  have h7 : s7.Bounded := .foldl (fun _ h => h.redAbsorb) h5.raiseFlags.noteNonfinite
  exact h7.same

/-! Machine/Row -/

theorem vecWrite {req eng r vs} : (vecWrite req eng r vs s).Bounded := .ite (.foldl (fun _ h => h.writeRun) h) h.storeElems
theorem vecAccum {r adds} : (vecAccum r adds s).Bounded := by
  unfold Machine.vecAccum
  split
  · exact h
  · exact h.touchBox.raiseFlags.vecWrite
omit h in
theorem rowRun {r j p} (h : p.1.Bounded) : (rowRun r j p).1.Bounded := by
  unfold Machine.rowRun
  extract_lets o s0 n row xs x2 g b fac fac2 vals uses i res touchRow touchStat rows s1 s2 s3 t els out s4 s5 s6 s7
  have touched (t : Option TRef) (vec : Bool) {u : State} (hu : u.Bounded) : (touchRow t vec u).Bounded := by
    cases t with
    | none => exact hu
    | some t => exact hu.touchBox
  have noted (t : Option TRef) {u : State} (hu : u.Bounded) : (touchStat t u).Bounded := by
    cases t with
    | none => exact hu
    | some t => exact hu.touch
  have h1 : s1.Bounded := touched o.beta true (touched o.gamma true (.foldl (fun _ hu => touched o.x2 false (touched (some o.x) false
    hu)) h))
  have h3 : s3.Bounded := .raiseFlags (.ite (noted o.stat2 (noted o.stat h1)) h1)
  have h4 : s4.Bounded := .storeElems (.ite h3.count h3)
  have h5 : s5.Bounded := by
    simp only [s5]
    split
    · exact .ite h4.write h4
    · exact h4
  have h6 : s6.Bounded := .ite h5.vecAccum h5
  have h7 : s7.Bounded := .ite h6.vecAccum h6
  exact h7.count.count

/-! Machine/Slots -/

theorem clearCounters {off} : (s.clearCounters off).Bounded := h.same

/-! Machine/Update -/

theorem updWrite {r i j v} : (updWrite r i j v s).Bounded := .ite h.writeRun h.storeElems
theorem updCopy {p i j} : (updCopy p i j s).Bounded := .ite h h.writeRun
theorem updElem {r e} : (updElem r e s).Bounded := by
  unfold Machine.updElem
  extract_lets o i j box touch x s1 n s2 s3 s4 s5
  have touched : (touch s).Bounded := .foldl (fun _ h => h.touchBox) h
  have h1 : s1.Bounded := touched.touchBox
  have h2 : s2.Bounded := h1.raiseFlags
  have h3 : s3.Bounded := by
    simp only [s3]
    split
    · exact h2.updWrite.updWrite
    · exact h2.updWrite
  have h4 : s4.Bounded := by
    simp only [s4]
    split
    · exact h3.updWrite
    · exact h3
  have h5 : s5.Bounded := by
    simp only [s5]
    split
    · exact .ite h4.updWrite h4
    · exact h4
  exact .ite (.foldl (fun _ h => h.updCopy) (.ite touched h)) (.ite (.raiseFlags (.count (.foldl (fun _ h => h.updCopy) h1))) h5.count)
theorem sweepTouch {o} : (sweepTouch o s).Bounded := .foldl (fun _ h => h.touchBox) h
theorem addSum {i l} : (addSum i l s).Bounded := h.setSum
theorem sumsOnly {r} : (sumsOnly r s).Bounded :=
  .ite h (.addSum (.addSum (.ite h.sweepTouch.raiseFlags h.sweepTouch.raiseFlags.count.raiseFlags)))
theorem launch {b c} : (s.launch b c).Bounded := h.syncApply.orReg.count
omit h in
theorem bktRun {c b go} {f : State → State} (hf : ∀ {u : State}, u.Bounded → (f u).Bounded) (h : s.Bounded) : (bktRun c b go f s).Bounded :=
  .issueOr (fun h => hf (.ite h.launch h)) h

/-! Machine/Dma -/

theorem dropXfer {x} : (s.dropXfer x).Bounded := by
  unfold State.dropXfer
  extract_lets s1 s2 s3
  have h1 : s1.Bounded := .foldl (fun _ h => h.windowSub) h
  have h2 : s2.Bounded := by
    simp only [s2]
    split
    · exact h1.setStream
    · exact h1
  exact .setXfers (.ite h2.setCvuHold h2)
theorem endXfer {x r} : (s.endXfer x r).Bounded := h.dropXfer.rejectLate
theorem failXfer {x} : (s.failXfer x).Bounded := by
  unfold State.failXfer
  split
  · exact h
  · exact .ite h h.orReg.endXfer
theorem errXfer {x st} : (s.errXfer x st).Bounded := by
  unfold State.errXfer
  exact h.putXfer.failXfer
theorem finishXfer {x} : (s.finishXfer x).Bounded := .dropXfer (.ite h.setRegFld.orReg h.setRegFld)
theorem fireSignal {x} : (s.fireSignal x).Bounded := by
  unfold State.fireSignal
  extract_lets d s1 y held g rwr sigx
  have h1 : s1.Bounded := by
    simp only [s1]
    split
    · exact h.setStream
    · exact h
  refine .ite h.finishXfer (.ite h.syncApply.finishXfer (.ite (.ite h1.putXfer ?_) (.ite h.finishXfer h.send.finishXfer)))
  split
  · next e => exact (of_snd h1.trySync e).finishXfer
  · next e => exact (of_snd h1.trySync e).putXfer
  · next e => exact (of_snd h1.trySync e).putXfer
  · next e => exact (of_snd h1.trySync e).endXfer
theorem startXfer {c ch d src dst sAddr dAddr} : (s.startXfer c ch d src dst sAddr dAddr).Bounded :=
  .ite h.setXfers.fireSignal (.ite (.ite h.setXfers.setCvuHold h.setXfers.setCvuHold.cvuInit) h.setXfers)
theorem touchLocal {x run a e0 e1} : (s.touchLocal x run a e0 e1).Bounded := .ite h (.ite h.touchBy h.touchBy.touchBy)
theorem noteMoved {x st} : (s.noteMoved x st).Bounded := by
  unfold State.noteMoved
  extract_lets s1
  have h1 : s1.Bounded := .foldl (fun _ h => .ite h.gather h.gather.telemetry.raiseFlags) h
  exact .ite h1.count h1
theorem landCodes {d w e0 codes} : (s.landCodes d w e0 codes).Bounded := .ite h h.write
theorem landEls {x row d base r es} : (s.landEls x row d base r es).2.Bounded := by
  unfold State.landEls
  extract_lets m w bs sc s1 runs s2 s3 bad s4 bits s5 buf
  have h3 : s3.Bounded := .foldl (fun _ h => h.write) (.foldl (fun _ h => h.landCodes) h.noteMoved)
  exact .count (.ite h3 h3.poisonBytes)
theorem reachFabric {v write keep x} : (s.reachFabric v write keep x).2.Bounded := by
  unfold State.reachFabric
  extract_lets go cached
  generalize cached = cached
  split
  · exact h
  · refine .ite_snd h ?_
    split
    · exact .ite h h.count
    · split
      · next e => exact h.miss _ e
      · exact h
theorem reach {peer v write keep x} : (s.reach peer v write keep x).2.Bounded := by
  unfold State.reach
  split
  · exact h
  · exact h.reachFabric
theorem placeRead {x ep route addr group laddr len q} : (s.placeRead x ep route addr group laddr len q).Bounded :=
  h.putXfer.windowAdd.count.sendRead
theorem placeIn {x} : (s.placeIn x).Bounded := by
  unfold State.placeIn
  extract_lets a a' n sw begins completes la
  refine .ite h ?_
  split
  · next e => exact (of_snd h.reach e).putXfer
  · rename_i y u e
    have hu : (u.putXfer y).Bounded := (of_snd h.reach e).putXfer
    exact .ite hu.placeRead hu
theorem placeOut {x} : (s.placeOut x).Bounded := by
  unfold State.placeOut
  extract_lets a pay v n lines dw e0 e1 last vc flits
  split
  · next e => exact (of_snd h.reach e).putXfer
  · rename_i y u e
    have hu : (u.putXfer y).Bounded := (of_snd h.reach e).putXfer
    exact .ite hu.touchLocal.noteMoved.putXfer.windowAdd.count.count.send hu
theorem moveLocal {x} : (s.moveLocal x).Bounded := by
  refine .ite (.putXfer (.foldl_snd (fun _ h => ?_) (.count (.count (.foldl (fun _ h => h.touchLocal) h))))) h.touchLocal.landEls.putXfer
  exact .count (.ite (.foldl (fun _ h => h.write) h.noteMoved.landCodes) (.poisonBytes (.foldl (fun _ h => h.write)
    h.noteMoved.landCodes)))
theorem placeWord {x what v len laddr} : (s.placeWord x what v len laddr).Bounded := by
  unfold State.placeWord
  split
  · next e => exact (of_snd h.reach e).putXfer
  · next e =>
    have hu := of_snd h.reach e
    exact .ite hu.placeRead hu.putXfer
theorem guardBytes {c} : (s.guardBytes c).2.Bounded := h.setReg
theorem placeGuard {x} : (s.placeGuard x).Bounded := by
  unfold State.placeGuard
  extract_lets v flits
  split
  · next e => exact (of_snd h.reach e).putXfer
  · next e =>
    have hu := of_snd h.reach e
    exact .ite hu.guardBytes.putXfer.windowAdd.count.count.send hu.putXfer
theorem placeData {x} : (s.placeData x).Bounded := by
  unfold State.placeData
  extract_lets seat
  have hseat : BoundedPair seat := by
    refine .ite (.some h) fun p e => ?_
    obtain ⟨i, -, rfl⟩ := Option.map_eq_some_iff.mp e
    exact h.setStream.putXfer
  clear_value seat
  split
  · exact h
  · rename_i y u
    have hu : u.Bounded := hseat _ rfl
    extract_lets y' v z w a f
    have hv : v.2.2.Bounded := by
      simp only [v]
      split
      · exact hu
      · split
        · exact .ite hu hu.placeWord
        · exact hu.touchBy.putXfer
    have hf : BoundedPair f := by
      refine .ite (.some hv) ?_
      split
      · exact .none
      · exact .some (.putXfer hv.same)
    clear_value f
    refine .ite hv ?_
    split
    · exact hv
    · have ht := hf _ rfl
      refine .ite (.ite ?_ ht) (.ite ht.moveLocal (.ite ht.placeIn ht.placeOut))
      cases formatUnsupported 6 with
      | none => exact ht
      | some r => exact ht.endXfer
theorem takeRx {i op} : BoundedPair (s.takeRx i op) := by
  unfold State.takeRx
  extract_lets
  split
  · exact .none
  · exact .ite .none (.some h.setInLane)
theorem flitInvalid {i} : (s.flitInvalid i).Bounded := .ite h.count.same h.count.same.raise.setInLane
theorem landBytes {x q bs bad} : (s.landBytes x q bs bad).2.Bounded := h.landEls
theorem answerXfer {x la len st bs} : (s.answerXfer x la len st bs).Bounded := by
  unfold State.answerXfer
  split
  · exact h
  · exact .ite h.windowSub.count.putXfer.failXfer (.ite h.windowSub.errXfer (.failXfer (.putXfer (.ite_snd (.ite h.windowSub.raise
    h.windowSub) (.ite_snd (.ite h.windowSub.raise h.windowSub) (.ite_snd (.landBytes (.ite h.windowSub.raise h.windowSub)) (.ite
    h.windowSub.raise h.windowSub)))))))
theorem respSlot {v bs} : (s.respSlot v bs).Bounded := by
  refine .ite h ?_
  split
  · exact h.count.raise
  · exact h.count
  · exact .ite h.setStream.windowSub.count h.syncAnswer
  · exact h.flAnswer
  · split
    · exact h
    · exact h.answerXfer
theorem closeLocal {x} : (s.closeLocal x).2.Bounded := by
  unfold State.closeLocal
  extract_lets d g p y
  have hg : g.2.Bounded := of_eq h.guardBytes rfl
  have hw : (g.2.write 5 (s.guardAddr d) g.1).Bounded := hg.write
  have hp : p.2.Bounded := .ite_snd hw (.ite_pair h.touchBy h)
  have ht : (p.2.touchBy (x.reader 7) (dVerAddr d) 8).Bounded := hp.touchBy
  exact .ite_snd ht hp
theorem guardCheck {x} : (s.guardCheck x).2.Bounded := .ite_snd h (.ite_snd h.orReg.count (.ite_snd h.orReg.count h.setReg))
theorem trackPrefetch {x} : (s.trackPrefetch x).Bounded := by
  unfold State.trackPrefetch
  extract_lets r e s1
  have h1 : s1.Bounded := h.count
  clear_value s1
  refine .ite h ?_
  split
  · exact .ite (.count h1.same) h1.same
  · exact h1.same
theorem completeXfer {x} : (s.completeXfer x).Bounded := by
  refine .ite h.fireSignal ?_
  extract_lets p y z
  have hp : p.2.Bounded := h.closeLocal
  split
  · next e => exact (of_snd hp.guardCheck e).endXfer
  · next u e =>
    have hu : u.Bounded := of_snd hp.guardCheck e
    extract_lets t
    have ht : t.Bounded := .ite hu.count.orReg hu
    exact .ite ht.endXfer ht.putXfer.trackPrefetch.fireSignal
theorem faultWrite {x} : BoundedOption (s.faultWrite x) := by
  intro t ht
  obtain ⟨a, -, rfl⟩ := Option.map_eq_some_iff.mp ht
  exact h.touchBy.write.syncApply.putXfer.raise.count
theorem resumeInvalid {stream} : (s.resumeInvalid stream).Bounded := by
  unfold State.resumeInvalid
  extract_lets live
  clear_value live
  split <;> exact h.raise
theorem streamResume {stream} : (s.streamResume stream).Bounded := by
  unfold State.streamResume
  split
  · exact h.resumeInvalid
  · exact .putXfer h.same
theorem streamAbort {stream} : (s.streamAbort stream).Bounded := by
  unfold State.streamAbort
  split
  · exact h.resumeInvalid
  · exact .endXfer h.same
theorem atcInv : s.atcInv.Bounded := h.same
theorem refuseXfer {st perm x} : (s.refuseXfer st perm x).Bounded := .ite h.putXfer h.errXfer
theorem refuseHeads {i st} : (s.refuseHeads i st).Bounded := by
  unfold State.refuseHeads
  extract_lets r one s1 y s2
  have refused {q : Nat} {u : State} (hu : u.Bounded) : (one u q).Bounded := by
    simp only [one]
    split
    · exact .ite hu.reject hu
    · exact hu
  have h1 : s1.Bounded := .foldl (fun _ => refused) h
  clear_value s1
  have h2 : s2.Bounded := h1.same
  refine .ite ?_ h1
  split
  · exact h2.rejectBoth
  · exact h2

/-! Machine/Fence -/

theorem emptyQueues : s.emptyQueues.Bounded := h.same
theorem stopDispatch : (s.stopDispatch).Bounded := .settleCredits (h.withCc (Nat.zero_le _))
theorem overtake : s.overtake.Bounded := by
  unfold State.overtake
  split
  · exact h
  · exact .complete (.ite (.flaconRelease (.ite h.same.same h.same)) (.ite h.same.same h.same))
theorem dropActive : s.dropActive.Bounded := h.same
theorem fenceDone {cause} : (s.fenceDone cause).Bounded := h.dropActive.same.setCore.setFence.interrupt

/-! Machine/Port -/

theorem outDown {i} : (s.outDown i).Bounded := h.setOutLane.raise
theorem inDown {i} : (s.inDown i).Bounded := h.setInLane.raise
theorem acked {i a} : (s.acked i a).Bounded := by
  unfold State.acked
  extract_lets
  split
  · exact h.setOutLane
  · exact h
theorem resend {i} : (s.resend i).Bounded := .ite h (.ite h.outDown h.setOutLane.setInLane.count)
theorem creditReturn {i vc n} : (s.creditReturn i vc n).Bounded := .ite h (.ite h.setOutLane.raise h.setOutLane)
theorem linkControl {i l} : (s.linkControl i l).Bounded := .pump (.ite h.acked.creditReturn.resend h.acked.creditReturn)
theorem portEnable : s.portEnable.Bounded := .ite h (.ite h.same.raise (.ite h.same.raise h.same))
theorem trained : s.trained.Bounded := .ite h (.pump (.same (.foldl (fun _ h => .ite h.setInLane h) h)))
theorem respond {ep stream st slots data} : (s.respond ep stream st slots data).Bounded := h.send
theorem windowWrite {a bs poison} : (s.windowWrite a bs poison).2.Bounded := by
  refine .ite_snd (.ite h.write.poisonBytes h.write) ?_
  split
  · exact .ite h.raise h
  · exact h
theorem ackSlots {echo len} : (s.ackSlots echo len).2.Bounded := .ite_snd (.ite_snd h.same h.same) h
theorem abandon {n i} : (s.abandon n i).Bounded := h.setStream.raise.count
theorem ledgerApply {n i} : (s.ledgerApply n i).Bounded := by
  unfold State.ledgerApply
  split
  · exact h
  · exact .ite h (.respond (.ite h.setStream.syncApply h.setStream))

/-! Machine/Power -/

theorem setPwr {p} (e : (p.n, p.nNext) = (s.pwr.n, s.pwr.nNext) := by rfl) : (s.setPwr p).Bounded := by
  obtain ⟨hn, hx⟩ := Prod.mk.injEq .. ▸ e
  exact ⟨h.mem, h.stores, by simpa only [State.PointOk, State.setPwr, hn, hx] using h.point⟩
theorem vfUserWrite {p v} : (s.vfUserWrite p v).Bounded := .ite h h.setReg
theorem ageWrite {nmax v} : (s.ageWrite nmax v).Bounded := .ite (.ite h.setRegFld h) (.ite h.setReg h)
theorem pwrModeWrite {v} : (s.pwrModeWrite v).Bounded := .ite h.setReg h
omit h in
theorem skipping {f : State → State} (hf : ∀ {u : State}, u.Bounded → (f u).Bounded) (h : s.Bounded) : (skipping f s).Bounded :=
  .ite (hf h).setPwr.count (hf h)
theorem droopReport {det} : (s.droopReport det).Bounded :=
  .ite (.count (.raise (.ite h.setPwr.count h.setPwr))) (.ite h.setPwr.count h.setPwr)
theorem droopAll : s.droopAll.Bounded := .ite (.skipping (fun h => .foldl (fun _ h => h.droopReport) h) h) h
theorem window16 : s.window16.Bounded := by
  refine .ite (.setPwr ?_) ?_
  · split
    · exact h.setCtr.count.count.count
    · exact h.setCtr.count.count
  · split
    · exact h.setCtr.count.count.count
    · exact h.setCtr.count.count
theorem modeTake : s.modeTake.Bounded := h.setPwr
theorem loseSram : (s.loseSram).Bounded := .same (h.withMem (Tab.wf_filter memDefault _ _ h.mem))

/-! Machine/Mailbox -/

theorem setOverrun : s.setOverrun.Bounded := h.same
theorem mboxReqWrite {v} : (s.mboxReqWrite v).Bounded := by
  refine .ite' (fun _ => h.setOverrun.raise) fun hl => h.withMgmt ?_ h.replies_le
  rw [List.length_append, List.length_singleton]
  omega
theorem mboxSubmit : (s.mboxSubmit).Bounded := .ite h.setOverrun (.takeMail (h.withMgmt (Nat.zero_le _) h.replies_le))
theorem mboxDiscard : (s.mboxDiscard).Bounded := h.withMgmt (Nat.zero_le _) h.replies_le
theorem mboxRspRead : s.mboxRspRead.2.Bounded := by
  have tail {l : List Word} {t : List (List Word)} (e : s.mgmt.replies = l :: t) : t.length ≤ 1 := by
    have hr := h.replies_le
    rw [e, List.length_cons] at hr
    omega
  have left {l : List (List Word)} (hl : l.length ≤ 2) : { s with mgmt := { s.mgmt with replies := l } }.Bounded :=
    h.withMgmt h.req_le hl
  unfold State.mboxRspRead
  split
  · exact h
  · next e => exact left ((tail e).trans one_le_two)
  · next e => exact (left ((tail e).trans one_le_two)).placeReplies.takeMail
  · next e => exact left (Nat.succ_le_succ (tail e))
theorem mringStart : s.mringStart.Bounded := .ite h.touch.touch.same.placeReplies.takeMail h.touch.touch.mringInvalid
theorem mringCfgWrite {v} : (s.mringCfgWrite v).Bounded := by
  have off : (s.setRegFld 0x01010 31 1 0).Bounded := h.setRegFld
  have on : (s.setReg 0x01010 (mringCfg v)).Bounded := h.setReg
  exact .ite (.ite h (off.withMgmt h.req_le h.replies_le)) (.ite on.mringStart on)
theorem mringErrClear : s.mringErrClear.Bounded := .ite h (.ite h.same.mringStart h.same)
theorem mringTake : s.mringTake.Bounded :=
  .ite (.ite h.touch h) (.ite (.mringInvalid (.ite h.touch h)) (.ite (.raise (.same (.ite h.touch h))) (.ite (.ite h.touch h) (.ite
    (.takeMail (.ite h.touch h)) (.takeMail (.takePacket (.bumpWord (.touch (.ite h.touch h)))))))))

/-! Machine/Regs -/

theorem setSumReg {i v} : (s.setSumReg i v).Bounded := h.same
theorem regRead {off0} : (s.regRead off0).2.Bounded := by
  refine .ite_snd h.mboxRspRead (.ite_snd h (.ite_snd h.same (.ite_snd ?_ h)))
  split
  · exact h.same
  · exact h
theorem readOut {off} : (s.readOut off).Bounded := h.regRead.same
theorem putMasked {off mask v} : (s.putMasked off mask v).Bounded := h.setReg
theorem putPair {off v} : (s.putPair off v).Bounded := by
  unfold State.putPair
  extract_lets lo
  exact .ite h.same (.same (h.setCtr (off := off - 4) (v := mk64 v lo)))
theorem mgmtPut {off v} : (s.mgmtPut off v).Bounded := by
  unfold State.mgmtPut
  split
  · exact .ite h.same h
  · exact .ite (.mboxDiscard (.ite h.mboxSubmit h)) (.ite h.mboxSubmit h)
  · exact h.mboxReqWrite
  · exact h.mringCfgWrite
  · exact .ite h h.setReg
  · exact .ite h h.setReg
  · exact .ite h.mringErrClear h
  · exact h
theorem pwrPut {off v} : (s.pwrPut off v).Bounded := by
  unfold State.pwrPut
  split
  · exact h.pwrModeWrite
  · exact h.putMasked
  · exact h.clrReg
  · exact .ite h.putMasked h
  · exact h.putMasked
  · exact h.putMasked
  · exact .ite h.putMasked h
  · exact h.ageWrite
  · exact h.ageWrite
  · exact h.putMasked
  · exact .ite h.vfUserWrite h
theorem errPop {n} : (s.errPop n).Bounded :=
  have hl : (s.logs.errs.drop n).length ≤ 512 := List.length_drop.trans_le ((Nat.sub_le _ _).trans h.errs_le)
  h.withLogs hl h.blot_le
theorem errClear : (s.errClear).Bounded := h.withLogs (Nat.zero_le _) h.blot_le
theorem intPut {off v} : (s.intPut off v).Bounded := by
  unfold State.intPut
  split
  · exact h.clrReg
  · exact h.putMasked
  · exact .ite h.errClear (.ite h.errPop h)
  · exact h.putMasked
  · exact h
theorem ccPut {off v} : (s.ccPut off v).Bounded := by
  unfold State.ccPut
  split
  · exact h.putMasked
  · exact h.clrReg
  · exact .ite (.skipExe (.ite h.skipAcc h)) (.ite h.skipAcc h)
  · exact h.same
  · exact .ite h h.setReg
  · exact .ite h h.setReg
  · exact .ite h.ringErrClear h
  · exact h.putMasked
  · exact .ite h.tqBind (.ite h.setReg (.ite h.setReg (.ite h.putPair (.ite h.setReg h))))
theorem stillPut {off v} : (s.stillPut off v).Bounded := .ite h.clearFlags (.ite h.stillCfgWrite (.ite h.setReg h))
theorem slotPut {n o v} : (s.slotPut n o v).Bounded := by
  unfold State.slotPut
  split
  exacts [h.setSlot, h.setSlot, h.setFactor, h.setFactor, h.setSlot, h.setSlot, h.setSlot, h.setSlot, .ite h.setSlot h]
theorem scalePut {off v} : (s.scalePut off v).Bounded :=
  .ite h.slotPut (.ite (.foldl (fun _ h => .ite h.setSlot h) h) (.ite h.clearFlags h))
theorem sumPut {off v} : (s.sumPut off v).Bounded := by
  unfold State.sumPut
  split
  exacts [h.setSumReg, h, h.setSumReg]
theorem engPut {off v} : (s.engPut off v).Bounded := by
  unfold State.engPut
  split
  · exact h.putMasked
  · exact .ite h h.setReg
  · exact .ite h h.setReg
  · exact h.setReg
  · exact .same (h.putMasked (off := 0x4300C) (mask := 1) (v := v))
  · exact h.setReg
  · exact .ite h.putMasked h
  · exact h.setCtr
  · exact h.setCtr
  · exact h.clrReg
  · refine .ite h.sumPut (.ite (.ite h.same h) (.ite h.setSumReg (.ite ?_ h)))
    split
    exacts [h.setReg, h.setReg, h.clrReg, h]
theorem dmaPut {off v} : (s.dmaPut off v).Bounded := by
  unfold State.dmaPut
  split
  · exact h.setReg
  · exact .ite h h.setReg
  · exact .ite h h.setReg
  · exact .ite h.streamResume (.ite h.streamAbort h)
  · exact .ite h h.setReg
  · exact .ite h.atcInv h
  · exact h.putMasked
  · exact h.putMasked
  · exact .ite h.clrReg h
theorem barPut {b o v} : (s.barPut b o v).Bounded := by
  refine .ite h ?_
  split
  exacts [h.setReg, h.setReg, h.setReg, h.setReg, h.setReg, h.setReg, h]
theorem syncPut {off v} : (s.syncPut off v).Bounded := by
  unfold State.syncPut
  split
  · exact h.setReg
  · exact h.setReg
  · exact .ite h.clrReg h
  · exact h.clrReg
  · exact h.setReg
  · exact h.setReg
  · exact h.setReg
  · exact .ite h.setReg.watchArm h.setReg
  · exact .ite h.barPut (.ite h.watchFree h)
theorem cvuPut {c o v} : (s.cvuPut c o v).Bounded := by
  unfold State.cvuPut
  split
  exacts [h.cvuWriteCfg, h.clrReg, h.putPair, h.putPair, h.putMasked, .ite h.putPair h]
theorem flaconPut {off v} : (s.flaconPut off v).Bounded := by
  unfold State.flaconPut
  split
  · exact h.setReg
  · exact h.clrReg
  · exact h.setReg
  · exact h.setReg
  · exact h.setReg
  · exact h.setReg
  · exact h.putMasked
  · exact h.putMasked
  · exact .ite (.registryRead (.ite h.registryWrite h)) (.ite h.registryWrite h)
  · exact h.putMasked
  · exact .ite (.gtRead (.ite h.gtWrite h)) (.ite h.gtWrite h)
  · exact h.putMasked
  · exact .ite h.setReg h
theorem dbgResume {t} : (s.dbgResume t).Bounded := .ite h.setDisp.settleCredits h
theorem blotClear : (s.blotClear).Bounded := h.withLogs h.errs_le (Nat.zero_le _)
theorem debugPut {off v} : (s.debugPut off v).Bounded := by
  refine .ite h ?_
  split
  · exact h.clrReg
  · exact .ite (.dbgResume (.ite h.dbgResume h)) (.ite h.dbgResume h)
  · exact h.putMasked
  · exact h.putMasked
  · exact .ite h.blotClear h
  · refine .ite ?_ h
    split
    exacts [h.setReg, h.setReg, h.setReg, h.setReg, h]
theorem portPut {off v} : (s.portPut off v).Bounded := by
  unfold State.portPut
  split
  exacts [.ite h.portEnable h, h.setReg, .ite h h.setReg, .ite h h.setReg, .ite h h.setReg, .ite h h.setReg, h]
theorem cntCtrlPut {off v} : (s.cntCtrlPut off v).Bounded := .ite h.putMasked.clearCounters h.putMasked
theorem regWrite {off0 v} : (s.regWrite off0 v).Bounded := by
  refine .ite h.cntCtrlPut ?_
  split
  · split
    exacts [h.mgmtPut, h.pwrPut, h.pwrPut, h.intPut, h]
  · exact h.ccPut
  · exact h.stillPut
  · exact h.scalePut
  · exact h.engPut
  · exact h.dmaPut
  · exact h.syncPut
  · exact .ite h.cvuPut h
  · exact h.flaconPut
  · exact h.debugPut
  · exact h.portPut
  · exact h

/-! Machine/Reset -/

theorem blockReset : (s.blockReset).Bounded := by
  unfold State.blockReset
  extract_lets nmax keep v y s1
  have h1 : s1.Bounded := by
    refine ⟨h.mem, ⟨h.errs_le, h.blot_le, h.req_le, h.replies_le, Nat.zero_le 512⟩, ?_⟩
    simp [State.PointOk, Pwr.coreReset, s1]
  exact h1.setRegFld
theorem coreReset : s.coreReset.Bounded := .ite h.blockReset.same h.blockReset.same.setCore
theorem pinReset : s.pinReset.Bounded := .coreReset (.ite h.fenceDone.complete h.overtake)
theorem setRing {base size} : (s.setRing base size).Bounded := h.setReg.setReg
theorem nextMode {c} : (s.nextMode c).Bounded := h.same.settleMode
theorem startStream : s.startStream.Bounded := h.same.ringHeader.nextMode

/-! Machine/Mgmt -/

theorem setValid {bank v} : (s.setValid bank v).Bounded := .ite h.same h.same
theorem setItem {c k v} : (s.setItem c k v).Bounded := .ite h.setX (.ite h.setCtxt (.ite h.setCtxt h.setCtxt))
theorem debugRegs {n a} : (State.debugRegs n a s).2.Bounded := by
  induction n generalizing s a with
  | zero => exact h
  | succ n ih => exact ih h.regRead
theorem debugPuts {l a} : (State.debugPuts l a s).Bounded := by
  induction l generalizing s a with
  | nil => exact h
  | cons v l ih => exact ih h.regWrite
theorem debugLocal {p a n} : (s.debugLocal p a n).Bounded := by
  refine .ite h.refuse ?_
  split
  · exact h.touch.refuse
  · exact h.touch.ok
theorem debugLocalPut {p a ws} : (s.debugLocalPut p a ws).Bounded := by
  refine .ite h.refuse ?_
  split
  · exact h.refuse
  · exact h.refuse
  · exact .ite h.raise.refuse h.write.ok
  · exact h.write.ok
theorem closeDebug : s.closeDebug.Bounded := by
  have freed {u : State} {a b : Disp} (hu : u.Bounded) : { u with cc := { u.cc with dispAcc := a, dispExe := b } }.Bounded := hu.same
  unfold State.closeDebug
  exact .dbgResume (.dbgResume (freed (.foldl (fun _ h => h.clrReg) h)))
theorem clearMem {lo hi} : (s.clearMem lo hi).Bounded := .watchMark (.same (h.withMem (Tab.wf_filter memDefault _ _ h.mem)))
theorem clearSmall : (s.clearSmall).Bounded := by
  have k : (s.clearMem 0x08000000 0x0C000000).Bounded := h.clearMem
  unfold State.clearSmall
  generalize s.clearMem 0x08000000 0x0C000000 = u at k ⊢
  exact .same (k.withLogs (l := { u.logs with blot := [] }) k.errs_le (Nat.zero_le _))
theorem clearSets {near stacked small} : (s.clearSets near stacked small).Bounded :=
  .ite (.clearSmall (.ite (.clearMem (.ite h.clearMem h)) (.ite h.clearMem h))) (.ite (.clearMem (.ite h.clearMem h)) (.ite h.clearMem h))

/-! Machine/Stills -/

theorem putAcc {i c m w} : (s.putAcc i c m w).Bounded := .same (h.withMem (putBytes_wf _ _ _ h.mem))
omit h in
theorem fillElem {isInt ovw k f i c r col p} (h : p.1.Bounded) : (fillElem isInt ovw k f i c r col p).1.Bounded :=
  .ite_fst (.ite h.putAcc h) h.putAcc
omit h in
theorem fillSlice {isInt ovw k f i rows tab c0 cols p} (h : p.1.Bounded) : (fillSlice isInt ovw k f i rows tab c0 cols p).1.Bounded := by
  unfold Machine.fillSlice
  extract_lets live s1 tile p1 full s2
  have h1 : (s1, p.2).1.Bounded := .ite h (.foldl (fun _ h => .foldl (fun _ h => .ite h.accCheck h) h) h)
  have hp : p1.1.Bounded := of_eq_fst (.foldl_fst (fun _ h => .foldl_fst (fun _ h => .ite_fst h.fillElem h) h) h1) rfl
  have h2 : s2.Bounded := .foldl (fun _ h => .foldl (fun _ h => h.putAcc) h) hp
  exact .ite_fst h1 (.ite_fst hp h2.same)
theorem fillStill {isInt f tab cols all i} : (fillStill isInt f tab cols all i s).Bounded :=
  .ite h (.stillFlags (.foldl_fst (fun _ h => h.fillSlice) h))
theorem countTransposer {c t lb} : (countTransposer c t lb s).Bounded := .ite h h.count.count
theorem fillReads {c t b} : (fillReads c t b s).Bounded := h.touchBox.countTransposer
theorem fillCounts {packed gate depth f tab all cols i} : (fillCounts packed gate depth f tab all cols i s).Bounded :=
  .ite (.count (.ite h.count.count h.count)) (.ite (.count (.count (.count (.ite h.count.count h.count)))) (.count (.count (.ite
    h.count.count h.count))))
theorem latchTile {t v} : (latchTile t v s).Bounded := by
  unfold Machine.latchTile
  split <;> exact .ite h.same h.same
theorem startRun {c t hs groups} : (startRun c t hs groups s).Bounded := .ite h.same h.same
theorem enterGroups {l} : (s.enterGroups l).Bounded := h.same
theorem fillEffect {c packed fs had} : (fillEffect c packed fs had s).Bounded := by
  unfold Machine.fillEffect
  split
  · exact h
  · next f tag _ =>
    extract_lets tgt p gate old k n groups t0 y data mask rows rows' cols tab hs tile s1 s2 s3 s4 s5 s6
    have h2 : s2.Bounded := .ite (.ite h (.foldl (fun _ h => h.fillReads) h)) (.fillReads (.ite h (.foldl (fun _ h => h.fillReads) h)))
    have h3 : s3.Bounded := by
      simp only [s3]
      split
      · exact h2.touch
      · exact h2
    have h5 : s5.Bounded := .foldl (fun _ h => h.fillCounts) (.foldl (fun _ h => h.fillStill) h3)
    have h6 : s6.Bounded := .ite h5 h5.latchTile
    have empty : (tgt.foldl (fun s i => Machine.fillCounts packed gate p.2 f (fun _ _ => true) [] [] i s) s).Bounded :=
      .foldl (fun _ h => h.fillCounts) h
    exact .ite (.same (empty.enterGroups (l := groups))) h6.enterGroups.startRun
theorem touchTable {f r} : (touchTable f r s).Bounded := by
  unfold Machine.touchTable
  split
  · exact .ite h.touch h
  · exact h
theorem issueFill {q c had} : (issueFill q c had s).Bounded := by
  unfold Machine.issueFill
  split
  · exact .ite h (.issueOr (fun h => h.fillEffect) h.touchTable)
  · split
    · exact h.issued
    · exact .ite h (.issueOr (fun h => h.fillEffect) h.touchTable)
  · exact h
theorem fanReject {q c f} : (fanReject q c f s).Bounded := h.reject
theorem fanFill {q c f} : (fanFill q c f s).Bounded := by
  refine .ite h.fanReject ?_
  split
  · exact h
  · split
    · exact .ite (.ite h (.ite h.reject (.ite h.reject h.issueFill.issueFill))) (.ite h h.fanReject)
    · exact .ite h h.fanReject
    · exact h
theorem fillHead {q c} : (fillHead q c s).Bounded := by
  unfold Machine.fillHead
  split
  · exact .ite h.fanFill (.ite h h.issueFill)
  · exact .ite h h.issueFill
  · exact h.issued
  · exact h

/-! Machine/Sys -/

omit h in
theorem powerOn (s : State) : s.powerOn.Bounded := by
  refine ⟨rfl, ⟨Nat.zero_le _, Nat.zero_le _, Nat.zero_le _, Nat.zero_le _, Nat.zero_le _⟩, ?_⟩
  simp [State.PointOk, State.powerOn, Pwr.reset]
theorem bootFail {code} : (s.bootFail code).Bounded := h.raise.same.setCore.takeMail
theorem idle : s.idle.Bounded := .ite h (.ite h.setCtr (.ite h.idleFlits h.idleFlits.window16))
theorem setWir {c} : (s.setWir c).Bounded := h.same
theorem flopReset : (s.flopReset).Bounded := ⟨h.mem, (powerOn s).stores, (powerOn s).point⟩
end State.Bounded
end Sys2Proof.Machine
end

section
/-! The same of the commands: every meaning, exec, and the step (O59). -/

set_option Elab.async false

namespace Sys2Proof.Machine
namespace Keeps
variable {s : State} (h : s.Bounded)
include h

/-! Machine/Ops -/

omit h in
theorem next (h : s.Bounded) : Keeps (.next s) := fun _ e => Host.Outcome.next.inj e ▸ h
omit h in
theorem ite {p : Prop} [Decidable p] {a b : Out} (ha : Keeps a) (hb : Keeps b) : Keeps (if p then a else b) := by
  split <;> assumption
theorem runFast {f : State → State} (hf : ∀ {u : State}, u.Bounded → (f u).Bounded) : Keeps (runFast s f) := .ite (.next h) (.next (hf h))
theorem runSlow {f : State → State} (hf : ∀ {u : State}, u.Bounded → (f u).Bounded) : Keeps (runSlow s f) :=
  .ite (.next h) (.next (hf h.undef))

/-! Machine/Control -/

theorem instr {c ks} {f : State → State} (hf : ∀ {u : State}, u.Bounded → (f u).Bounded) : Keeps (instr c ks s f) :=
  .runFast h fun h => .ite h (.ite h.fetched.dropInstr (hf h.fetched))
theorem execScalarInstruction {c op} : Keeps (execScalarInstruction c op s) :=
  .instr h fun h => by
    split
    · exact .ite h.rejectInstr h.setX.advance
    · exact .ite h.rejectInstr h.setX.advance
    · exact h.setX.advance
    · exact h.setCtxt.advance
    · exact h.setX.advance
    · exact h.setCtxt.settleMode
theorem execBranch {c b target} : Keeps (execBranch c b target s) := .instr h fun h => .ite h.setCtxt.goto h.advance
theorem execLoop {c u count endPc} : Keeps (execLoop c u count endPc s) :=
  .instr h fun h => .ite h.rejectInstr (.ite h.rejectInstr (.ite h.setCtxt.goto h.setCtxt))
theorem execParamSet {c p v} : Keeps (execParamSet c p v s) := .instr h fun h => .ite h.rejectInstr h.setParam.advance
theorem execTileSet {c t words} : Keeps (execTileSet c t words s) :=
  .instr h fun h => .ite h.rejectInstr (.advance (.foldl (fun _ h => .ite h.setTileWord h) h))
theorem execTraceMark {c mark} : Keeps (execTraceMark c mark s) := .instr h fun h => h.blotter.advance
theorem execEngineCommandEnqueue {c q op} : Keeps (execEngineCommandEnqueue c q op s) :=
  .instr h fun h => .ite h <| by
    extract_lets op tag
    split
    · next e => exact (h.served.enqueue _ e).advance
    · exact h.stalled
theorem execE1StarveIssue : Keeps (execE1StarveIssue s) := .runFast h fun h => .ite h.same.count h
theorem execTqPush {tq v q} : Keeps (execTqPush tq v q s) :=
  .instr h fun h => by
    refine .ite h (.ite h.stalled ?_)
    split
    · next e => exact .advance (.ite (h.enqueue _ e).setTq (h.enqueue _ e))
    · exact h.stalled
theorem execTqTokenVisible {q} : Keeps (execTqTokenVisible q s) :=
  .runFast h fun h => .withHead h fun _ h => by
    split
    · refine .ite h ?_
      split
      · exact .reject (.ite h.setTq h)
      · exact h.issued.setTq
    · exact h
theorem execTqPop {c tq x} : Keeps (execTqPop c tq x s) :=
  .instr h fun h => by
    refine .ite h.rejectInstr (.ite h.rejectInstr ?_)
    split
    · exact h.setTq.setX.advance
    · exact .ite h.stalled.count h.stalled
theorem execTqBindWrite {i v} : Keeps (execTqBindWrite i v s) := .runSlow h fun h => h.tqBind
theorem execAddrPush : Keeps (execAddrPush s) :=
  .runFast h fun h => .withHead h fun _ h => by
    split
    · exact .ite h.reject (.ite h h.issued.same)
    · exact h
theorem execFillWalk {c f w} : Keeps (execFillWalk c f w s) := by
  unfold Machine.execFillWalk
  split
  · exact .runFast h fun h => .ite h.served.walkGo h
  · refine .instr h (fun h => ?_)
    refine .ite h (.ite h.rejectInstr (.ite h.advance ?_))
    split
    · exact h.served.walkGo
    · exact h
theorem execPackHoldExpire : Keeps (execPackHoldExpire s) := .runFast h fun h => h.packFlush.getD h
theorem execPackFlush : Keeps (execPackFlush s) :=
  .runFast h fun h => .withHead h fun _ h => by
    split
    · exact .issueOr (fun h => h.packFlush.getD h) h
    · exact h
theorem execStillArrayCfgWrite {v} : Keeps (execStillArrayCfgWrite v s) := .runSlow h fun h => h.stillCfgWrite
theorem execCcSkipAcc : Keeps (execCcSkipAcc s) := .runSlow h fun h => h.skipAcc
theorem execCcSkipExe : Keeps (execCcSkipExe s) := .runSlow h fun h => h.skipExe
theorem execParamRegisterWrite {exe p hi v} : Keeps (execParamRegisterWrite exe p hi v s) :=
  .runSlow h fun {u} h => by
    extract_lets t off lo
    have hp : (u.setParam t p.toNat (mk64 v (lo.getD (lo32 (u.param t p.toNat))))).Bounded := h.setParam
    exact .ite hp.same h.same

/-! Machine/Macro -/

theorem execBcastCommandAccept {w par} : Keeps (execBcastCommandAccept w par s) :=
  .runFast h fun h => .ite h (.ite h.same.count.count.settleCredits (.ite h.same.count.count.settleCredits (.ite h.same.count.placeMacro
    h.same.count.parityFail.placeMacro)))
theorem execBcastCreditGrant : Keeps (execBcastCreditGrant s) := .runFast h fun h => h.same
theorem execAtomiserRingTake : Keeps (execAtomiserRingTake s) :=
  .runFast h fun h => by
    extract_lets b size head n a w m t par bad y t'
    have ht : t.Bounded := h.touch.touch.writeDword
    clear_value t
    have ht' : t'.Bounded := .ite ht.same ht
    exact .ite h (.ite h.touch (.ite h.touch.ringRefuse (.ite h (.ite h.ringRefuse (.ite h (.placeMacro (.ite ht'.parityFail ht')))))))
theorem execRingErrClear : Keeps (execRingErrClear s) := .runSlow h fun h => h.ringErrClear
theorem execMacroDispatch {t} : Keeps (execMacroDispatch t s) :=
  .runFast h fun h => by
    refine .ite h ?_
    split
    · exact h
    · exact .ite h.breakAt (.ite h.setDisp h.dispatch)
theorem withMacro {t} {f : Macro → State → State} (hf : ∀ {u : State} m, u.Bounded → (f m u).Bounded) : Keeps (withMacro t s f) :=
  .runFast h fun h => by
    split
    · exact .ite (hf _ h) h
    · exact h
theorem execConfig {t} : Keeps (execConfig t s) :=
  .withMacro h fun _ h => by
    split
    · exact .ite h.rejectMacro (.endMacro (.foldl (fun _ h => .ite (.ite h.setReg h) (.ite h.setTileWord h)) h))
    · exact h
theorem execStart {t} : Keeps (execStart t s) :=
  .withMacro h fun _ h => by
    split
    · refine .ite h.rejectMacro ?_
      split
      · exact h.rejectMacro
      · exact .ite h h.setCtxt.endMacro
    · exact h
theorem execPatch {t} : Keeps (execPatch t s) :=
  .withMacro h fun _ h => by
    split
    · exact .ite h.rejectMacro (.endMacro (.foldl (fun _ h => h.setParam) h))
    · exact h
theorem execReplay {t} : Keeps (execReplay t s) :=
  .withMacro h fun _ h => by
    split
    · exact .ite h.rejectMacro (.ite h.rejectMacro (.ite h.rejectMacro (.ite h.rejectMacro (.ite (.endMacro (.ite h.count h)) (.setDisp
      (.ite h.count h))))))
    · exact h
theorem execSyncLatch : Keeps (execSyncLatch s) :=
  .runFast h fun h => by
    split
    · exact .ite h h.same.endMacro.endMacro
    · exact h
theorem execSyncSwap : Keeps (execSyncSwap s) :=
  .runFast h fun h => by
    split
    · exact .ite h (.ite h.same.blotter.endMacro.endMacro h.rejectBoth)
    · exact h
theorem execPowerHint {src} : Keeps (execPowerHint src s) := by
  unfold Machine.execPowerHint
  split
  · refine .withMacro h (fun _ h => ?_)
    split
    · exact h.same.endMacro
    · exact h
  · exact .instr h fun h => .advance (.ite h h.same)
theorem execTraceHint {t} : Keeps (execTraceHint t s) :=
  .withMacro h fun _ h => by
    split
    · exact h.blotter.endMacro
    · exact h

/-! Machine/Sync -/

theorem execWait {q} : Keeps (execWait q s) :=
  .runFast h fun h => .withHead h fun _ h => by
    split
    · exact h.waitHead
    · exact h
theorem execTake {q} : Keeps (execTake q s) :=
  .runFast h fun h => .withHead h fun _ h => by
    split
    · exact h.waitHead
    · exact h
theorem execWatchWake {n} : Keeps (execWatchWake n s) :=
  .runFast h fun h => .ite h (.ite h (.ite (.ite h.setWatch.armedRead.setWatch.hostsig h.setWatch.armedRead) h.setWatch.recheck))
theorem execWaitPoll {party} : Keeps (execWaitPoll party s) :=
  .runFast h fun h => by
    split
    · exact h
    · next p _ =>
      extract_lets oldest t
      have ht : t.Bounded := h.count.recheck
      clear_value t
      refine .ite ht ?_
      split
      · next i _ =>
        have hw : (t.setWatch i ⟨1, party, p.addr, p.target, p.sem, 0, p.since, false⟩).Bounded := ht.setWatch
        exact .ite ht (.ite hw.same (.setQueue hw.same))
      · exact ht
theorem execWatchArm : Keeps (execWatchArm s) := .runSlow h fun h => h.watchArm
theorem execWatchCancel {n} : Keeps (execWatchCancel n s) := .runSlow h fun h => h.watchFree
theorem execSignal {q} : Keeps (execSignal q s) :=
  .runFast h fun h => .withHead h fun _ h => by
    split
    · exact h.signalHead
    · exact h
theorem execDec {q} : Keeps (execDec q s) :=
  .runFast h fun h => .withHead h fun _ h => by
    split
    · exact h.signalHead
    · exact h
theorem execArrive {q} : Keeps (execArrive q s) :=
  .runFast h fun h => .withHead h fun c h => by
    split
    · extract_lets held
      refine .ite h ?_
      split
      · next e => exact (h.arriveAt e : State.Bounded _).issued
      · next e => exact (h.arriveAt e : State.Bounded _).setQueue
      · next e => exact h.arriveAt e
      · next e => exact (h.arriveAt e : State.Bounded _).reject
    · exact h
theorem execSyncBarrier : Keeps (execSyncBarrier s) :=
  .runFast h fun h => by
    split
    · exact h
    · split
      · refine .ite h ?_
        extract_lets a g
        split
        · exact h.rejectBoth
        · exact h.rejectBoth
        · split
          · next e => exact (h.arriveAt e : State.Bounded _).rejectBoth
          · next e => exact h.arriveAt e
          · next e => exact (h.arriveAt e : State.Bounded _).same
          · next u e =>
            have hu : u.Bounded := h.arriveAt e
            extract_lets y t
            split
            · next e => exact (hu.setDisp.evalWait e : State.Bounded _).endMacro.endMacro
            · next e => exact (hu.setDisp.evalWait e : State.Bounded _).rejectBoth
            · next e => exact (hu.setDisp.evalWait e : State.Bounded _).startWait
        · exact h.touchBy.rejectBoth
      · exact h
theorem execBarArriveAck {lvl} : Keeps (execBarArriveAck lvl s) :=
  .runFast h fun {u} h => by
    have hu : { u with sync := { u.sync with lineAck := lvl, lineReq := u.sync.lineReq && !lvl } }.Bounded := h.same
    extract_lets y t
    split
    · exact .ite hu (.same hu)
    · exact hu
theorem execBarRelTgl {gen} : Keeps (execBarRelTgl gen s) := .runFast h fun h => .ite h h.release
theorem execDeadlock : Keeps (execDeadlock s) :=
  .runFast h fun h => .ite h (.count (.raise (.setReg (.setCtr (.foldl (fun _ h => h.setReg.setReg.setReg.setReg) (.foldl (fun _ h =>
    h.setReg) h))))))
theorem execDlRearm : Keeps (execDlRearm s) := .runSlow h fun h => h.clrReg
theorem execPartnerTimeout {party} : Keeps (execPartnerTimeout party s) :=
  .runFast h fun h => by
    refine .ite h ?_
    split
    · exact h
    · exact h.same.raise.count

/-! Machine/Reply -/

theorem execMgmtReplyPlace : Keeps (execMgmtReplyPlace s) := .runSlow h fun h => h.placeReplies.takeMail
theorem withPacket {op} {f : Packet → State → State} (hf : ∀ {u : State} p, u.Bounded → (f p u).Bounded) : Keeps (withPacket op s f) :=
  .runSlow h fun h => by
    split
    · exact .ite (hf _ h).takeMail h
    · exact h

/-! Machine/Flacon -/

theorem execRegistryWrite : Keeps (execRegistryWrite s) := .runSlow h fun h => h.registryWrite
theorem execRegistryRead : Keeps (execRegistryRead s) := .runSlow h fun h => h.registryRead
theorem execGtWrite : Keeps (execGtWrite s) := .runSlow h fun h => h.gtWrite
theorem execGtRead : Keeps (execGtRead s) := .runSlow h fun h => h.gtRead
theorem execCvuEnable {c cfg} : Keeps (execCvuEnable c cfg s) := .runSlow h fun h => h.cvuWriteCfg
theorem execCvuAbsorb {c} : Keeps (execCvuAbsorb c s) :=
  .runFast h fun h => by
    split
    · split
      · exact h
      · exact .ite h h.putXfer.cvuAbsorb
    · exact h
theorem execFlaconChunkDrain {r} : Keeps (execFlaconChunkDrain r s) :=
  .runFast h fun h => by
    split
    · exact h
    · split
      · exact h
      · refine .ite h.flPump ?_
        split
        · next e => exact (h.flPump.flaconTake _ e).drainStep
        · exact h.flPump
theorem execParityPubPoll {r timedOut} : Keeps (execParityPubPoll r timedOut s) :=
  .runFast h fun h => by
    split
    · exact h
    · split
      · exact h
      · refine .ite h ?_
        split
        · exact h
        · exact .ite h.same (.ite h.raise.same h)
theorem execSnapshotComplete : Keeps (execSnapshotComplete s) :=
  .runFast h fun h => by
    split
    · exact h
    · next n _ =>
      extract_lets t1 y t2 t3 t4 t5
      have h1 : t1.Bounded := h.advanceWord
      clear_value t1
      have h2 : t2.Bounded := .count (.flaconRelease h1.same)
      have h3 : t3.Bounded := h2.setRegFld
      have h4 : t4.Bounded := .ite h3 h3.clrReg
      have h5 : t5.Bounded := .ite h4.hostsig h4
      exact .ite h (.ite h5.complete h5)
theorem execSnapshotBegin : Keeps (execSnapshotBegin s) := .withPacket h fun _ h => .ite h.snapSkip.refuse h.snapBegin.accept
theorem execRestoreVerify {r} : Keeps (execRestoreVerify r s) := .withPacket h fun _ h => h.restoreOp
theorem execRestoreRebuild {r} : Keeps (execRestoreRebuild r s) := .withPacket h fun _ h => h.restoreOp
theorem execRestoreState {r} : Keeps (execRestoreState r s) := .withPacket h fun _ h => h.restoreOp
theorem execRestoreComplete : Keeps (execRestoreComplete s) :=
  .runFast h fun h => by
    split
    · exact h
    · next x _ =>
      extract_lets t p t'
      have ht : t.Bounded := h.flPump
      have hp : p.2.Bounded := .of_eq (.foldl_snd (fun _ h => h.restoreLost) (s := (x, t)) ht) rfl
      have ht' : t'.Bounded := .ite hp.count hp
      clear_value t'
      exact .ite ht (.complete (.flaconRelease ht'.same))

/-! Machine/Vector -/

theorem execVsetlen : Keeps (execVsetlen s) :=
  .runFast h fun h => .withHead h fun _ h => by
    split
    · exact .issueOr (fun h => h.setCtxt.setX) h
    · exact h
theorem execVop : Keeps (execVop s) :=
  .runFast h fun h => .withHead h fun c h => by
    split
    · refine .issueOr (fun {u} h => ?_) h
      extract_lets n t0 res t1 t2 t3 ieee
      have h0 : t0.Bounded := .foldl (fun _ h => h.touchBox) (.count (.foldl (fun _ h => h.redInit) h))
      refine .ite h ?_
      split
      · have h2 : t2.Bounded := .raiseFlags (.foldl (fun _ h => h.setLane) h0)
        have h3 : t3.Bounded := by
          simp only [t3]
          split
          · exact h2.count
          · exact h2
        exact .foldl (fun _ h => h.redAbsorb) h3
      · exact .foldl (fun _ h => h.redAbsorb) (.raiseFlags (.foldl (fun _ h => h.setPacked) h0))
    · exact h
theorem execVsplit : Keeps (execVsplit s) :=
  .runFast h fun h => .withHead h fun _ h => by
    split
    · exact .issueOr (fun h => .ite h (.raiseFlags (.foldl (fun _ h => h.setPacked.setPacked.setPacked) h.count))) h
    · exact h
theorem execVload : Keeps (execVload s) :=
  .runFast h fun h => .withHead h fun _ h => by
    split
    · refine .issueOr (fun h => ?_) h
      refine .ite h ?_
      split
      · exact .raiseFlags (.foldl (fun _ h => h.setLane) (.foldl (fun _ h => h.touchBox) h.count))
      · exact .raiseFlags (.foldl (fun _ h => h.setPacked) (.foldl (fun _ h => h.touchBox) h.count))
    · exact h
theorem execVstore : Keeps (execVstore s) :=
  .runFast h fun h => .withHead h fun _ h => by
    split
    · exact .issueOr (fun h => .ite h (.ite (.foldl (fun _ h => h.gather) (.foldl (fun _ h => h.writeRun) (.ite h.count.count h.count)))
      (.storeElems (.ite h.count.count h.count)))) h
    · exact h
theorem execDrain : Keeps (execDrain s) :=
  .runFast h fun h => .withHead h fun _ h => by
    split
    · exact .issueOr (fun h => .ite h (.same (.foldl (fun _ h => h.redInit) h))) h
    · exact h
theorem execDrainBeat : Keeps (execDrainBeat s) :=
  .runFast h fun h => by
    split
    · exact h
    · split
      · exact h.same
      · exact .ite h h.drainBeat
theorem execSumRead : Keeps (execSumRead s) :=
  .runFast h fun h => .withHead h fun _ h => by
    split
    · exact .issueOr (fun h => h.setX) h
    · exact h
theorem execSumIndexRead : Keeps (execSumIndexRead s) :=
  .runFast h fun h => .withHead h fun _ h => by
    split
    · exact .issueOr (fun h => h.setX) h
    · exact h
theorem execSumClear : Keeps (execSumClear s) :=
  .runFast h fun h => .withHead h fun _ h => by
    split
    · exact .issueOr (fun h => .ite h.same h.setSum) h
    · exact h
theorem execPredCopy : Keeps (execPredCopy s) :=
  .runFast h fun h => .withHead h fun _ h => by
    split
    · exact .issueOr (fun h => h.setPred) h
    · exact h
theorem execPredSet {q} : Keeps (execPredSet q s) :=
  .runFast h fun h => .withHead h fun _ h => by
    split
    · exact .issueOr (fun h => h.setPred) h
    · exact h
theorem execGenStep {q} : Keeps (execGenStep q s) :=
  .runFast h fun h => .withHead h fun _ h => by
    split
    · exact .issueOr (fun h => h.setReg) h
    · exact h

/-! Machine/Row -/

theorem rowIssue {k} : Keeps (rowIssue k s) :=
  .runFast h fun h => .withHead h fun _ h => by
    split
    · exact .ite h (.issueOr (fun h => .ite h (.same (.foldl_fst (fun _ h => h.rowRun) h))) h)
    · exact h
theorem execLnFwd : Keeps (execLnFwd s) := .rowIssue h
theorem execRmsFwd : Keeps (execRmsFwd s) := .rowIssue h
theorem execSoftmaxFwd : Keeps (execSoftmaxFwd s) := .rowIssue h
theorem execLnBwd : Keeps (execLnBwd s) := .rowIssue h
theorem execRmsBwd : Keeps (execRmsBwd s) := .rowIssue h
theorem execSoftmaxBwd : Keeps (execSoftmaxBwd s) := .rowIssue h
theorem execMerge : Keeps (execMerge s) := .rowIssue h
theorem execFinalise : Keeps (execFinalise s) := .rowIssue h
theorem execRowOperationComplete : Keeps (execRowOperationComplete s) :=
  .runFast h fun h => by
    split
    · exact h
    · exact h.rowRun.same

/-! Machine/Slots -/

theorem execScaleCommit : Keeps (execScaleCommit s) :=
  .runFast h fun h => .withHead h fun _ h => by
    split
    · exact .issueOr (fun h => h.setSlot) h
    · exact h
theorem execSlotCommit {n} : Keeps (execSlotCommit n s) := .runSlow h fun h => h.setSlot
theorem execClearCounts {n} : Keeps (execClearCounts n s) := .runSlow h fun h => h.setSlot
theorem execResetHist {n} : Keeps (execResetHist n s) := .runSlow h fun h => h.setSlot
theorem execScaleSet : Keeps (execScaleSet s) :=
  .runFast h fun h => .withHead h fun _ h => by
    split
    · exact .issueOr (fun h => h.setFactor) h
    · exact h
theorem execScaleRegisterWrite {n dec v} : Keeps (execScaleRegisterWrite n dec v s) := .runSlow h fun h => h.setFactor
theorem execPromoteClear : Keeps (execPromoteClear s) :=
  .runFast h fun h => .withHead h fun _ h => by
    split
    · exact .issueOr (fun h => h.setSlot) h
    · exact h
theorem execPromotePred : Keeps (execPromotePred s) :=
  .runFast h fun h => .withHead h fun _ h => by
    split
    · exact .issueOr (fun h => h.setPred) h
    · exact h
theorem execFlagClear : Keeps (execFlagClear s) :=
  .runFast h fun h => .withHead h fun _ h => by
    split
    · exact .issueOr (fun h => h.clearFlags) h
    · exact h
theorem execFlagRead : Keeps (execFlagRead s) :=
  .runFast h fun h => .withHead h fun _ h => by
    split
    · exact .issueOr (fun h => h.setX) h
    · exact h
theorem execCntCtrlClear {off} : Keeps (execCntCtrlClear off s) := .runSlow h fun h => .ite h.clearCounters h

/-! Machine/Update -/

theorem execUpdateApply : Keeps (execUpdateApply s) :=
  .runFast h fun h => .withHead h fun _ h => by
    split
    · exact .ite h (.issueOr (fun h => .ite h (.same (.ite (.foldl (fun _ h => h.updElem) (.ite h.sweepTouch h)) (.ite h.sweepTouch h))))
      h)
    · exact h
theorem execUpdateApplyComplete : Keeps (execUpdateApplyComplete s) :=
  .runFast h fun h => by
    split
    · exact h
    · exact .same (.ite h.updElem h.sumsOnly)
theorem execUpdateRecord : Keeps (execUpdateRecord s) :=
  .runFast h fun h => .withHead h fun _ h => by
    split
    · exact .issueOr (fun h => h.write) h
    · exact h
theorem execUpdateReduce : Keeps (execUpdateReduce s) :=
  .runFast h fun h => .withHead h fun _ h => by
    split
    · refine .issueOr (fun h => ?_) (.ite h h.touchBy)
      split
      · exact h.setRegFld.setCtr.setReg.setReg.setPred
      · exact h.setRegFld.setCtr.setReg.setReg
    · exact h
theorem execUpdateEnd : Keeps (execUpdateEnd s) :=
  .runFast h fun h => .withHead h fun c h => by
    split
    · refine .issueOr (fun {u} h => ?_) h
      extract_lets ls good put t1 t2 growth t3 ls' t4
      have set {ls : Int} {good : Nat} {u : State} (hu : u.Bounded) : (put ls good u).Bounded := hu.setReg
      have h1 : t1.Bounded := .ite h.orReg h
      have h2 : t2.Bounded := h.clrReg.setCtr
      have h3 : t3.Bounded := .ite (set h1.orReg.count) (.ite (set h2) (set h2))
      have h4 : t4.Bounded := by
        simp only [t4]
        split
        · exact h3.setFactor.setFactor
        · exact h3
      exact h4.endTrigger
    · exact h
theorem execBucketAccount : Keeps (execBucketAccount s) :=
  .runFast h fun h => .withHead h fun _ h => by
    split
    · exact .ite h.reject (.bktRun (fun h => .ite h.setReg.orReg.raise h.setReg) h)
    · exact h
theorem execBucketFlush : Keeps (execBucketFlush s) :=
  .runFast h fun h => .withHead h fun _ h => by
    split
    · exact .bktRun (fun h => h) h
    · exact h
theorem execBucketReset : Keeps (execBucketReset s) :=
  .runFast h fun h => .withHead h fun _ h => by
    split
    · exact .bktRun (fun h => h.setReg.clrReg) h
    · exact h
theorem execMode : Keeps (execMode s) :=
  .runFast h fun h => .withHead h fun _ h => by
    split
    · exact .ite h.issued.setRegFld h.issued.setRegFld.setCore
    · exact h

/-! Machine/Dma -/

theorem execDma {ch} : Keeps (execDma ch s) :=
  .runFast h fun h => .withHead h fun c h => by
    split
    · extract_lets q a rej e d k src dst pv sAddr dAddr empty r t
      have rejected {r : Option Rej} {u : State} (hu : u.Bounded) : (rej r u).Bounded := by
        cases r with
        | none => exact hu
        | some r => exact hu.reject
      clear_value rej
      refine .ite h (.ite (rejected h) (.ite (rejected h) (.ite (rejected h) (.ite (rejected h) (.ite h.touchBy.reject ?_)))))
      split
      · exact h.touchBy.reject
      · exact .ite (rejected h.touchBy) (.ite h.touchBy h.touchBy.issued.startXfer)
    · exact h
theorem execDmaRequestPlace {ch} : Keeps (execDmaRequestPlace ch s) :=
  .runFast h fun h => by
    split
    · exact h
    · refine .ite h.placeData ?_
      split
      exacts [h.placeGuard, h.placeWord, h.placeWord]
theorem execDmaResponse {lane} : Keeps (execDmaResponse lane s) :=
  .runFast h fun h => by
    split
    · exact h
    · next e => exact .ite (h.takeRx _ e).respSlot.respSlot (h.takeRx _ e).respSlot
theorem execDmaComplete {ch} : Keeps (execDmaComplete ch s) :=
  .runFast h fun h => by
    split
    · exact h
    · exact h.completeXfer
theorem execDmaTimeout {stream} : Keeps (execDmaTimeout stream s) :=
  .runFast h fun h => by
    split
    · split
      · exact .ite h h.putXfer
      · exact h
    · exact .ite h h.syncAnswer.setStream.windowAdd
    · exact h.flTimeout
    · exact h
theorem execStreamQuarantineExpire {stream} : Keeps (execStreamQuarantineExpire stream s) :=
  .runFast h fun h => by
    split
    · split
      · exact .ite h (.failXfer (.putXfer (.foldl (fun _ h => h.windowSub) h)))
      · exact h
    · exact .ite h.setStream.windowSub h
    · exact h.flExpire
    · exact h
theorem execPageFault {stream} : Keeps (execPageFault stream s) :=
  .runFast h fun h => by
    split
    · exact h
    · refine .ite h ?_
      split
      · next e => exact h.faultWrite _ e
      · exact h.same
theorem execFaultRecordWrite : Keeps (execFaultRecordWrite s) :=
  .runFast h fun h => by
    split
    · exact h
    · split
      · exact h.same
      · split
        · next e => exact (h.faultWrite _ e).same
        · exact h
theorem execStreamResume {stream} : Keeps (execStreamResume stream s) := .runSlow h fun h => h.streamResume
theorem execStreamAbort {stream} : Keeps (execStreamAbort stream s) := .runSlow h fun h => h.streamAbort
theorem execAtcInvAll : Keeps (execAtcInvAll s) := .runSlow h fun h => h.atcInv
theorem execXrespReceive {lane} : Keeps (execXrespReceive lane s) :=
  .runFast h fun h => by
    split
    · exact h
    · next f t e =>
      have ht : t.Bounded := h.takeRx _ e
      extract_lets i y1 t1 rd wr st ok bad ws y2 err
      split
      · exact ht.flitInvalid
      · extract_lets ent t2 t3 t4 y3
        have h1 : t1.Bounded := ht.same
        have h2 : t2.Bounded := .ite h1 h1.same
        have h3 : t3.Bounded := .foldl (fun _ h => .ite h.refuseXfer h.errXfer) h2
        have h4 : t4.Bounded := .ite h3.flRefuse h3
        clear_value t4
        exact .ite h4.refuseHeads h4.same
theorem execXreqTimeout {xid} : Keeps (execXreqTimeout xid s) :=
  .runFast h fun h => .ite h (.refuseHeads (.flRefuse (.foldl (fun _ h => h.errXfer) h.same)))
theorem execXinvReceive {lane} : Keeps (execXinvReceive lane s) :=
  .runFast h fun h => by
    split
    · exact h
    · next e => exact .ite (h.takeRx _ e).flitInvalid (h.takeRx _ e).same.send
theorem execScrubRead : Keeps (execScrubRead s) := .runFast h fun h => .ite h (.ite h.same.touch (.ite h.same.touch h.same.touch))

/-! Machine/Fence -/

theorem execFence : Keeps (execFence s) :=
  .withPacket h fun _ h => by
    split
    · exact h.ok
    · exact h.refuse
    · exact h.overtake.setFence.stopDispatch.emptyQueues.accept
theorem execFenceComplete {timedOut} : Keeps (execFenceComplete timedOut s) := .runFast h fun h => .ite h h.fenceDone.complete

/-! Machine/Port -/

theorem execLinkNakReceive {lane ackSeq} : Keeps (execLinkNakReceive lane ackSeq s) := .runFast h fun h => h.acked.resend.pump
theorem execLinkAckTimeout {lane} : Keeps (execLinkAckTimeout lane s) := .runFast h fun h => h.resend
theorem execLinkFlitReceive {lane f} : Keeps (execLinkFlitReceive lane f s) :=
  .runFast h fun h => .ite h (.ite (.ite h.linkControl h) (.ite h (.ite (.ite h.setInLane.count.inDown h.setInLane.count) (.linkControl
    (.ite h.setInLane.count.count.setInLane.flitInvalid h.setInLane.count.count.setInLane)))))
theorem execPortEnable : Keeps (execPortEnable s) := .runSlow h fun h => h.portEnable
theorem execLaneTrained {inbound lane} : Keeps (execLaneTrained inbound lane s) :=
  .runFast h fun h => .ite h (.ite (.ite h h.setInLane.trained) (.ite h h.setOutLane.trained))
theorem execLaneTrainFailed {inbound lane} : Keeps (execLaneTrainFailed inbound lane s) :=
  .runFast h fun h => .ite h (.ite h (.trained (.raise (.ite h.setInLane h.setOutLane))))
theorem execFclkMeasure {mhz} : Keeps (execFclkMeasure mhz s) := .runSlow h fun h => .ite h.same.raise h.same
theorem execRdReqReceive {lane} : Keeps (execRdReqReceive lane s) :=
  .runFast h fun h => by
    split
    · exact h
    · next e => exact .foldl (fun _ h => .ite h.touch.respond h.respond) (h.takeRx _ e)
theorem execRwrReceive {lane} : Keeps (execRwrReceive lane s) :=
  .runFast h fun h => by
    split
    · exact h
    · next f t e =>
      have ht : t.Bounded := h.takeRx _ e
      extract_lets hdr ep stream a total len bs sig cont poison keep seat w k t1 t2
      have hw : w.2.Bounded := .of_eq ht.windowWrite rfl
      have hk : k.2.Bounded := .of_eq hw.ackSlots rfl
      clear_value seat
      have h2 : t2.Bounded := by
        simp only [t2]
        split
        · exact .ite hk.setStream.abandon hk.setStream
        · exact hk
      exact .ite (.ite ht.setInLane ht.respond) (.ite h (.ite h2.setInLane h2.respond))
theorem execSigxReceive {lane} : Keeps (execSigxReceive lane s) :=
  .runFast h fun h => by
    split
    · exact h
    · next f t e =>
      have ht : t.Bounded := h.takeRx _ e
      extract_lets n op v a t1 ok
      have h1 : t1.Bounded := ht.setInLane
      split
      · exact ht
      · refine .ite (.respond (.ite h1.syncApply h1)) ?_
        split
        · exact h1
        · exact .ite h1.setStream.ledgerApply h1.setStream.count
theorem execLedgerSignalApply {stream} : Keeps (execLedgerSignalApply stream s) :=
  .runFast h fun h => by
    split
    · exact h.ledgerApply
    · exact h
theorem execLedgerAbandoned {stream} : Keeps (execLedgerAbandoned stream s) :=
  .runFast h fun h => by
    split
    · exact h.abandon
    · exact h
theorem execSyncFlitReceive {lane} : Keeps (execSyncFlitReceive lane s) :=
  .runFast h fun h => by
    split
    · exact h
    · next e => exact .ite (h.takeRx _ e).respond (h.takeRx _ e).syncApply.respond
theorem execBarFlitReceive {lane} : Keeps (execBarFlitReceive lane s) :=
  .runFast h fun h => by
    split
    · exact h
    · next e => exact .ite (h.takeRx _ e).release (h.takeRx _ e)

/-! Machine/Power -/

theorem execVfUserWrite {p v} : Keeps (execVfUserWrite p v s) := .runSlow h fun h => h.vfUserWrite
theorem execAgeRegisterWrite {nmax v} : Keeps (execAgeRegisterWrite nmax v s) := .runSlow h fun h => h.ageWrite
theorem execPwrModeWrite {v} : Keeps (execPwrModeWrite v s) := .runSlow h fun h => h.pwrModeWrite
theorem execDroopDetect {det v} : Keeps (execDroopDetect det v s) :=
  .ite (.next h) (.next (.ite (.skipping (fun h => h.droopReport) h.setPwr) h.setPwr))
theorem execDroopHoldExpire {det v} : Keeps (execDroopHoldExpire det v s) := .runFast h fun h => .ite h h.setPwr.setPwr
theorem execSkipReqChange {v} : Keeps (execSkipReqChange v s) := .next (.ite (.skipping (fun h => h.setPwr) h) h.setPwr)
omit h in
/-- Every operating point that enabledAt gives exists (R418). -/
theorem enabledAt_mem (n : Nat) : 7 ≤ s.enabledAt n ∧ s.enabledAt n ≤ 22 := by
  have inside (l : List Nat) (a : Nat) (hl : ∀ p ∈ l, p < 16) (ha : 7 ≤ a ∧ a ≤ 22) :
      7 ≤ l.foldl (fun _ p => p + 7) a ∧ l.foldl (fun _ p => p + 7) a ≤ 22 := by
    induction l generalizing a with
    | nil => exact ha
    | cons p l ih =>
      have hp := hl p (List.mem_cons_self ..)
      exact ih (p + 7) (fun q hq => hl q (List.mem_cons_of_mem _ hq)) (by omega)
  exact inside _ 7 (fun p hp => List.mem_range.mp (List.mem_of_mem_filter hp)) (by omega)
theorem execOperatingPointEval {p pLeak} : Keeps (execOperatingPointEval p pLeak s) :=
  .runSlow h fun h => by
    extract_lets t1 b y1 t2 fixed unmet t3 y2 t4 base caps low others cur next reason broken limited t5 t6 t7 t8 y3
    have h1 : t1.Bounded := h.modeTake
    have h2 : t2.Bounded := h1.setPwr
    have h3 : t3.Bounded := .ite h2.raise h2
    have h4 : t4.Bounded := h3.setPwr
    have h5 : t5.Bounded := h4.setRegFld
    have h6 : t6.Bounded := h5.setRegFld.setRegFld
    have h7 : t7.Bounded := .setRegFld (.ite h6.orReg h6)
    have h8 : t8.Bounded := h7.count
    have hn : 7 ≤ next ∧ next ≤ 22 := enabledAt_mem _
    clear_value t8 next
    refine .ite h (h8.withPwr ⟨h8.point.1, h8.point.2.1, fun n e => ?_⟩)
    dsimp only at e
    split at e
    · exact absurd e.symm (Option.some_ne_none n)
    · exact Option.some.inj e ▸ hn
theorem execAclkPointChange : Keeps (execAclkPointChange s) :=
  .runSlow h fun {u} h => by
    split
    · exact h
    · next n e =>
      have hn : 7 ≤ n ∧ n ≤ 22 := h.point.2.2 n e
      have hp : (u.setPwr { u.pwr with n := n, nNext := none }).Bounded :=
        h.withPwr ⟨hn.1, hn.2, fun _ e => absurd e.symm (Option.some_ne_none _)⟩
      exact .ite hp.count.droopAll h
theorem execPwrBudgetToggle {b} : Keeps (execPwrBudgetToggle b s) := .runSlow h fun h => h.setPwr
theorem execThermalSensorRead {l} : Keeps (execThermalSensorRead l s) :=
  .runSlow h fun h => by
    split
    · exact h
    · extract_lets hot cold t1 thr trip n n' y t2 was now t3 t4 wide t5
      have h1 : t1.Bounded := .foldl (fun _ h => h.setReg) h
      have h2 : t2.Bounded := h1.setPwr
      have h3 : t3.Bounded := .skipping (fun h => h.setPwr) h2
      have h4 : t4.Bounded := .ite h3.raise h3
      have h5 : t5.Bounded := .ite h4.raise.orReg h4
      exact h5.setPwr
theorem execRailMonitorSample {core sram port vdda} : Keeps (execRailMonitorSample core sram port vdda s) :=
  .runSlow h fun h => .setPwr (.foldl (fun _ h => .ite h.raise.orReg h) (.ite h.setReg.setReg.setReg.setReg.loseSram
    h.setReg.setReg.setReg.setReg))
theorem execAgeingMeasurement {margins} : Keeps (execAgeingMeasurement margins s) :=
  .runSlow h fun h => by
    split
    · exact h
    · exact .ite h (.setPwr (.ite (.ite h.setRegFld.setReg.setRegFld.setRegFld.raise h.setRegFld.setReg.setRegFld) h.setRegFld.setReg))
theorem execSillageEngage {slices} : Keeps (execSillageEngage slices s) := .runFast h fun h => .ite h h.setPwr.count
theorem execSillageLevelStep {slices} : Keeps (execSillageLevelStep slices s) :=
  .runFast h fun h => by
    split
    · exact h
    · exact h.setPwr
theorem execSillageDisengage : Keeps (execSillageDisengage s) :=
  .runFast h fun h => by
    split
    · exact h
    · exact .ite h (.skipping (fun h => h.setPwr) h)
theorem execReleaseRampStep : Keeps (execReleaseRampStep s) :=
  .runFast h fun h => by
    split
    · exact h
    · exact .skipping (fun h => h.setPwr) h
theorem execTelemetryFrame {slack} : Keeps (execTelemetryFrame slack s) := .runSlow h fun h => h.setPwr

/-! Machine/Mailbox -/

theorem execMboxReqWrite {v} : Keeps (execMboxReqWrite v s) := .runSlow h fun h => h.mboxReqWrite
theorem execMboxSubmit : Keeps (execMboxSubmit s) := .runSlow h fun h => h.mboxSubmit
theorem execMboxDiscard : Keeps (execMboxDiscard s) := .runSlow h fun h => h.mboxDiscard
theorem execMboxRspRead : Keeps (execMboxRspRead s) := .runSlow h fun h => h.mboxRspRead.same
theorem execMringCfgWrite {v} : Keeps (execMringCfgWrite v s) := .runSlow h fun h => h.mringCfgWrite
theorem execMringErrClear : Keeps (execMringErrClear s) := .runSlow h fun h => h.mringErrClear
theorem execMringRequestTake : Keeps (execMringRequestTake s) := .runSlow h fun h => h.mringTake

/-! Machine/Regs -/

theorem execCounterLowRead {off} : Keeps (execCounterLowRead off s) := .runSlow h fun h => h.readOut
theorem execErrlogPop : Keeps (execErrlogPop s) := .runSlow h fun h => h.errPop
theorem execErrlogClear : Keeps (execErrlogClear s) := .runSlow h fun h => h.errClear
theorem execDbgResumeAcc : Keeps (execDbgResumeAcc s) := .runSlow h fun h => .ite h h.dbgResume
theorem execDbgResumeExe : Keeps (execDbgResumeExe s) := .runSlow h fun h => .ite h h.dbgResume
theorem execBlotClear : Keeps (execBlotClear s) := .runSlow h fun h => .ite h h.blotClear
theorem execRegisterWrite {off v} : Keeps (execRegisterWrite off v s) := .runSlow h fun h => h.regWrite

/-! Machine/Reset -/

theorem execCoreResetN {level} : Keeps (execCoreResetN level s) :=
  .ite (.next h.same.droopAll) (.ite (.next h.same) (.next h.same.pinReset.takeMail))
theorem execReset : Keeps (execReset s) := .withPacket h fun _ h => h.coreReset.ok
theorem execUnfence : Keeps (execUnfence s) :=
  .withPacket h fun _ h => .ite h.refuse (.ite h.refuse h.coreReset.same.setFence.setRing.startStream.ok)

/-! Machine/Mgmt -/

theorem execGetInfo : Keeps (execGetInfo s) := .withPacket h fun _ h => h.ok
theorem execReadFuse : Keeps (execReadFuse s) := .withPacket h fun _ h => .ite h.refuse (.ite h.refuse h.ok)
theorem execSetVfOffsets : Keeps (execSetVfOffsets s) :=
  .withPacket h fun _ h => by
    extract_lets bad t
    split
    · exact h.refuse
    · exact .ok (.foldl (fun _ h => h.vfUserWrite) h)
theorem execReadSensors {x0} : Keeps (execReadSensors x0 s) := .withPacket h fun _ h => h.ok
theorem execSetPowerMode : Keeps (execSetPowerMode s) := .withPacket h fun _ h => .ite h.refuse h.pwrModeWrite.ok
theorem execClearErrors : Keeps (execClearErrors s) := .withPacket h fun _ h => .ok (.ite h.errPop.clrReg h.errPop)
theorem execAgeingReport : Keeps (execAgeingReport s) := .withPacket h fun _ h => h.ok
theorem execLoadImage : Keeps (execLoadImage s) :=
  .withPacket h fun _ h => by
    split
    · exact .refuse (.ite h h.touch)
    · exact .accept (.ite h.touch h.touch.setValid)
theorem execLoadImageComplete : Keeps (execLoadImageComplete s) :=
  .runFast h fun h => by
    split
    · exact h
    · exact .ite h (.ite h.touch.same.complete.takeMail (.ite h.touch.write.complete.takeMail (.ite h.touch.write.complete.takeMail
      h.touch.write.setValid.complete.takeMail)))
theorem execSwapBank : Keeps (execSwapBank s) := .withPacket h fun _ h => .ite h.refuse (.ite h.refuse h.same.blotter.ok)
theorem execHoststreamStart : Keeps (execHoststreamStart s) :=
  .withPacket h fun _ h => .ite h.refuse (.ite h.startStream.ok (.ite (.ite h.refuse (.ite h.refuse h.startStream.ok))
    h.setRing.startStream.ok))
theorem execHoststreamStop : Keeps (execHoststreamStop s) :=
  .withPacket h fun _ h => by
    extract_lets b t join y t1 z t2
    have ht : t.Bounded := h.touch
    have h1 : t1.Bounded := .nextMode ht.same
    clear_value t1
    have h2 : t2.Bounded := .ite (.settleCredits h1.same) h1
    exact .ite ht.refuse (.ok (.ite h2.ringHeader h2))
theorem execDebugBreakSet : Keeps (execDebugBreakSet s) := .withPacket h fun _ h => h.setReg.setReg.setReg.setReg.ok
theorem execDebugRead : Keeps (execDebugRead s) :=
  .withPacket h fun _ h => by
    refine .ite h.refuse (.ite h.refuse (.ite h.debugLocal (.ite h.refuse ?_)))
    split
    exacts [h.debugRegs.ok, h.ok, h.ok, h.ok]
theorem execDebugWrite : Keeps (execDebugWrite s) :=
  .withPacket h fun _ h => by
    refine .ite h.refuse (.ite h.debugLocalPut (.ite h.refuse (.ite h.refuse ?_)))
    split
    · exact h.debugPuts.ok
    · exact .ok (.foldl (fun _ h => h.setItem) h)
    · exact .ok (.foldl (fun _ h => h.setLane) h)
theorem execLockDebug {readback} : Keeps (execLockDebug readback s) :=
  .withPacket h fun _ h => .ite h.refuse (.ite h.ok (.ite h.raise.refuse h.same.closeDebug.ok))
theorem execBistRun : Keeps (execBistRun s) := .withPacket h fun _ h => .ite h.refuse (.ite h.refuse h.accept)
theorem execBistRunComplete {results} : Keeps (execBistRunComplete results s) :=
  .runSlow h fun h => by
    split
    · exact h
    · exact .ite h (.takeMail (.complete (.ite h.clearSets.raise h.clearSets)))
theorem execGroupTableWrite : Keeps (execGroupTableWrite s) :=
  .withPacket h fun _ h => by
    refine .ite h.refuse ?_
    split
    · exact h.gtRefuse.refuse
    · exact .ok (.foldl (fun _ h => h.setGt) h)

/-! Machine/Stills -/

theorem execFill {b} : Keeps (execFill b s) := .runFast h fun h => .withHead h fun _ h => h.fillHead
theorem execFillComplete {b} : Keeps (execFillComplete b s) :=
  .runFast h fun h => by
    refine .ite ?_ ?_
    · split
      · exact h
      · exact h.same
    · split
      · exact h
      · exact h.same
theorem execPairing : Keeps (execPairing s) :=
  .runFast h fun h => .withHead h fun _ h => by
    split
    · exact .issueOr (fun h => h.same) h
    · exact h
theorem execKlutLoad : Keeps (execKlutLoad s) :=
  .runFast h fun h => .withHead h fun _ h => by
    split
    · exact .issueOr (fun h => .foldl (fun _ h => h.setReg) h.touch) h
    · exact h
theorem execDwMask : Keeps (execDwMask s) :=
  .runFast h fun h => .withHead h fun _ h => by
    split
    · exact .issueOr (fun h => h.same) h
    · exact h

/-! Machine/Sys -/

theorem execPoresetN {level straps} : Keeps (execPoresetN level straps s) := .ite (.next (.powerOn s)) (.ite (.next h) (.next h.same))
theorem execSynthLock : Keeps (execSynthLock s) := .runSlow h fun h => .ite h.same.setCore.droopAll h
theorem execPllLockTimeout : Keeps (execPllLockTimeout s) := .runSlow h fun h => .ite h.bootFail h
theorem execPllUnlock : Keeps (execPllUnlock s) := .runSlow h fun h => .ite h h.same.raise
theorem stage {k} {f : State → State} (hf : ∀ {u : State}, u.Bounded → (f u).Bounded) : Keeps (stage k s f) :=
  .runSlow h fun h => .ite h (hf h.same)
theorem execStartupFuseLoad : Keeps (execStartupFuseLoad s) := .stage h fun h => .ite h.same h.same.raise
theorem execStartupBist {r} : Keeps (execStartupBist r s) := .stage h fun h => .ite h.same.clearSets.bootFail h.same.clearSets
theorem execTierCheck {ok} : Keeps (execTierCheck ok s) := .stage h fun h => .ite (.ite h h.bootFail) (.ite h.raise h)
theorem execMgmtReady : Keeps (execMgmtReady s) := .stage h fun h => h.same.setCore.interrupt.takeMail
theorem execWsBypass : Keeps (execWsBypass s) := .next (.same (h.setWir (c := 0)))
theorem execWsExtest : Keeps (execWsExtest s) := .next h.setWir
theorem execWsIntest : Keeps (execWsIntest s) := .next h.setWir
theorem execWsScan : Keeps (execWsScan s) := .ite (.next h.setWir) (.next (.same (.ite h.setWir.flopReset h.setWir)))
theorem execWsMbist {r} : Keeps (execWsMbist r s) := .next h.setWir.clearSets.same
theorem execWsFuseRead : Keeps (execWsFuseRead s) := .next (.same (h.setWir (c := 5)))
theorem execWsFuseProg {word bits} : Keeps (execWsFuseProg word bits s) :=
  have ht : (s.setWir 6).Bounded := h.setWir
  .ite (.next ht) (.next (.ite (.closeDebug ht.same) ht.same))
theorem execWsFuncAccess {d} : Keeps (execWsFuncAccess d s) :=
  have ht : (s.setWir 7).Bounded := h.setWir
  .ite (.next ht.same) (.ite (.runSlow ht.same fun h => h.regWrite) (.runSlow ht.same fun h => .same (h.regRead (off0 := nfld d.toNat 32
    20))))

/-! Every command, and every step -/

theorem exec (i : Instr) : Keeps (exec i s) := by
  unfold Machine.exec
  cases i with
  | poresetN => exact execPoresetN h
  | coreResetN => exact execCoreResetN h
  | synthLock => exact execSynthLock h
  | pllLockTimeout => exact execPllLockTimeout h
  | pllUnlock => exact execPllUnlock h
  | startupFuseLoad => exact execStartupFuseLoad h
  | startupBist => exact execStartupBist h
  | tierCheck => exact execTierCheck h
  | mgmtReady => exact execMgmtReady h
  | aclkPointChange => exact execAclkPointChange h
  | operatingPointEval => exact execOperatingPointEval h
  | thermalSensorRead => exact execThermalSensorRead h
  | railMonitorSample => exact execRailMonitorSample h
  | ageingMeasurement => exact execAgeingMeasurement h
  | droopDetect => exact execDroopDetect h
  | droopHoldExpire => exact execDroopHoldExpire h
  | skipReqChange => exact execSkipReqChange h
  | pwrBudgetToggle => exact execPwrBudgetToggle h
  | sillageEngage => exact execSillageEngage h
  | sillageLevelStep => exact execSillageLevelStep h
  | sillageDisengage => exact execSillageDisengage h
  | releaseRampStep => exact execReleaseRampStep h
  | telemetryFrame => exact execTelemetryFrame h
  | vfUserWrite => exact execVfUserWrite h
  | ageRegisterWrite => exact execAgeRegisterWrite h
  | pwrModeWrite => exact execPwrModeWrite h
  | bcastCommandAccept => exact execBcastCommandAccept h
  | bcastCreditGrant => exact execBcastCreditGrant h
  | atomiserRingTake => exact execAtomiserRingTake h
  | macroDispatch => exact execMacroDispatch h
  | config => exact execConfig h
  | start => exact execStart h
  | patch => exact execPatch h
  | replay => exact execReplay h
  | syncBarrier => exact execSyncBarrier h
  | syncLatch => exact execSyncLatch h
  | syncSwap => exact execSyncSwap h
  | powerHint => exact execPowerHint h
  | traceHint => exact execTraceHint h
  | traceMark => exact execTraceMark h
  | scalarInstruction => exact execScalarInstruction h
  | branch => exact execBranch h
  | loop => exact execLoop h
  | predSet => exact execPredSet h
  | paramSet => exact execParamSet h
  | tileSet => exact execTileSet h
  | engineCommandEnqueue => exact execEngineCommandEnqueue h
  | e1StarveIssue => exact execE1StarveIssue h
  | tqPush => exact execTqPush h
  | tqTokenVisible => exact execTqTokenVisible h
  | tqPop => exact execTqPop h
  | addrPush => exact execAddrPush h
  | fill => exact execFill h
  | fillComplete => exact execFillComplete h
  | fillWalk => exact execFillWalk h
  | packHoldExpire => exact execPackHoldExpire h
  | packFlush => exact execPackFlush h
  | pairing => exact execPairing h
  | klutLoad => exact execKlutLoad h
  | dwMask => exact execDwMask h
  | stillArrayCfgWrite => exact execStillArrayCfgWrite h
  | cntCtrlClear => exact execCntCtrlClear h
  | counterLowRead => exact execCounterLowRead h
  | scaleCommit => exact execScaleCommit h
  | slotCommit => exact execSlotCommit h
  | clearCounts => exact execClearCounts h
  | resetHist => exact execResetHist h
  | scaleSet => exact execScaleSet h
  | scaleRegisterWrite => exact execScaleRegisterWrite h
  | promoteClear => exact execPromoteClear h
  | promotePred => exact execPromotePred h
  | flagClear => exact execFlagClear h
  | flagRead => exact execFlagRead h
  | vsetlen => exact execVsetlen h
  | vop => exact execVop h
  | vsplit => exact execVsplit h
  | vload => exact execVload h
  | vstore => exact execVstore h
  | drain => exact execDrain h
  | drainBeat => exact execDrainBeat h
  | sumRead => exact execSumRead h
  | sumIndexRead => exact execSumIndexRead h
  | sumClear => exact execSumClear h
  | predCopy => exact execPredCopy h
  | lnFwd => exact execLnFwd h
  | rmsFwd => exact execRmsFwd h
  | softmaxFwd => exact execSoftmaxFwd h
  | lnBwd => exact execLnBwd h
  | rmsBwd => exact execRmsBwd h
  | softmaxBwd => exact execSoftmaxBwd h
  | merge => exact execMerge h
  | finalise => exact execFinalise h
  | genStep => exact execGenStep h
  | updateApply => exact execUpdateApply h
  | updateRecord => exact execUpdateRecord h
  | updateReduce => exact execUpdateReduce h
  | updateEnd => exact execUpdateEnd h
  | bucketAccount => exact execBucketAccount h
  | bucketFlush => exact execBucketFlush h
  | bucketReset => exact execBucketReset h
  | mode => exact execMode h
  | ccSkipAcc => exact execCcSkipAcc h
  | ccSkipExe => exact execCcSkipExe h
  | paramRegisterWrite => exact execParamRegisterWrite h
  | tqBindWrite => exact execTqBindWrite h
  | ringErrClear => exact execRingErrClear h
  | dma => exact execDma h
  | dmaRequestPlace => exact execDmaRequestPlace h
  | dmaResponse => exact execDmaResponse h
  | dmaComplete => exact execDmaComplete h
  | dmaTimeout => exact execDmaTimeout h
  | streamQuarantineExpire => exact execStreamQuarantineExpire h
  | pageFault => exact execPageFault h
  | faultRecordWrite => exact execFaultRecordWrite h
  | streamResume => exact execStreamResume h
  | streamAbort => exact execStreamAbort h
  | atcInvAll => exact execAtcInvAll h
  | xrespReceive => exact execXrespReceive h
  | xreqTimeout => exact execXreqTimeout h
  | xinvReceive => exact execXinvReceive h
  | scrubRead => exact execScrubRead h
  | rdReqReceive => exact execRdReqReceive h
  | rwrReceive => exact execRwrReceive h
  | sigxReceive => exact execSigxReceive h
  | ledgerSignalApply => exact execLedgerSignalApply h
  | ledgerAbandoned => exact execLedgerAbandoned h
  | syncFlitReceive => exact execSyncFlitReceive h
  | barFlitReceive => exact execBarFlitReceive h
  | wait => exact execWait h
  | take => exact execTake h
  | signal => exact execSignal h
  | dec => exact execDec h
  | arrive => exact execArrive h
  | watchWake => exact execWatchWake h
  | waitPoll => exact execWaitPoll h
  | watchArm => exact execWatchArm h
  | watchCancel => exact execWatchCancel h
  | barArriveAck => exact execBarArriveAck h
  | barRelTgl => exact execBarRelTgl h
  | deadlock => exact execDeadlock h
  | dlRearm => exact execDlRearm h
  | partnerTimeout => exact execPartnerTimeout h
  | fence => exact execFence h
  | fenceComplete => exact execFenceComplete h
  | unfence => exact execUnfence h
  | snapshotBegin => exact execSnapshotBegin h
  | flaconChunkDrain => exact execFlaconChunkDrain h
  | parityPubPoll => exact execParityPubPoll h
  | snapshotComplete => exact execSnapshotComplete h
  | restoreVerify => exact execRestoreVerify h
  | restoreRebuild => exact execRestoreRebuild h
  | restoreState => exact execRestoreState h
  | restoreComplete => exact execRestoreComplete h
  | registryWrite => exact execRegistryWrite h
  | registryRead => exact execRegistryRead h
  | gtWrite => exact execGtWrite h
  | gtRead => exact execGtRead h
  | cvuEnable => exact execCvuEnable h
  | cvuAbsorb => exact execCvuAbsorb h
  | linkNakReceive => exact execLinkNakReceive h
  | linkAckTimeout => exact execLinkAckTimeout h
  | linkFlitReceive => exact execLinkFlitReceive h
  | portEnable => exact execPortEnable h
  | laneTrained => exact execLaneTrained h
  | laneTrainFailed => exact execLaneTrainFailed h
  | fclkMeasure => exact execFclkMeasure h
  | wsBypass => exact execWsBypass h
  | wsExtest => exact execWsExtest h
  | wsIntest => exact execWsIntest h
  | wsScan => exact execWsScan h
  | wsMbist => exact execWsMbist h
  | wsFuseRead => exact execWsFuseRead h
  | wsFuseProg => exact execWsFuseProg h
  | wsFuncAccess => exact execWsFuncAccess h
  | mboxReqWrite => exact execMboxReqWrite h
  | mboxSubmit => exact execMboxSubmit h
  | mboxDiscard => exact execMboxDiscard h
  | mboxRspRead => exact execMboxRspRead h
  | mringRequestTake => exact execMringRequestTake h
  | mringCfgWrite => exact execMringCfgWrite h
  | mringErrClear => exact execMringErrClear h
  | mgmtReplyPlace => exact execMgmtReplyPlace h
  | getInfo => exact execGetInfo h
  | reset => exact execReset h
  | loadImage => exact execLoadImage h
  | loadImageComplete => exact execLoadImageComplete h
  | swapBank => exact execSwapBank h
  | readFuse => exact execReadFuse h
  | setVfOffsets => exact execSetVfOffsets h
  | readSensors => exact execReadSensors h
  | setPowerMode => exact execSetPowerMode h
  | hoststreamStart => exact execHoststreamStart h
  | hoststreamStop => exact execHoststreamStop h
  | debugBreakSet => exact execDebugBreakSet h
  | debugRead => exact execDebugRead h
  | debugWrite => exact execDebugWrite h
  | bistRun => exact execBistRun h
  | bistRunComplete => exact execBistRunComplete h
  | groupTableWrite => exact execGroupTableWrite h
  | clearErrors => exact execClearErrors h
  | ageingReport => exact execAgeingReport h
  | lockDebug => exact execLockDebug h
  | dbgResumeAcc => exact execDbgResumeAcc h
  | dbgResumeExe => exact execDbgResumeExe h
  | blotClear => exact execBlotClear h
  | errlogPop => exact execErrlogPop h
  | errlogClear => exact execErrlogClear h
  | registerWrite => exact execRegisterWrite h
  | rowOperationComplete => exact execRowOperationComplete h
  | updateApplyComplete => exact execUpdateApplyComplete h
theorem step : Keeps (step s) := by
  unfold Machine.step
  split
  · exact .next h.idle
  · exact exec h.same _
end Keeps

/-- Settles O59: every function of the model keeps the bounds, so every command's meaning does, and so does every step. -/
theorem stepKeepsTheInvariants : Obligations.StepKeepsTheInvariants := by
  intro s t hm hs hp e
  obtain ⟨hm', hs', hp'⟩ := Keeps.step ⟨hm, hs, hp⟩ t e
  exact ⟨hm', hs', hp'⟩
end Sys2Proof.Machine
end

section
/-! Proofs about the PARAM and TILE banks (R225, R235, R250). -/

namespace Sys2Proof.Machine

/-! The last word of each index -/

/-- With one more word in front of the list, an index that no later word has takes it. -/
theorem lastOf_cons {α β : Type} (p : α → Bool) (f : α → β) (w : α) (ws : List α) (d : β) :
    (((w :: ws).reverse.find? p).map f).getD d = ((ws.reverse.find? p).map f).getD (if p w then f w else d) := by
  rw [List.reverse_cons, List.find?_append]
  cases ws.reverse.find? p with
  | some x => rfl
  | none => by_cases hw : p w = true <;> simp [hw]

/-- Storing words of a block of registers one after another: each index holds the last word stored there. -/
theorem storeWords_reg {α : Type} (i : α → Nat) (v : α → Word) (b k : Nat) (ws : List α) (s : State) :
    (ws.foldl (fun s w => s.setReg (b + 4 * i w) (v w)) s).reg (b + 4 * k) =
      ((ws.reverse.find? fun w => i w == k).map v).getD (s.reg (b + 4 * k)) := by
  induction ws generalizing s with
  | nil => rfl
  | cons w ws ih =>
    rw [List.foldl_cons, ih, lastOf_cons, State.setReg_reg]
    by_cases h : i w = k
    · simp [h]
    · simp [h, Ne.symm h]
/-- … and the registers of the indices that no word has are as before. -/
theorem storeWords_other {α : Type} (i : α → Nat) (v : α → Word) (b o : Nat) (ws : List α) (ho : ∀ w ∈ ws, o ≠ b + 4 * i w) (s : State) :
    (ws.foldl (fun s w => s.setReg (b + 4 * i w) (v w)) s).reg o = s.reg o := by
  induction ws generalizing s with
  | nil => rfl
  | cons w ws ih =>
    rw [List.foldl_cons, ih fun w hw => ho w (List.mem_cons_of_mem _ hw), State.setReg_reg, if_neg (ho w List.mem_cons_self)]
theorem storeWords_eq {α : Type} (i : α → Nat) (v : α → Word) (b : Nat) (ws : List α) (s : State) :
    ∃ g, ws.foldl (fun s w => s.setReg (b + 4 * i w) (v w)) s = { s with regs := g } := by
  induction ws generalizing s with
  | nil => exact ⟨s.regs, rfl⟩
  | cons w ws ih =>
    obtain ⟨g, hg⟩ := ih (s.setReg (b + 4 * i w) (v w))
    exact ⟨g, by rw [List.foldl_cons, hg]; rfl⟩

/-- From s to u the words ws, with their indices i and values v, have been stored in tile register n of thread t's bank, and nothing
else has changed. -/
structure TileStored {α : Type} (t : Thread) (n : Nat) (i : α → Nat) (v : α → Word) (ws : List α) (s u : State) : Prop where
  words : ∀ k, k < 16 → u.tileWord t n k = ((ws.reverse.find? fun w => i w == k).map v).getD (s.tileWord t n k)
  regs : SameRegsBut ((List.range 16).map fun k => tileBank t + 0x40 * n + 4 * k) s u
  frame : u = { s with regs := u.regs }

/-- Storing words below 16 one after another stores them in the tile register. -/
theorem tileStored {α : Type} (t : Thread) (n : Nat) (i : α → Nat) (v : α → Word) (ws : List α) (hi : ∀ w ∈ ws, i w < 16) (s : State) :
    TileStored t n i v ws s (ws.foldl (fun s w => s.setTileWord t n (i w) (v w)) s) where
  words := fun k _ => storeWords_reg i v (tileBank t + 0x40 * n) k ws s
  regs := fun o ho => by
    refine storeWords_other i v (tileBank t + 0x40 * n) o ws (fun w hw he => ho ?_) s
    exact List.mem_map.mpr ⟨i w, List.mem_range.mpr (hi w hw), he.symm⟩
  frame := by
    obtain ⟨g, hg⟩ := storeWords_eq i v (tileBank t + 0x40 * n) ws s
    change ws.foldl (fun s w => s.setReg (tileBank t + 0x40 * n + 4 * i w) (v w)) s =
      { s with regs := (ws.foldl (fun s w => s.setReg (tileBank t + 0x40 * n + 4 * i w) (v w)) s).regs }
    rw [hg]
/-- A step that stores the words it finds below 16 stores them all where they all are. -/
theorem foldl_ifPos {α : Type} (p : α → Prop) [DecidablePred p] (f : State → α → State) (ws : List α) (h : ∀ w ∈ ws, p w) (s : State) :
    ws.foldl (fun s w => if p w then f s w else s) s = ws.foldl f s := by
  induction ws generalizing s with
  | nil => rfl
  | cons w ws ih =>
    rw [List.foldl_cons, if_pos (h w List.mem_cons_self), ih fun w hw => h w (List.mem_cons_of_mem _ hw), List.foldl_cons]

/-! Instructions -/

theorem exec_paramSet_mayRun {c : Ctx} {s : State} (p : BitVec 8) (v : Opd) (h : s.MayRun c) :
    exec (.paramSet c p v) s = .next (if 63 < p.toNat || opdBad (s.capOpd c v) then s.rejectInstr c (badIndex 1 p.toNat)
      else (s.setParam c.thread p.toNat (s.capOpd c v).imm).advance c) := by
  change execParamSet c p v s = _
  exact h.instr _
theorem exec_tileSet_mayRun {c : Ctx} {s : State} (i : BitVec 8) (ws : List (Nat × Word)) (h : s.MayRun c) :
    exec (.tileSet c i ws) s = .next (if 63 < i.toNat then s.rejectInstr c (badIndex 1 i.toNat)
      else (ws.foldl (fun s w => if w.1 < 16 then s.setTileWord c.thread i.toNat w.1 w.2 else s) s).advance c) := by
  change execTileSet c i ws s = _
  exact h.instr _

/-! The port -/

/-- What a table holds of a key after it was put there. -/
theorem Tab.find_insert_same {α : Type} (t : Tab α) (k : Nat) (v : α) : (t.insert k v).find? (fun e => e.1 == k) = some (k, v) := by
  induction t with
  | nil => simp [Tab.insert]
  | cons e t ih =>
    obtain ⟨j, w⟩ := e
    simp only [Tab.insert]
    by_cases hj : j = k
    · simp [hj]
    · by_cases hlt : k < j <;> simp [hj, hlt, ih]
theorem State.setParam_param (t : Thread) (p : Nat) (v : DWord) (s : State) : (s.setParam t p v).param t p = v := by
  simp [State.param, State.setParam]
theorem State.setParam_ctrs (t : Thread) (p : Nat) (v : DWord) (s : State) : SameCtrsBut [paramBank t + 8 * p] s (s.setParam t p v) := fun o ho => by
  rw [State.setParam, State.setCtr_ctr, if_neg (by simpa using ho)]
theorem exec_paramLow_served {exe : Bool} {s : State} (p : BitVec 6) (lo : Word) (h : s.Served) : exec (.paramRegisterWrite exe p false lo) s =
    .next { s with lowHeld := s.lowHeld.insert (paramBank (if exe then .exe else .acc) + 8 * p.toNat) lo } := by
  change execParamRegisterWrite exe p false lo s = _
  exact runSlow_served _ h
/-- The write of the high word of a PARAM whose low word is held. -/
theorem exec_paramHigh_held {exe : Bool} {s : State} (p : BitVec 6) (hi lo : Word) (h : s.Served)
    (hlo : s.lowHeld.find? (fun e => e.1 == paramBank (if exe then .exe else .acc) + 8 * p.toNat) = some (paramBank (if exe then .exe else .acc) + 8 * p.toNat, lo)) :
    exec (.paramRegisterWrite exe p true hi) s = .next { s.setParam (if exe then .exe else .acc) p.toNat (mk64 hi lo) with
      lowHeld := s.lowHeld.erase (paramBank (if exe then .exe else .acc) + 8 * p.toNat) } := by
  change execParamRegisterWrite exe p true hi s = _
  rw [execParamRegisterWrite, runSlow_served _ h]
  simp only [hlo, if_true, Option.map_some, Option.getD_some]
  rfl

/-- Settles O30: each write sets the words that it names in its own bank. -/
theorem banksTakeTheirWords : Obligations.BanksTakeTheirWords := by
  unfold Obligations.BanksTakeTheirWords
  refine ⟨fun c p v s h hp hv => ?param, fun c p v s h hbad => ?badParam, fun c i ws s h hi hws => ?tile, fun c i ws s h hi => ?badTile,
    fun exe p lo hi s h => ?port⟩
  case param =>
    refine ⟨s.setParam c.thread p.toNat (s.capOpd c v).imm, ?_, State.setParam_param _ _ _ s, State.setParam_ctrs _ _ _ s, rfl⟩
    rw [exec_paramSet_mayRun p v h, hv, decide_eq_false (Nat.not_lt.mpr hp)]
    rfl
  case badParam =>
    rw [exec_paramSet_mayRun p v h, if_pos (by simpa using hbad)]
  case tile =>
    have ht := tileStored c.thread i.toNat Prod.fst Prod.snd ws hws s
    refine ⟨_, ?_, ht.words, ht.regs, ht.frame⟩
    rw [exec_tileSet_mayRun i ws h, if_neg (Nat.not_lt.mpr hi),
      foldl_ifPos (fun w : Nat × Word => w.1 < 16) (fun s w => s.setTileWord c.thread i.toNat w.1 w.2) ws hws]
  case badTile =>
    rw [exec_tileSet_mayRun i ws h, if_pos hi]
  case port =>
    have hhigh := exec_paramHigh_held (exe := exe) (s := { s with
      lowHeld := s.lowHeld.insert (paramBank (if exe then .exe else .acc) + 8 * p.toNat) lo }) p hi lo h (Tab.find_insert_same _ _ _)
    exact ⟨_, _, exec_paramLow_served p lo h, rfl, hhigh, State.setParam_param _ _ _ _, State.setParam_ctrs _ _ _ _, rfl, rfl, rfl⟩

end Sys2Proof.Machine
end

section
/-! Proofs about scalar instructions and the words they are fetched from (R227, R228, R253, R255). -/

namespace Sys2Proof.Machine

/-! Contexts -/

theorem State.setCtxt_frame (c : Ctx) (v : Ctxt) (s : State) : s.setCtxt c v = { s with cc := (s.setCtxt c v).cc } := by
  cases c <;> rfl
theorem State.setCtxt_queues (c : Ctx) (v : Ctxt) (s : State) : (s.setCtxt c v).cc.queues = s.cc.queues := by
  cases c <;> rfl
/-- A context whose X registers are kept reads them as before. -/
theorem State.setCtxt_x {c : Ctx} {v : Ctxt} {s : State} (h : v.x = (s.ctxt c).x) (r : BitVec 5) : (s.setCtxt c v).x c r = s.x c r := by
  simp only [State.x, State.setCtxt_ctxt, h]

/-- From s to u a context's X register d has taken value v, and nothing else has changed. -/
structure XWritten (c : Ctx) (d : BitVec 5) (v : DWord) (s u : State) : Prop where
  frame : u = { s with cc := u.cc }
  x : ∀ r, u.x c r = if r = d ∧ d ≠ 0 then v else s.x c r
  others : ∀ e, e ≠ c → u.ctxt e = s.ctxt e
  pc : (u.ctxt c).pc = (s.ctxt c).pc
  queues : u.cc.queues = s.cc.queues
  preds : u.cc.p = s.cc.p

theorem xWritten (c : Ctx) (d : BitVec 5) (v : DWord) (s : State) : XWritten c d v s (s.setX c d v) where
  frame := by
    rw [(State.setX_only c d v s).1]
    exact State.setCtxt_frame c _ s
  x := fun r => State.setX_x c d r v s
  others := (State.setX_only c d v s).2
  pc := by
    simp only [State.setX]
    split
    · rfl
    · rw [State.setCtxt_ctxt]
  queues := by
    rw [(State.setX_only c d v s).1]
    exact State.setCtxt_queues c _ s
  preds := by
    rw [(State.setX_only c d v s).1]
    cases c <;> rfl

/-! The word of an instruction (R253, R255) -/

theorem State.eccCheck_eccCorr (r : Reader) (a n : Nat) (s : State) :
    (s.eccCheck r a n).eccCorr = s.eccCorr.filter fun e => !eccOverlap e a n := by
  simp only [State.eccCheck]
  obtain ⟨l, k, g, h⟩ := foldl_corr (s.eccCorr.filter fun e => eccOverlap e a n) { s with eccCorr := s.eccCorr.filter fun e => !eccOverlap e a n }
  rw [h]
  obtain ⟨l', k', g', h'⟩ := foldl_logs _ (fun s e => State.eccLog_eq r e s) (s.eccBad.filter fun e => eccOverlap e a n)
    { s with eccCorr := s.eccCorr.filter fun e => !eccOverlap e a n, logs := l, ctrs := k, regs := g }
  rw [h']
/-- A read leaves no correctable error in the words that it reads. -/
theorem State.touchBy_eccCorr (r : Reader) {a n : Nat} (hn : n ≠ 0) (s : State) :
    (s.touchBy r a n).eccCorr = s.eccCorr.filter fun e => !eccOverlap e a n := by
  rw [State.touchBy, if_neg hn]
  obtain ⟨q, l, k, g, h⟩ := (s.eccCheck r a n).accCheck_eq a n
  obtain ⟨d, k', h'⟩ := ((s.eccCheck r a n).accCheck a n).pfRead_eq r.req a n
  rw [h', h]
  exact State.eccCheck_eccCorr r a n s
/-- The ECC word of a byte overlaps it. -/
theorem eccBase_overlaps (a : Nat) : eccOverlap (eccBase a) a 1 = true := by
  have h : eccBase a < a + 1 ∧ a < eccBase a + eccSize (eccBase a) := by
    simp only [eccSize, eccBase]
    split <;> split <;> omega
  simp [eccOverlap, h]

section
variable {c : Ctx} {s : State}

theorem State.fetched_eq (c : Ctx) (s : State) : ∃ (e : List Nat) (q : List (Nat × Nat)) (d : List PfEnt) (l : Logs) (k : Tab DWord) (g : Tab Word),
    s.fetched c = { s with eccCorr := e, poison := q, dma := { s.dma with pf := d }, logs := l, ctrs := k, regs := g } := by
  simp only [State.fetched]
  split
  · exact State.touchBy_eq _ _ _ s
  · exact ⟨s.eccCorr, s.poison, s.dma.pf, s.logs, s.ctrs, s.regs, rfl⟩
/-- Once fetched, an instruction's word has no correctable error. -/
theorem State.fetched_corrected (hbad : s.poisonedAt (s.fetchAddr c) = false) :
    (s.fetched c).eccCorr.contains (eccBase (s.fetchAddr c)) = false := by
  simp only [State.fetched, hbad, Bool.or_false]
  split
  · rw [State.touchBy_eccCorr _ (by decide), List.contains_eq_mem, decide_eq_false_iff_not, List.mem_filter, eccBase_overlaps]
    simp
  · next h => exact Bool.eq_false_iff.mpr h
/-- A context that goes on, at a word that is not uncorrectable, may run once the word is fetched. -/
theorem State.fetched_mayRun (hclk : s.Clocked) (hgo : s.threadGo c = true) (hstall : (s.ctxt c).stall = none)
    (hbad : s.poisonedAt (s.fetchAddr c) = false) : (s.fetched c).MayRun c := by
  have hcorr := State.fetched_corrected hbad
  obtain ⟨e, q, d, l, k, g, h⟩ := s.fetched_eq c
  rw [h] at hcorr ⊢
  refine ⟨hclk, hgo, ?_, hbad, hcorr⟩
  change ((s.ctxt c).stall.all fun k => ([] : List (Nat × Nat)).contains k) = true
  rw [hstall]
  rfl
/-- An instruction whose word is correctable runs on the state that its fetch leaves. -/
theorem instr_fetched (hclk : s.Clocked) (hgo : s.threadGo c = true) (hstall : (s.ctxt c).stall = none)
    (hbad : s.poisonedAt (s.fetchAddr c) = false) (f : State → State) : instr c [] s f = instr c [] (s.fetched c) f := by
  rw [(State.fetched_mayRun hclk hgo hstall hbad).instr]
  simp only [instr, hclk.runFast, hgo, hstall, hbad, Option.all_none, Bool.not_true, Bool.or_false, Bool.false_eq_true, if_false]
/-- An instruction whose word is uncorrectable is dropped. -/
theorem instr_poisoned (hclk : s.Clocked) (hgo : s.threadGo c = true) (hstall : (s.ctxt c).stall = none)
    (hbad : s.poisonedAt (s.fetchAddr c) = true) (f : State → State) : instr c [] s f = .next ((s.fetched c).dropInstr c) := by
  simp only [instr, hclk.runFast, hgo, hstall, hbad, Option.all_none, Bool.not_true, Bool.or_false, Bool.false_eq_true, if_false, if_true]

end

/-! Scalar operations (R228) -/

theorem w64_bit (b : Bool) : w64 (bit b) = if b then 1 else 0 := by cases b <;> rfl
theorem aluVal_lt (a b : DWord) : aluVal .lt a b = if a.toInt < b.toInt then 1 else 0 := by
  simp only [aluVal, w64_bit, BitVec.slt, decide_eq_true_eq]
theorem aluVal_ltu (a b : DWord) : aluVal .ltu a b = if a.toNat < b.toNat then 1 else 0 := by
  simp only [aluVal, w64_bit, BitVec.ult, decide_eq_true_eq]
theorem aluVal_le (a b : DWord) : aluVal .le a b = if a.toInt ≤ b.toInt then 1 else 0 := by
  simp only [aluVal, w64_bit, BitVec.slt, Bool.not_eq_true', decide_eq_false_iff_not, not_lt]
theorem aluVal_leu (a b : DWord) : aluVal .leu a b = if a.toNat ≤ b.toNat then 1 else 0 := by
  simp only [aluVal, w64_bit, BitVec.ult, Bool.not_eq_true', decide_eq_false_iff_not, not_lt]
theorem aluVal_eq (a b : DWord) : aluVal .eq a b = if a = b then 1 else 0 := by
  simp only [aluVal, w64_bit, beq_iff_eq]
theorem aluVal_ne (a b : DWord) : aluVal .ne a b = if a = b then 0 else 1 := by
  simp only [aluVal, w64_bit, bne_iff_ne, ne_eq, ite_not]

section
variable {b : DWord} (hb : b.toNat < 64) (a : DWord)
include hb

theorem aluVal_sll : (aluVal .sll a b).toNat = a.toNat * 2 ^ b.toNat % 2 ^ 64 := by
  simp only [aluVal, if_neg (Nat.not_le.mpr hb), BitVec.toNat_shiftLeft, Nat.shiftLeft_eq]
theorem aluVal_srl : (aluVal .srl a b).toNat = a.toNat / 2 ^ b.toNat := by
  simp only [aluVal, if_neg (Nat.not_le.mpr hb), BitVec.toNat_ushiftRight, Nat.shiftRight_eq_div_pow]
theorem aluVal_sra : (aluVal .sra a b).toInt = a.toInt / 2 ^ b.toNat := by
  simp only [aluVal, if_neg (Nat.not_le.mpr hb), BitVec.toInt_sshiftRight, Int.shiftRight_eq_div_pow]
  norm_cast
end

/-! Instructions that may run -/

/-- The mask of loop unit k holds its bit. -/
theorem unitMask_bit (w : BitVec 4) (k : BitVec 2) : (w ||| (1 : BitVec 4) <<< k.toNat).getLsbD k.toNat = true ∧
    (w &&& ~~~((1 : BitVec 4) <<< k.toNat)).getLsbD k.toNat = false := by
  revert w k
  decide
/-- A Blotter record that is enabled and has room is the last one. -/
theorem State.blotter_blot {t : Nat} {s : State} (hen : s.regBit 0x90200 31 = true) (ht : s.regBit 0x90200 t = true)
    (hroom : s.logs.blot.length < 4096) (src : Nat) (tag : Half) (d : Word) :
    (s.blotter t src tag d).logs.blot = s.logs.blot ++ [⟨s.aclk, t, src, tag, d⟩] := by
  simp only [State.blotter, hen, ht, Bool.and_self, if_true, if_pos hroom]
theorem State.blotter_frame (t src : Nat) (tag : Half) (d : Word) (s : State) :
    s.blotter t src tag d = { s with logs := (s.blotter t src tag d).logs, ctrs := (s.blotter t src tag d).ctrs } := by
  obtain ⟨l, k, h⟩ := s.blotter_eq t src tag d
  rw [h]

theorem exec_scalarInstruction (c : Ctx) (op : ScalarOp) (s : State) : exec (.scalarInstruction c op) s = execScalarInstruction c op s := rfl

section
variable {c : Ctx} {s : State} (h : s.MayRun c)
include h

theorem exec_alu_mayRun {f : Alu} {d a : BitVec 5} {b : Opd} (hb : opdBad (s.capOpd c b) = false) :
    exec (.scalarInstruction c (.alu f d a b)) s = .next ((s.setX c d (aluVal f (s.x c a) (s.capOpd c b).imm)).advance c) := by
  rw [exec_scalarInstruction, execScalarInstruction, h.instr]
  simp only [hb, Bool.false_eq_true, if_false]
theorem exec_param_mayRun {d : BitVec 5} {p : BitVec 8} (hp : p.toNat ≤ 63) :
    exec (.scalarInstruction c (.param d p)) s = .next ((s.setX c d (s.param c.thread p.toNat)).advance c) := by
  rw [exec_scalarInstruction, execScalarInstruction, h.instr]
  simp only [if_neg (Nat.not_lt.mpr hp)]
theorem exec_iter_mayRun (d : BitVec 5) (k : BitVec 2) :
    exec (.scalarInstruction c (.iter d k)) s = .next ((s.setX c d (w64 (s.loopIter c k.toNat))).advance c) :=
  (exec_scalarInstruction c _ s).trans (h.instr _)
theorem exec_setCount_mayRun (k : BitVec 2) (a : BitVec 5) : exec (.scalarInstruction c (.setCount k a)) s =
    .next ((s.setCtxt c { s.ctxt c with
      counts := Tab.set 0 (s.ctxt c).counts k.toNat (lo32 (s.x c a)), written := (s.ctxt c).written ||| (1 : BitVec 4) <<< k.toNat }).advance c) :=
  (exec_scalarInstruction c _ s).trans (h.instr _)
theorem exec_barGen_mayRun (d : BitVec 5) (b : BitVec 4) : exec (.scalarInstruction c (.barGen d b)) s =
    .next ((s.setX c d ((s.reg (0x60114 + 0x20 * b.toNat)).setWidth 64)).advance c) :=
  (exec_scalarInstruction c _ s).trans (h.instr _)
theorem exec_fin_mayRun : exec (.scalarInstruction c .fin) s =
    .next (s.setCtxt c { s.ctxt c with run := false, loops := [], stall := none }).settleMode :=
  (exec_scalarInstruction c _ s).trans (h.instr _)
theorem exec_traceMark_mayRun (k : Word) : exec (.traceMark c k) s = .next ((s.blotter 2 (ctxNum c) (s.ctxt c).tag k).advance c) := by
  change execTraceMark c k s = _
  exact h.instr _
end

/-- Settles O28: every form of scalar instruction, the values of the operations, and a word in error. -/
theorem scalarInstructionsWriteOneRegister : Obligations.ScalarInstructionsWriteOneRegister := by
  unfold Obligations.ScalarInstructionsWriteOneRegister
  refine ⟨fun c f d a b s h hb => ?alu, fun c d p s h hp => ?param, fun c d k s h => ?iter, fun c k a s h => ?setCount, fun c d b s h => ?barGen,
    fun c s h => ?fin, fun a b => ⟨rfl, rfl, rfl, aluVal_lt a b, aluVal_ltu a b, aluVal_le a b, aluVal_leu a b, aluVal_eq a b, aluVal_ne a b,
      fun hb => ⟨aluVal_sll hb a, aluVal_srl hb a, aluVal_sra hb a⟩⟩, fun c k s h => ?mark,
    fun c op s hclk hgo hstall hbad => ?corrected, fun c op s hclk hgo hstall hbad => ?dropped⟩
  case alu =>
    obtain ⟨hf, hx, ho, hpc, hq, hp⟩ := xWritten c d (aluVal f (s.x c a) (s.capOpd c b).imm) s
    exact ⟨_, exec_alu_mayRun h hb, hf, hx, if_pos rfl, ho, hpc, hq, hp⟩
  case param =>
    have hw := xWritten c d (s.param c.thread p.toNat) s
    exact ⟨_, exec_param_mayRun h hp, hw.frame, hw.x⟩
  case iter =>
    have hw := xWritten c d (w64 (s.loopIter c k.toNat)) s
    exact ⟨_, exec_iter_mayRun h d k, hw.frame, hw.x⟩
  case barGen =>
    have hw := xWritten c d ((s.reg (0x60114 + 0x20 * b.toNat)).setWidth 64) s
    exact ⟨_, exec_barGen_mayRun h d b, hw.frame, hw.x⟩
  case setCount =>
    refine ⟨_, exec_setCount_mayRun h k a, State.setCtxt_frame _ _ s, State.setCtxt_x rfl, fun j => ?_, ?_⟩
    · rw [State.setCtxt_ctxt, Tab.get_set]
    · rw [State.setCtxt_ctxt]
      exact (unitMask_bit (s.ctxt c).written k).1
  case fin =>
    exact ⟨_, exec_fin_mayRun h, State.setCtxt_ctxt c _ s, State.setCtxt_frame c _ s, fun e he => State.setCtxt_other he _ s⟩
  case mark =>
    exact ⟨_, exec_traceMark_mayRun h k, State.blotter_frame 2 _ _ k s, fun hen ht hroom => State.blotter_blot hen ht hroom _ _ k⟩
  case corrected =>
    rw [exec_scalarInstruction, exec_scalarInstruction]
    exact instr_fetched hclk hgo hstall hbad _
  case dropped =>
    rw [exec_scalarInstruction]
    exact instr_poisoned hclk hgo hstall hbad _

end Sys2Proof.Machine
end

section
/-! Proofs about branches and loops (R229). -/

namespace Sys2Proof.Machine

/-! The loops that the program counter ends or leaves -/

/-- At a program counter where the innermost loop does not end, no loop ends. -/
theorem loopEnd_off {pc : Word} {l : List LoopRec} (h : ∀ r ∈ l, r.stop ≠ pc) : loopEnd pc l = (pc, l) := by
  cases l with
  | nil => rfl
  | cons r l => simp only [loopEnd, if_neg (h r List.mem_cons_self).symm]
theorem loopEnd_repeats {r : LoopRec} (h : r.iter + 1 < r.count) (l : List LoopRec) :
    loopEnd r.stop (r :: l) = (r.start, { r with iter := r.iter + 1 } :: l) := by
  simp only [loopEnd, if_true, if_pos h]
theorem loopEnd_leaves {r : LoopRec} {l : List LoopRec} (h : r.count ≤ r.iter + 1) (hl : ∀ q ∈ l, q.stop ≠ r.stop) :
    loopEnd r.stop (r :: l) = (r.stop, l) := by
  simp only [loopEnd, if_true, if_neg (Nat.not_lt.mpr h), loopEnd_off hl]
/-- The loops that a branch stays inside of are among those it was in. -/
theorem mem_of_mem_loopsAt {pc : Word} {r : LoopRec} {l : List LoopRec} (h : r ∈ loopsAt pc l) : r ∈ l := by
  induction l with
  | nil => exact h
  | cons q l ih =>
    rw [loopsAt] at h
    split at h
    · exact h
    · exact List.mem_cons_of_mem q (ih h)

section
variable (c : Ctx) (pc : Word) (s : State)

theorem State.goto_ctxt : (s.goto c pc).ctxt c =
    { s.ctxt c with pc := (loopEnd pc (s.ctxt c).loops).1, loops := (loopEnd pc (s.ctxt c).loops).2, stall := none } := State.setCtxt_ctxt c _ s
theorem State.goto_frame : s.goto c pc = { s with cc := (s.goto c pc).cc } := State.setCtxt_frame c _ s
theorem State.goto_queues : (s.goto c pc).cc.queues = s.cc.queues := State.setCtxt_queues c _ s
end
/-- A context that is set and then goes where none of its loops ends. -/
theorem State.setCtxt_goto {c : Ctx} {pc : Word} {v : Ctxt} (h : ∀ r ∈ v.loops, r.stop ≠ pc) (s : State) :
    (s.setCtxt c v).goto c pc = s.setCtxt c { v with pc := pc, stall := none } := by
  rw [State.goto, State.setCtxt_ctxt, loopEnd_off h, State.setCtxt_setCtxt]
section
variable {c : Ctx} {pc : Word} {s : State}

/-- Going where no loop ends sets the program counter and leaves the loops alone. -/
theorem State.goto_off (h : ∀ r ∈ (s.ctxt c).loops, r.stop ≠ pc) :
    ((s.goto c pc).ctxt c).pc = pc ∧ ((s.goto c pc).ctxt c).loops = (s.ctxt c).loops := by
  rw [State.goto_ctxt, loopEnd_off h]
  exact ⟨rfl, rfl⟩
/-- At the end of the innermost body, while iterations remain, the body begins again. -/
theorem State.goto_repeats {r : LoopRec} {l : List LoopRec} (hl : (s.ctxt c).loops = r :: l) (h : r.iter + 1 < r.count) :
    ((s.goto c r.stop).ctxt c).pc = r.start ∧ ((s.goto c r.stop).ctxt c).loops = { r with iter := r.iter + 1 } :: l := by
  rw [State.goto_ctxt, hl, loopEnd_repeats h]
  exact ⟨rfl, rfl⟩
/-- … and after the last iteration the loop is left. -/
theorem State.goto_leaves {r : LoopRec} {l : List LoopRec} (hl : (s.ctxt c).loops = r :: l) (h : r.count ≤ r.iter + 1)
    (hne : ∀ q ∈ l, q.stop ≠ r.stop) : ((s.goto c r.stop).ctxt c).pc = r.stop ∧ ((s.goto c r.stop).ctxt c).loops = l := by
  rw [State.goto_ctxt, hl, loopEnd_leaves h hne]
  exact ⟨rfl, rfl⟩
end

/-! Instructions that may run -/

/-- The iterations that a LOOP of unit k makes: what was written to the unit's count, or the operand (log entry 72). -/
def loopCount (s : State) (c : Ctx) (k : BitVec 2) (n : Opd) : Word :=
  if (s.ctxt c).written.getLsbD k.toNat then Tab.get 0 (s.ctxt c).counts k.toNat else lo32 (s.capOpd c n).imm
/-- A context once its LOOP of unit k has used the count n. -/
def Ctxt.counted (v : Ctxt) (k : BitVec 2) (n : Word) : Ctxt :=
  { v with counts := Tab.set 0 v.counts k.toNat n, written := v.written &&& ~~~((1 : BitVec 4) <<< k.toNat) }
/-- … and once it has nested that loop, whose body ends at e. -/
def Ctxt.nested (v : Ctxt) (k : BitVec 2) (n e : Word) : Ctxt :=
  { v.counted k n with pc := Config.nextPc v.pc, loops := ⟨k.toNat, n.toNat, 0, Config.nextPc v.pc, e⟩ :: v.loops }
/-- A context that a branch takes to a target, before it goes there. -/
def Ctxt.branched (v : Ctxt) (target : Word) : Ctxt := { v with loops := loopsAt target v.loops }

section
variable {c : Ctx} {s : State} (h : s.MayRun c)
include h

theorem exec_branch_mayRun (b : BrCond) (target : Word) : exec (.branch c b target) s = .next (if s.taken c b then
    (s.setCtxt c ((s.ctxt c).branched target)).goto c target else s.advance c) := by
  change execBranch c b target s = _
  exact h.instr _
section
variable {k : BitVec 2} {n : Opd} (e : Word) (hn : opdBad (s.capOpd c n) = false)
include hn

theorem exec_loop_depth (hlen : 4 ≤ (s.ctxt c).loops.length) :
    exec (.loop c k n e) s = .next (s.rejectInstr c { code := 0x3008, unit := 1, cond := 1 }) := by
  change execLoop c k n e s = _
  rw [execLoop, h.instr]
  simp only [hn, hlen, Bool.false_eq_true, if_false, if_true]
theorem exec_loop_skips (hlen : (s.ctxt c).loops.length < 4) (h0 : loopCount s c k n = 0) :
    exec (.loop c k n e) s = .next ((s.setCtxt c ((s.ctxt c).counted k 0)).goto c e) := by
  change execLoop c k n e s = _
  rw [loopCount] at h0
  rw [execLoop, h.instr]
  simp only [hn, h0, if_neg (Nat.not_le.mpr hlen), Bool.false_eq_true, if_false, if_true, Ctxt.counted]
theorem exec_loop_enters (hlen : (s.ctxt c).loops.length < 4) (h0 : loopCount s c k n ≠ 0) :
    exec (.loop c k n e) s = .next (s.setCtxt c ((s.ctxt c).nested k (loopCount s c k n) e)) := by
  change execLoop c k n e s = _
  rw [execLoop, h.instr]
  rw [loopCount] at h0 ⊢
  simp only [hn, h0, if_neg (Nat.not_le.mpr hlen), Bool.false_eq_true, if_false, Ctxt.nested, Ctxt.counted]
end
end

/-- Settles O29: branches by whether they are taken, LOOP by its count and the depth, and the three ways to advance. -/
theorem branchesAndLoopsMoveThePc : Obligations.BranchesAndLoopsMoveThePc := by
  unfold Obligations.BranchesAndLoopsMoveThePc
  refine ⟨fun c b target s h hb hne => ?taken, fun c b target s h hb => ?notTaken, fun c k n e s h hn => ?enters,
    fun c k n e s h hn hlen h0 hne => ?skips, fun c k n e s h hn hlen => exec_loop_depth h e hn hlen,
    fun c r l s hl hpc hr => ?repeats, fun c r l s hl hpc hr hne => ?leaves, fun c s hne => ?advances⟩
  case taken =>
    refine ⟨_, by rw [exec_branch_mayRun h, if_pos hb], ?_⟩
    rw [State.setCtxt_goto fun r hr => hne r (mem_of_mem_loopsAt hr)]
    simp only [State.setCtxt_ctxt]
    exact ⟨trivial, fun r => mem_of_mem_loopsAt, State.setCtxt_frame c _ s, State.setCtxt_x rfl, fun e he => State.setCtxt_other he _ s,
      State.setCtxt_queues c _ s⟩
  case notTaken =>
    rw [exec_branch_mayRun h, hb]
    rfl
  case enters =>
    intro count hlen h0
    refine ⟨_, exec_loop_enters h e hn hlen h0, by rw [State.setCtxt_ctxt]; rfl, by rw [State.setCtxt_ctxt]; rfl, ?_, ?_,
      State.setCtxt_frame c _ s, State.setCtxt_x rfl⟩
    · rw [State.setCtxt_ctxt]
      exact Tab.get_set_same _ _ _ _
    · rw [State.setCtxt_ctxt]
      exact (unitMask_bit _ k).2
  case skips =>
    refine ⟨_, exec_loop_skips h e hn hlen h0, ?_⟩
    rw [State.setCtxt_goto (v := (s.ctxt c).counted k 0) hne]
    exact ⟨by rw [State.setCtxt_ctxt], by rw [State.setCtxt_ctxt]; rfl, State.setCtxt_frame c _ s⟩
  case repeats =>
    rw [State.advance, hpc]
    exact State.goto_repeats hl hr
  case leaves =>
    rw [State.advance, hpc]
    exact State.goto_leaves hl hr hne
  case advances =>
    obtain ⟨hpc, hl⟩ := State.goto_off hne
    exact ⟨hpc, hl, State.goto_queues c _ s, State.goto_frame c _ s⟩

end Sys2Proof.Machine
end

section
/-! Proofs about the enqueue of engine commands (R204, R211, R230, R231). -/

namespace Sys2Proof.Machine

/-- The tag that a captured command of context c carries (R211): a fill's explicit one, or its handler's. -/
def State.capTag (s : State) (c : Ctx) (op : EngOp) : Half :=
  match s.capture c op with
  | .fill f => f.tag.getD (s.ctxt c).tag
  | _ => (s.ctxt c).tag

/-- The packing stage takes no command that context c captures as op. -/
def State.PackPasses (s : State) (c : Ctx) (op : EngOp) : Prop :=
  ∀ f, op = .fill f → c ≠ .acc → isThin f = true → s.packOn = false

/-- Where nothing is held and the packing stage takes nothing, a command is placed in its queues or stalls. -/
theorem State.enqueue_places {c : Ctx} {op : EngOp} {s : State} (hpack : s.cc.pack = []) (hthin : s.PackPasses c op) (q : Nat) (tag : Half) :
    s.enqueue c q op tag = ({ s with cc := { s.cc with seq := s.cc.seq + 1 } }).place q ⟨op, tag, c, s.cc.seq⟩ := by
  by_cases hc : c = .acc
  · simp only [State.enqueue, hc, if_true]
  · cases op with
    | fill f =>
      have hoff : (isThin f && s.packOn) = false := by
        cases hf : isThin f with
        | false => rfl
        | true => exact hthin f rfl hc hf
      simp only [State.enqueue, hc, hoff, State.packFlush_empty hpack, Bool.false_eq_true, if_false, Option.bind_some]
    | _ => simp only [State.enqueue, hc, State.packFlush_empty hpack, if_false, Option.bind_some]

/-- A command is not placed while one of its queues is full. -/
theorem State.place_full {q k : Nat} {e : EngCmd} {s : State} (hk : k ∈ entersQueues q e.op) (hfull : s.room k = false) : s.place q e = none := by
  have hall : (entersQueues q e.op).all s.room = false := List.all_eq_false.mpr ⟨k, hk, by simp [hfull]⟩
  simp only [State.place, hall, Bool.false_eq_true, if_false]

/-- A PARAM index below 64 is resolved: the operand is the sum of its immediate, its X register and its PARAM (R211). -/
theorem State.capOpd_sum {v : Opd} (h : ∀ p, v.p = some p → p.toNat ≤ 63) (c : Ctx) (s : State) : s.capOpd c v = ⟨v.imm +
    (match v.x with | some r => s.x c r | none => 0) + (match v.p with | some p => s.param c.thread p.toNat | none => 0), none, none⟩ := by
  obtain ⟨imm, x, p⟩ := v
  cases p with
  | none => cases x <;> simp only [State.capOpd, add_zero]
  | some p => cases x <;> simp only [State.capOpd, if_pos (h p rfl)]

section
variable {c : Ctx} {q : Nat} {op : EngOp} {s : State} (h : s.MayRunAs c [(6, q)])
include h

/-- A context that must leave the issue to the other one does nothing (R204). -/
theorem exec_enqueue_yields (hy : s.yields c = true) : exec (.engineCommandEnqueue c q op) s = .next s := by
  change execEngineCommandEnqueue c q op s = _
  rw [execEngineCommandEnqueue, h.instr]
  simp only [hy, Bool.true_or, if_true]
/-- A context that has the issue enqueues its captured command, or stalls. -/
theorem exec_enqueue_takes (hy : s.yields c = false) (hq : queueTakes c q op = true) : exec (.engineCommandEnqueue c q op) s =
    .next (((((s.served c).enqueue c q (s.capture c op) (s.capTag c op)).map fun u => u.advance c)).getD (s.stalled c 6 q)) := by
  change execEngineCommandEnqueue c q op s = _
  rw [execEngineCommandEnqueue, h.instr]
  simp only [hy, hq, Bool.not_true, Bool.or_false, Bool.false_eq_true, if_false]
  change Host.Outcome.next (match (s.served c).enqueue c q (s.capture c op) (s.capTag c op) with
    | some s => s.advance c
    | none => s.stalled c 6 q) = _
  cases (s.served c).enqueue c q (s.capture c op) (s.capTag c op) <;> rfl
end

/-- From s to u command e, the next in program order, has entered the queues qs, and context c has used its issue. -/
structure EnqueuedAll (c : Ctx) (qs : List Nat) (e : EngCmd) (s u : State) : Prop where
  queue : ∀ k, u.queue k = if k ∈ qs then { s.queue k with items := (s.queue k).items ++ [e] } else s.queue k
  seq : u.cc.seq = s.cc.seq + 1
  pack : u.cc.pack = s.cc.pack
  ctxts : ∀ d, u.ctxt d = s.ctxt d
  next : c = .e1 → u.cc.e1Next = false
  frame : u = { s with cc := u.cc, ctrs := u.ctrs }

/-- Serving a context leaves all but the starvation of E1 alone. -/
theorem State.served_next (c : Ctx) (s : State) : ∃ b, s.served c = { s with cc := { s.cc with e1Next := b } } ∧ (c = .e1 → b = false) := by
  simp only [State.served]
  split
  · exact ⟨false, rfl, fun _ => rfl⟩
  · next hne => exact ⟨s.cc.e1Next, rfl, fun he => absurd he hne⟩

/-- With room in every queue that it enters, a command of a context that is served enters them. -/
theorem State.served_enqueue {c : Ctx} {q : Nat} {op : EngOp} {s : State} (hpack : s.cc.pack = []) (hthin : s.PackPasses c op)
    (hroom : ∀ k ∈ entersQueues q op, s.room k = true) (tag : Half) :
    ∃ u, (s.served c).enqueue c q op tag = some u ∧ EnqueuedAll c (entersQueues q op) ⟨op, tag, c, s.cc.seq⟩ s u := by
  obtain ⟨b, hb, hnext⟩ := s.served_next c
  obtain ⟨u, hu, hp⟩ := State.place_placed (q := q) (e := ⟨op, tag, c, s.cc.seq⟩)
    (s := { s with cc := { s.cc with e1Next := b, seq := s.cc.seq + 1 } }) hroom
  refine ⟨u, ?_, hp.queue, by rw [hp.frame], by rw [hp.frame], fun d => ?_, fun hc => by rw [hp.frame]; exact hnext hc, by rw [hp.frame]⟩
  · rw [hb]
    exact (State.enqueue_places (s := { s with cc := { s.cc with e1Next := b } }) hpack hthin q tag).trans hu
  · rw [hp.frame]
    cases d <;> rfl
/-- While one of them is full it is not enqueued. -/
theorem State.served_enqueue_full {c : Ctx} {q k : Nat} {op : EngOp} {s : State} (hpack : s.cc.pack = []) (hthin : s.PackPasses c op)
    (hk : k ∈ entersQueues q op) (hfull : s.room k = false) (tag : Half) : (s.served c).enqueue c q op tag = none := by
  obtain ⟨b, hb, -⟩ := s.served_next c
  rw [hb, State.enqueue_places (s := { s with cc := { s.cc with e1Next := b } }) hpack hthin]
  exact State.place_full hk hfull

theorem exec_e1StarveIssue_clocked {s : State} (h : s.Clocked) (hen : s.regBit 0x14000 0 = true) (hst : s.regFld 0x14000 16 16 ≠ 0)
    (hoff : s.offers .e1 = true) (hnext : s.cc.e1Next = false) :
    exec .e1StarveIssue s = .next (({ s with cc := { s.cc with e1Next := true } } : State).count 0x14020 1) := by
  change execE1StarveIssue s = _
  rw [execE1StarveIssue, h.runFast]
  simp only [hen, hoff, hnext, bne_iff_ne.mpr hst, Bool.not_false, Bool.and_self, if_true]

/-- Settles O31: room, a full queue, the capture of operands, and the order between E0 and E1. -/
theorem enqueueCapturesItsOperands : Obligations.EnqueueCapturesItsOperands := by
  unfold Obligations.EnqueueCapturesItsOperands
  refine ⟨fun c q op s h hy hq hpack hthin hroom => ?room, fun c q op s h hy hq hpack hthin hfull => ?full,
    fun c v s hv => State.capOpd_sum hv c s, fun q op s h hn hat hoff => ?e1, fun q op s h hn hoff => ?e0, fun s h hen hst hoff hn => ?starve⟩
  case room =>
    obtain ⟨u, hu, he⟩ := State.served_enqueue hpack hthin hroom (s.capTag c op)
    refine ⟨u, by rw [exec_enqueue_takes h hy hq, hu]; rfl, he.queue, he.seq, he.pack.trans hpack, he.ctxts, he.next, he.frame⟩
  case full =>
    obtain ⟨k, hk, hfull⟩ := hfull
    rw [exec_enqueue_takes h hy hq, State.served_enqueue_full hpack hthin hk hfull]
    rfl
  case e1 =>
    exact exec_enqueue_yields h (by simp only [State.yields, hn, hat, hoff, Bool.not_false, Bool.and_self])
  case e0 =>
    exact exec_enqueue_yields h (by simp only [State.yields, hn, hoff, Bool.and_self])
  case starve =>
    obtain ⟨k, hk⟩ := State.count_eq 0x14020 1 { s with cc := { s.cc with e1Next := true } }
    refine ⟨_, exec_e1StarveIssue_clocked h hen hst hoff hn, by rw [hk], by rw [hk], fun o ho => ?_⟩
    rw [State.count_ctr, if_neg fun hc => ho (List.mem_singleton.mpr hc.1)]
    rfl

end Sys2Proof.Machine
end

section
/-! Proofs about the rejection of an engine command and the skip of a halted thread (R245, R247). -/

namespace Sys2Proof.Machine

/-! Rejection (R245) -/

theorem State.setQueue_queue (q k : Nat) (v : Queue) (s : State) : (s.setQueue q v).queue k = if k = q then v else s.queue k :=
  Tab.get_set Queue.empty s.cc.queues q k v
theorem State.haltThread_halted (t : Thread) (s : State) : (s.haltThread t).halted t = true := by cases t <;> rfl
theorem State.haltThread_queue (t : Thread) (q : Nat) (s : State) : (s.haltThread t).queue q = s.queue q := by cases t <;> rfl

section
variable {r : Rej} (hlog : r.logged = false) (q : Nat) (c : EngCmd) (s : State)
include hlog

/-- A rejection not logged before raises its error, counts it and sets CC_STATUS.REJECTED. -/
theorem State.rejectNote_raises : s.rejectNote q c r = ((s.raise {
    code := r.code, unit := r.unit, tag := c.tag, index := q, thread := ctxNum c.ctx, cond := r.cond, d0 := r.d0, d1 := r.d1, d2 := r.d2
    }).count 0x10120 1).orReg 0x10004 0x100 := by
  simp only [State.rejectNote, hlog, Bool.false_eq_true, if_false]
theorem State.rejectNote_ctr :
    (s.rejectNote q c r).ctr 0x10120 = if s.frozen 0x10120 then s.ctr 0x10120 else s.ctr 0x10120 + 1 := by
  rw [State.rejectNote_raises hlog, State.orReg_ctr, State.count_one, State.raise_ctr _ _ _ (by decide) (by decide),
    (State.raise_accessed _ s).frozen (c := 0x10060) (by decide) (by decide)]
theorem State.rejectNote_reg (o : Nat) : (s.rejectNote q c r).reg o =
    if o = 0x10004 then s.reg 0x10004 ||| 0x100 else if o = 0x04000 then s.reg 0x04000 ||| (if isEventCode r.code then 2 else 1) else s.reg o := by
  rw [State.rejectNote_raises hlog, State.orReg_reg, State.count_reg, State.count_reg, State.raise_reg, State.raise_reg, if_neg (c := 0x10004 = 0x04000) (by decide)]
theorem State.rejectNote_errs (hroom : s.logs.errs.length < 512) : (s.rejectNote q c r).logs.errs = s.logs.errs ++
    [⟨r.code, c.tag, r.unit, q, ctxNum c.ctx, r.cond, r.d0, r.d1, r.d2, s.aclk, w32 (s.logs.raised + 1)⟩] := by
  rw [State.rejectNote_raises hlog, State.orReg_logs, State.count_logs, State.raise_errs _ _ hroom]
end

section
variable {q : Nat} (h17 : q ≠ 17) (h18 : q ≠ 18) (c : EngCmd) (s : State)
include h17 h18

theorem State.haltQueue_engine : s.haltQueue q c = s.setQueue q { (s.queue q) with halted := true, wait := .none } := by
  simp only [State.haltQueue, h17, h18, or_self, if_false]
theorem State.done_engine : s.done q c = s.popQueue q := by
  simp only [State.done, h17, h18, or_self, if_false]
end

/-- After a rejection is noted, its head is held or dropped as REJECT_HALT says: nothing but the queues, the halts and what the fill
queues recorded last changes. -/
theorem State.reject_afterNote (q : Nat) (c : EngCmd) (r : Rej) (s : State) : ∃ u x y a b, s.reject q c r = { s.rejectNote q c r with
    cc := { (s.rejectNote q c r).cc with queues := u, haltAcc := x, haltExe := y }
    still := { (s.rejectNote q c r).still with lastA := a, lastB := b } } :=
  haltOrSkip_eq q c ((s.rejectNote q c r).regBit 0x10000 0) (s.rejectNote q c r)

section
variable {r : Rej} (hlog : r.logged = false) {q : Nat} (h17 : q ≠ 17) (h18 : q ≠ 18) (c : EngCmd) (s : State)
include hlog h17 h18

theorem State.reject_held (h : s.regBit 0x10000 0 = true) : s.reject q c r =
    ((s.rejectNote q c r).setQueue q { s.queue q with halted := true, wait := .none }).haltThread c.ctx.thread := by
  have hbit : (s.rejectNote q c r).regBit 0x10000 0 = true := by
    rw [State.regBit, State.rejectNote_reg hlog]
    exact h
  have hqueue : (s.rejectNote q c r).queue q = s.queue q := by
    obtain ⟨l, k, g, h⟩ := s.rejectNote_eq q c r
    rw [h]
    rfl
  simp only [State.reject, hbit, if_true, State.haltQueue_engine h17 h18, hqueue]
theorem State.reject_dropped (h : s.regBit 0x10000 0 = false) : s.reject q c r = (s.rejectNote q c r).popQueue q := by
  have hbit : (s.rejectNote q c r).regBit 0x10000 0 = false := by
    rw [State.regBit, State.rejectNote_reg hlog]
    exact h
  simp only [State.reject, hbit, Bool.false_eq_true, if_false, State.done_engine h17 h18]
end

/-! Skip (R247) -/

/-- A queue after a skip: a halted one has lost its held head. -/
def Queue.skipped (v : Queue) : Queue := if v.halted then { v with items := v.items.drop 1, halted := false } else v

/-- From s to t the held heads of the queues qs have been dropped, with the watch entries that waits of theirs held. -/
structure Skipped (qs : List Nat) (s t : State) : Prop where
  queue : ∀ k, t.queue k = if k ∈ qs then (s.queue k).skipped else s.queue k
  watch : ∀ w ∈ t.sync.watch, w ∈ s.sync.watch ∧ ∀ q ∈ qs, (s.queue q).halted = true → ¬ (w.2.owner = 1 ∧ w.2.party = q)
  frame : t = { s with cc := { s.cc with queues := t.cc.queues }, sync := t.sync }

theorem Skipped.one (q : Nat) (s : State) : Skipped [q] s (s.skipQueue q) := by
  by_cases hh : (s.queue q).halted = true
  · have hs : s.skipQueue q = (s.setQueue q { s.queue q with items := (s.queue q).items.drop 1, halted := false }).endWait q := if_pos hh
    rw [hs]
    refine ⟨fun k => ?_, fun w hw => ?_, rfl⟩
    · refine (State.setQueue_queue q k _ s).trans ?_
      by_cases hk : k = q
      · subst hk
        simp [Queue.skipped, hh]
      · simp [hk]
    · obtain ⟨hmem, hp⟩ := List.mem_filter.mp hw
      refine ⟨hmem, fun k hk _ => ?_⟩
      obtain rfl := List.mem_singleton.mp hk
      simpa [imp_iff_not_or] using hp
  · have hs : s.skipQueue q = s := if_neg hh
    rw [hs]
    refine ⟨fun k => ?_, fun w hw => ⟨hw, fun k hk hhk => ?_⟩, rfl⟩
    · by_cases hk : k = q
      · subst hk
        simp [Queue.skipped, hh]
      · simp [hk]
    · obtain rfl := List.mem_singleton.mp hk
      exact absurd hhk hh
theorem Skipped.cons {q : Nat} {qs : List Nat} {s t u : State} (hq : q ∉ qs) (h : Skipped [q] s t) (h' : Skipped qs t u) : Skipped (q :: qs) s u where
  queue := fun k => by
    rw [h'.queue, h.queue]
    by_cases hk : k = q
    · subst hk
      simp [hq]
    · simp [hk]
  watch := fun w hw => by
    obtain ⟨hmem, hlater⟩ := h'.watch w hw
    obtain ⟨hmem, hfirst⟩ := h.watch w hmem
    refine ⟨hmem, fun k hk hh => ?_⟩
    rcases List.mem_cons.mp hk with rfl | hk
    · exact hfirst k (List.mem_singleton_self k) hh
    · have hne : k ≠ q := fun he => hq (he ▸ hk)
      exact hlater k hk (by rw [h.queue, if_neg (by simpa using hne), hh])
  frame := by rw [h'.frame, h.frame]
/-- Skipping a list of queues skips each of them. -/
theorem skipQueues_skipped {qs : List Nat} (hnd : qs.Nodup) (s : State) : Skipped qs s (s.skipQueues qs) := by
  induction qs generalizing s with
  | nil => exact ⟨fun _ => rfl, fun w hw => ⟨hw, fun _ hq => nomatch hq⟩, rfl⟩
  | cons q qs ih =>
    obtain ⟨hq, hnd⟩ := List.nodup_cons.mp hnd
    exact Skipped.cons hq (Skipped.one q s) (ih hnd (s.skipQueue q))

/-- CC_SKIP_ACC skips the queues of the access thread and releases it. -/
theorem exec_ccSkipAcc_served {s : State} (h : s.Served) : ∃ t, Skipped (List.range 17) s t ∧ exec .ccSkipAcc s =
    .next { t with cc := { t.cc with haltAcc := false, dispAcc := { t.cc.dispAcc with halted := false } } } :=
  ⟨_, skipQueues_skipped List.nodup_range s, runSlow_served _ h⟩
theorem exec_ccSkipExe_served {s : State} (h : s.Served) : ∃ t, Skipped [17, 18, 19, 20, 21, 22] s t ∧ exec .ccSkipExe s =
    .next { t with cc := { t.cc with haltExe := false, dispExe := { t.cc.dispExe with halted := false } } } :=
  ⟨_, skipQueues_skipped (by decide) s, runSlow_served _ h⟩
/-- The queues of the execute thread. -/
theorem mem_exeQueues (q : Nat) : q ∈ ([17, 18, 19, 20, 21, 22] : List Nat) ↔ 17 ≤ q ∧ q ≤ 22 := by
  simp only [List.mem_cons, List.not_mem_nil, or_false]
  omega

/-- A rejection's entry is the last one of the log. -/
theorem State.reject_errs {r : Rej} (hlog : r.logged = false) (q : Nat) (c : EngCmd) (s : State) (hroom : s.logs.errs.length < 512) :
    (s.reject q c r).logs.errs = s.logs.errs ++
      [⟨r.code, c.tag, r.unit, q, ctxNum c.ctx, r.cond, r.d0, r.d1, r.d2, s.aclk, w32 (s.logs.raised + 1)⟩] := by
  obtain ⟨u, x, y, a, b, hafter⟩ := s.reject_afterNote q c r
  rw [hafter]
  exact State.rejectNote_errs hlog q c s hroom

/-- Settles O33: what a rejection notes, what it does with the head, and the skip of either thread. -/
theorem rejectionHoldsTheHead : Obligations.RejectionHoldsTheHead := by
  unfold Obligations.RejectionHoldsTheHead
  refine ⟨fun q c r s hhead h17 h18 hlog => ?reject, fun s h => ?acc, fun s h => ?exe⟩
  case reject =>
    obtain ⟨u, x, y, a, b, hafter⟩ := s.reject_afterNote q c r
    obtain ⟨u', x', y', a', b', l, k, g, hframe⟩ := s.reject_eq q c r
    have hreg : ∀ o, (s.reject q c r).reg o = (s.rejectNote q c r).reg o := fun o => by rw [hafter]; rfl
    refine ⟨?_, ?_, fun o ho => ?_, fun hroom => ⟨_, State.reject_errs hlog q c s hroom, rfl, rfl, rfl, rfl, rfl, rfl⟩,
      by rw [hframe], by rw [hframe], by rw [hframe], by rw [hframe], fun hhalt => ?_, fun hhalt => ?_⟩
    · rw [← State.rejectNote_ctr hlog q c s, hafter]
      rfl
    · rw [State.regBit, hreg, State.rejectNote_reg hlog, if_pos rfl, BitVec.getLsbD_or]
      exact Bool.or_true _
    · simp only [List.mem_cons, List.not_mem_nil, or_false, not_or] at ho
      rw [hreg, State.rejectNote_reg hlog, if_neg ho.1, if_neg ho.2]
    · rw [State.reject_held hlog h17 h18 c s hhalt, State.haltThread_queue, State.setQueue_queue, if_pos rfl]
      exact ⟨rfl, rfl, State.haltThread_halted _ _⟩
    · obtain ⟨l, k, g, hnote⟩ := s.rejectNote_eq q c r
      rw [State.reject_dropped hlog h17 h18 c s hhalt, State.popQueue_queue, if_pos rfl, hnote]
      exact ⟨rfl, rfl⟩
  case acc =>
    obtain ⟨t, hs, ht⟩ := exec_ccSkipAcc_served h
    have hq : ∀ q, q ∈ List.range 17 ↔ q < 17 := fun q => List.mem_range
    refine ⟨_, ht, fun q h => (hs.queue q).trans (if_pos ((hq q).mpr h)), fun q h => (hs.queue q).trans (if_neg fun hm => ?_), rfl,
      by rw [hs.frame], rfl, fun q h hh w hw => (hs.watch w hw).2 q ((hq q).mpr h) hh, by rw [hs.frame]⟩
    exact Nat.not_lt.mpr h ((hq q).mp hm)
  case exe =>
    obtain ⟨t, hs, ht⟩ := exec_ccSkipExe_served h
    refine ⟨_, ht, fun q h h' => (hs.queue q).trans (if_pos ((mem_exeQueues q).mpr ⟨h, h'⟩)), fun q h => (hs.queue q).trans (if_neg fun hm => ?_), rfl,
      by rw [hs.frame], rfl, fun q h h' hh w hw => (hs.watch w hw).2 q ((mem_exeQueues q).mpr ⟨h, h'⟩) hh, by rw [hs.frame]⟩
    exact Nat.not_le.mpr h ((mem_exeQueues q).mp hm).1

end Sys2Proof.Machine
end

section
/-! Proofs about the MACRO commands that a thread dispatches (R212, R213, R222 to R225, R244, R437, R465). -/

namespace Sys2Proof.Machine

/-! A thread at its MACRO command -/

/-- What a thread does with the MACRO command it is dispatching. -/
theorem State.AtMacro.run {t : Thread} {m : Macro} {s : State} (h : s.AtMacro t m) (f : Macro → State → State) :
    withMacro t s f = .next (f m s) := by
  obtain ⟨hclk, hsv, hcur, hhalt⟩ := h
  rw [withMacro, hclk.runFast]
  simp only [hcur, hsv, hhalt, Bool.not_false, Bool.and_self, if_true]

theorem State.setCtxt_preds (c : Ctx) (v : Ctxt) (s : State) : (s.setCtxt c v).cc.p = s.cc.p := by cases c <;> rfl
theorem State.setDisp_frame (t : Thread) (d : Disp) (s : State) : s.setDisp t d = { s with cc := (s.setDisp t d).cc } := by cases t <;> rfl
theorem State.setDisp_runahead (t : Thread) (d : Disp) (s : State) : (s.setDisp t d).cc.runahead = s.cc.runahead := by cases t <;> rfl

/-! PATCH (R225) -/

/-- Storing PARAM values one after another: each index holds the last value stored there. -/
theorem setParams_param (t : Thread) (k : Nat) (ps : List (BitVec 8 × DWord)) (s : State) :
    (ps.foldl (fun s p => s.setParam t p.1.toNat p.2) s).param t k =
      ((ps.reverse.find? fun p => p.1.toNat == k).map Prod.snd).getD (s.param t k) := by
  induction ps generalizing s with
  | nil => rfl
  | cons p ps ih =>
    rw [List.foldl_cons, ih, lastOf_cons, State.param, State.param, State.setParam, State.setCtr_ctr]
    by_cases h : p.1.toNat = k
    · simp [h]
    · simp [h, Ne.symm h]
theorem setParams_eq (t : Thread) (ps : List (BitVec 8 × DWord)) (s : State) :
    ∃ c, ps.foldl (fun s p => s.setParam t p.1.toNat p.2) s = { s with ctrs := c } := by
  induction ps generalizing s with
  | nil => exact ⟨s.ctrs, rfl⟩
  | cons p ps ih =>
    obtain ⟨c, hc⟩ := ih (s.setParam t p.1.toNat p.2)
    exact ⟨c, by rw [List.foldl_cons, hc]; rfl⟩

/-! The MACRO commands -/

section
variable {t : Thread} {m : Macro} {s : State} (h : s.AtMacro t m)
include h

theorem exec_config_atMacro {idx : BitVec 8} {ws : List (Nat × Word × Option (BitVec 8))} (hk : m.kind = .config false idx ws)
    (hidx : idx.toNat ≤ 63) (hws : ∀ w ∈ ws, w.1 < 16 ∧ w.2.2 = none) :
    exec (.config t) s = .next ((ws.foldl (fun s w => s.setTileWord t idx.toNat w.1 w.2.1) s).endMacro t) := by
  have hbad : (ws.any fun w => (!false && (w.1 == 0 || w.1 == 6 || w.1 == 7 || w.1 == 8)) && w.2.2.any fun p => decide (63 < p.toNat)) = false := by
    refine List.any_eq_false.mpr fun w hw => ?_
    simp [(hws w hw).2]
  change execConfig t s = _
  rw [execConfig, h.run]
  simp only [hk, hbad, decide_eq_false (Nat.not_lt.mpr hidx), Bool.false_eq_true, if_false, Bool.or_self]
  refine congrArg (fun u => Host.Outcome.next (State.endMacro t u)) (List.foldl_ext _ _ _ fun u w hw => ?_)
  simp only [if_pos (hws w hw).1, (hws w hw).2]
theorem exec_patch_atMacro {ps : List (BitVec 8 × DWord)} (hk : m.kind = .patch ps) (hps : ∀ p ∈ ps, p.1.toNat ≤ 63) :
    exec (.patch t) s = .next ((ps.foldl (fun s p => s.setParam t p.1.toNat p.2) s).endMacro t) := by
  have hbad : (ps.any fun p => decide (63 < p.1.toNat)) = false :=
    List.any_eq_false.mpr fun p hp => by simpa using hps p hp
  change execPatch t s = _
  rw [execPatch, h.run]
  simp only [hk, hbad, Bool.false_eq_true, if_false]
theorem exec_replay_atMacro {i : BitVec 10} (hk : m.kind = .replay i) (hi : i.toNat ≤ 255) (hvalid : (s.reg (0x10400 + 4 * i.toNat)).getLsbD 31 = true)
    (hend : fld (s.reg (0x10400 + 4 * i.toNat)) 16 15 + fld (s.reg (0x10400 + 4 * i.toNat)) 0 16 ≤ 32768)
    (hlen : fld (s.reg (0x10400 + 4 * i.toNat)) 0 16 ≠ 0) (hbody : (s.disp t).inBody = false) :
    ∃ k, exec (.replay t) s = .next (({ s with ctrs := k } : State).setDisp t { s.disp t with
      cur := none, replay := some ⟨i.toNat, fld (s.reg (0x10400 + 4 * i.toNat)) 16 15, fld (s.reg (0x10400 + 4 * i.toNat)) 0 16, 0⟩ }) := by
  change ∃ k, execReplay t s = _
  rw [execReplay, h.run]
  simp only [hk, hvalid, if_neg (Bool.eq_false_iff.mp hbody), if_neg (Nat.not_lt.mpr hi), if_neg (Nat.not_lt.mpr hend), if_neg hlen, Bool.not_true,
    Bool.false_eq_true, if_false]
  cases t with
  | acc => exact ⟨s.ctrs, rfl⟩
  | exe =>
    obtain ⟨k, hc⟩ := State.count_eq 0x10118 1 s
    refine ⟨k, ?_⟩
    simp only [if_true, hc]
    rfl
theorem exec_traceHint_atMacro {k : Word} (hk : m.kind = .traceHint k) :
    exec (.traceHint t) s = .next ((s.blotter 2 (stageNum t) m.tag k).endMacro t) := by
  change execTraceHint t s = _
  rw [execTraceHint, h.run]
  simp only [hk]

/-! START (R244, R249) -/

section
variable {n : Nat} (hk : m.kind = .start n)
include hk

theorem exec_start_badContext (hctx : 1 < m.ctx.toNat) : exec (.start t) s = .next (s.rejectMacro t { code := 0x3005, cond := 2 } m.tag) := by
  change execStart t s = _
  rw [execStart, h.run]
  simp only [hk, if_pos hctx]
theorem exec_start_noEntry (hctx : m.ctx.toNat ≤ 1) (hpc : Config.handlerEntry s.bankBytes n = none) :
    exec (.start t) s = .next (s.rejectMacro t { code := 0x300A, cond := 2 } m.tag) := by
  change execStart t s = _
  rw [execStart, h.run]
  simp only [hk, if_neg (Nat.not_lt.mpr hctx), hpc]
end
end

/-- The context on which a START begins its handler (R244). -/
def startCtx (t : Thread) (m : Macro) (s : State) : Ctx := if t = .acc then .acc else if m.ctx = 1 ∧ s.regBit 0x14000 0 = true then .e1 else .e0
/-- A context on which a handler begins. -/
def Ctxt.started (v : Ctxt) (tag : Half) (pc : Word) : Ctxt := { v with run := true, tag := tag, pc := pc, loops := [], walk := none, stall := none }

theorem exec_start_begins {t : Thread} {m : Macro} {n : Nat} {pc : Word} {s : State} (h : s.AtMacro t m) (hk : m.kind = .start n)
    (hctx : m.ctx.toNat ≤ 1) (hpc : Config.handlerEntry s.bankBytes n = some pc) (hrun : (s.ctxt (startCtx t m s)).run = false) :
    exec (.start t) s = .next ((s.setCtxt (startCtx t m s) ((s.ctxt (startCtx t m s)).started m.tag pc)).endMacro t) := by
  have hc : (if t = .acc then Ctx.acc else if m.ctx == 1 && s.regBit 0x14000 0 then .e1 else .e0) = startCtx t m s := by
    simp only [startCtx, Bool.and_eq_true, beq_iff_eq]
  change execStart t s = _
  rw [execStart, h.run]
  simp only [hk, if_neg (Nat.not_lt.mpr hctx), hpc, hc, hrun, Bool.false_eq_true, if_false, Ctxt.started]

/-! HINT (R437) -/

theorem exec_powerHint_atMacro {m : Macro} {k : Byte} {s : State} (h : s.AtMacro .exe m) (hk : m.kind = .powerHint k) :
    exec (.powerHint none) s = .next (State.endMacro .exe { s with pwr := { s.pwr with hint := k } }) := by
  change execPowerHint none s = _
  rw [execPowerHint, h.run]
  simp only [hk]
theorem exec_powerHint_mayRun {c : Ctx} {s : State} (k : Byte) (h : s.MayRun c) :
    exec (.powerHint (some (c, k))) s = .next (State.advance c { s with pwr := { s.pwr with hint := if c = .acc then s.pwr.hint else k } }) := by
  change execPowerHint (some (c, k)) s = _
  rw [execPowerHint, h.instr]
  by_cases hc : c = .acc
  · simp only [if_pos hc]
  · simp only [if_neg hc]

/-- Settles O26: each MACRO command on the thread that is dispatching it. -/
theorem macroCommandsHaveTheirEffect : Obligations.MacroCommandsHaveTheirEffect := by
  unfold Obligations.MacroCommandsHaveTheirEffect
  refine ⟨fun t m idx ws s h hk hidx hws => ?config, fun t m n s h hk => ⟨fun hctx => exec_start_badContext h hk hctx,
    fun hctx hrun pc hpc => ?start, fun hctx hpc => exec_start_noEntry h hk hctx hpc⟩, fun t m ps s h hk hps => ?patch,
    fun t m i s h hk hi hvalid hend hlen hbody => ?replay, fun m k s h hk => exec_powerHint_atMacro h hk,
    fun c k s h => exec_powerHint_mayRun k h, fun t m k s h hk => ?trace⟩
  case config =>
    have hst := tileStored t idx.toNat (fun w : Nat × Word × Option (BitVec 8) => w.1) (fun w => w.2.1) ws (fun w hw => (hws w hw).1) s
    exact ⟨_, exec_config_atMacro h hk hidx hws, hst.words, hst.regs, hst.frame⟩
  case start =>
    exact ⟨_, exec_start_begins h hk hctx hpc hrun, State.setCtxt_frame _ _ s, State.setCtxt_ctxt _ _ s,
      fun d hd => State.setCtxt_other hd _ s, State.setCtxt_queues _ _ s, State.setCtxt_preds _ _ s⟩
  case patch =>
    obtain ⟨c, hc⟩ := setParams_eq t ps s
    exact ⟨_, exec_patch_atMacro h hk hps, fun k _ => setParams_param t k ps s, by rw [hc]⟩
  case replay =>
    obtain ⟨k, hexec⟩ := exec_replay_atMacro h hk hi hvalid hend hlen hbody
    exact ⟨_, hexec, State.setDisp_disp t _ _, State.setDisp_runahead t _ _, by rw [State.setDisp_frame]⟩
  case trace =>
    exact ⟨_, exec_traceHint_atMacro h hk, State.blotter_frame 2 _ _ k s, fun hen ht hroom => State.blotter_blot hen ht hroom _ _ k⟩

end Sys2Proof.Machine
end

section
/-! Proofs about the SYNC MACRO commands that both threads meet at (R220, R242, R246, R309, R311, R401). -/

namespace Sys2Proof.Machine

/-! Both threads at a MACRO command -/

section
variable {m : Macro} {s : State} (hclk : s.Clocked) (hat : s.bothAt = some m)

include hat in
/-- Both threads are dispatching the MACRO command that they stand at. -/
theorem State.bothAt_cur : s.cc.dispAcc.cur = some m ∧ s.cc.dispExe.cur = some m := by
  simp only [State.bothAt] at hat
  split at hat
  · next a b ha hb =>
    split at hat
    · next hc =>
      obtain rfl := Option.some.inj hat
      simp only [Bool.and_eq_true, decide_eq_true_eq] at hc
      obtain ⟨⟨⟨rfl, -⟩, -⟩, -⟩ := hc
      exact ⟨ha, hb⟩
    · cases hat
  · cases hat

include hclk hat

theorem exec_syncLatch_both (hk : m.kind = .latch) (hpred : s.predsOwed = false) :
    exec .syncLatch s = .next ((({ s with cc := { s.cc with pl := s.cc.p } } : State).endMacro .acc).endMacro .exe) := by
  change execSyncLatch s = _
  rw [execSyncLatch, hclk.runFast]
  simp only [hat, hk, hpred, ne_eq, not_true_eq_false, decide_false, Bool.or_self, Bool.false_eq_true, if_false]

section
variable (hk : m.kind = .swap) (hquiet : s.exeQuiet = true)
include hk hquiet

theorem exec_syncSwap_valid (hv : (if s.cc.inService then s.cc.valid0 else s.cc.valid1) = true) :
    exec .syncSwap s = .next (((State.blotter 5 15 m.tag (w32 (bit (!s.cc.inService)))
      { s with cc := { s.cc with inService := !s.cc.inService } }).endMacro .acc).endMacro .exe) := by
  change execSyncSwap s = _
  rw [execSyncSwap, hclk.runFast]
  simp only [hat, hk, hquiet, hv, ne_eq, not_true_eq_false, decide_false, Bool.not_true, Bool.or_self, Bool.false_eq_true, if_false, if_true]
theorem exec_syncSwap_noImage (hv : (if s.cc.inService then s.cc.valid0 else s.cc.valid1) = false) :
    exec .syncSwap s = .next (s.rejectBoth { code := 0x3009, cond := 1 } m.tag) := by
  change execSyncSwap s = _
  rw [execSyncSwap, hclk.runFast]
  simp only [hat, hk, hquiet, hv, ne_eq, not_true_eq_false, decide_false, Bool.not_true, Bool.or_self, Bool.false_eq_true, if_false]
end
end

/-! The arrival on the barrier lines (R309, R401) -/

/-- Context 0 on the barrier lines passes the checks of an arrival. -/
theorem State.barChk_lines {s : State} (hv : s.regBit 0x60100 31 = true) (hf : s.regFld 0x60100 28 3 = 3) : s.barChk 0 = none := by
  have hv' : (s.reg (0x60100 + 0x20 * 0)).getLsbD 31 = true := hv
  have hf' : fld (s.reg (0x60100 + 0x20 * 0)) 28 3 = 3 := hf
  simp only [State.barChk, hv', hf', Bool.not_true, Bool.false_eq_true, if_false, ne_eq, not_true_eq_false, and_false]
  rfl

/-- From s to u context 0 has arrived with generation g on the idle barrier lines. -/
structure LineArrived (g : Word) (s u : State) : Prop where
  regs : u.regs = (s.setReg 0x60114 (g + 1)).regs
  sync : u.sync = { s.sync with arrived := Tab.set none s.sync.arrived 0 (some g), lineReq := true, lineGen := g }
  frame : u = { s with regs := u.regs, sync := u.sync, logs := u.logs, ctrs := u.ctrs }

theorem State.noteArrival_frame (g : Word) (tag : Half) (s : State) : ∃ l k, s.noteArrival 0 g tag =
    { s with regs := (s.setReg 0x60114 (g + 1)).regs, sync := { s.sync with arrived := Tab.set none s.sync.arrived 0 (some g) }, logs := l, ctrs := k } := by
  obtain ⟨k, hk⟩ := State.count_eq 0x60330 1 ({ s with
    regs := (s.setReg 0x60114 (g + 1)).regs, sync := { s.sync with arrived := Tab.set none s.sync.arrived 0 (some g) } })
  obtain ⟨l, k', hl⟩ := State.blotter_eq 6 4 tag g ({ s with
    regs := (s.setReg 0x60114 (g + 1)).regs, sync := { s.sync with arrived := Tab.set none s.sync.arrived 0 (some g) }, ctrs := k })
  refine ⟨l, k', ?_⟩
  rw [← hl, ← hk]
  rfl
theorem State.arriveAt_lines {s : State} (hv : s.regBit 0x60100 31 = true) (hf : s.regFld 0x60100 28 3 = 3) (q : Nat) (cmd : Option EngCmd) (r : Reader) :
    s.arriveAt 0 q cmd r = .made ((s.noteArrival 0 (s.reg 0x60114) r.tag).lineArrive (s.reg 0x60114)) := by
  have hf' : fld (s.reg (0x60100 + 0x20 * 0)) 28 3 = 3 := hf
  simp only [State.arriveAt, State.barChk_lines hv hf, hf', if_true, show (3 : Nat) ≠ 0 by decide, if_false]
theorem lineArrived {s : State} (hreq : s.sync.lineReq = false) (hack : s.sync.lineAck = false) (g : Word) (tag : Half) :
    LineArrived g s ((s.noteArrival 0 g tag).lineArrive g) := by
  obtain ⟨l, k, hn⟩ := s.noteArrival_frame g tag
  have hline : (s.noteArrival 0 g tag).lineArrive g =
      { s.noteArrival 0 g tag with sync := { (s.noteArrival 0 g tag).sync with lineReq := true, lineGen := g } } := by
    rw [State.lineArrive, hn]
    simp only [hreq, hack, Bool.or_self, Bool.false_eq_true, if_false]
  rw [hline, hn]
  exact ⟨rfl, rfl, rfl⟩

/-! The wait for the release (R301, R311) -/

/-- A wait whose word does not satisfy it holds. -/
theorem State.evalWait_holds {r : Reader} {op a : Nat} {t c : Word} {sem : Bool} {s : State} (h1 : s.wordChk a = none)
    (h2 : s.readWord a op = .ok sem c) (h3 : ready sem c t = false) : s.evalWait r op a t = .hold sem (s.touchBy r a 8) := by
  simp only [State.evalWait, h1, h2, h3, Bool.false_eq_true, if_false]
/-- A COUNTER word that a fetch takes is one that a WAIT takes. -/
theorem State.readWord_wait {a : Nat} {c : Word} {s : State} (h : s.readWord a 6 = .ok false c) : s.readWord a 4 = .ok false c := by
  simp only [State.readWord] at h ⊢
  split at h
  · cases h
  next hp =>
  split at h
  · cases h
  next hk =>
  split at h
  · cases h
  next hr =>
  split at h
  · rw [if_neg hp, if_neg hk, if_neg hr]
    exact h
  · cases h
/-- A generation has not reached the next one (R296). -/
theorem reached_next (g : Word) : reached g (g + 1) = false := by
  rw [reached, sub_add_cancel_left]
  decide
/-- Beginning to wait changes the watch table, the polls and the counters. -/
theorem State.startWait_eq (party a : Nat) (t : Word) (sem : Bool) (s : State) : ∃ n w p k, (s.startWait party a t sem).2 =
    { s with sync := { s.sync with began := n, watch := w, polls := p }, ctrs := k } := by
  obtain ⟨k, hk⟩ := State.count_eq 0x60310 1 { s with sync := { s.sync with began := s.sync.began + 1 } }
  simp only [State.startWait, hk]
  split
  · exact ⟨_, _, s.sync.polls, k, rfl⟩
  · obtain ⟨k', hk'⟩ := State.count_eq 0x60328 1 { s with
      sync := { s.sync with began := s.sync.began + 1, polls := s.sync.polls ++ [⟨party, w32 a, t, sem, s.sync.began⟩] }, ctrs := k }
    exact ⟨_, s.sync.watch, _, k', hk'⟩

/-- What a wait that begins on a good word leaves alone. -/
structure BeganWait (v t : State) : Prop where
  sys : t.sys = v.sys
  regs : t.regs = v.regs
  mem : t.mem = v.mem
  cc : t.cc = v.cc
  lineReq : t.sync.lineReq = v.sync.lineReq
  lineGen : t.sync.lineGen = v.sync.lineGen
  arrived : t.sync.arrived = v.sync.arrived

theorem beganWait {a : Nat} {v : State} (r : Reader) (hclean : v.poisonedIn a 8 = false) (ha : a + 8 ≤ 0x08000000) (party b : Nat) (w : Word) (sem : Bool) :
    BeganWait v ((v.touchBy r a 8).startWait party b w sem).2 := by
  have htouch := State.touchBy_regs r hclean ha
  obtain ⟨e, x, d, l, k, g, ht⟩ := v.touchBy_eq r a 8
  obtain ⟨n, ws, p, k', hs⟩ := State.startWait_eq party b w sem (v.touchBy r a 8)
  rw [ht] at htouch
  rw [hs, ht]
  exact ⟨rfl, htouch, rfl, rfl, rfl, rfl, rfl⟩

section
variable {m : Macro} {s : State} (hclk : s.Clocked) (hat : s.bothAt = some m) (hk : m.kind = .barrier 0) (harr : s.cc.dispExe.arrived = none)
  (hwait : s.sync.barWait = none) (hquiet : s.allQuiet = true)
include hclk hat hk harr hwait hquiet

/-- A barrier that arrives and whose release word stands at its generation waits. -/
theorem exec_syncBarrier_waits {u : State} {c : Word} (hchk : s.barChk 0 = none) (hword : s.wordChk (s.releaseAddr 0) = none)
    (hread : s.readWord (s.releaseAddr 0) 6 = .ok false c) (hu : s.arriveAt 0 barParty none (barReader m) = .made u)
    (hheld : (u.setDisp .exe { u.disp .exe with arrived := some (0, s.reg 0x60114) }).evalWait (barReader m) 4 (s.releaseAddr 0) (s.reg 0x60114 + 1) =
      .hold false ((u.setDisp .exe { u.disp .exe with arrived := some (0, s.reg 0x60114) }).touchBy (barReader m) (s.releaseAddr 0) 8)) :
    exec .syncBarrier s = .next (((u.setDisp .exe { u.disp .exe with arrived := some (0, s.reg 0x60114) }).touchBy (barReader m) (s.releaseAddr 0) 8).startWait
      barParty (s.releaseAddr 0) (s.reg 0x60114 + 1) false).2 := by
  have hz : (0 : BitVec 4).toNat = 0 := rfl
  change execSyncBarrier s = _
  rw [execSyncBarrier, hclk.runFast]
  simp only [hat, hk, harr, hwait, hquiet, hz, hchk, hword, hread, hu, Nat.mul_zero, Nat.add_zero, Option.isSome_none, Bool.not_true, Bool.or_self,
    Bool.false_eq_true, if_false]
  rw [hheld]
end

/-- Settles O27: LATCH, SWAP with and without an image, and BARRIER on the barrier lines. -/
theorem syncMacrosMeetOnBothThreads : Obligations.SyncMacrosMeetOnBothThreads := by
  unfold Obligations.SyncMacrosMeetOnBothThreads
  refine ⟨fun m s hclk hat hk hpred => exec_syncLatch_both hclk hat hk hpred, fun m s hclk hat hk hquiet hv => ?swap,
    fun m s hclk hat hk hquiet hv => exec_syncSwap_noImage hclk hat hk hquiet hv,
    fun m s hclk hat hk harr hwait hquiet hv hf hword hreq hack hread hclean => ?barrier⟩
  case swap =>
    obtain ⟨l, k, h⟩ := State.blotter_eq 5 15 m.tag (w32 (bit (!s.cc.inService))) { s with cc := { s.cc with inService := !s.cc.inService } }
    exact ⟨_, exec_syncSwap_valid hclk hat hk hquiet hv, by rw [h], by rw [h]⟩
  case barrier =>
    obtain ⟨-, hcur⟩ := State.bothAt_cur hat
    obtain ⟨hregs, hsync, hframe⟩ := lineArrived hreq hack (s.reg 0x60114) (barReader m).tag
    have harrive := State.arriveAt_lines hv hf barParty none (barReader m)
    generalize (s.noteArrival 0 (s.reg 0x60114) (barReader m).tag).lineArrive (s.reg 0x60114) = u at *
    have hdisp : u.setDisp .exe { u.disp .exe with arrived := some (0, s.reg 0x60114) } = { s with
        cc := { s.cc with dispExe := { s.cc.dispExe with arrived := some (0, s.reg 0x60114) } }
        regs := u.regs, sync := u.sync, logs := u.logs, ctrs := u.ctrs } := by
      rw [hframe]
      rfl
    have hexec := exec_syncBarrier_waits hclk hat hk harr hwait hquiet (State.barChk_lines hv hf) hword hread harrive
      (by rw [hdisp]; exact State.evalWait_holds hword (State.readWord_wait hread) (reached_next _))
    rw [hdisp] at hexec
    generalize hmade : ({ s with
        cc := { s.cc with dispExe := { s.cc.dispExe with arrived := some (0, s.reg 0x60114) } }
        regs := u.regs, sync := u.sync, logs := u.logs, ctrs := u.ctrs } : State) = v at hexec
    have hw : BeganWait v ((v.touchBy (barReader m) (s.releaseAddr 0) 8).startWait barParty (s.releaseAddr 0) (s.reg 0x60114 + 1) false).2 :=
      beganWait _ (by rw [← hmade]; exact State.readWord_clean hread) (by have := State.wordChk_bound hword; omega) _ _ _ _
    have hreg : ∀ o, (((v.touchBy (barReader m) (s.releaseAddr 0) 8).startWait barParty (s.releaseAddr 0) (s.reg 0x60114 + 1) false).2).reg o =
        if o = 0x60114 then s.reg 0x60114 + 1 else s.reg o := fun o => by
      rw [State.reg, hw.regs, hw.sys, ← hmade]
      change Tab.get _ u.regs o = _
      rw [hregs]
      exact State.setReg_reg 0x60114 o _ s
    refine ⟨_, hexec, ?_, ?_, (hreg 0x60114).trans (if_pos rfl), ?_, ?_, ?_, ?_, fun o ho => (hreg o).trans (if_neg (by simpa using ho)), ?_⟩
    · rw [hw.lineReq, ← hmade, hsync]
    · rw [hw.lineGen, ← hmade, hsync]
    · rw [hw.cc, ← hmade]
    · rw [hw.cc, ← hmade]
      exact hcur
    · rw [hw.cc, ← hmade]
    · rw [hw.arrived, ← hmade, hsync]
      exact Tab.get_set_same (none : Option Word) s.sync.arrived 0 (some (s.reg 0x60114))
    · rw [hw.mem, ← hmade]

end Sys2Proof.Machine
end

section
/-! Proofs about the dispatch of MACRO commands (R217, R221, R463, R465). -/

namespace Sys2Proof.Machine

/-! The end of a MACRO command (R217, R243) -/

/-- From s to u a thread has finished a command: nothing but the log, the mode and the dispatch stages has changed. -/
structure Ended (s u : State) : Prop where
  mem : u.mem = s.mem
  regs : u.regs = s.regs
  queues : u.cc.queues = s.cc.queues
  ctrs : ∀ o, o ≠ 0x90220 → u.ctr o = s.ctr o

theorem Ended.trans {s t u : State} (h : Ended s t) (h' : Ended t u) : Ended s u :=
  ⟨h'.mem.trans h.mem, h'.regs.trans h.regs, h'.queues.trans h.queues, fun o ho => (h'.ctrs o ho).trans (h.ctrs o ho)⟩
theorem State.blotter_ended (ty src : Nat) (tag : Half) (d : Word) (s : State) : Ended s (s.blotter ty src tag d) :=
  ⟨by simp, by simp, by simp, fun o ho => s.blotter_ctr ty src o tag d ho⟩
theorem State.settleMode_ended (s : State) : Ended s s.settleMode ∧ s.settleMode.cc = s.cc := by
  simp only [State.settleMode]
  split
  · split
    · simp only [State.setCore]
      obtain ⟨hmem, hregs, hqueues, hctrs⟩ := State.blotter_ended 9 3 0 _ _
      exact ⟨⟨hmem, hregs, hqueues, hctrs⟩, State.blotter_cc _ _ _ _ _⟩
    · exact ⟨⟨rfl, rfl, rfl, fun _ _ => rfl⟩, rfl⟩
  · exact ⟨⟨rfl, rfl, rfl, fun _ _ => rfl⟩, rfl⟩
theorem State.settleCredits_eq (s : State) : ∃ r c, s.settleCredits = { s with cc := { s.cc with returned := r, credits := c } } := by
  simp only [State.settleCredits]
  split
  · exact ⟨s.cc.returned, s.cc.credits, rfl⟩
  · exact ⟨_, _, rfl⟩
/-- Outside a replay body the end of a command frees its entry for the thread. -/
theorem State.endMacro_ended {t : Thread} {s : State} (h : (s.disp t).replay = none) :
    Ended s (s.endMacro t) ∧ ((s.endMacro t).disp t).cur = none ∧ (s.endMacro t).cc.runahead = dropDone (markNext t s.cc.runahead) := by
  have he : s.endMacro t = ((s.setDisp t { s.disp t with cur := none, inBody := false, arrived := none }).entryDone t).settleMode := by
    simp only [State.endMacro, h]
  obtain ⟨r, c, hr⟩ := State.settleCredits_eq ({ s.setDisp t { s.disp t with cur := none, inBody := false, arrived := none } with
    cc := { (s.setDisp t { s.disp t with cur := none, inBody := false, arrived := none }).cc with runahead := dropDone (markNext t
      (s.setDisp t { s.disp t with cur := none, inBody := false, arrived := none }).cc.runahead) } })
  obtain ⟨hend, hcc⟩ := ((s.setDisp t { s.disp t with cur := none, inBody := false, arrived := none }).entryDone t).settleMode_ended
  rw [State.entryDone, hr] at hend hcc
  rw [he, State.entryDone, hr]
  cases t with
  | acc => exact ⟨⟨hend.mem, hend.regs, hend.queues, hend.ctrs⟩, by rw [State.disp, hcc]; rfl, by rw [hcc]; rfl⟩
  | exe => exact ⟨⟨hend.mem, hend.regs, hend.queues, hend.ctrs⟩, by rw [State.disp, hcc]; rfl, by rw [hcc]; rfl⟩

/-! A dispatch -/

/-- The breakpoint units that match a thread's next command of this tag (R463). -/
def State.bpHits (s : State) (t : Thread) (tag : Half) : List Nat :=
  if (s.disp t).skipBp then [] else ([0, 1, 2, 3] : List Nat).filter (s.bpMatch t tag)
theorem State.mem_bpHits {s : State} {t : Thread} {tag : Half} (hskip : (s.disp t).skipBp = false) (b : Nat) :
    b ∈ s.bpHits t tag ↔ b < 4 ∧ s.bpMatch t tag b = true := by
  have hb : b ∈ ([0, 1, 2, 3] : List Nat) ↔ b < 4 := by
    simp only [List.mem_cons, List.not_mem_nil, or_false]
    omega
  simp only [State.bpHits, hskip, Bool.false_eq_true, if_false, List.mem_filter, hb]
theorem State.bpHits_none {s : State} {t : Thread} {tag : Half} (h : (s.disp t).skipBp = true ∨ ∀ b, b < 4 → s.bpMatch t tag b = false) :
    s.bpHits t tag = [] := by
  cases hskip : (s.disp t).skipBp with
  | true => simp only [State.bpHits, hskip, if_true]
  | false =>
    have hall := h.resolve_left (by simp [hskip])
    refine List.eq_nil_iff_forall_not_mem.mpr fun b hb => ?_
    obtain ⟨hlt, hm⟩ := (State.mem_bpHits hskip b).mp hb
    rw [hall b hlt] at hm
    cases hm

section
variable {t : Thread} {e : RunEntry} {m : Macro} {s : State} (hclk : s.Clocked) (hmay : s.mayDispatch t = true) (hrep : (s.disp t).replay = none)
  (hfind : (s.cc.runahead.find? fun e => !doneBy t e) = some e) (hem : e.m = some m) (hpar : e.parBad = false)
include hclk hmay hrep hfind hem hpar

/-- What a thread outside a replay body does with its next command: it stops at a breakpoint, for one of the other thread, or
dispatches it. -/
theorem exec_macroDispatch_next : exec (.macroDispatch t) s = .next (if s.bpHits t m.tag ≠ [] then s.breakAt t m.tag (s.bpHits t m.tag)
    else if (s.disp t).stopNext then s.setDisp t { s.disp t with stopped := true, stopNext := false } else s.dispatch t (some m) false) := by
  change execMacroDispatch t s = _
  have hnext : s.nextMacro t = some (some m, false) := by
    simp only [State.nextMacro, hrep, hfind, Option.map_some, hem, hpar]
  rw [execMacroDispatch, hclk.runFast]
  simp only [hmay, hnext, Bool.not_true, Bool.false_eq_true, if_false, Option.map_some, Option.getD_some]
  rfl
end

/-- A thread that starts to dispatch command m: the dispatch is counted and recorded. -/
def State.dispatched (t : Thread) (m : Macro) (s : State) : State :=
  ((s.setCtr (0x90010 + 8 * stageNum t) (s.ctr (0x90010 + 8 * stageNum t) + 1)).setDisp t { s.disp t with skipBp := false }).blotter 1 (stageNum t) m.tag
    (w32 (kindNum m.kind + 8 * bit (!s.selected m.pred) + 16 * bit false + 256 * (replayOf (s.disp t) m.kind % 256)))

/-- The counter of a thread's dispatches. -/
theorem stageCtr_ne (t : Thread) : 0x90010 + 8 * stageNum t ≠ 0x90220 ∧ 0x90010 + 8 * stageNum t ≠ 0x10108 := by cases t <;> decide

section
variable (t : Thread) (m : Macro) (s : State)

theorem State.dispatched_ended :
    Ended ((s.setCtr (0x90010 + 8 * stageNum t) (s.ctr (0x90010 + 8 * stageNum t) + 1)).setDisp t { s.disp t with skipBp := false }) (s.dispatched t m) :=
  State.blotter_ended _ _ _ _ _
theorem State.dispatched_disp : (s.dispatched t m).disp t = { s.disp t with skipBp := false } := by
  obtain ⟨l, k, h⟩ := State.blotter_eq 1 (stageNum t) m.tag
    (w32 (kindNum m.kind + 8 * bit (!s.selected m.pred) + 16 * bit false + 256 * (replayOf (s.disp t) m.kind % 256)))
    ((s.setCtr (0x90010 + 8 * stageNum t) (s.ctr (0x90010 + 8 * stageNum t) + 1)).setDisp t { s.disp t with skipBp := false })
  rw [State.dispatched, h]
  exact State.setDisp_disp t _ _
theorem State.dispatched_runahead : (s.dispatched t m).cc.runahead = s.cc.runahead := by
  rw [State.dispatched, State.blotter_cc]
  exact State.setDisp_runahead t _ _

/-- A command whose predicate holds: a power hint of the access thread ends at once, another is the one being dispatched (R437). -/
def State.dispatchOn (t : Thread) (m : Macro) (s : State) : State :=
  match m.kind, t with
  | .powerHint _, .acc => s.endMacro t
  | _, _ => s.setDisp t { s.disp t with cur := some m, inBody := false }
/-- A command outside a replay body is dispatched by its predicate (R217, R221). -/
theorem State.dispatch_eq (h : (s.disp t).replay = none) : s.dispatch t (some m) false =
    if s.selected m.pred then (s.dispatched t m).dispatchOn t m
    else (if t = .exe then (s.dispatched t m).count 0x10108 1 else s.dispatched t m).endMacro t := by
  have hsel : ∀ u : State, u.cc.pl = s.cc.pl → u.selected m.pred = s.selected m.pred := fun u hu => by
    simp only [State.selected, hu]
  unfold State.dispatch
  extract_lets d body s1 s2 s3
  have hbody : body = false := by simp only [body, d, h, Option.isSome_none]
  have hs1 : s1 = s := by simp only [s1, d, h]
  have hon : s3.selected m.pred = s.selected m.pred := hsel s3 (by simp only [s3, s2, hs1]; cases t <;> rfl)
  have hs3 : s3.blotter 1 (stageNum t) m.tag (w32 (kindNum m.kind + 8 * bit (!s.selected m.pred) + 16 * bit body + 256 * (replayOf d m.kind % 256))) =
    s.dispatched t m := by simp only [s3, s2, hs1, hbody, d, State.dispatched]
  simp only [hon, hs3]
  clear_value body
  subst hbody
  cases s.selected m.pred with
  | false => rfl
  | true => rfl
theorem State.setDisp_ended (d : Disp) : Ended s (s.setDisp t d) := by cases t <;> exact ⟨rfl, rfl, rfl, fun _ _ => rfl⟩
theorem State.dispatchOn_hint {k : Byte} (hk : m.kind = .powerHint k) : s.dispatchOn .acc m = s.endMacro .acc := by
  simp only [State.dispatchOn, hk]
theorem State.dispatchOn_begins (h : t = .exe ∨ ∀ k, m.kind ≠ .powerHint k) :
    s.dispatchOn t m = s.setDisp t { s.disp t with cur := some m, inBody := false } := by
  unfold State.dispatchOn
  split
  · next k hk => exact absurd hk (h.resolve_left (by decide) k)
  · rfl
theorem State.dispatchOn_ended (h : (s.disp t).replay = none) : Ended s (s.dispatchOn t m) := by
  by_cases hb : t = .exe ∨ ∀ k, m.kind ≠ .powerHint k
  · rw [State.dispatchOn_begins t m s hb]
    exact State.setDisp_ended t s _
  · simp only [not_or, not_forall, not_not] at hb
    obtain ⟨ht, k, hk⟩ := hb
    cases t with
    | acc =>
      rw [State.dispatchOn_hint m s hk]
      exact (State.endMacro_ended h).1
    | exe => exact absurd rfl ht
end

/-- What every dispatch of a thread does: it is counted, and memory, registers and queues are as before. -/
structure Dispatches (t : Thread) (s u : State) : Prop where
  mem : u.mem = s.mem
  regs : u.regs = s.regs
  queues : u.cc.queues = s.cc.queues
  count : u.ctr (0x90010 + 8 * stageNum t) = s.ctr (0x90010 + 8 * stageNum t) + 1

section
variable {t : Thread} {m : Macro} {s : State}

theorem State.dispatched_counts {u : State} (h : Ended (s.dispatched t m) u) : Dispatches t s u := by
  have hd := (State.setDisp_ended t _ { s.disp t with skipBp := false }).trans (State.dispatched_ended t m s) |>.trans h
  refine ⟨hd.mem, hd.regs, hd.queues, (hd.ctrs _ (stageCtr_ne t).1).trans ?_⟩
  rw [State.setCtr_ctr, if_pos rfl]
/-- Counting a skipped command of the execute thread ends nothing. -/
theorem State.countSkipped (u : State) : ∃ v, (if t = .exe then u.count 0x10108 1 else u) = v ∧ v.mem = u.mem ∧ v.regs = u.regs ∧ v.cc = u.cc ∧
    v.ctr (0x90010 + 8 * stageNum t) = u.ctr (0x90010 + 8 * stageNum t) := by
  by_cases ht : t = .exe
  · obtain ⟨k, hk⟩ := State.count_eq 0x10108 1 u
    refine ⟨_, if_pos ht, by rw [hk], by rw [hk], by rw [hk], ?_⟩
    rw [State.count_ctr, if_neg fun h => (stageCtr_ne t).2 h.1]
  · exact ⟨u, if_neg ht, rfl, rfl, rfl, rfl⟩
end

/-! A breakpoint (R463) -/

/-- Recording the hits of breakpoint units: their bits are set in one register, and nothing else but the log changes. -/
structure Hit (hits : List Nat) (s u : State) : Prop where
  bits : ∀ b ∈ hits, b < 4 → u.regBit 0x90000 (8 + b) = true
  kept : ∀ i, s.regBit 0x90000 i = true → u.regBit 0x90000 i = true
  frame : u = { s with regs := u.regs, logs := u.logs, ctrs := u.ctrs }
  ctrs : ∀ o, o ≠ 0x90220 → u.ctr o = s.ctr o

theorem bpBit (b : Nat) (h : b < 4) : (w32 (2 ^ (8 + b))).getLsbD (8 + b) = true := by
  interval_cases b <;> decide
theorem State.hit_one (t : Thread) (tag : Half) (b : Nat) (s : State) :
    Hit [b] s ((s.orReg 0x90000 (w32 (2 ^ (8 + b)))).blotter 4 (stageNum t) tag (w32 b)) where
  bits := fun k hk hlt => by
    obtain rfl := List.mem_singleton.mp hk
    rw [State.regBit, State.blotter_reg, State.orReg_reg, if_pos rfl, BitVec.getLsbD_or, bpBit k hlt, Bool.or_true]
  kept := fun i hi => by
    rw [State.regBit, State.blotter_reg, State.orReg_reg, if_pos rfl, BitVec.getLsbD_or, ← State.regBit, hi, Bool.true_or]
  frame := by
    obtain ⟨l, k, h⟩ := (s.orReg 0x90000 (w32 (2 ^ (8 + b)))).blotter_eq 4 (stageNum t) tag (w32 b)
    rw [h]
    rfl
  ctrs := fun o ho => State.blotter_ctr _ _ _ _ _ _ ho
theorem State.hits_all (t : Thread) (tag : Half) (hits : List Nat) (s : State) :
    Hit hits s (hits.foldl (fun s b => (s.orReg 0x90000 (w32 (2 ^ (8 + b)))).blotter 4 (stageNum t) tag (w32 b)) s) := by
  induction hits generalizing s with
  | nil => exact ⟨fun _ hb => (nomatch hb), fun _ h => h, rfl, fun _ _ => rfl⟩
  | cons b hits ih =>
    have h := s.hit_one t tag b
    have h' := ih ((s.orReg 0x90000 (w32 (2 ^ (8 + b)))).blotter 4 (stageNum t) tag (w32 b))
    rw [List.foldl_cons]
    refine ⟨fun k hk hlt => ?_, fun i hi => h'.kept i (h.kept i hi), by rw [h'.frame, h.frame], fun o ho => (h'.ctrs o ho).trans (h.ctrs o ho)⟩
    rcases List.mem_cons.mp hk with rfl | hk
    · exact h'.kept _ (h.bits k (List.mem_singleton_self k) hlt)
    · exact h'.bits k hk hlt

/-- A thread that meets breakpoints stops before its command (R463). -/
theorem State.breakAt_stops (t : Thread) (tag : Half) (hits : List Nat) (s : State) : ∃ v, Hit hits s v ∧ ∃ d,
    s.breakAt t tag hits = (((v.setDisp t { s.disp t with stopped := true, stopNext := false }).setDisp (other t) d)).interrupt 4 := by
  have h := s.hits_all t tag hits
  refine ⟨_, h, ?_⟩
  simp only [State.breakAt]
  generalize hits.foldl (fun s b => (s.orReg 0x90000 (w32 (2 ^ (8 + b)))).blotter 4 (stageNum t) tag (w32 b)) s = v at h ⊢
  have hd : v.disp t = s.disp t := by
    rw [h.frame]
    cases t <;> rfl
  rw [hd]
  split
  · exact ⟨_, rfl⟩
  · refine ⟨v.disp (other t), congrArg (State.interrupt 4) ?_⟩
    cases t <;> rfl

theorem State.setDisp_other (t : Thread) (d : Disp) (s : State) : (s.setDisp (other t) d).disp t = s.disp t := by cases t <;> rfl
theorem State.interrupt_disp (t : Thread) (m : Word) (s : State) : (s.interrupt m).disp t = s.disp t := by cases t <;> rfl
theorem State.setDisp_queues (t : Thread) (d : Disp) (s : State) : (s.setDisp t d).cc.queues = s.cc.queues := by cases t <;> rfl
theorem State.setDisp_reg (t : Thread) (d : Disp) (o : Nat) (s : State) : (s.setDisp t d).reg o = s.reg o := by cases t <;> rfl

/-- From s to u thread t has stopped at the breakpoint units of a list. -/
structure Stopped (t : Thread) (hits : List Nat) (s u : State) : Prop where
  disp : u.disp t = { s.disp t with stopped := true, stopNext := false }
  mgmt : u.regBit 0x04000 2 = true
  bits : ∀ b ∈ hits, b < 4 → u.regBit 0x90000 (8 + b) = true
  runahead : u.cc.runahead = s.cc.runahead
  queues : u.cc.queues = s.cc.queues
  mem : u.mem = s.mem
  ctrs : ∀ o, o ≠ 0x90220 → u.ctr o = s.ctr o

theorem State.breakAt_stopped (t : Thread) (tag : Half) (hits : List Nat) (s : State) : Stopped t hits s (s.breakAt t tag hits) := by
  obtain ⟨v, hv, d, hbreak⟩ := s.breakAt_stops t tag hits
  rw [hbreak]
  refine ⟨?_, ?_, fun b hb hlt => ?_, ?_, ?_, ?_, fun o ho => ?_⟩
  · rw [State.interrupt_disp, State.setDisp_other, State.setDisp_disp]
  · rw [State.regBit, State.interrupt_reg, if_pos rfl, BitVec.getLsbD_or]
    exact Bool.or_true _
  · rw [State.regBit, State.interrupt_reg, if_neg (by decide), State.setDisp_reg, State.setDisp_reg]
    exact hv.bits b hb hlt
  · rw [State.interrupt_cc, State.setDisp_runahead, State.setDisp_runahead, hv.frame]
  · rw [State.interrupt_cc, State.setDisp_queues, State.setDisp_queues, hv.frame]
  · rw [State.interrupt_mem, State.setDisp_mem, State.setDisp_mem, hv.frame]
  · rw [State.interrupt_ctr, (State.setDisp_ended _ _ d).ctrs o ho, (State.setDisp_ended _ _ _).ctrs o ho, hv.ctrs o ho]

/-- Settles O25: a stop for the other thread's breakpoint, a dispatch by its predicate, and a breakpoint of its own. -/
theorem dispatchTakesTheNextCommand : Obligations.DispatchTakesTheNextCommand := by
  unfold Obligations.DispatchTakesTheNextCommand
  intro t e m s hclk hmay hrep hfind hem hpar
  have hexec := exec_macroDispatch_next hclk hmay hrep hfind hem hpar
  have hrep' : ((s.dispatched t m).disp t).replay = none := by rw [State.dispatched_disp]; exact hrep
  refine ⟨fun hbp hstop => ?stop, fun hbp hstop => ?go, fun hskip hhit => ?bp⟩
  case stop =>
    rw [hexec, State.bpHits_none hbp, if_neg (by simp), if_pos hstop]
  case go =>
    rw [State.bpHits_none hbp, if_neg (by simp), if_neg (by simp [hstop]), State.dispatch_eq t m s hrep] at hexec
    cases hsel : s.selected m.pred with
    | true =>
      rw [hsel, if_pos rfl] at hexec
      obtain ⟨hmem, hregs, hqueues, hcount⟩ := State.dispatched_counts (State.dispatchOn_ended t m (s.dispatched t m) hrep')
      refine ⟨_, hexec, hmem, hregs, hqueues, hcount, fun _ hkind => ?_, fun h => nomatch h⟩
      rw [State.dispatchOn_begins t m _ hkind, State.setDisp_disp, State.setDisp_runahead, State.dispatched_runahead]
      exact ⟨rfl, rfl, rfl⟩
    | false =>
      rw [hsel, if_neg (by decide)] at hexec
      obtain ⟨v, hv, hmem, hregs, hcc, hcount⟩ := State.countSkipped (t := t) (s.dispatched t m)
      rw [hv] at hexec
      have hrepv : (v.disp t).replay = none := by
        simpa only [State.disp, hcc] using hrep'
      obtain ⟨hend, hcur, hrun⟩ := State.endMacro_ended hrepv
      have hd := State.dispatched_counts (t := t) (m := m) (s := s) ⟨rfl, rfl, rfl, fun _ _ => rfl⟩
      refine ⟨_, hexec, hend.mem.trans (hmem.trans hd.mem), hend.regs.trans (hregs.trans hd.regs), hend.queues.trans ?_,
        (hend.ctrs _ (stageCtr_ne t).1).trans (hcount.trans hd.count), fun h => (nomatch h), fun _ => ⟨hcur, ?_⟩⟩
      · rw [hcc]
        exact hd.queues
      · rw [hrun, hcc, State.dispatched_runahead]
  case bp =>
    obtain ⟨b, hb, hm⟩ := hhit
    have hcur : (s.disp t).cur = none := by
      simp only [State.mayDispatch, Bool.and_eq_true, Option.isNone_iff_eq_none] at hmay
      tauto
    have hne : s.bpHits t m.tag ≠ [] := List.ne_nil_of_mem ((State.mem_bpHits hskip b).mpr ⟨hb, hm⟩)
    rw [if_pos hne] at hexec
    obtain ⟨hdisp, hmgmt, hbits, hrun, hqueues, hmem, hctrs⟩ := s.breakAt_stopped t m.tag (s.bpHits t m.tag)
    exact ⟨_, hexec, by rw [hdisp], by rw [hdisp]; exact hcur, hmgmt, fun b hb hm => hbits b ((State.mem_bpHits hskip b).mpr ⟨hb, hm⟩) hb, hrun, hqueues, hmem,
      fun o ho => hctrs o (Nat.ne_of_lt ho)⟩

end Sys2Proof.Machine
end

section
/-! The taking from a command ring that stands in the accumulators (R94, R215). -/

namespace Sys2Proof.Machine

/-- A core that streams from its host, its ring at the start of the accumulators: TAIL is 1 and HEAD 0, so one command is held, and the first
word there has bad parity. -/
def accRing : State :=
  { State.reset.setReg 0x10024 0x08000000 with
    sys := { Sys.reset with poreset := false, lock := true, core := .hostStream, bootStage := 6 }
    cc := { State.reset.cc with ringGo := true }
    mem := [(0x08000000, 1)]
    parBad := [0x08000000] }

/-- The ring is served and a command is held: what the statement asks of a step of ATOMISER_RING_TAKE. -/
theorem accRing_taken : accRing.Clocked ∧ accRing.inService = true ∧ accRing.hostMode = true ∧ accRing.cc.ringGo = true ∧
    accRing.regBit 0x10028 17 = false ∧ accRing.poisonedIn accRing.ringBase 16 = false ∧ accRing.ringWordsOk accRing.ringBase = true ∧
    0 < (accRing.word accRing.ringBase - accRing.word (accRing.ringBase + 8)).toNat ∧
    (accRing.word accRing.ringBase - accRing.word (accRing.ringBase + 8)).toNat ≤ accRing.ringSize ∧ accRing.cc.runahead.length < 512 := by
  decide +kernel
/-- Nothing in the slot is uncorrectable, no parity fails, and the log is empty. -/
theorem accRing_clean : accRing.poisonedIn (accRing.ringBase + 0x40 + 32 * ((accRing.word (accRing.ringBase + 8)).toNat % accRing.ringSize)) 32 = false ∧
    accRing.leading = false ∧ accRing.logs.errs = [] := by
  decide +kernel
/-- Reading TAIL and HEAD checks their parity too: the bad word is logged as ACC_PARITY (R94). -/
theorem accRing_logs : (match exec .atomiserRingTake accRing with | .next t => t.logs.errs.map ErrEntry.code | _ => []) = [0x4001] := by
  decide +kernel

/-- Refutes O24: the read of a ring in the accumulators logs the parity error that it finds, where the statement leaves the log as it was. -/
theorem not_broadcastAndRingFillTheRunAhead : ¬ Obligations.BroadcastAndRingFillTheRunAhead := by
  unfold Obligations.BroadcastAndRingFillTheRunAhead
  rintro ⟨-, -, hring, -⟩
  obtain ⟨hclk, hsv, hhost, hgo, herr, hbad, hok, hheld, hsize, hroom⟩ := accRing_taken
  obtain ⟨hslot, hlead, hlog⟩ := accRing_clean
  obtain ⟨t, ht, -, -, -, -, -, hlogs⟩ := hring accRing hclk hsv (.inl hhost) hgo herr hbad hok hheld hsize hroom
  obtain ⟨e, he, -⟩ := hlogs hslot (by rw [hlog]; decide)
  have hcodes := accRing_logs
  rw [ht] at hcodes
  simp only [he, hlog, hlead, Bool.false_and, Bool.false_eq_true, if_false, List.append_nil, List.map_nil] at hcodes
  cases hcodes

end Sys2Proof.Machine
end

section
/-! Proofs about the list of transfers that a channel holds, and about a transfer that leaves it (R245, R269, R286). -/

namespace Sys2Proof.Machine

/-! The transfers of a channel -/

theorem State.setXfers_xfersOf (ch k : Nat) (l : List Xfer) (s : State) : (s.setXfers ch l).xfersOf k = if k = ch then l else s.xfersOf k :=
  Tab.get_set [] s.dma.xfers ch k l
theorem State.putXfer_xfersOf (x : Xfer) (s : State) :
    (s.putXfer x).xfersOf x.ch = (s.xfersOf x.ch).map fun e => if e.cmd.seq = x.cmd.seq then x else e :=
  (State.setXfers_xfersOf x.ch x.ch _ s).trans (if_pos rfl)
/-- The transfer put in the place of one that the channel holds is then there. -/
theorem State.mem_putXfer {x y : Xfer} {s : State} (hx : x ∈ s.xfersOf y.ch) (hcmd : y.cmd = x.cmd) : y ∈ (s.putXfer y).xfersOf y.ch := by
  rw [State.putXfer_xfersOf]
  exact List.mem_map.mpr ⟨x, hx, if_pos (by rw [hcmd])⟩
/-- The other transfers of the channel are those it held before. -/
theorem State.putXfer_others (x : Xfer) (s : State) : ((s.putXfer x).xfersOf x.ch).filter (fun e => e.cmd.seq != x.cmd.seq) =
    (s.xfersOf x.ch).filter fun e => e.cmd.seq != x.cmd.seq := by
  rw [State.putXfer_xfersOf]
  induction s.xfersOf x.ch with
  | nil => rfl
  | cons e l ih =>
    by_cases h : e.cmd.seq = x.cmd.seq
    · simpa [h] using ih
    · simpa [h] using ih

/-! A transfer that leaves its channel -/

/-- The requests in flight leave the window (R272). -/
theorem foldl_windowSub (l : List Req) (s : State) : ∃ g, l.foldl (fun s (r : Req) => s.windowSub r.group 1) s =
    { s with dma := { s.dma with outstanding := s.dma.outstanding - l.length, groups := g } } := by
  induction l generalizing s with
  | nil => exact ⟨s.dma.groups, rfl⟩
  | cons r l ih =>
    obtain ⟨g, h⟩ := ih (s.windowSub r.group 1)
    refine ⟨g, ?_⟩
    rw [List.foldl_cons, h, List.length_cons, Nat.add_comm, ← Nat.sub_sub]
    rfl
/-- The entry of a transfer is freed when it leaves, where it has one. -/
def freedStreams (x : Xfer) (t : Tab StreamUse) : Tab StreamUse := match x.stream with | some i => Tab.set .free t i .free | none => t
/-- A transfer that leaves frees its entry and what it had in flight, may free its CVU context, and is no longer held by its channel. -/
theorem State.dropXfer_eq (x : Xfer) (s : State) : ∃ g c, s.dropXfer x = { s with
    dma := { s.dma with
      xfers := Tab.set [] s.dma.xfers x.ch ((s.xfersOf x.ch).filter fun e => e.cmd.seq != x.cmd.seq)
      streams := freedStreams x s.dma.streams, outstanding := s.dma.outstanding - x.outst.length, groups := g }
    flacon := { s.flacon with cvu := c } } := by
  obtain ⟨g, h⟩ := foldl_windowSub x.outst s
  simp only [State.dropXfer, h]
  cases hs : x.stream with
  | none =>
    simp only [freedStreams, hs]
    split
    · exact ⟨g, _, rfl⟩
    · exact ⟨g, s.flacon.cvu, rfl⟩
  | some i =>
    simp only [freedStreams, hs]
    split
    · exact ⟨g, _, rfl⟩
    · exact ⟨g, s.flacon.cvu, rfl⟩
section
variable (x : Xfer) (s : State)

@[simp] theorem State.dropXfer_mem : (s.dropXfer x).mem = s.mem := by
  obtain ⟨g, c, h⟩ := s.dropXfer_eq x
  rw [h]
@[simp] theorem State.dropXfer_regs : (s.dropXfer x).regs = s.regs := by
  obtain ⟨g, c, h⟩ := s.dropXfer_eq x
  rw [h]
@[simp] theorem State.dropXfer_reg (o : Nat) : (s.dropXfer x).reg o = s.reg o := by
  obtain ⟨g, c, h⟩ := s.dropXfer_eq x
  rw [h]
  rfl
@[simp] theorem State.dropXfer_ctrs : (s.dropXfer x).ctrs = s.ctrs := by
  obtain ⟨g, c, h⟩ := s.dropXfer_eq x
  rw [h]
@[simp] theorem State.dropXfer_slots : (s.dropXfer x).slots = s.slots := by
  obtain ⟨g, c, h⟩ := s.dropXfer_eq x
  rw [h]
@[simp] theorem State.dropXfer_cc : (s.dropXfer x).cc = s.cc := by
  obtain ⟨g, c, h⟩ := s.dropXfer_eq x
  rw [h]
@[simp] theorem State.dropXfer_faults : (s.dropXfer x).dma.faults = s.dma.faults := by
  obtain ⟨g, c, h⟩ := s.dropXfer_eq x
  rw [h]
@[simp] theorem State.dropXfer_outstanding : (s.dropXfer x).dma.outstanding = s.dma.outstanding - x.outst.length := by
  obtain ⟨g, c, h⟩ := s.dropXfer_eq x
  rw [h]
end
theorem State.dropXfer_xfersOf (x : Xfer) (s : State) :
    (s.dropXfer x).xfersOf x.ch = (s.xfersOf x.ch).filter fun e => e.cmd.seq != x.cmd.seq := by
  obtain ⟨g, c, h⟩ := s.dropXfer_eq x
  rw [h]
  exact Tab.get_set_same [] s.dma.xfers x.ch _
theorem State.dropXfer_stream {x : Xfer} {i : Nat} (hi : x.stream = some i) (s : State) : (s.dropXfer x).stream i = .free := by
  obtain ⟨g, c, h⟩ := s.dropXfer_eq x
  rw [h, freedStreams, hi]
  exact Tab.get_set_same .free s.dma.streams i .free

/-- A late rejection changes what a rejection changes: no memory, no engine. -/
theorem State.rejectLate_eq (q : Nat) (c : EngCmd) (r : Rej) (s : State) :
    ∃ u x y a b l k g, s.rejectLate q c r = { s with
      cc := { s.cc with queues := u, haltAcc := x, haltExe := y }, still := { s.still with lastA := a, lastB := b }, logs := l, ctrs := k, regs := g } := by
  simp only [State.rejectLate]
  split
  · obtain ⟨l, k, g, h⟩ := s.rejectNote_eq q c r
    exact ⟨_, _, _, _, _, l, k, g, h⟩
  · obtain ⟨u, x, y, a, b, l, k, g, h⟩ := (s.setQueue q { s.queue q with items := c :: (s.queue q).items }).reject_eq q c r
    rw [h]
    split
    · exact ⟨u, x, y, a, b, l, k, g, rfl⟩
    · exact ⟨_, x, y, a, b, l, k, g, rfl⟩

/-- From s to t transfers and queues may have changed, but no memory, no translation, and of Flacon only who holds a CVU context. -/
structure ChannelOnly (s t : State) : Prop where
  mem : t.mem = s.mem
  sync : t.sync = s.sync
  atc : t.dma.atc = s.dma.atc
  xids : t.dma.xids = s.dma.xids
  flacon : t.flacon = { s.flacon with cvu := t.flacon.cvu }

theorem ChannelOnly.trans {s t u : State} (h : ChannelOnly s t) (h' : ChannelOnly t u) : ChannelOnly s u where
  mem := h'.mem.trans h.mem
  sync := h'.sync.trans h.sync
  atc := h'.atc.trans h.atc
  xids := h'.xids.trans h.xids
  flacon := by rw [h'.flacon, h.flacon]

theorem State.putXfer_channelOnly (x : Xfer) (s : State) : ChannelOnly s (s.putXfer x) := ⟨rfl, rfl, rfl, rfl, rfl⟩
theorem State.endXfer_channelOnly (x : Xfer) (r : Rej) (s : State) : ChannelOnly s (s.endXfer x r) := by
  obtain ⟨g, c, hd⟩ := s.dropXfer_eq x
  obtain ⟨u, p, q, a, b, l, k, w, hr⟩ := (s.dropXfer x).rejectLate_eq x.ch x.cmd r
  rw [State.endXfer, hr, hd]
  exact ⟨rfl, rfl, rfl, rfl, rfl⟩
theorem State.failXfer_channelOnly (x : Xfer) (s : State) : ChannelOnly s (s.failXfer x) := by
  simp only [State.failXfer]
  split
  · exact ⟨rfl, rfl, rfl, rfl, rfl⟩
  · split
    · exact ⟨rfl, rfl, rfl, rfl, rfl⟩
    · exact ChannelOnly.trans (t := s.orReg (0x50100 + 4 * x.ch) 0x80000) ⟨rfl, rfl, rfl, rfl, rfl⟩ (State.endXfer_channelOnly _ _ _)
theorem State.errXfer_channelOnly (x : Xfer) (st : Nat) (s : State) : ChannelOnly s (s.errXfer x st) := by
  rw [State.errXfer]
  exact (State.putXfer_channelOnly _ s).trans (State.failXfer_channelOnly _ _)

theorem State.failXfer_ok {x : Xfer} (h : x.err = none) (s : State) : s.failXfer x = s := by
  rw [State.failXfer, h]
/-- A transfer in error stays while something of it is in flight (R286). -/
theorem State.failXfer_flying {x : Xfer} (h : x.outst ≠ []) (s : State) : s.failXfer x = s := by
  simp only [State.failXfer]
  split
  · rfl
  · exact if_pos (by simpa using h)
theorem State.errXfer_flying {x : Xfer} (h : x.outst ≠ []) (st : Nat) (s : State) :
    s.errXfer x st = s.putXfer { x with err := some (x.err.getD st), xwait := none } :=
  State.failXfer_flying (x := { x with err := some (x.err.getD st), xwait := none }) h _

end Sys2Proof.Machine
end

section
/-! Proofs about translation (R278, R279, R288, R392) and the patrol scrubber (R256). -/

namespace Sys2Proof.Machine

/-! The end of a translation -/

/-- The state once a translation request is no longer outstanding (R278). -/
def State.endXid (i : Nat) (s : State) : State :=
  { s with dma := { s.dma with xids := s.dma.xids.filter fun (x : Nat × Nat) => x.1 != i } }
theorem State.endXid_xids (i v : Nat) (s : State) : (i, v) ∉ (s.endXid i).dma.xids := by
  simp [State.endXid]

/-- Nothing but transfers waits on translation request i. -/
structure State.OnlyXfersWait (i : Nat) (s : State) : Prop where
  queues : ∀ q, q < 23 → (s.queue q).wait ≠ .xlate i
  barrier : s.sync.barWait ≠ some i
  flacon : s.flacon.wxid ≠ some i

theorem State.flRefuse_other {i : Nat} {s : State} (h : s.flacon.wxid ≠ some i) : s.flRefuse i = s := by
  simp only [State.flRefuse]
  split
  · rfl
  · exact if_neg h
/-- A refused translation that only transfers wait on rejects no queue head and no barrier, and ends no write of Flacon. -/
theorem State.OnlyXfersWait.refuses_none {i : Nat} {s : State} (h : s.OnlyXfersWait i) (st : Nat) : (s.flRefuse i).refuseHeads i st = s := by
  have hfold : ∀ (l : List Nat) (f : State → Nat → State), (∀ q ∈ l, f s q = s) → l.foldl f s = s := fun l f hf => by
    induction l with
    | nil => rfl
    | cons q l ih => rw [List.foldl_cons, hf q List.mem_cons_self, ih fun q hq => hf q (List.mem_cons_of_mem _ hq)]
  rw [State.flRefuse_other h.flacon]
  simp only [State.refuseHeads]
  rw [hfold, if_neg h.barrier]
  intro q hmem
  split
  · next x c hw _ => exact if_neg fun (hx : x = i) => h.queues q (List.mem_range.mp hmem) (hx ▸ hw)
  · rfl
theorem State.OnlyXfersWait.putXfer {i : Nat} {s : State} (h : s.OnlyXfersWait i) (y : Xfer) : State.OnlyXfersWait i (s.putXfer y) :=
  ⟨h.queues, h.barrier, h.flacon⟩
/-- A queue head that is rejected for a refused translation changes no memory and no transfer. -/
theorem State.refuseHeads_channelOnly {i : Nat} {s : State} (hb : s.sync.barWait ≠ some i) (st : Nat) : ChannelOnly s (s.refuseHeads i st) := by
  have hfold : ∀ (l : List Nat) (f : State → Nat → State), (∀ s q, ChannelOnly s (f s q)) → ∀ s, ChannelOnly s (l.foldl f s) := fun l f hf => by
    induction l with
    | nil => exact fun s => ⟨rfl, rfl, rfl, rfl, rfl⟩
    | cons q l ih => exact fun s => (hf s q).trans (ih _)
  simp only [State.refuseHeads]
  generalize hf : (List.range 23).foldl _ s = t
  have ht : ChannelOnly s t := by
    rw [← hf]
    refine hfold _ _ (fun s q => ?_) s
    split
    · split
      · obtain ⟨u, x, y, a, b, l, k, g, h⟩ := s.reject_eq q _ (transferError i st)
        rw [h]
        exact ⟨rfl, rfl, rfl, rfl, rfl⟩
      · exact ⟨rfl, rfl, rfl, rfl, rfl⟩
    · exact ⟨rfl, rfl, rfl, rfl, rfl⟩
  rw [if_neg (by rw [ht.sync]; exact hb)]
  exact ht

/-- What a refused translation with status st does to a transfer that waits on it (R279, R286). -/
def State.refuseWaiter (st : Nat) (x : Xfer) (s : State) : State :=
  if st = 2 then s.refuseXfer 2 false x else s.errXfer x (if st = 1 || 4 ≤ st then 4 else 3)
theorem State.refuseWaiter_channelOnly (st : Nat) (x : Xfer) (s : State) : ChannelOnly s (s.refuseWaiter st x) := by
  simp only [State.refuseWaiter, State.refuseXfer]
  split
  · split
    exacts [s.putXfer_channelOnly _, s.errXfer_channelOnly x 2]
  · exact s.errXfer_channelOnly x _
/-- A data chunk whose translation is refused faults its transfer (R279). -/
theorem State.refuseWaiter_faults {x : Xfer} (h : x.waitsData = true) (s : State) :
    s.refuseWaiter 2 x = s.putXfer { x with fault := some false, xwait := none } := by
  simp only [State.refuseWaiter, State.refuseXfer, h, if_true]
/-- Any other refusal puts a transfer with requests in flight into error (R286; POISON as NO_TARGET, log entry 77). -/
theorem State.refuseWaiter_errs {st : Nat} {x : Xfer} (h1 : 1 ≤ st) (h2 : st ≠ 2) (h : x.outst ≠ []) (s : State) :
    s.refuseWaiter st x = s.putXfer { x with err := some (x.err.getD (if st = 3 then 3 else 4)), xwait := none } := by
  rw [State.refuseWaiter, if_neg h2, State.errXfer_flying h]
  congr 4
  by_cases h3 : st = 3
  · simp [h3]
  · simp [h3]
    omega

/-! XRESP, XREQ_TIMEOUT and XINV -/

section
variable {lane : BitVec 3} {f : Flit} {s u : State} (h : s.Receives lane.toNat 9 f u)
include h

theorem exec_xrespReceive_unknown (hx : s.dma.xids.find? (fun x => x.1 == hfld f.hdr 70 6) = none) :
    exec (.xrespReceive lane) s = .next (u.flitInvalid lane.toNat) := by
  rw [← h.portOnly.dma] at hx
  obtain ⟨hclk, htake⟩ := h
  change execXrespReceive lane s = _
  rw [execXrespReceive, hclk.runFast, htake]
  simp only [hx]
/-- An answer that grants reads and writes enters the cache, and refuses nothing (R278). -/
theorem exec_xrespReceive_grants {vpn : Nat} (hx : s.dma.xids.find? (fun x => x.1 == hfld f.hdr 70 6) = some (hfld f.hdr 70 6, vpn))
    (hst : hfld f.hdr 66 4 = 0) (hrd : f.hdr.getLsbD 63 = true) (hwr : f.hdr.getLsbD 62 = true) :
    ∃ b, exec (.xrespReceive lane) s = .next { u.endXid (hfld f.hdr 70 6) with
      dma := { (u.endXid (hfld f.hdr 70 6)).dma with
        atc := (if 4096 ≤ s.dma.atc.length then s.dma.atc.drop 1 else s.dma.atc) ++
          [⟨vpn, hfld f.hdr 64 2, hfld f.hdr 76 52, true, true, BitVec.ofNat 16 (s.regFld 0x50030 16 16)⟩] }
      sync := { u.sync with barWait := b } } := by
  have hreg : s.regFld 0x50030 16 16 = u.regFld 0x50030 16 16 := by rw [State.regFld, State.regFld, h.portOnly.reg]
  rw [hreg, ← h.portOnly.dma]
  rw [← h.portOnly.dma] at hx
  obtain ⟨hclk, htake⟩ := h
  change ∃ b, execXrespReceive lane s = _
  rw [execXrespReceive, hclk.runFast, htake]
  simp only [hx, hst, hrd, hwr, decide_true, Bool.not_true, Bool.or_self, Bool.false_eq_true, if_false, ite_self, List.filter_false, List.foldl_nil]
  exact ⟨_, rfl⟩
/-- A refused translation reaches the one transfer that waits on it. -/
theorem exec_xrespReceive_refuses {vpn : Nat} {x : Xfer} (hx : s.dma.xids.find? (fun e => e.1 == hfld f.hdr 70 6) = some (hfld f.hdr 70 6, vpn))
    (hst : 1 ≤ hfld f.hdr 66 4) (hw : s.waiters (hfld f.hdr 70 6) = [x]) : exec (.xrespReceive lane) s =
      .next ((((u.endXid (hfld f.hdr 70 6)).refuseWaiter (hfld f.hdr 66 4) x).flRefuse (hfld f.hdr 70 6)).refuseHeads (hfld f.hdr 70 6)
        (if hfld f.hdr 66 4 = 2 then 2 else if hfld f.hdr 66 4 = 1 || 4 ≤ hfld f.hdr 66 4 then 4 else 3)) := by
  have hw' : (u.endXid (hfld f.hdr 70 6)).waiters (hfld f.hdr 70 6) = [x] := by
    rw [← hw, State.waiters, State.waiters, ← h.portOnly.dma]
    rfl
  rw [← h.portOnly.dma] at hx
  obtain ⟨hclk, htake⟩ := h
  have hok : ¬ hfld f.hdr 66 4 = 0 := by omega
  change execXrespReceive lane s = _
  rw [execXrespReceive, hclk.runFast, htake]
  simp only [hx, hok, decide_false, Bool.not_false, Bool.true_or, if_true, Bool.false_or, decide_eq_true_eq]
  rw [← State.endXid, hw']
  rfl
end

/-- A translation that nothing answers in time ends the one transfer that waits on it (R392). -/
theorem exec_xreqTimeout_ends {i : BitVec 6} {x : Xfer} {s : State} (h : s.Clocked) (hx : s.dma.xids.any (fun e => e.1 == i.toNat) = true)
    (hw : s.waiters i.toNat = [x]) : exec (.xreqTimeout i) s =
      .next ((((s.endXid i.toNat).errXfer x 3).flRefuse i.toNat).refuseHeads i.toNat 3) := by
  have hw' : (s.endXid i.toNat).waiters i.toNat = [x] := hw
  change execXreqTimeout i s = _
  rw [execXreqTimeout, h.runFast]
  simp only [hx, Bool.not_true, Bool.false_eq_true, if_false]
  rw [← State.endXid, hw']
  rfl

/-- What an XRESP that refuses leaves of the one transfer that waits on it, and what it leaves unchanged (R279, R286). -/
theorem xrespReceive_refused {lane : BitVec 3} {f : Flit} {s u : State} (h : s.Receives lane.toNat 9 f u) {vpn : Nat} {x : Xfer}
    (hx : s.dma.xids.find? (fun e => e.1 == hfld f.hdr 70 6) = some (hfld f.hdr 70 6, vpn)) (hst : 1 ≤ hfld f.hdr 66 4)
    (hw : s.waiters (hfld f.hdr 70 6) = [x]) (hmem : x ∈ s.xfersOf x.ch) (honly : s.OnlyXfersWait (hfld f.hdr 70 6)) :
    ∃ t, exec (.xrespReceive lane) s = .next t ∧
      (hfld f.hdr 66 4 = 2 → x.waitsData = true → { x with fault := some false, xwait := none } ∈ t.xfersOf x.ch ∧ t.regs = s.regs) ∧
      (hfld f.hdr 66 4 ≠ 2 → x.outst ≠ [] →
        { x with err := some (x.err.getD (if hfld f.hdr 66 4 = 3 then 3 else 4)), xwait := none } ∈ t.xfersOf x.ch ∧ t.regs = s.regs) ∧
      t.dma.atc = s.dma.atc ∧ t.mem = s.mem := by
  have ht := exec_xrespReceive_refuses h hx hst hw
  obtain ⟨⟨p, k, n, rfl⟩, -⟩ := h.portOnly
  have hu : State.OnlyXfersWait (hfld f.hdr 70 6) (State.endXid (hfld f.hdr 70 6) { s with port := p, ctrs := k, freeCtr := n }) :=
    ⟨honly.queues, honly.barrier, honly.flacon⟩
  refine ⟨_, ht, fun h2 hdata => ?_, fun h2 hout => ?_, ?_⟩
  · rw [h2, State.refuseWaiter_faults hdata, (hu.putXfer _).refuses_none]
    exact ⟨State.mem_putXfer hmem rfl, rfl⟩
  · rw [State.refuseWaiter_errs hst h2 hout, (hu.putXfer _).refuses_none]
    exact ⟨State.mem_putXfer hmem rfl, rfl⟩
  · have hr := State.refuseWaiter_channelOnly (hfld f.hdr 66 4) x (State.endXid (hfld f.hdr 70 6) { s with port := p, ctrs := k, freeCtr := n })
    rw [State.flRefuse_other (by rw [hr.flacon]; exact hu.flacon)]
    have hh := State.refuseHeads_channelOnly (i := hfld f.hdr 70 6) (by rw [hr.sync]; exact hu.barrier)
    exact ⟨(hh _).atc.trans hr.atc, (hh _).mem.trans hr.mem⟩

/-- An invalidation drops the entries that its scope covers, and is answered (R392). -/
theorem exec_xinvReceive_drops {lane : BitVec 3} {f : Flit} {s u : State} (h : s.Receives lane.toNat 10 f u) (hscope : hfld f.hdr 58 2 ≠ 3) :
    ∃ t, exec (.xinvReceive lane) s = .next t ∧ PortOnly { u with dma := { u.dma with atc := u.dma.atc.filter fun e =>
      !(hfld f.hdr 58 2 == 2 || (e.ctxId.toNat == hfld f.hdr 60 16 && (hfld f.hdr 58 2 == 1 || covers e (hfld f.hdr 76 52)))) } } t := by
  obtain ⟨hclk, htake⟩ := h
  change ∃ t, execXinvReceive lane s = _ ∧ _
  rw [execXinvReceive, hclk.runFast, htake]
  simp only [hscope, if_false]
  exact ⟨_, rfl, State.send_portOnly _ _ _⟩
theorem exec_xinvReceive_malformed {lane : BitVec 3} {f : Flit} {s u : State} (h : s.Receives lane.toNat 10 f u) (hscope : hfld f.hdr 58 2 = 3) :
    exec (.xinvReceive lane) s = .next (u.flitInvalid lane.toNat) := by
  obtain ⟨hclk, htake⟩ := h
  change execXinvReceive lane s = _
  rw [execXinvReceive, hclk.runFast, htake]
  simp only [hscope, if_true]

/-! The patrol scrubber (R256) -/

/-- The words of a range that has been read hold no correctable error (R253). -/
theorem State.touchBy_corrects (r : Reader) {a n : Nat} (hn : 0 < n) (s : State) : ∀ e ∈ (s.touchBy r a n).eccCorr, eccOverlap e a n = false := by
  obtain ⟨p, l, k, g, hacc⟩ := State.accCheck_eq a n (s.eccCheck r a n)
  obtain ⟨d, k', hpf⟩ := State.pfRead_eq r.req a n ((s.eccCheck r a n).accCheck a n)
  have hecc : (s.eccCheck r a n).eccCorr = s.eccCorr.filter fun e => !eccOverlap e a n := by
    simp only [State.eccCheck]
    obtain ⟨l, k, g, h⟩ := foldl_corr (s.eccCorr.filter fun e => eccOverlap e a n) { s with eccCorr := s.eccCorr.filter fun e => !eccOverlap e a n }
    rw [h]
    obtain ⟨l', k', g', h'⟩ := foldl_logs _ (fun s e => State.eccLog_eq r e s) (s.eccBad.filter fun e => eccOverlap e a n)
      { s with eccCorr := s.eccCorr.filter fun e => !eccOverlap e a n, logs := l, ctrs := k, regs := g }
    rw [h']
  rw [State.touchBy, if_neg (by omega), hpf, hacc, hecc]
  intro e he
  simpa using (List.mem_filter.mp he).2
/-- The scrubber reads the next line of the near tier where there is no stacked tier and the pass has lines left. -/
theorem exec_scrubRead_near {s : State} (h : s.Clocked) (hen : s.regBit 0x50040 0 = true) (htier : s.sys.straps.tier = false)
    (hline : s.dma.scrubNear < 262144) : exec .scrubRead s =
      .next (State.touch 13 (64 * s.dma.scrubNear) 64 { s with dma := { s.dma with scrubNear := s.dma.scrubNear + 1, scrubTurn := true } }) := by
  change execScrubRead s = _
  rw [execScrubRead, h.runFast]
  simp only [hen, htier, hline, decide_true, Bool.not_true, Bool.false_and, Bool.false_eq_true, if_false]

/-- Settles O51: what each answer, time-out and invalidation does to the cache, the requests outstanding and the transfer that waits. -/
theorem translationsFillAndInvalidate : Obligations.TranslationsFillAndInvalidate := by
  unfold Obligations.TranslationsFillAndInvalidate
  refine ⟨fun s h => runSlow_served State.atcInv ⟨h.1, h.2.2.2⟩, fun lane f s u h => ⟨fun vpn hx hst hrd hwr => ?grants,
      fun vpn x hx hst hw hmem hq hb hwx => xrespReceive_refused h hx hst hw hmem ⟨hq, hb, hwx⟩, exec_xrespReceive_unknown h⟩,
    fun i x s h hx hw hmem hout hq hb hwx => ?timeout, fun i s h hx => ?unsent,
    fun lane f s u h => ⟨exec_xinvReceive_malformed h, fun hscope => ?drops⟩, fun s h hen => ?disabled,
    fun s h hen htier hline hgood => ?scrubs⟩
  case grants =>
    obtain ⟨b, ht⟩ := exec_xrespReceive_grants h hx hst hrd hwr
    have hp := h.portOnly
    exact ⟨_, ht, u.endXid_xids _, rfl, hp.mem, hp.regs, by rw [← hp.dma]; rfl, hp.cc, hp.logs⟩
  case timeout =>
    have honly : State.OnlyXfersWait i.toNat ((s.endXid i.toNat).putXfer { x with err := some (x.err.getD 3), xwait := none }) := ⟨hq, hb, hwx⟩
    rw [exec_xreqTimeout_ends h hx hw, State.errXfer_flying hout, honly.refuses_none]
    exact ⟨_, rfl, s.endXid_xids _, State.mem_putXfer hmem rfl, rfl, rfl, rfl⟩
  case unsent =>
    change execXreqTimeout i s = _
    rw [execXreqTimeout, h.runFast]
    simp only [hx, Bool.not_false, if_true]
  case drops =>
    obtain ⟨t, ht, htp⟩ := exec_xinvReceive_drops h hscope
    have hp := h.portOnly
    refine ⟨t, ht, ?_, htp.mem.trans hp.mem, htp.regs.trans hp.regs, ?_, htp.cc.trans hp.cc⟩
    · rw [htp.dma, ← hp.dma]
    · rw [htp.dma, ← hp.dma]
  case disabled =>
    change execScrubRead s = _
    rw [execScrubRead, h.runFast]
    simp only [hen, Bool.not_false, if_true]
  case scrubs =>
    obtain ⟨e, q, d, l, k, g, htouch⟩ := State.touch_eq 13 (64 * s.dma.scrubNear) 64
      { s with dma := { s.dma with scrubNear := s.dma.scrubNear + 1, scrubTurn := true } }
    refine ⟨_, exec_scrubRead_near h hen htier hline, by rw [htouch], by rw [htouch], by rw [htouch], fun e he hlap => ?_, ?_, by rw [htouch]⟩
    · have := State.touchBy_corrects { req := 13 } (by decide) _ e he
      simp only [eccOverlap, Bool.and_eq_false_iff, decide_eq_false_iff_not] at this
      omega
    · exact State.touchBy_regs { req := 13 } (s := { s with dma := { s.dma with scrubNear := s.dma.scrubNear + 1, scrubTurn := true } }) hgood (by omega)

end Sys2Proof.Machine
end

section
/-! Proofs about the data that a transfer moves (R49, R255, R260, R261, R474): what its reads and conversions note, and the bytes that
it writes. -/

namespace Sys2Proof.Machine

/-! Reads and notes -/

/-- From s to t bytes have been read and conversions noted: memory, queues, transfers and the port are as before, and no byte has been
counted as sent. -/
structure Noted (s t : State) : Prop where
  frame : t = { s with
    eccCorr := t.eccCorr, poison := t.poison, slots := t.slots, dma := { s.dma with pf := t.dma.pf }, logs := t.logs, ctrs := t.ctrs, regs := t.regs }
  regs : SameRegsBut [flagReg 7, 0x04000] s t
  sent : t.ctr 0x50210 = s.ctr 0x50210

namespace Noted
variable {s t u : State}

theorem refl (s : State) : Noted s s := ⟨rfl, fun _ _ => rfl, rfl⟩
theorem trans (h : Noted s t) (h' : Noted t u) : Noted s u where
  frame := by rw [h'.frame, h.frame]
  regs := fun o ho => (h'.regs o ho).trans (h.regs o ho)
  sent := h'.sent.trans h.sent
theorem foldl {α : Type} {f : State → α → State} (hf : ∀ s a, Noted s (f s a)) (l : List α) (s : State) : Noted s (l.foldl f s) := by
  induction l generalizing s with
  | nil => exact refl s
  | cons a l ih => exact (hf s a).trans (ih _)

theorem touchBy (r : Reader) (a n : Nat) (s : State) : Noted s (s.touchBy r a n) where
  frame := by
    obtain ⟨e, q, d, l, k, g, h⟩ := s.touchBy_eq r a n
    rw [h]
  regs := fun o ho => (s.touchBy_accessed r a n).regs o fun hm => ho (List.mem_cons_of_mem _ hm)
  sent := (s.touchBy_accessed r a n).ctrs _ (by decide)
theorem count {off : Nat} (ho : off ≠ 0x50210) (n : Nat) (s : State) : Noted s (s.count off n) where
  frame := by
    obtain ⟨k, h⟩ := State.count_eq off n s
    rw [h]
  regs := fun o _ => State.count_reg off n o s
  sent := by rw [State.count_ctr, if_neg fun h => ho h.1.symm]
theorem setCtr {off : Nat} (ho : off ≠ 0x50210) (v : DWord) (s : State) : Noted s (s.setCtr off v) where
  frame := rfl
  regs := fun _ _ => rfl
  sent := by rw [State.setCtr_ctr, if_neg ho.symm]
theorem gather (n : Option Nat) (x : Option XVal) (c : SlotClass) (s : State) : Noted s (s.gather n x c) := by
  cases n with
  | none => exact refl s
  | some n =>
    simp only [State.gather]
    split
    exacts [refl s, ⟨rfl, fun _ _ => rfl, rfl⟩]
/-- The telemetry of a format lies in other counters (R132). -/
theorem telemetry {f : Nat} (hf : f < 32) (c : SlotClass) (s : State) : Noted s (s.telemetry f c) := by
  cases c with
  | none => exact setCtr (by omega) _ s
  | overflowed | vanished => exact (setCtr (by omega) _ s).trans (setCtr (by omega) _ _)
theorem raiseFlags (f : Flags) (s : State) : Noted s (s.raiseFlags 7 f) where
  frame := rfl
  regs := fun o ho => (State.orReg_reg _ o _ s).trans (if_neg fun (h : o = flagReg 7) => ho (h ▸ List.mem_cons_self))
  sent := rfl

theorem touchLocal (x : Xfer) (run a e0 e1 : Nat) (s : State) : Noted s (s.touchLocal x run a e0 e1) := by
  simp only [State.touchLocal]
  split
  · exact refl s
  · split
    exacts [touchBy _ _ _ s, (touchBy _ _ _ s).trans (touchBy _ _ _ _)]
theorem noteMoved (x : Xfer) (st : List (Nat × Option XVal × Conv)) (s : State) : Noted s (s.noteMoved x st) := by
  have hone : ∀ (s : State) (e : Nat × Option XVal × Conv), Noted s
      (if x.isCopy then s.gather (dSlot x.desc) e.2.1 e.2.2.cls
        else ((s.gather (dSlot x.desc) e.2.1 e.2.2.cls).telemetry (specFmt (dConv x.desc)) e.2.2.cls).raiseFlags 7 e.2.2.flags) := fun s e => by
    split
    · exact gather _ _ _ s
    · exact ((gather _ _ _ s).trans (telemetry (BitVec.isLt _) _ _)).trans (raiseFlags _ _)
  simp only [State.noteMoved]
  split
  exacts [(foldl hone st s).trans (count (by decide) _ _), foldl hone st s]

theorem mem (h : Noted s t) : t.mem = s.mem := by rw [h.frame]
theorem cc (h : Noted s t) : t.cc = s.cc := by rw [h.frame]
theorem vec (h : Noted s t) : t.vec = s.vec := by rw [h.frame]
theorem frozen (h : Noted s t) : t.frozen 0x50210 = s.frozen 0x50210 := by
  simp only [State.frozen, show cntCtrlOf 0x50210 = some 0x50060 by decide, State.regBit, h.regs 0x50060 (by decide)]

end Noted

/-! Bytes written -/

/-- From s to t a transfer has written bytes in B only, and changed nothing of the core, the transfers and the vector unit but the VALID
bits of banks and the prefetch tracker. -/
structure Lands (B : Nat → Prop) (s t : State) : Prop where
  bytes : ∀ a, ¬ B a → t.byte a = s.byte a
  sys : t.sys = s.sys
  vec : t.vec = s.vec
  cc : t.cc = { s.cc with valid0 := t.cc.valid0, valid1 := t.cc.valid1 }
  dma : t.dma = { s.dma with pf := t.dma.pf }

namespace Lands
variable {B : Nat → Prop} {s t u : State}

theorem refl (B : Nat → Prop) (s : State) : Lands B s s := ⟨fun _ _ => rfl, rfl, rfl, rfl, rfl⟩
theorem trans (h : Lands B s t) (h' : Lands B t u) : Lands B s u where
  bytes := fun a ha => (h'.bytes a ha).trans (h.bytes a ha)
  sys := h'.sys.trans h.sys
  vec := h'.vec.trans h.vec
  cc := by rw [h'.cc, h.cc]
  dma := by rw [h'.dma, h.dma]
theorem foldl {α : Type} {f : State → α → State} {l : List α} (hf : ∀ a ∈ l, ∀ s, Lands B s (f s a)) (s : State) : Lands B s (l.foldl f s) := by
  induction l generalizing s with
  | nil => exact refl B s
  | cons a l ih => exact (hf a List.mem_cons_self s).trans (ih (fun b hb => hf b (List.mem_cons_of_mem _ hb)) _)
theorem of_noted (h : Noted s t) : Lands B s t where
  bytes := fun a _ => by simp only [State.byte, h.mem]
  sys := by rw [h.frame]
  vec := h.vec
  cc := by rw [h.frame]
  dma := by rw [h.frame]
theorem write {a : Nat} {bs : List Byte} (hb : ∀ k, a ≤ k → k < a + bs.length → B k) (req : Nat) (s : State) : Lands B s (s.write req a bs) := by
  obtain ⟨m, e1, e2, w, v0, v1, d, p, l, k, g, h⟩ := s.write_eq req a bs
  refine ⟨fun k hk => State.write_outside req a k bs s ?_, by rw [h], by rw [h], by rw [h], by rw [h]⟩
  by_contra hin
  exact hk (hb k (by omega) (by omega))
theorem count (off n : Nat) (s : State) : Lands B s (s.count off n) := by
  obtain ⟨k, h⟩ := State.count_eq off n s
  rw [h]
  exact ⟨fun _ _ => rfl, rfl, rfl, rfl, rfl⟩
theorem poisonBytes (as : List Nat) (s : State) : Lands B s (s.poisonBytes as) := ⟨fun _ _ => rfl, rfl, rfl, rfl, rfl⟩
theorem xfersOf (h : Lands B s t) (ch : Nat) : t.xfersOf ch = s.xfersOf ch := by rw [State.xfersOf, h.dma, State.xfersOf]

/-- A run of codes lands in the bytes that hold bits of them (R37). -/
theorem landCodes {d w e0 n : Nat} {codes : List Nat} (hn : e0 + codes.length ≤ n) (hb : ∀ k, d ≤ k → k < d + (w * n + 7) / 8 → B k) (s : State) :
    Lands B s (s.landCodes d w e0 codes) := by
  simp only [State.landCodes]
  split
  · exact refl B s
  · have hwn : w * e0 + w * codes.length ≤ w * n := by
      rw [← Nat.mul_add]
      exact Nat.mul_le_mul_left w hn
    refine write (fun k hlo hhi => hb k (by omega) ?_) 6 s
    rw [leBytes_length, Nat.mul_comm e0 w] at hhi
    omega

end Lands

/-! The elements of a run -/

section
variable {x : Xfer} {row : Nat} {r : RunSrc} {es : List Nat}

/-- Every element of a run comes out with its code. -/
theorem moveEls_codes_length : (moveEls x row r es).codes.length = es.length := by
  simp only [moveEls]
  split
  · exact List.length_map _
  · rw [List.length_map, convElems_length, List.length_map]
theorem mem_moveEls_codes {p : Nat × Nat} (h : p ∈ (moveEls x row r es).codes) : p.1 ∈ es := by
  simp only [moveEls] at h
  split at h
  · obtain ⟨e, he, rfl⟩ := List.mem_map.mp h
    exact he
  · obtain ⟨q, hq, rfl⟩ := List.mem_map.mp h
    obtain ⟨e, he, heq⟩ := List.mem_map.mp (mem_convElems_done hq)
    rw [← heq]
    exact he
/-- A scale byte comes out for the block of one of the elements, where the destination has blocks (R38). -/
theorem mem_moveEls_scales {b : Nat × Nat × Bool} (h : b ∈ (moveEls x row r es).scales) : specContainer (dConv x.desc) ≠ 0 ∧ b.1 ∈ es := by
  simp only [moveEls] at h
  split at h
  · split at h
    · cases h
    · next hk =>
      obtain ⟨e, he, rfl⟩ := List.mem_map.mp h
      exact ⟨hk, (List.mem_filter.mp he).1⟩
  · obtain ⟨q, hq, rfl⟩ := List.mem_map.mp h
    obtain ⟨hk, d, hd, -, hsc⟩ := mem_convElems_scale hq
    obtain ⟨e, he, rfl⟩ := List.mem_map.mp hd
    exact ⟨hk, hsc ▸ he⟩
end

/-- The bytes of run `row` of a transfer at its destination d: its codes, and the scale bytes of its elements' blocks (R261). -/
def runBytes (x : Xfer) (row d a : Nat) : Prop :=
  (d ≤ a ∧ a < d + (dDw x.desc * dCount x.desc 0 + 7) / 8) ∨
    (specContainer (dConv x.desc) ≠ 0 ∧ ∃ e, e < dCount x.desc 0 ∧ a = x.dst.scaleBase.toNat + (row * dCount x.desc 0 + e) / x.dstBlk)
theorem not_runBytes {x : Xfer} {row d a : Nat} (h : a < d ∨ d + (dDw x.desc * dCount x.desc 0 + 7) / 8 ≤ a)
    (hs : specContainer (dConv x.desc) = 0 ∨
      ∀ e, e < dCount x.desc 0 → a ≠ x.dst.scaleBase.toNat + (row * dCount x.desc 0 + e) / x.dstBlk) : ¬ runBytes x row d a := by
  rintro (⟨hlo, hhi⟩ | ⟨hk, e, he, heq⟩)
  · omega
  · exact hs.elim hk fun hs => hs e he heq

section
variable (x : Xfer) (row d : Nat) (r : RunSrc) (es : List Nat) (s : State)

/-- Elements of a run land in its bytes. -/
theorem State.landEls_lands (hes : ∀ e ∈ es, e < dCount x.desc 0) :
    Lands (runBytes x row d) s (s.landEls x row d (row * dCount x.desc 0) r es).2 := by
  have hcodes : ∀ u ∈ runsOf ((moveEls x row r es).codes.map fun c => (0, c.1, c.2)), u.2.1 + u.2.2.length ≤ dCount x.desc 0 ∨ u.2.2 = [] := fun u hu => by
    by_cases hne : u.2.2 = []
    · exact .inr hne
    · have hpos := List.length_pos_iff.mpr hne
      obtain ⟨v, hv⟩ := mem_runsOf hu (u.2.2.length - 1) (by omega)
      obtain ⟨p, hp, heq⟩ := List.mem_map.mp hv
      have := hes _ (mem_moveEls_codes hp)
      simp only [Prod.mk.injEq] at heq
      omega
  have hland : ∀ s, Lands (runBytes x row d) s
      ((runsOf ((moveEls x row r es).codes.map fun c => (0, c.1, c.2))).foldl (fun s u => s.landCodes d (dDw x.desc) u.2.1 u.2.2) s) :=
    Lands.foldl fun u hu s => by
      obtain hle | hnil := hcodes u hu
      · exact Lands.landCodes hle (fun k hlo hhi => .inl ⟨hlo, hhi⟩) s
      · rw [State.landCodes, if_pos hnil]
        exact Lands.refl _ s
  have hscale : ∀ s, Lands (runBytes x row d) s ((moveEls x row r es).scales.foldl
      (fun s b => s.write 6 (x.dst.scaleBase.toNat + (row * dCount x.desc 0 + b.1) / x.dstBlk) [BitVec.ofNat 8 b.2.1]) s) :=
    Lands.foldl fun b hb s => by
      obtain ⟨hk, he⟩ := mem_moveEls_scales hb
      refine Lands.write (fun k hlo hhi => .inr ⟨hk, b.1, hes _ he, ?_⟩) 6 s
      rw [List.length_singleton] at hhi
      omega
  have hall := ((Lands.of_noted (Noted.noteMoved x (moveEls x row r es).stats s)).trans (hland _)).trans (hscale _)
  simp only [State.landEls]
  split
  · exact hall.trans (Lands.count _ _ _)
  · exact (hall.trans (Lands.poisonBytes _ _)).trans (Lands.count _ _ _)
/-- The transfer has then done their bits. -/
theorem State.landEls_xfer (base : Nat) : ∃ buf p, (s.landEls x row d base r es).1 =
    { x with doneBits := x.doneBits + dDw x.desc * es.length, cvuBuf := buf, poisoned := p } := by
  simp only [State.landEls, moveEls_codes_length]
  exact ⟨_, _, rfl⟩
end

end Sys2Proof.Machine
end

section
/-! Proofs about responses and time-outs (R272, R274, R286) and about page faults (R279 to R282). -/

namespace Sys2Proof.Machine

/-! The transfer that holds a stream-table entry -/

section
variable {ch i : Nat} {x : Xfer} {s : State}

theorem State.Streams.mem (h : s.Streams ch i x) : x ∈ s.xfersOf x.ch := by
  obtain ⟨-, rfl, -, hfind⟩ := h
  exact List.mem_of_find?_eq_some hfind
/-- What takes the place of the transfer, in a state with the same transfers, is then there. -/
theorem State.Streams.put {t : State} {y : Xfer} (h : s.Streams ch i x) (hl : t.dma.xfers = s.dma.xfers) (hch : y.ch = x.ch) (hcmd : y.cmd = x.cmd) :
    y ∈ (t.putXfer y).xfersOf ch := by
  have hmem : x ∈ t.xfersOf y.ch := by
    rw [hch, State.xfersOf, hl]
    exact h.mem
  obtain ⟨-, rfl, -, -⟩ := h
  exact hch ▸ State.mem_putXfer hmem hcmd
theorem State.Streams.stream (h : s.Streams ch i x) : x.stream = some i := by
  obtain ⟨-, -, -, hfind⟩ := h
  simpa using List.find?_some hfind
theorem State.Streams.faulted (h : s.Streams ch i x) (hf : x.fault.isSome = true) : s.faulted i = some x := by
  obtain ⟨-, -, hst, hfind⟩ := h
  obtain ⟨hx, as, bs, hl, has⟩ := List.find?_eq_some_iff_append.mp hfind
  simp only [State.faulted, hst]
  refine List.find?_eq_some_iff_append.mpr ⟨by rw [hx, hf]; rfl, as, bs, hl, fun a ha => ?_⟩
  have := has a ha
  simp_all
theorem State.Streams.not_faulted (h : s.Streams ch i x) (honly : (s.xfersOf ch).filter (fun e => e.stream == some i) = [x]) (hf : x.fault = none) :
    s.faulted i = none := by
  obtain ⟨-, -, hst, -⟩ := h
  simp only [State.faulted, hst, List.find?_eq_none, Bool.and_eq_true, not_and]
  intro e he hi
  have : e ∈ (s.xfersOf ch).filter (fun e => e.stream == some i) := List.mem_filter.mpr ⟨he, hi⟩
  rw [honly, List.mem_singleton] at this
  simp [this, hf]
/-- Only the port differs: the transfer still holds its entry. -/
theorem State.Streams.portOnly {u : State} (h : s.Streams ch i x) (hp : PortOnly s u) :
    u.stream i = .xfer ch ∧ (u.xfersOf ch).find? (fun x => x.stream == some i) = some x := by
  obtain ⟨-, -, hst, hfind⟩ := h
  exact ⟨(hp.stream i).trans hst, by rw [State.xfersOf, hp.dma]; exact hfind⟩
end

/-! Responses -/

theorem mem_of_answers {x : Xfer} {la len : Nat} {q : Req} (h : x.answers la len = some q) : q ∈ x.outst := by
  simp only [Xfer.answers] at h
  split at h
  · next hf => exact Option.some.inj h ▸ List.mem_of_find?_eq_some hf
  · exact List.mem_of_find?_eq_some h

section
variable {x : Xfer} {la len : Nat} {q : Req} (hq : x.answers la len = some q) (hto : x.timedOut = false) (bs : List Byte) (s : State)
include hq hto

/-- An error status takes the request out of flight and puts its transfer into error. -/
theorem State.answerXfer_error {st : Nat} (hst : 2 ≤ st) : s.answerXfer x la len st bs =
    (s.windowSub q.group 1).errXfer { x with outst := x.outst.erase q } (if 5 ≤ st then 4 else st) := by
  simp only [State.answerXfer, hq, hto, hst, if_true, Bool.false_eq_true, if_false]
/-- A good acknowledgement of a write adds its bytes. -/
theorem State.answerXfer_acked (hw : q.what = 0) (herr : x.err = none) (hrs : x.remoteSrc = false) : s.answerXfer x la len 0 bs =
    (s.windowSub q.group 1).putXfer { x with outst := x.outst.erase q, doneBits := x.doneBits + 8 * q.len } := by
  have hrs' : Xfer.remoteSrc { x with outst := x.outst.erase q } = false := hrs
  simp only [State.answerXfer, hq]
  rw [if_neg (by simp [hto]), if_neg (by decide)]
  simp only [hw, hrs', zero_ne_one, decide_false, Bool.false_and, Bool.or_false, Bool.false_eq_true, if_false, OfNat.zero_ne_ofNat,
    beq_eq_false_iff_ne.mpr zero_ne_one]
  refine State.failXfer_ok ?_ _
  exact herr
/-- A good response to a read lands its bytes. -/
theorem State.answerXfer_data (hw : q.what = 0) (hrs : x.remoteSrc = true) {p : Xfer × State}
    (hp : (s.windowSub q.group 1).landBytes { x with outst := x.outst.erase q } q (bs.take q.len) false = p) (herr : p.1.err = none) :
    s.answerXfer x la len 0 bs = p.2.putXfer p.1 := by
  have hrs' : Xfer.remoteSrc { x with outst := x.outst.erase q } = true := hrs
  simp only [State.answerXfer, hq]
  rw [if_neg (by simp [hto]), if_neg (by decide)]
  simp only [hw, hrs', hp, zero_ne_one, decide_false, Bool.false_and, Bool.or_false, Bool.false_eq_true, if_false, OfNat.zero_ne_ofNat,
    beq_eq_false_iff_ne.mpr zero_ne_one, if_true]
  exact State.failXfer_ok herr _
end

/-- The bytes of a response land in the run of their request, and their transfer is then what it was but for its progress. -/
theorem State.landBytes_lands (x : Xfer) (q : Req) (bs : List Byte) (bad : Bool) (s : State) :
    Lands (runBytes x q.run (x.dstAt q.run)) s (s.landBytes x q bs bad).2 ∧
      ∃ n d buf p, (s.landBytes x q bs bad).1 = { x with straddle := n, doneBits := d, cvuBuf := buf, poisoned := p } := by
  simp only [State.landBytes]
  refine ⟨State.landEls_lands _ _ _ _ _ _ fun e he => ?_, ?_⟩
  · obtain ⟨i, hi, rfl⟩ := List.mem_map.mp (List.mem_filter.mp he).1
    have := List.mem_range.mp hi
    show _ < dCount x.desc 0
    omega
  · obtain ⟨buf, p, h⟩ := State.landEls_xfer _ _ _ _ _ _ _
    exact ⟨_, _, buf, p, h⟩

section
variable {lane : BitVec 3} {f : Flit} {s u : State} (h : s.Receives lane.toNat 5 f u) (hgen : s.sys.straps.portGen = false)
include h hgen

/-- A RESP of the 64-byte generation has one slot. -/
theorem exec_dmaResponse {t : State} (ht : u.respSlot (f.hdr.toNat / 2 ^ 64) (f.pay.take 64) = t) (hsys : t.sys = u.sys) :
    exec (.dmaResponse lane) s = .next t := by
  have hg : t.sys.straps.portGen = false := by rw [hsys, h.portOnly.sys, hgen]
  obtain ⟨hclk, htake⟩ := h
  change execDmaResponse lane s = _
  rw [execDmaResponse, hclk.runFast, htake]
  simp only [ht, hg, Bool.false_eq_true, if_false]

section
variable (hv : nfld (f.hdr.toNat / 2 ^ 64) 7 1 = 1) (hi : nfld (f.hdr.toNat / 2 ^ 64) 44 20 ≠ 0xFFFFF)
include hv hi

theorem exec_dmaResponse_stray (hst : s.stream (nfld (f.hdr.toNat / 2 ^ 64) 44 20) = .free) : exec (.dmaResponse lane) s =
    .next ((u.count 0x50258 1).raise { code := 0x1009, unit := 9, d0 := w32 (nfld (f.hdr.toNat / 2 ^ 64) 44 20) }) := by
  refine exec_dmaResponse h hgen ?_ (by simp)
  simp only [State.respSlot, hv, one_ne_zero, decide_false, Bool.false_or, hi, Bool.false_eq_true, if_false, h.portOnly.stream, hst]
theorem exec_dmaResponse_xfer {ch : Nat} {x : Xfer} (hx : s.Streams ch (nfld (f.hdr.toNat / 2 ^ 64) 44 20) x) {t : State}
    (ht : u.answerXfer x (nfld (f.hdr.toNat / 2 ^ 64) 12 32) (nfld (f.hdr.toNat / 2 ^ 64) 1 6 + 1) (nfld (f.hdr.toNat / 2 ^ 64) 8 4)
      (f.pay.take 64) = t) (hsys : t.sys = u.sys) : exec (.dmaResponse lane) s = .next t := by
  obtain ⟨hst, hfind⟩ := hx.portOnly h.portOnly
  refine exec_dmaResponse h hgen ?_ hsys
  simp only [State.respSlot, hv, one_ne_zero, decide_false, Bool.false_or, hi, Bool.false_eq_true, if_false, hst, hfind, ht]
end
end

/-! What a response leaves, by its entry and status -/

section
variable {lane : BitVec 3} {f : Flit} {s u : State} (h : s.Receives lane.toNat 5 f u) (hgen : s.sys.straps.portGen = false)
  (hv : nfld (f.hdr.toNat / 2 ^ 64) 7 1 = 1) (hi : nfld (f.hdr.toNat / 2 ^ 64) 44 20 ≠ 0xFFFFF)
include h hgen hv hi

theorem dmaResponse_stray (hst : s.stream (nfld (f.hdr.toNat / 2 ^ 64) 44 20) = .free) :
    ∃ t : State, exec (.dmaResponse lane) s = .next t ∧ t.ctr 0x50258 = (if s.frozen 0x50258 then s.ctr 0x50258 else s.ctr 0x50258 + 1) ∧
      (s.logs.errs.length < 512 → ∃ e, t.logs.errs = s.logs.errs ++ [e] ∧ e.code = 0x1009) ∧ t.mem = s.mem ∧ t.dma = s.dma ∧ t.cc = s.cc ∧
      SameRegsBut [0x04000] s t := by
  have hp := h.portOnly
  refine ⟨_, exec_dmaResponse_stray h hgen hv hi hst, ?_, fun hroom => ?_, ?_, ?_, ?_, fun o ho => ?_⟩
  · rw [State.raise_ctr _ _ _ (by decide) (by decide), State.count_one, hp.ctr (by decide), hp.accessed.frozen (c := 0x50060) (by decide) (by decide)]
  · rw [← hp.logs] at hroom ⊢
    rw [State.raise_errs _ _ (by simpa using hroom), State.count_logs]
    exact ⟨_, rfl, rfl⟩
  · simp [hp.mem]
  · simp [hp.dma]
  · simp [hp.cc]
  · rw [State.raise_reg, if_neg (by simpa using ho), State.count_reg, hp.reg]

section
variable {ch : Nat} {x : Xfer} {q : Req} (hx : s.Streams ch (nfld (f.hdr.toNat / 2 ^ 64) 44 20) x)
  (hq : x.answers (nfld (f.hdr.toNat / 2 ^ 64) 12 32) (nfld (f.hdr.toNat / 2 ^ 64) 1 6 + 1) = some q) (hto : x.timedOut = false) (herr : x.err = none)
include hx hq hto herr

/-- A transfer that an error status reaches while more of it is in flight stays, in error (R286). -/
theorem dmaResponse_error (hst : 2 ≤ nfld (f.hdr.toNat / 2 ^ 64) 8 4) (hout : x.outst ≠ [q]) :
    ∃ (t : State) (y : Xfer), exec (.dmaResponse lane) s = .next t ∧ y ∈ t.xfersOf ch ∧ y.cmd = x.cmd ∧ y.outst = x.outst.erase q ∧
      y.err = some (if 5 ≤ nfld (f.hdr.toNat / 2 ^ 64) 8 4 then 4 else nfld (f.hdr.toNat / 2 ^ 64) 8 4) ∧
      t.dma.outstanding = s.dma.outstanding - 1 ∧ t.mem = s.mem ∧ t.regs = s.regs ∧ t.cc = s.cc := by
  have hp := h.portOnly
  have hxs : u.dma.xfers = s.dma.xfers := congrArg Dma.xfers hp.dma
  have hfly : x.outst.erase q ≠ [] := fun he =>
    (List.erase_eq_nil_iff.mp he).elim (fun hnil => List.ne_nil_of_mem (mem_of_answers hq) hnil) hout
  have hans := u.answerXfer_error hq hto (f.pay.take 64) hst
  rw [State.errXfer_flying (x := { x with outst := x.outst.erase q }) hfly] at hans
  refine ⟨_, _, exec_dmaResponse_xfer h hgen hv hi hx hans rfl, hx.put hxs rfl rfl, rfl, rfl, ?_, ?_,
    hp.mem, hp.regs, hp.cc⟩
  · simp [herr]
  · exact congrArg (fun d : Dma => d.outstanding - 1) hp.dma
theorem dmaResponse_acked (hw : q.what = 0) (hst : nfld (f.hdr.toNat / 2 ^ 64) 8 4 = 0) (hrs : x.remoteSrc = false) :
    ∃ (t : State) (y : Xfer), exec (.dmaResponse lane) s = .next t ∧ y ∈ t.xfersOf ch ∧ y.cmd = x.cmd ∧ y.outst = x.outst.erase q ∧
      y.doneBits = x.doneBits + 8 * q.len ∧ y.err = none ∧ t.dma.outstanding = s.dma.outstanding - 1 ∧ t.mem = s.mem ∧ t.regs = s.regs ∧
      t.logs = s.logs := by
  have hp := h.portOnly
  have hxs : u.dma.xfers = s.dma.xfers := congrArg Dma.xfers hp.dma
  have hans := u.answerXfer_acked hq hto (f.pay.take 64) hw herr hrs
  rw [← hst] at hans
  exact ⟨_, _, exec_dmaResponse_xfer h hgen hv hi hx hans rfl, hx.put hxs rfl rfl, rfl, rfl, rfl, herr,
    congrArg (fun d : Dma => d.outstanding - 1) hp.dma, hp.mem, hp.regs, hp.logs⟩
theorem dmaResponse_data (hw : q.what = 0) (hst : nfld (f.hdr.toNat / 2 ^ 64) 8 4 = 0) (hrs : x.remoteSrc = true) :
    ∃ (t : State) (y : Xfer), exec (.dmaResponse lane) s = .next t ∧ y ∈ t.xfersOf ch ∧ y.cmd = x.cmd ∧ y.outst = x.outst.erase q ∧
      y.err = none ∧ t.dma.outstanding = s.dma.outstanding - 1 ∧ ∀ a, ¬ runBytes x q.run (x.dstAt q.run) a → t.byte a = s.byte a := by
  have hp := h.portOnly
  have hxs : u.dma.xfers = s.dma.xfers := congrArg Dma.xfers hp.dma
  obtain ⟨hl, n, d, buf, p, hy⟩ :=
    State.landBytes_lands { x with outst := x.outst.erase q } q ((f.pay.take 64).take q.len) false (u.windowSub q.group 1)
  have hans := u.answerXfer_data hq hto (f.pay.take 64) hw hrs rfl (by rw [hy]; exact herr)
  rw [← hst] at hans
  rw [hy] at hans
  refine ⟨_, _, exec_dmaResponse_xfer h hgen hv hi hx hans hl.sys, hx.put ((congrArg Dma.xfers hl.dma).trans hxs) rfl rfl, rfl, rfl, herr, ?_,
    fun a ha => (hl.bytes a ha).trans (hp.byte a)⟩
  exact (congrArg Dma.outstanding hl.dma).trans (congrArg (fun d : Dma => d.outstanding - 1) hp.dma)
end
end

/-! Time-outs (R274) -/

/-- TRANSFER_ERROR of a time-out. -/
theorem transferError_late (i : Nat) : transferError i 3 = { code := 0x1005, cond := 1, unit := 9, d0 := w32 i, d1 := 3 } := rfl
/-- A transfer that leaves in error frees its entry, and sets the error bit of its channel. -/
theorem State.failed_leaves {y : Xfer} {i : Nat} (hi : y.stream = some i) (w : State) :
    let v := ((w.putXfer y).orReg (0x50100 + 4 * y.ch) 0x80000).dropXfer y
    v.mem = w.mem ∧ v.cc = w.cc ∧ v.stream i = .free ∧ v.xfersOf y.ch = (w.xfersOf y.ch).filter (fun e => e.cmd.seq != y.cmd.seq) ∧
      v.dma.outstanding = w.dma.outstanding - y.outst.length ∧ v.regBit (0x50100 + 4 * y.ch) 19 = true ∧
      SameRegsBut [0x50100 + 4 * y.ch] w v := by
  refine ⟨State.dropXfer_mem _ _, State.dropXfer_cc _ _, State.dropXfer_stream hi _,
    (State.dropXfer_xfersOf _ _).trans (State.putXfer_others y w), State.dropXfer_outstanding _ _, ?_, fun o ho => ?_⟩
  · rw [State.regBit, State.dropXfer_reg, State.orReg_reg, if_pos rfl, BitVec.getLsbD_or]
    simp
  · rw [State.dropXfer_reg, State.orReg_reg, if_neg (by simpa using ho)]
    rfl

section
variable {ch i : Nat} {x : Xfer} {s : State} (h : s.Streams ch i x)
include h

theorem exec_dmaTimeout_xfer (hout : x.outst ≠ []) (hto : x.timedOut = false) : exec (.dmaTimeout i) s =
    .next (s.putXfer { x with timedOut := true, err := some (x.err.getD 3), xwait := none }) := by
  obtain ⟨hclk, -, hst, hfind⟩ := h
  change execDmaTimeout i s = _
  rw [execDmaTimeout, hclk.runFast, hst]
  simp only [hfind]
  rw [if_neg (by simp [hout, hto])]
/-- After quarantine the requests of a transfer that had timed out are no longer in flight, and it ends in TRANSFER_ERROR. -/
theorem exec_streamQuarantineExpire_xfer (hto : x.timedOut = true) (herr : x.err = some 3) : ∃ g, exec (.streamQuarantineExpire i) s =
    .next (State.endXfer { x with outst := [] } (transferError i 3) ((State.putXfer { x with outst := [] }
      { s with dma := { s.dma with outstanding := s.dma.outstanding - x.outst.length, groups := g } }).orReg (0x50100 + 4 * x.ch) 0x80000)) := by
  have hi := h.stream
  obtain ⟨hclk, -, hst, hfind⟩ := h
  obtain ⟨g, hw⟩ := foldl_windowSub x.outst s
  refine ⟨g, ?_⟩
  change execStreamQuarantineExpire i s = _
  rw [execStreamQuarantineExpire, hclk.runFast, hst]
  simp only [hfind, hto, hw, Bool.not_true, Bool.false_eq_true, if_false, State.failXfer, herr, List.isEmpty_nil, hi, Option.getD_some]
theorem streamQuarantineExpire_xfer (hto : x.timedOut = true) (herr : x.err = some 3) :
    ∃ t v : State, exec (.streamQuarantineExpire i) s = .next t ∧ v.mem = s.mem ∧ v.cc = s.cc ∧
      t = v.rejectLate ch x.cmd { code := 0x1005, cond := 1, unit := 9, d0 := w32 i, d1 := 3 } ∧ v.stream i = .free ∧
      v.xfersOf ch = (s.xfersOf ch).filter (fun e => e.cmd.seq != x.cmd.seq) ∧ v.dma.outstanding = s.dma.outstanding - x.outst.length ∧
      v.regBit (0x50100 + 4 * ch) 19 = true ∧ SameRegsBut [0x50100 + 4 * ch] s v := by
  obtain ⟨g, ht⟩ := exec_streamQuarantineExpire_xfer h hto herr
  rw [transferError_late] at ht
  have hi := h.stream
  obtain ⟨-, rfl, -, -⟩ := h
  obtain ⟨hmem, hcc, hfree, hleft, hwin, hbit, hregs⟩ := State.failed_leaves (y := { x with outst := [] }) hi
    { s with dma := { s.dma with outstanding := s.dma.outstanding - x.outst.length, groups := g } }
  exact ⟨_, _, ht, hmem, hcc, rfl, hfree, hleft, hwin, hbit, hregs⟩
end

theorem State.windowAdd_stream (g n k : Nat) (s : State) : (s.windowAdd g n).stream k = s.stream k := rfl

section
variable {i : Nat} {o : SyncOp} {s : State} (h : s.Clocked) (hst : s.stream i = .sync o)
include h hst

/-- A SYNC that times out is answered with TIMEOUT; its entry stays, timed out, and so does what it has in flight. -/
theorem exec_dmaTimeout_sync (hto : o.timedOut = false) : exec (.dmaTimeout i) s =
    .next (((s.syncAnswer i o 3 0).setStream i (.sync { o with timedOut := true })).windowAdd o.group 1) := by
  change execDmaTimeout i s = _
  rw [execDmaTimeout, h.runFast, hst]
  simp only [hto, Bool.false_eq_true, if_false]
theorem exec_streamQuarantineExpire_sync (hto : o.timedOut = true) :
    exec (.streamQuarantineExpire i) s = .next ((s.setStream i .free).windowSub o.group 1) := by
  change execStreamQuarantineExpire i s = _
  rw [execStreamQuarantineExpire, h.runFast, hst]
  simp only [hto, if_true]
end

section
variable {i : Nat} {o : SyncOp} {c : EngCmd} (hc : o.cmd = some c) (hw : o.what = 0) (s : State)
include hc hw

theorem State.syncAnswer_passed (hq : (s.queue o.q).wait ≠ .sent i) : s.syncAnswer i o 3 0 = (s.setStream i .free).windowSub o.group 1 := by
  have hq' : (((s.setStream i .free).windowSub o.group 1).queue o.q).wait ≠ .sent i := hq
  simp only [State.syncAnswer, hc, hw, Nat.reduceLeDiff, decide_false, OfNat.ofNat_ne_one, if_false, ne_eq, hq', not_false_eq_true]
  rfl
/-- A command that waits for the answer is rejected with TRANSFER_ERROR. -/
theorem State.syncAnswer_timedOut (hq : (s.queue o.q).wait = .sent i) : s.syncAnswer i o 3 0 =
    ((s.setStream i .free).windowSub o.group 1).reject o.q c (transferError i 3) := by
  have hq' : (((s.setStream i .free).windowSub o.group 1).queue o.q).wait = .sent i := hq
  simp only [State.syncAnswer, hc, hw, Nat.reduceLeDiff, decide_false, OfNat.ofNat_ne_one, if_false, hq', ne_eq, not_true_eq_false, Bool.false_eq_true]
end

/-! Fault records (R280, R281) -/

theorem Lands.raise {B : Nat → Prop} (e : Err) (s : State) : Lands B s (s.raise e) := by
  obtain ⟨l, k, g, h⟩ := State.raise_eq e s
  rw [h]
  exact ⟨fun _ _ => rfl, rfl, rfl, rfl, rfl⟩
/-- A sync operation writes no byte outside its word. -/
theorem State.syncApply_lands {op a : Nat} {v : Word} {src : Nat} {rd : Reader} {s : State} {sem : Bool} {c : Word}
    (h1 : s.wordChk a = none) (h2 : s.readWord a op = .ok sem c) : Lands (fun k => a ≤ k ∧ k < a + 8) s (s.syncApply op a v src rd).2 := by
  have hput : ∀ (w : Word) (s : State), Lands (fun k => a ≤ k ∧ k < a + 8) s (s.putCount a sem w) := fun w s =>
    (Lands.write (fun k hlo hhi => ⟨hlo, by rwa [leBytes_length] at hhi⟩) 11 s).trans (Lands.count _ _ _)
  simp only [State.syncApply, h1, h2]
  split
  · exact ((Lands.of_noted (Noted.touchBy rd a 8 s)).trans (Lands.raise _ _)).trans (hput _ _)
  · exact (Lands.of_noted (Noted.touchBy rd a 8 s)).trans (hput _ _)

theorem State.write_good {r a b n : Nat} {bs : List Byte} {s : State} (h : s.poisonedIn b n = false) : (s.write r a bs).poisonedIn b n = false := by
  have hsub : (s.write r a bs).eccBad ⊆ s.eccBad := by
    simp only [State.write]
    split
    · exact List.Subset.refl _
    · obtain ⟨l, k, g, hp⟩ := State.partCheck_eq r a bs.length s
      obtain ⟨d, k', hw⟩ := State.pfWrite_eq a bs.length _
      rw [hw, hp]
      exact List.filter_subset_self _
  simp only [State.poisonedIn, List.any_eq_false] at h ⊢
  exact fun e he => h e (hsub he)
/-- An operation reads the same word where neither its bytes nor its check bits have changed. -/
theorem State.readWord_congr {a op : Nat} {s t : State} (hb : ∀ k, a ≤ k → k < a + 8 → t.byte k = s.byte k)
    (hp : t.poisonedIn a 8 = s.poisonedIn a 8) : t.readWord a op = s.readWord a op := by
  have hw : t.dword a = s.dword a := by
    rw [State.dword, State.dword, State.le, State.le, State.bytes_congr s t a 8 fun i hi => hb _ (by omega) (by omega)]
  rw [State.readWord, State.readWord, hw, hp]

theorem State.space_of_spaceOf {a n : Nat} {s : State} {z : Space} (h : s.spaceOf a n = some z) : s.space a = some z := by
  simp only [State.spaceOf] at h
  split at h
  · next x y hx hy =>
    split at h
    exacts [hx.trans h, nomatch h]
  · cases h
/-- An aligned word at the start of a range in the tiers is a local sync word. -/
theorem State.wordChk_of_inTiers {a n : Nat} {s : State} (h : s.inTiers a n = true) (hal : a % 8 = 0) : s.wordChk a = none := by
  have hs : s.space a = some .near ∨ s.space a = some .stacked := by
    simp only [State.inTiers] at h
    split at h
    · next hz => exact .inl (State.space_of_spaceOf hz)
    · next hz => exact .inr (State.space_of_spaceOf hz)
    · cases h
  obtain hs | hs := hs <;> simp only [State.wordChk, hs, hal, if_true]
theorem State.wordChk_congr {a : Nat} {s t : State} (hsys : t.sys = s.sys) (h : s.wordChk a = none) : t.wordChk a = none := by
  have ha := State.wordChk_bound h
  have hs : t.space a = s.space a := by simp only [State.space, hsys, show a ≤ 0x05FFFFFF by omega, if_true]
  rw [State.wordChk] at h ⊢
  rw [hs]
  exact h
/-- A fault ring with space has a TAIL that the sync unit takes. -/
theorem State.faultSlot_some {s : State} {tail : Word} (h : s.faultSlot = some tail) :
    s.wordChk s.faultBase = none ∧ s.readWord s.faultBase 1 = .ok false tail := by
  simp only [State.faultSlot] at h
  split at h
  · cases h
  next hin =>
  refine ⟨State.wordChk_of_inTiers (by simpa using hin) (by rw [State.faultBase]; omega), ?_⟩
  split at h
  · next t hd ht _ =>
    split at h
    · exact Option.some.inj h ▸ ht
    · cases h
  · cases h

/-- Where the record of TAIL lies in the ring. -/
def State.faultAddr (tail : Word) (s : State) : Nat := s.faultBase + 0x40 + 64 * (tail.toNat % s.faultSize)
theorem faultRecord_length (x : Xfer) (aclk : DWord) : (faultRecord x aclk).length = 64 := by
  simp [faultRecord, leBytes_length]

theorem SameRegsBut.frozen {offs : List Nat} {s t : State} (h : SameRegsBut offs s t) {o c : Nat} (hc : cntCtrlOf o = some c) (hne : c ∉ offs) :
    t.frozen o = s.frozen o := by
  simp only [State.frozen, hc, State.regBit, h c hne]

/-- Transfer x's fault record stands in the ring at TAIL, and TAIL has moved past it. -/
structure FaultStored (x : Xfer) (tail : Word) (s t : State) : Prop where
  next : t.word s.faultBase = tail + 1
  record : t.bytes (s.faultAddr tail) 64 = faultRecord x s.aclk
  outside : ∀ a, (a < s.faultBase ∨ s.faultBase + 8 ≤ a) → (a < s.faultAddr tail ∨ s.faultAddr tail + 64 ≤ a) → t.byte a = s.byte a
  regs : SameRegsBut [0x04000] s t
/-- The fault record of transfer x is written: PAGE_FAULT is also logged and counted, and x is recorded. -/
structure FaultWritten (x : Xfer) (tail : Word) (s t : State) : Prop extends FaultStored x tail s t where
  kept : { x with recorded := true } ∈ t.xfersOf x.ch
  counted : t.ctr 0x50228 = if s.frozen 0x50228 then s.ctr 0x50228 else s.ctr 0x50228 + 1
  event : t.regBit 0x04000 1 = true

section
variable {x : Xfer} {s : State} {tail : Word} (h : s.faultSlot = some tail)
include h

/-- The record, once written, leaves TAIL a word that the sync unit takes. -/
theorem State.faultRecord_written : ∃ u, (s.touchBy (x.reader 11) (s.faultBase + 8) 8).write 7 (s.faultAddr tail) (faultRecord x s.aclk) = u ∧
    Lands (fun k => s.faultAddr tail ≤ k ∧ k < s.faultAddr tail + 64) s u ∧ Accessed s u ∧ u.bytes (s.faultAddr tail) 64 = faultRecord x s.aclk ∧
    u.wordChk s.faultBase = none ∧ u.readWord s.faultBase 1 = .ok false tail := by
  obtain ⟨hchk, hread⟩ := State.faultSlot_some h
  have hgood := State.readWord_clean hread
  have hsep : s.faultBase + 8 ≤ s.faultAddr tail := by rw [State.faultAddr]; omega
  have hlands : Lands (fun k => s.faultAddr tail ≤ k ∧ k < s.faultAddr tail + 64) s
      ((s.touchBy (x.reader 11) (s.faultBase + 8) 8).write 7 (s.faultAddr tail) (faultRecord x s.aclk)) :=
    (Lands.of_noted (Noted.touchBy _ _ _ s)).trans (Lands.write (fun k hlo hhi => ⟨hlo, by rwa [faultRecord_length] at hhi⟩) 7 _)
  refine ⟨_, rfl, hlands, (s.touchBy_accessed _ _ _).trans (State.write_accessed _ _ _ _), ?_, State.wordChk_congr hlands.sys hchk, ?_⟩
  · have := State.bytes_write 7 (s.faultAddr tail) (faultRecord x s.aclk) (s.touchBy (x.reader 11) (s.faultBase + 8) 8)
    rwa [faultRecord_length] at this
  · rw [State.readWord_congr (fun k _ hk => hlands.bytes k fun hin => by omega), hread]
    rw [hgood]
    refine State.write_good ?_
    rw [State.poisonedIn, State.touchBy_eccBad]
    exact hgood
/-- TAIL then moves past it. -/
theorem State.faultRecord_stored : ∃ w, FaultStored x tail s w ∧ w.dma.xfers = s.dma.xfers ∧ w.ctr 0x50228 = s.ctr 0x50228 ∧
    ∃ e : Err, s.faultWrite x = some (((w.putXfer { x with recorded := true }).raise e).count 0x50228 1) ∧ e.code = 0x1002 := by
  obtain ⟨u, hu, hlands, hacc, hrec, hchk, hread⟩ := State.faultRecord_written (x := x) h
  have hsep : s.faultBase + 8 ≤ s.faultAddr tail := by rw [State.faultAddr]; omega
  obtain ⟨-, hword, hout⟩ := State.syncApply_ok 1 s.faultBase 1 1 (x.reader 11) u false tail hchk hread
  obtain ⟨v, hacc', hv⟩ := State.syncApply_accessed 1 s.faultBase 1 1 (x.reader 11) u hchk hread
  have hlands' := State.syncApply_lands (v := 1) (src := 1) (rd := x.reader 11) hchk hread
  refine ⟨(u.syncApply 1 s.faultBase 1 1 (x.reader 11)).2, ⟨hword, ?_, fun a hb hr => ?_, fun o ho => ?_⟩, ?_, ?_, ?_⟩
  · rw [← hrec]
    exact State.bytes_congr _ _ _ _ fun k _ => hout _ (by omega)
  · exact (hout a hb).trans (hlands.bytes a fun hin => by omega)
  · rw [hv, State.count_reg, hacc'.regs o ho, hacc.regs o ho]
  · rw [hlands'.dma, hlands.dma]
  · rw [hv, State.count_ctr, if_neg (fun hc => absurd hc.1 (by decide)), hacc'.ctrs _ (by decide), hacc.ctrs _ (by decide)]
  · rw [State.faultWrite, h, ← hu]
    exact ⟨_, rfl, rfl⟩
theorem State.faultWrite_some (hx : x ∈ s.xfersOf x.ch) : ∃ t, s.faultWrite x = some t ∧ FaultWritten x tail s t := by
  obtain ⟨w, hw, hxs, hctr, e, ht, hcode⟩ := State.faultRecord_stored (x := x) h
  have hbyte : ∀ a, (((w.putXfer { x with recorded := true }).raise e).count 0x50228 1).byte a = w.byte a := fun a => by
    rw [State.count_byte, State.raise_byte]
    rfl
  have hregs : SameRegsBut [0x04000] s ((w.putXfer { x with recorded := true }).raise e) := fun o ho => by
    rw [State.raise_reg, if_neg (by simpa using ho), ← hw.regs o ho]
    rfl
  have hmem : x ∈ w.xfersOf x.ch := by
    rw [State.xfersOf, hxs]
    exact hx
  refine ⟨_, ht, ⟨?_, ?_, fun a hb hr => (hbyte a).trans (hw.outside a hb hr), fun o ho => (State.count_reg _ _ _ _).trans (hregs o ho)⟩, ?_, ?_, ?_⟩
  · rw [State.word_of_byte w _ _ hbyte]
    exact hw.next
  · rw [State.bytes_congr w _ _ _ fun _ _ => hbyte _]
    exact hw.record
  · have := State.mem_putXfer (y := { x with recorded := true }) hmem rfl
    rw [State.xfersOf] at this ⊢
    simpa using this
  · rw [State.count_one, hregs.frozen (c := 0x50060) (by decide) (by decide), State.raise_ctr _ _ _ (by decide) (by decide), ← hctr]
    rfl
  · rw [State.regBit, State.count_reg, State.raise_reg, if_pos rfl, hcode, BitVec.getLsbD_or]
    simp [isEventCode]
end

/-! PAGE_FAULT, FAULT_RECORD_WRITE, STREAM_RESUME and STREAM_ABORT (R279 to R282) -/

section
variable {ch i : Nat} {x : Xfer} {s : State} (h : s.Streams ch i x) (hf : x.fault.isSome = true)
include h hf

section
variable (hout : x.outst = []) (hrec : x.recorded = false) (herr : x.err = none) (hnew : i ∉ s.dma.faults)
include hout hrec herr hnew

theorem exec_pageFault_written {t : State} (ht : s.faultWrite x = some t) : exec (.pageFault i) s = .next t := by
  change execPageFault i s = _
  rw [execPageFault, h.1.runFast, h.faulted hf]
  simp only [hout, hrec, herr, ht, List.contains_eq_mem, hnew, List.isEmpty_nil, Bool.not_true, Option.isSome_none, decide_false, Bool.or_self,
    Bool.false_eq_true, if_false]
theorem exec_pageFault_waits (hfull : s.faultSlot = none) :
    exec (.pageFault i) s = .next { s with dma := { s.dma with faults := s.dma.faults ++ [i] } } := by
  change execPageFault i s = _
  rw [execPageFault, h.1.runFast, h.faulted hf]
  simp only [hout, hrec, herr, State.faultWrite, hfull, Option.map_none, List.contains_eq_mem, hnew, List.isEmpty_nil, Bool.not_true,
    Option.isSome_none, decide_false, Bool.or_self, Bool.false_eq_true, if_false]
end

section
variable {rest : List Nat} (hl : s.dma.faults = i :: rest)
include hl

theorem exec_faultRecordWrite_written {t : State} (ht : s.faultWrite x = some t) :
    exec .faultRecordWrite s = .next { t with dma := { t.dma with faults := rest } } := by
  change execFaultRecordWrite s = _
  rw [execFaultRecordWrite, h.1.runFast, hl]
  simp only [h.faulted hf, ht]
theorem exec_faultRecordWrite_waits (hfull : s.faultSlot = none) : exec .faultRecordWrite s = .next s := by
  change execFaultRecordWrite s = _
  rw [execFaultRecordWrite, h.1.runFast, hl]
  simp only [h.faulted hf, State.faultWrite, hfull, Option.map_none]
end

theorem State.streamResume_faulted : s.streamResume i = State.putXfer { x with fault := none, recorded := false, chunk := none, xwait := none }
    { s with dma := { s.dma with faults := s.dma.faults.filter fun k => k != i } } := by
  simp only [State.streamResume, h.faulted hf]
theorem State.streamAbort_faulted : s.streamAbort i = State.endXfer x
    { code := 0x1002, cond := 2, unit := 9, d0 := w32 i, d1 := w32 x.nextRemote.1, d2 := w32 (x.nextRemote.1 / 2 ^ 32) }
    { s with dma := { s.dma with faults := s.dma.faults.filter fun k => k != i } } := by
  simp only [State.streamAbort, h.faulted hf]
end
theorem exec_streamResume {s : State} (h : s.Clocked) (i : BitVec 20) : exec (.streamResume i) s = .next (s.streamResume i.toNat) :=
  runSlow_served (State.streamResume i.toNat) ⟨h.1, h.2.2.2⟩
theorem exec_streamAbort {s : State} (h : s.Clocked) (i : BitVec 20) : exec (.streamAbort i) s = .next (s.streamAbort i.toNat) :=
  runSlow_served (State.streamAbort i.toNat) ⟨h.1, h.2.2.2⟩
/-- Where no transfer of an entry is faulted, RESUME and ABORT are the same log entry. -/
theorem exec_stream_invalid {s : State} {i : BitVec 20} (h : s.Clocked) (hf : s.faulted i.toNat = none) :
    exec (.streamResume i) s = .next (s.resumeInvalid i.toNat) ∧ exec (.streamAbort i) s = .next (s.resumeInvalid i.toNat) := by
  rw [exec_streamResume h, exec_streamAbort h, State.streamResume, State.streamAbort, hf]
  exact ⟨rfl, rfl⟩
theorem State.faulted_none {s : State} {i : Nat} (h : ∀ ch, s.stream i ≠ .xfer ch) : s.faulted i = none := by
  simp only [State.faulted]
theorem State.resumeInvalid_none {s : State} {i : Nat} (h : ∀ ch, s.stream i ≠ .xfer ch) :
    s.resumeInvalid i = s.raise { code := 0x100A, unit := 9, d0 := w32 i } := by
  simp only [State.resumeInvalid]
theorem State.Streams.resumeInvalid {s : State} {ch i : Nat} {x : Xfer} (h : s.Streams ch i x) : s.resumeInvalid i =
    s.raise { code := 0x100A, unit := 9, tag := x.cmd.tag, index := x.ch, thread := ctxNum x.cmd.ctx, d0 := w32 i } := by
  obtain ⟨-, -, hst, hfind⟩ := h
  simp only [State.resumeInvalid, hst, hfind]

/-- Settles O50: what a response, a time-out and a page fault leave of the transfer, and of the ring, that they meet. -/
theorem responsesFaultsAndTimeoutsEndTransfers : Obligations.ResponsesFaultsAndTimeoutsEndTransfers := by
  unfold Obligations.ResponsesFaultsAndTimeoutsEndTransfers
  refine ⟨fun lane f s u h hgen hv hi => ⟨dmaResponse_stray h hgen hv hi, fun ch x q hx hq hto hw herr =>
      ⟨dmaResponse_error h hgen hv hi hx hq hto herr, dmaResponse_acked h hgen hv hi hx hq hto herr hw, fun hst hrs => ?data⟩⟩,
    fun ch i x s h => ⟨fun hout hto => ?late, streamQuarantineExpire_xfer h, fun hf hout hrec herr hnew =>
      ⟨exec_pageFault_waits h hf hout hrec herr hnew, fun tail hslot => ?fault⟩,
      fun hf => ⟨fun rest tail hl hslot => ?record, fun rest => exec_faultRecordWrite_waits h hf, fun w hwi => ⟨?resume, ?abort⟩⟩⟩,
    fun i o s h hst hto hw => ⟨fun hc hq => ?passed, fun c hc hq => ?rejected⟩,
    fun i o s h hst hto => exec_streamQuarantineExpire_sync h hst hto,
    fun i s t h hst ht => ?unused, fun ch i x s t h honly hf ht => ?unfaulted⟩
  case data =>
    obtain ⟨t, y, ht, hy, hcmd, hout, herr, hwin, hbytes⟩ := dmaResponse_data h hgen hv hi hx hq hto herr hw hst hrs
    exact ⟨t, y, ht, hy, hcmd, hout, herr, hwin, fun a ha hs => hbytes a (not_runBytes ha hs)⟩
  case late => exact ⟨_, _, exec_dmaTimeout_xfer h hout hto, rfl, h.put rfl rfl rfl, rfl, rfl, rfl, rfl⟩
  case fault =>
    obtain ⟨t, ht, hw⟩ := State.faultWrite_some hslot h.mem
    exact ⟨t, { x with recorded := true }, exec_pageFault_written h hf hout hrec herr hnew ht, h.2.1 ▸ hw.kept, rfl, rfl, rfl, hw.next,
      hw.record, hw.outside, hw.counted, hw.event, hw.regs⟩
  case record =>
    obtain ⟨t, ht, hw⟩ := State.faultWrite_some hslot h.mem
    exact ⟨_, { x with recorded := true }, exec_faultRecordWrite_written h hf hl ht, rfl, h.2.1 ▸ hw.kept, rfl, rfl, hw.next, hw.record⟩
  case resume =>
    subst hwi
    rw [exec_streamResume h.1, State.streamResume_faulted h hf]
    refine ⟨_, { x with fault := none, recorded := false, chunk := none, xwait := none }, rfl, h.put rfl rfl rfl, rfl, ?_, rfl, rfl, rfl⟩
    simp [State.putXfer, State.setXfers]
  case abort =>
    subst hwi
    rw [exec_streamAbort h.1, State.streamAbort_faulted h hf]
    obtain ⟨hclk, rfl, hst, hfind⟩ := h
    refine ⟨_, _, rfl, rfl, State.dropXfer_stream (State.Streams.stream ⟨hclk, rfl, hst, hfind⟩) _, State.dropXfer_xfersOf _ _, ?_, ?_, ?_, ?_⟩
    · rw [State.dropXfer_faults]
      simp
    · rw [State.dropXfer_mem]
    · rw [State.dropXfer_regs]
    · rw [State.dropXfer_cc]
  case passed =>
    obtain ⟨c, hc⟩ := Option.isSome_iff_exists.mp hc
    rw [exec_dmaTimeout_sync h hst hto, State.syncAnswer_passed hc hw s hq]
    refine ⟨_, rfl, ?_, ?_, ?_⟩
    · rw [State.windowAdd_stream, State.setStream_stream, if_pos rfl]
    · simp only [State.windowAdd, State.windowSub, State.setStream]
    · simp only [State.windowAdd, State.windowSub, State.setStream]
  case rejected =>
    rw [exec_dmaTimeout_sync h hst hto, State.syncAnswer_timedOut hc hw s hq, transferError_late]
    refine ⟨_, (s.setStream i .free).windowSub o.group 1, rfl, ?_, rfl, rfl, rfl, rfl, ?_⟩
    · rw [State.windowAdd_stream, State.setStream_stream, if_pos rfl]
    obtain ⟨_, _, _, _, _, _, _, _, hr⟩ := State.reject_eq o.q c { code := 0x1005, cond := 1, unit := 9, d0 := w32 i, d1 := 3 }
      ((s.setStream i .free).windowSub o.group 1)
    rw [hr]
    rfl
  case unused =>
    rw [ht, ← State.resumeInvalid_none hst]
    exact exec_stream_invalid h (State.faulted_none hst)
  case unfaulted =>
    rw [ht, ← h.resumeInvalid]
    exact exec_stream_invalid h.1 (h.not_faulted honly hf)

end Sys2Proof.Machine
end

section
/-! Proofs about a DMA command from its issue to the completion of its transfer (R257, R264 to R269, R272, R284, R305). -/

namespace Sys2Proof.Machine

/-! Issue -/

theorem encOf_congr {s t : State} (h : t.slots = s.slots) (o : Option Nat) : encOf t o = encOf s o := by
  cases o with
  | none => rfl
  | some n => simp only [encOf, State.slot, h]

/-- The transfer that a command starts where it has elements to move: what it reads at issue is latched (R120, R201). -/
def newXfer (c : EngCmd) (ch d : Nat) (src dst : Tile) (sAddr dAddr : Nat) (s : State) : Xfer where
  cmd := c
  ch := ch
  kind := dKind d
  desc := d
  src := if srcLocal (dKind d) then src else Tile.zero
  dst := if dstLocal (dKind d) then dst else Tile.zero
  sAddr := sAddr
  dAddr := dAddr
  enc := encOf s (dSlot d)
  seed := s.genSeed
  step := s.genStep
  stream := none
  run := 0
  off := 0
  rAddr := none
  chunk := none
  xwait := none
  outst := []
  straddle := []
  cvuBuf := []
  doneBits := 0
  ver0 := none
  ver1 := none
  poisoned := false
  poisonLogged := false
  err := none
  timedOut := false
  fault := none
  recorded := false
  guard := 0
  guardRec := []
  absorbed := 0

/-- It enters its channel, and holds its CVU context (R373). -/
theorem State.startXfer_eq {c : EngCmd} {ch d : Nat} {src dst : Tile} {sAddr dAddr : Nat} (h0 : dCount d 0 ≠ 0) (hr : dRuns d ≠ 0) (s : State) :
    ∃ cv k, s.startXfer c ch d src dst sAddr dAddr = { s.setXfers ch (s.xfersOf ch ++ [newXfer c ch d src dst sAddr dAddr s]) with
      flacon := { s.flacon with cvu := cv }, ctrs := k } ∧ (dCvu d = true → Tab.get .free cv (dCtx d) = .xfer ch c.seq) := by
  have hne : ¬ (dCount d 0 = 0 ∨ dRuns d = 0) := by tauto
  generalize hw : s.setXfers ch (s.xfersOf ch ++ [newXfer c ch d src dst sAddr dAddr s]) = w
  have heq : s.startXfer c ch d src dst sAddr dAddr = if dCvu d then
      if (w.setCvuHold (dCtx d) (.xfer ch c.seq)).cvuMode (dCtx d) == 0 then w.setCvuHold (dCtx d) (.xfer ch c.seq)
      else (w.setCvuHold (dCtx d) (.xfer ch c.seq)).cvuInit (dCtx d)
    else w := by
    rw [← hw]
    simp only [State.startXfer, hne, if_false]
    rfl
  have hfl : w.flacon = s.flacon := by rw [← hw]; rfl
  have hheld := Tab.get_set_same CvuHold.free w.flacon.cvu (dCtx d) (.xfer ch c.seq)
  rw [heq, ← hfl]
  by_cases hcvu : dCvu d = true
  · rw [if_pos hcvu]
    split
    exacts [⟨_, w.ctrs, rfl, fun _ => hheld⟩, ⟨_, _, rfl, fun _ => hheld⟩]
  · rw [if_neg hcvu]
    exact ⟨w.flacon.cvu, w.ctrs, rfl, fun h => absurd h hcvu⟩

/-- Address of run 0 at each side of a transfer: its tile's base and its offset where the side is local, else its address with the PARAM, in
a peer's 32 bits or in the fabric's 64 (R257, R259). -/
def startSrc (bank : List Tile) (pv d : Nat) : Nat :=
  if srcLocal (dKind d) then ((getAt Tile.zero bank (dSrcTile d)).base.toNat + dSrcAddr d) % 2 ^ 32
  else (dSrcAddr d + pv) % (if dKind d = 3 then 2 ^ 32 else 2 ^ 64)
def startDst (bank : List Tile) (pv d : Nat) : Nat :=
  if dstLocal (dKind d) then ((getAt Tile.zero bank (dDstTile d)).base.toNat + dDstAddr d) % 2 ^ 32
  else (dDstAddr d + pv) % (if dKind d = 4 then 2 ^ 32 else 2 ^ 64)
/-- The last checks of a transfer with these addresses (R266). -/
def State.xferRefusal (bank : List Tile) (pv d : Nat) (s : State) : Option Rej :=
  s.xferChk (getAt Tile.zero bank (dSrcTile d)) (getAt Tile.zero bank (dDstTile d)) (startSrc bank pv d) (startDst bank pv d) d
/-- Whether a transfer that passes its checks waits: a fill writes what it reads, its CVU context is held, or a snapshot holds its
destination (R257, R351). -/
def State.xferWaits (bank : List Tile) (pv ch d : Nat) (s : State) : Bool :=
  let empty := decide (dCount d 0 = 0 ∨ dRuns d = 0)
  let rng := srcRange d (startSrc bank pv d)
  let accs := if srcLocal (dKind d) && !empty then extentHalves rng.1.toNat (rng.2.toNat + 1) else []
  (s.fillRuns.any fun f => accs.any fun h => f.stills.contains h.1 && f.halves.contains h.2) || (!empty && dCvu d && s.cvuHold (dCtx d) != .free) ||
    (!empty && (s.dstSpans (getAt Tile.zero bank (dDstTile d)) ch d (startDst bank pv d)).any fun p => s.drainOverlap p.1 p.2.1 p.2.2)
/-- What a command does with descriptor d, read from address a. -/
def State.admitXfer (c : EngCmd) (ch : Nat) (bank : List Tile) (pv a d : Nat) (s : State) : State :=
  let u := s.touchBy (c.reader 7 ch) a 128
  match s.descCond bank d with
  | some k => u.reject ch c { code := 0x1004, cond := k, unit := 9, d0 := w32 a }
  | none =>
    match s.xferRefusal bank pv d with
    | some r => u.reject ch c r
    | none =>
      if u.xferWaits bank pv ch d then u
      else (u.issued ch c).startXfer c ch d (getAt Tile.zero bank (dSrcTile d)) (getAt Tile.zero bank (dDstTile d)) (startSrc bank pv d) (startDst bank pv d)
/-- The value of the PARAM that a command may have. -/
def paramVal (param : Option Opd) : Nat := match param with | some p => oVal p | none => 0

/-- A command at the head of its queue with a readable, aligned descriptor, every earlier transfer placed, does with it what
`State.admitXfer` says. -/
theorem exec_dma_read {c : EngCmd} {n : BitVec 6} {desc : Opd} {param : Option Opd} {bank : List Tile} {ch : BitVec 4} {s : State}
    (h : s.AtHead ch.toNat c) (hop : c.op = .dma n desc param bank) (hsvc : s.inService = true)
    (hfree : ∀ x ∈ s.xfersOf ch.toNat, x.placed = true ∧ (x.guard ≠ 0 ∨ s.guardTx x.desc = false ∨ dstLocal x.kind = true))
    (hn : n.toNat ≤ 15) (hdesc : opdBad desc = false) (hpar : ∀ p, param = some p → opdBad p = false)
    (hin : s.inTiers (oVal desc) 128 = true) (hal : oVal desc % 128 = 0) (hgood : s.poisonedIn (oVal desc) 128 = false) :
    exec (.dma ch) s = .next (s.admitXfer c ch.toNat bank (paramVal param) (oVal desc) (s.le (oVal desc) 128)) := by
  have hbusy : ((s.xfersOf ch.toNat).any fun x => !x.placed || (x.guard = 0 && s.guardTx x.desc && !dstLocal x.kind)) = false := by
    rw [List.any_eq_false]
    intro x hx
    obtain ⟨hp, hg | hg | hg⟩ := hfree x hx <;> simp [hp, hg]
  have hpar' : param.any opdBad = false := by cases param <;> simp_all
  have hmod : ∀ (p : Prop) [Decidable p] (v a b : Nat), (if p then v % a else v % b) = v % (if p then a else b) := fun p _ v a b => by split <;> rfl
  change execDma ch s = _
  rw [execDma, h.runHead, hop]
  simp only [hsvc, hbusy, show ¬ 15 < n.toNat by omega, hdesc, hpar', hin, hal, hgood, Bool.not_true, Bool.or_self, Bool.false_eq_true, if_false,
    ne_eq, not_true_eq_false, hmod, State.admitXfer]
  cases s.descCond bank (s.le (oVal desc) 128) with
  | some k => rfl
  | none =>
    cases hr : s.xferRefusal bank (paramVal param) (s.le (oVal desc) 128)
    all_goals
      cases param
      all_goals
        simp only [State.xferRefusal, startSrc, startDst, paramVal] at hr
        simp only [hr, Option.isSome_some, Option.isSome_none, Bool.false_eq_true, if_true, if_false, State.xferWaits, startSrc, startDst, paramVal]
    all_goals rfl

section
variable {c : EngCmd} {ch d : Nat} {bank : List Tile} {pv a : Nat} {s : State}

theorem State.admitXfer_malformed {k : Nat} (hk : s.descCond bank d = some k) : s.admitXfer c ch bank pv a d =
    (s.touchBy (c.reader 7 ch) a 128).reject ch c { code := 0x1004, cond := k, unit := 9, d0 := w32 a } := by
  simp only [State.admitXfer, hk]
theorem State.admitXfer_refused {r : Rej} (hk : s.descCond bank d = none) (hr : s.xferRefusal bank pv d = some r) :
    s.admitXfer c ch bank pv a d = (s.touchBy (c.reader 7 ch) a 128).reject ch c r := by
  simp only [State.admitXfer, hk, hr]
/-- A transfer whose CVU context is held waits. -/
theorem State.xferWaits_held (h0 : dCount d 0 ≠ 0) (hruns : dRuns d ≠ 0) (hcvu : dCvu d = true) (hheld : s.cvuHold (dCtx d) ≠ .free) :
    s.xferWaits bank pv ch d = true := by
  simp [State.xferWaits, h0, hruns, hcvu, hheld]
theorem State.xferWaits_free (hfill : s.fillRuns = []) (hdrain : s.draining = none) (hcvu : dCvu d = true → s.cvuHold (dCtx d) = .free) :
    s.xferWaits bank pv ch d = false := by
  have hheld : (!decide (dCount d 0 = 0 ∨ dRuns d = 0) && dCvu d && s.cvuHold (dCtx d) != .free) = false := by
    cases h : dCvu d with
    | false => simp
    | true => simp [hcvu h]
  rw [State.xferWaits, hheld, hfill]
  simp [State.drainOverlap, hdrain]

variable (hk : s.descCond bank d = none) (hr : s.xferRefusal bank pv d = none)
include hk hr

theorem State.admitXfer_waits (h0 : dCount d 0 ≠ 0) (hruns : dRuns d ≠ 0) (hcvu : dCvu d = true) (hheld : s.cvuHold (dCtx d) ≠ .free) :
    s.admitXfer c ch bank pv a d = s.touchBy (c.reader 7 ch) a 128 := by
  obtain ⟨e, q, p, l, k, g, hu⟩ := s.touchBy_eq (c.reader 7 ch) a 128
  have hwait : State.xferWaits bank pv ch d (s.touchBy (c.reader 7 ch) a 128) = true := State.xferWaits_held h0 hruns hcvu (by rw [hu]; exact hheld)
  simp only [State.admitXfer, hk, hr, hwait, if_true]
/-- A transfer that nothing holds enters its channel, with what it reads as it stands, and its command leaves the queue. -/
theorem State.admitXfer_starts (hq : ch ≠ 17 ∧ ch ≠ 18) (h0 : dCount d 0 ≠ 0) (hruns : dRuns d ≠ 0) (hfill : s.fillRuns = [])
    (hdrain : s.draining = none) (hcvu : dCvu d = true → s.cvuHold (dCtx d) = .free) : ∃ t, s.admitXfer c ch bank pv a d = t ∧
      t.xfersOf ch = s.xfersOf ch ++ [newXfer c ch d (getAt Tile.zero bank (dSrcTile d)) (getAt Tile.zero bank (dDstTile d)) (startSrc bank pv d)
        (startDst bank pv d) s] ∧
      (dCvu d = true → t.cvuHold (dCtx d) = .xfer ch c.seq) ∧ t.mem = s.mem ∧ t.slots = s.slots ∧ t.vec = s.vec ∧
      t.cc.queues = (s.issued ch c).cc.queues := by
  have hacc := s.touchBy_accessed (c.reader 7 ch) a 128
  obtain ⟨e, q, p, l, k, g, hu⟩ := s.touchBy_eq (c.reader 7 ch) a 128
  generalize hv : s.touchBy (c.reader 7 ch) a 128 = v at *
  have hgo : v.xferWaits bank pv ch d = false := State.xferWaits_free (by rw [hu]; exact hfill) (by rw [hu]; exact hdrain) (by rw [hu]; exact hcvu)
  obtain ⟨qs, k', hw⟩ := State.issued_queues hq c v
  have hqs : (v.issued ch c).cc.queues = (s.issued ch c).cc.queues := by
    rw [(State.issued_pops hq.1 hq.2 c v).1, (State.issued_pops hq.1 hq.2 c s).1, hu]
    rfl
  have hnew : ∀ src dst sA dA, newXfer c ch d src dst sA dA (v.issued ch c) = newXfer c ch d src dst sA dA s := fun src dst sA dA => by
    have hreg : ∀ o, o ≠ 0x04000 → (v.issued ch c).reg o = s.reg o := fun o ho => (State.issued_reg _ _ _ _).trans (hacc.regs o (by simpa using ho))
    have henc := encOf_congr (s := s) (t := v.issued ch c) (by rw [hw]; exact hacc.slots) (dSlot d)
    simp only [newXfer, henc, State.genSeed, State.genStep, hreg 0x43000 (by decide), hreg 0x43004 (by decide), hreg 0x43008 (by decide)]
  obtain ⟨cv, k'', ht, hheld⟩ := State.startXfer_eq (c := c) (ch := ch) (src := getAt Tile.zero bank (dSrcTile d))
    (dst := getAt Tile.zero bank (dDstTile d)) (sAddr := startSrc bank pv d) (dAddr := startDst bank pv d) h0 hruns (v.issued ch c)
  refine ⟨_, rfl, ?_⟩
  simp only [State.admitXfer, hk, hr, hv, hgo, Bool.false_eq_true, if_false, ht, hnew]
  refine ⟨?_, hheld, ?_, ?_, ?_, hqs⟩
  · refine (Tab.get_set_same [] _ ch _).trans ?_
    rw [hw, hu]
    rfl
  · rw [hw, hu]
    rfl
  · rw [hw, hu]
    rfl
  · rw [hw, hu]
    rfl
end

/-! Placement: runs, read requests and packets -/

section
variable {ch : Nat} {x : Xfer} {s : State}

theorem State.Places.mem (h : s.Places ch x) : x ∈ s.xfersOf x.ch := by
  obtain ⟨-, rfl, hfind⟩ := h
  exact List.mem_of_find?_eq_some hfind
/-- What takes the place of the transfer, in a state with the same transfers, is then there. -/
theorem State.Places.put {t : State} {y : Xfer} (h : s.Places ch x) (hl : t.xfersOf ch = s.xfersOf ch) (hch : y.ch = x.ch) (hcmd : y.cmd = x.cmd) :
    y ∈ (t.putXfer y).xfersOf ch := by
  have hmem := h.mem
  obtain ⟨-, rfl, -⟩ := h
  exact hch ▸ State.mem_putXfer (by rw [hch, hl]; exact hmem) hcmd
/-- The same of what takes the place of what took its place. -/
theorem State.Places.put_again {u t : State} {x' y : Xfer} (h : s.Places ch x) (hu : u.xfersOf ch = s.xfersOf ch) (hch' : x'.ch = x.ch)
    (hcmd' : x'.cmd = x.cmd) (hl : t.xfersOf ch = (u.putXfer x').xfersOf ch) (hch : y.ch = x.ch) (hcmd : y.cmd = x.cmd) :
    y ∈ (t.putXfer y).xfersOf ch := by
  have hmem := h.put hu hch' hcmd'
  obtain ⟨-, rfl, -⟩ := h
  exact hch ▸ State.mem_putXfer (by rw [hch, hl]; exact hmem) (hcmd.trans hcmd'.symm)
theorem exec_dmaRequestPlace_data {ch : BitVec 4} (h : s.Places ch.toNat x) (hp : x.placed = false) :
    exec (.dmaRequestPlace ch) s = .next (s.placeData x) := by
  obtain ⟨hclk, -, hfind⟩ := h
  change execDmaRequestPlace ch s = _
  rw [execDmaRequestPlace, hclk.runFast]
  simp only [hfind, hp, Bool.not_false, if_true]
theorem exec_dmaRequestPlace_idle {ch : BitVec 4} (h : s.Clocked) (hsvc : s.inService = false) (hk : ∀ x ∈ s.xfersOf ch.toNat, x.kind ≠ 2) :
    exec (.dmaRequestPlace ch) s = .next s := by
  have hfind : (s.xfersOf ch.toNat).find? (fun x => x.err.isNone && x.fault.isNone && (!x.placed || s.closing x ≠ 0) && (s.inService || x.kind == 2)) =
      none := List.find?_eq_none.mpr fun x hx => by simp [hsvc, hk x hx]
  change execDmaRequestPlace ch s = _
  rw [execDmaRequestPlace, h.runFast]
  simp only [hfind]
/-- A transfer with its entry and its version word moves the data of its next run. -/
theorem State.placeData_moves (hseat : x.kind = 2 ∨ x.stream.isSome = true) (hver : dVer x.desc = true → x.ver0.isSome = true)
    (hstream : dAddrStream x.desc = false) :
    s.placeData x = if x.kind = 2 then s.moveLocal x else if x.remoteSrc then s.placeIn x else s.placeOut x := by
  have hseat' : (decide (x.kind = 2) || x.stream.isSome) = true := by simpa using hseat
  have hver' : (!dVer x.desc || x.ver0.isSome) = true := by
    cases h : dVer x.desc with
    | false => rfl
    | true => rw [hver h]; rfl
  simp only [State.placeData, hseat', hver', hstream, Bool.not_false, Bool.not_true, Bool.true_or, Bool.false_and, Bool.false_eq_true, if_true, if_false]
end

/-! A LOCAL run -/

/-- A LOCAL run lands in its bytes, and its transfer goes on to the next. -/
theorem State.moveLocal_lands {x : Xfer} (htr : dTrans x.desc = false) (s : State) : ∃ (u : State) (y : Xfer), s.moveLocal x = u.putXfer y ∧
    Lands (runBytes x x.run (x.dstAt x.run)) s u ∧ y.cmd = x.cmd ∧ y.ch = x.ch ∧ y.desc = x.desc ∧ y.run = x.run + 1 ∧
      y.doneBits = x.doneBits + dDw x.desc * dCount x.desc 0 := by
  have hlands := State.landEls_lands x x.run (x.dstAt x.run) (State.localRun (s.touchLocal x x.run (x.srcAt x.run) 0 (dCount x.desc 0)) x x.run (x.srcAt x.run))
    (List.range (dCount x.desc 0)) (s.touchLocal x x.run (x.srcAt x.run) 0 (dCount x.desc 0)) fun e he => List.mem_range.mp he
  obtain ⟨buf, p, hy⟩ := State.landEls_xfer x x.run (x.dstAt x.run)
    (State.localRun (s.touchLocal x x.run (x.srcAt x.run) 0 (dCount x.desc 0)) x x.run (x.srcAt x.run))
    (List.range (dCount x.desc 0)) (s.touchLocal x x.run (x.srcAt x.run) 0 (dCount x.desc 0)) (x.run * dCount x.desc 0)
  refine ⟨_, _, by simp only [State.moveLocal, htr, Bool.false_eq_true, if_false]; rfl,
    (Lands.of_noted (Noted.touchLocal x x.run (x.srcAt x.run) 0 (dCount x.desc 0) s)).trans hlands, ?_⟩
  rw [hy, List.length_range]
  exact ⟨rfl, rfl, rfl, rfl, rfl⟩

/-! The next place of a transfer -/

section
variable (x : Xfer) (n len : Nat)

@[simp] theorem Xfer.advance_cmd : (x.advance n len).cmd = x.cmd := by
  simp only [Xfer.advance]
  split <;> rfl
@[simp] theorem Xfer.advance_ch : (x.advance n len).ch = x.ch := by
  simp only [Xfer.advance]
  split <;> rfl
@[simp] theorem Xfer.advance_outst : (x.advance n len).outst = x.outst := by
  simp only [Xfer.advance]
  split <;> rfl
theorem Xfer.advance_place : if len ≤ x.off + n then (x.advance n len).run = x.run + 1 ∧ (x.advance n len).off = 0
    else (x.advance n len).run = x.run ∧ (x.advance n len).off = x.off + n := by
  by_cases h : len ≤ x.off + n <;> simp [Xfer.advance, h]
end
/-- A remote address that can be reached leaves the state as it was but for the count of a translation found, and the transfer as it was
but for the chunk it is in and the translation it waits for. -/
theorem State.reach_to {peer : Option Nat} {v ep route pa g : Nat} {write keep : Bool} {x x' : Xfer} {s u : State}
    (h : s.reach peer v write keep x = (.to ep route pa g x', u)) :
    (∃ c w, x' = { x with chunk := c, xwait := w }) ∧ (u = s ∨ u = s.count 0x50218 1) := by
  cases peer with
  | some gt =>
    simp only [State.reach, State.reachPeer, Prod.mk.injEq, Reach.to.injEq] at h
    obtain ⟨⟨-, -, -, -, rfl⟩, rfl⟩ := h
    exact ⟨⟨_, _, rfl⟩, .inl rfl⟩
  | none =>
    simp only [State.reach, State.reachFabric] at h
    repeat' split at h
    all_goals
      simp only [Prod.mk.injEq, Reach.to.injEq, reduceCtorEq, false_and] at h
    all_goals
      obtain ⟨⟨-, -, -, -, rfl⟩, rfl⟩ := h
      exact ⟨⟨_, _, rfl⟩, by simp⟩
theorem State.reach_to_ctrs {peer : Option Nat} {v ep route pa g : Nat} {write keep : Bool} {x x' : Xfer} {s u : State}
    (h : s.reach peer v write keep x = (.to ep route pa g x', u)) : ∃ k, u = { s with ctrs := k } ∧ ∀ o, o ≠ 0x50218 → u.ctr o = s.ctr o := by
  obtain ⟨-, rfl | rfl⟩ := State.reach_to h
  · exact ⟨u.ctrs, rfl, fun _ _ => rfl⟩
  · obtain ⟨k, hk⟩ := State.count_eq 0x50218 1 s
    exact ⟨k, hk, fun o ho => by rw [State.count_ctr, if_neg fun hc => ho hc.1]⟩

/-! A read request -/

theorem State.frozen_count (off n o : Nat) (s : State) : (s.count off n).frozen o = s.frozen o := by
  obtain ⟨k, h⟩ := State.count_eq off n s
  rw [h]
  rfl
/-- A counter advanced by n, unless its block is frozen (R113). -/
theorem State.count_self (off n : Nat) (s : State) : (s.count off n).ctr off = if s.frozen off then s.ctr off else s.ctr off + w64 n := by
  rw [State.count_ctr, w64]
  cases h : s.frozen off <;> simp

theorem State.sendRead_portOnly (ep route : Nat) (r : List Byte) (s : State) : PortOnly s (s.sendRead ep route r) := by
  simp only [State.sendRead]
  split
  exacts [PortOnly.of_port _ s.freeCtr s, State.send_portOnly _ _ s]
/-- A read request joins the requests in flight and is counted; else only the port changes. -/
theorem State.placeRead_portOnly (x : Xfer) (ep route addr group laddr len : Nat) (q : Req) (s : State) :
    PortOnly (((s.putXfer { x with outst := x.outst ++ [q] }).windowAdd group 1).count 0x50200 1) (s.placeRead x ep route addr group laddr len q) :=
  State.sendRead_portOnly _ _ _ _

/-- Where the next read request of a transfer reads, and how many bytes (R474). -/
def Xfer.nextSrc (x : Xfer) : Nat := if x.kind = 3 then (x.srcAt x.run + x.off) % 2 ^ 32 else (x.srcAt x.run + x.off) % 2 ^ 64
def Xfer.readLen (x : Xfer) : Nat := min (dSrcBytes x.desc - x.off) (64 - x.nextSrc % 64)
/-- The entry of a PEER_READ's source; none for IN. -/
def srcPeer (x : Xfer) : Option Nat := if x.kind = 3 then some (nfld (dSrcAddr x.desc) 32 13) else none

section
variable {ch : Nat} {x x' : Xfer} {ep route pa g : Nat} {s u : State}

theorem State.placeIn_reached (hst : s.straddles x.ch < 1024) (hr : s.reach (srcPeer x) x.nextSrc false true x = (.to ep route pa g x', u))
    (hwin : s.windowTakes g 1 = true) (hrd : s.rdRoom ep route = true) : ∃ la, s.placeIn x =
      (u.putXfer x').placeRead (x'.advance x.readLen (dSrcBytes x.desc)) ep route pa g la x.readLen ⟨la, g, x.run, x.off, x.readLen, 0⟩ := by
  obtain ⟨⟨c, w, rfl⟩, -⟩ := State.reach_to hr
  obtain ⟨k, rfl, -⟩ := State.reach_to_ctrs hr
  have hroom : ∀ b : Bool, (b && decide (1024 ≤ s.straddles x.ch)) = false := fun b => by simp [show ¬ 1024 ≤ s.straddles x.ch by omega]
  rw [srcPeer, Xfer.nextSrc] at hr
  have hgo : (State.windowTakes (State.putXfer { x with chunk := c, xwait := w } { s with ctrs := k }) g 1 &&
      State.rdRoom (State.putXfer { x with chunk := c, xwait := w } { s with ctrs := k }) ep route) = true := by
    rw [Bool.and_eq_true]
    exact ⟨hwin, hrd⟩
  simp only [State.placeIn, hroom, hr, hgo, Bool.false_eq_true, if_false, if_true]
  exact ⟨_, rfl⟩
/-- The request joins those in flight, and the transfer goes on to the bytes after it. -/
theorem State.placeIn_places (h : s.Places ch x) (hst : s.straddles x.ch < 1024)
    (hr : s.reach (srcPeer x) x.nextSrc false true x = (.to ep route pa g x', u)) (hwin : s.windowTakes g 1 = true) (hrd : s.rdRoom ep route = true) :
    ∃ (t : State) (y : Xfer) (q : Req), s.placeIn x = t ∧ y ∈ t.xfersOf ch ∧ y.cmd = x.cmd ∧ y.outst = x.outst ++ [q] ∧
      q.group = g ∧ q.run = x.run ∧ q.off = x.off ∧ q.len = x.readLen ∧ q.what = 0 ∧
      (if dSrcBytes x.desc ≤ x.off + x.readLen then y.run = x.run + 1 ∧ y.off = 0 else y.run = x.run ∧ y.off = x.off + x.readLen) ∧
      t.dma.outstanding = s.dma.outstanding + 1 ∧ t.ctr 0x50200 = (if s.frozen 0x50200 then s.ctr 0x50200 else s.ctr 0x50200 + 1) ∧
      t.mem = s.mem ∧ t.regs = s.regs ∧ t.slots = s.slots ∧ t.cc = s.cc ∧ t.vec = s.vec := by
  obtain ⟨la, ht⟩ := State.placeIn_reached hst hr hwin hrd
  have hp := State.placeRead_portOnly (x'.advance x.readLen (dSrcBytes x.desc)) ep route pa g la x.readLen ⟨la, g, x.run, x.off, x.readLen, 0⟩
    (u.putXfer x')
  have hplace := x'.advance_place x.readLen (dSrcBytes x.desc)
  obtain ⟨⟨c, w, rfl⟩, -⟩ := State.reach_to hr
  obtain ⟨k, hu, hctr⟩ := State.reach_to_ctrs hr
  have hfrozen : u.frozen 0x50200 = s.frozen 0x50200 := by rw [hu]; rfl
  refine ⟨_, { Xfer.advance { x with chunk := c, xwait := w } x.readLen (dSrcBytes x.desc) with outst := x.outst ++ [⟨la, g, x.run, x.off, x.readLen, 0⟩] },
    ⟨la, g, x.run, x.off, x.readLen, 0⟩, ht, ?_, Xfer.advance_cmd _ _ _, rfl, rfl, rfl, rfl, rfl, rfl, hplace, ?_, ?_, ?_, ?_, ?_, ?_, ?_⟩
  · rw [State.xfersOf, hp.dma, State.count_dma]
    rw [Xfer.advance_outst]
    exact h.put_again (u := u) (t := u.putXfer { x with chunk := c, xwait := w }) (x' := { x with chunk := c, xwait := w })
      (by rw [hu]; rfl) rfl rfl rfl (Xfer.advance_ch _ _ _) (Xfer.advance_cmd _ _ _)
  · rw [hp.dma, State.count_dma, hu]
    rfl
  · rw [hp.ctr (by decide), State.count_one, ← hctr 0x50200 (by decide), ← hfrozen]
    rfl
  · rw [hp.mem, State.count_mem, hu]
    rfl
  · rw [hp.regs, State.count_regs, hu]
    rfl
  · rw [hp.slots, State.count_slots, hu]
    rfl
  · rw [hp.cc, State.count_cc, hu]
    rfl
  · rw [hp.vec, State.count_vec, hu]
    rfl
end

/-! A packet -/

theorem packetLines_sum (x : Xfer) (a b n : Nat) : ((packetLines x a b n).map fun l => l.2.2).sum = n := by
  induction n generalizing b with
  | zero => rfl
  | succ n ih =>
    have hsum := ih (b + 1)
    rw [packetLines]
    split
    · next m o k t hl =>
      simp only [hl, List.map_cons, List.sum_cons] at hsum
      split <;> simp only [List.map_cons, List.sum_cons] <;> omega
    · next hl =>
      rw [hl] at hsum
      simpa [eq_comm] using hsum

/-- Where the next packet of a transfer goes, and how many bytes it has: those of one source unit (R474), in one page where the address is
translated (R279; log entry 51). -/
def Xfer.nextDst (x : Xfer) : Nat := (x.dstAt x.run + x.off) % (if x.kind = 4 then 2 ^ 32 else 2 ^ 64)
def State.packLen (x : Xfer) (s : State) : Nat :=
  if x.kind = 1 ∧ s.regBit 0x50030 0 = false then min (packetLen x (x.srcAt x.run) x.off s.payload s.payload) (4096 - x.nextDst % 4096)
  else packetLen x (x.srcAt x.run) x.off s.payload s.payload
/-- The source lines of the next packet (R386). -/
def State.packLines (x : Xfer) (s : State) : List (Nat × Nat × Nat) := packetLines x (x.srcAt x.run) x.off (s.packLen x)
/-- The requests of a packet, one for each source line. -/
def packReqs (x : Xfer) (g : Nat) (lines : List (Nat × Nat × Nat)) : List Req := lines.map fun l => ⟨64 * l.1 % 2 ^ 32, g, x.run, l.2.1, l.2.2, 0⟩

section
variable {ch : Nat} {x x' : Xfer} {ep route pa g : Nat} {s u : State}
  (hr : s.reach (dstPeer x) x.nextDst true true x = (.to ep route pa g x', u)) (hwin : s.windowTakes g (s.packLines x).length = true)
  (hcan : ∀ n, n = 1 ∨ n = 2 → s.canPlace (if x.kind = 1 then 0 else 1) (if x.kind = 1 then 0 else 2) n = true)
include hr hwin hcan

/-- A packet's requests join those in flight and are counted with its bytes, once its bytes have been read; else only the port changes. -/
theorem State.placeOut_reached : ∃ (v : State) (buf : List (Nat × Nat × Nat)) (p : Bool), Noted (u.putXfer x') v ∧ PortOnly
    ((((v.putXfer { x'.advance (s.packLen x) (dDstBytes x.desc) with outst := x.outst ++ packReqs x g (s.packLines x), cvuBuf := buf, poisoned := p }).windowAdd
      g (s.packLines x).length).count 0x50200 (s.packLines x).length).count 0x50210 (s.packLen x)) (s.placeOut x) := by
  obtain ⟨⟨c, w, rfl⟩, -⟩ := State.reach_to hr
  obtain ⟨k, rfl, -⟩ := State.reach_to_ctrs hr
  have hlen : ∀ a b : Nat, (if (decide (x.kind = 1) && !s.regBit 0x50030 0) = true then a else b) =
      if x.kind = 1 ∧ s.regBit 0x50030 0 = false then a else b := fun a b => by simp
  have hgo : ∀ b : Bool, (State.windowTakes (State.putXfer { x with chunk := c, xwait := w } { s with ctrs := k }) g (s.packLines x).length &&
      State.canPlace (State.putXfer { x with chunk := c, xwait := w } { s with ctrs := k }) (if x.kind = 1 then 0 else 1) (if x.kind = 1 then 0 else 2)
        (if b = true then 2 else 1)) = true := fun b => by
    rw [Bool.and_eq_true]
    exact ⟨hwin, hcan _ (by cases b <;> simp)⟩
  rw [Xfer.nextDst] at hr
  simp only [State.packLines, State.packLen, Xfer.nextDst] at hgo
  simp only [State.placeOut, hlen, hr, hgo, if_true]
  exact ⟨_, _, _, (Noted.touchLocal _ _ _ _ _ _).trans (Noted.noteMoved _ _ _), State.send_portOnly _ _ _⟩
/-- The packet's requests join those in flight, and the transfer goes on to the bytes after it. -/
theorem State.placeOut_places (h : s.Places ch x) :
    ∃ (t : State) (y : Xfer), s.placeOut x = t ∧ y ∈ t.xfersOf ch ∧ y.cmd = x.cmd ∧ y.outst = x.outst ++ packReqs x g (s.packLines x) ∧
      (if dDstBytes x.desc ≤ x.off + s.packLen x then y.run = x.run + 1 ∧ y.off = 0 else y.run = x.run ∧ y.off = x.off + s.packLen x) ∧
      t.dma.outstanding = s.dma.outstanding + (s.packLines x).length ∧
      t.ctr 0x50210 = (if s.frozen 0x50210 then s.ctr 0x50210 else s.ctr 0x50210 + w64 (s.packLen x)) ∧
      t.mem = s.mem ∧ t.cc = s.cc ∧ t.vec = s.vec := by
  obtain ⟨v, buf, p, hv, hp⟩ := State.placeOut_reached hr hwin hcan
  have hplace := x'.advance_place (s.packLen x) (dDstBytes x.desc)
  obtain ⟨⟨c, w, rfl⟩, -⟩ := State.reach_to hr
  obtain ⟨k, hu, hctr⟩ := State.reach_to_ctrs hr
  have hfrozen : u.frozen 0x50210 = s.frozen 0x50210 := by rw [hu]; rfl
  have hsent : v.ctr 0x50210 = s.ctr 0x50210 := hv.sent.trans (hctr 0x50210 (by decide))
  have hfr : v.frozen 0x50210 = s.frozen 0x50210 := hv.frozen.trans hfrozen
  have hdma : v.dma = { (u.putXfer { x with chunk := c, xwait := w }).dma with pf := v.dma.pf } := by
    rw [hv.frame]
  refine ⟨_, { Xfer.advance { x with chunk := c, xwait := w } (s.packLen x) (dDstBytes x.desc) with
      outst := x.outst ++ packReqs x g (s.packLines x), cvuBuf := buf, poisoned := p }, rfl, ?_, Xfer.advance_cmd _ _ _, rfl, hplace, ?_, ?_, ?_, ?_, ?_⟩
  · rw [State.xfersOf, hp.dma, State.count_dma, State.count_dma]
    exact h.put_again (u := u) (t := v) (x' := { x with chunk := c, xwait := w }) (by rw [hu]; rfl) rfl rfl (by rw [State.xfersOf, hdma]; rfl)
      (Xfer.advance_ch _ _ _) (Xfer.advance_cmd _ _ _)
  · rw [hp.dma, State.count_dma, State.count_dma]
    refine (congrArg (fun d : Dma => d.outstanding + (s.packLines x).length) hdma).trans ?_
    rw [hu]
    rfl
  · rw [hp.ctr (by decide), State.count_self]
    have hreq : ∀ (n : Nat) (s : State), (s.count 0x50200 n).ctr 0x50210 = s.ctr 0x50210 ∧ (s.count 0x50200 n).frozen 0x50210 = s.frozen 0x50210 :=
      fun n s => ⟨by rw [State.count_ctr, if_neg fun hc => absurd hc.1 (by decide)], State.frozen_count _ _ _ s⟩
    rw [(hreq _ _).1, (hreq _ _).2, ← hsent, ← hfr]
    rfl
  · rw [hp.mem, State.count_mem, State.count_mem]
    refine hv.mem.trans ?_
    rw [hu]
    rfl
  · rw [hp.cc, State.count_cc, State.count_cc]
    refine hv.cc.trans ?_
    rw [hu]
    rfl
  · rw [hp.vec, State.count_vec, State.count_vec]
    refine hv.vec.trans ?_
    rw [hu]
    rfl
end

/-! Completion -/

/-- Bits 31 to 16 of a word stay when its low half is set. -/
theorem getLsbD_setFld_low {w : Word} {v k : Nat} (hlo : 16 ≤ k) (hhi : k < 32) : (setFld w 0 16 v).getLsbD k = w.getLsbD k := by
  have h : fld (setFld w 0 16 v) 16 16 = fld w 16 16 := fld_setFld_half w v (b := 0) (k := 1) (by decide) (by decide)
  have hbit := congrArg (fun n => Nat.testBit n (k - 16)) h
  simp only [fld, Nat.testBit_mod_two_pow, Nat.testBit_div_two_pow, show k - 16 < 16 by omega, show k - 16 + 16 = k by omega, decide_true,
    Bool.true_and] at hbit
  exact hbit
theorem fld_or {w m : Word} (hm : fld m 0 16 = 0) : fld (w ||| m) 0 16 = fld w 0 16 := by
  simp only [fld, pow_zero, Nat.div_one] at hm ⊢
  rw [BitVec.toNat_or, Nat.or_mod_two_pow, hm, Nat.or_zero]

section
variable (x : Xfer) (s : State)

/-- DMA_CHn_STATUS of the transfer's channel, and the value it has once the transfer has completed: its tag, and whether it was poisoned. -/
def Xfer.statusReg : Nat := 0x50100 + 4 * x.ch
def Xfer.endStatus (w : Word) : Word := if x.poisoned then setFld w 0 16 x.cmd.tag.toNat ||| 0x40000 else setFld w 0 16 x.cmd.tag.toNat

theorem Xfer.endStatus_tag (w : Word) : fld (x.endStatus w) 0 16 = x.cmd.tag.toNat := by
  have htag : fld (setFld w 0 16 x.cmd.tag.toNat) 0 16 = x.cmd.tag.toNat := by
    have h := fld_setFld_half w x.cmd.tag.toNat (b := 0) (k := 0) (by decide) (by decide)
    rwa [if_pos rfl, Nat.mod_eq_of_lt x.cmd.tag.isLt] at h
  rw [Xfer.endStatus]
  split
  exacts [(fld_or (by decide)).trans htag, htag]
theorem Xfer.endStatus_poisoned (h : x.poisoned = true) (w : Word) : (x.endStatus w).getLsbD 18 = true := by
  rw [Xfer.endStatus, if_pos h, BitVec.getLsbD_or]
  simp
theorem Xfer.endStatus_stale (w : Word) : (x.endStatus w).getLsbD 17 = w.getLsbD 17 := by
  have hbit := getLsbD_setFld_low (w := w) (v := x.cmd.tag.toNat) (k := 17) (by decide) (by decide)
  rw [Xfer.endStatus]
  split
  · rw [BitVec.getLsbD_or, hbit]
    simp
  · exact hbit

/-- A transfer that completes writes its status and leaves its channel (R269). -/
theorem State.finishXfer_eq : ∃ w : State, s.finishXfer x = w.dropXfer x ∧ w = { s with regs := w.regs } ∧
    ∀ o, w.reg o = if o = x.statusReg then x.endStatus (s.reg x.statusReg) else s.reg o := by
  refine ⟨_, rfl, ?_, fun o => ?_⟩
  · split <;> rfl
  · simp only [Xfer.endStatus, Xfer.statusReg]
    by_cases ho : o = 0x50100 + 4 * x.ch
    · split <;> simp [ho]
    · split <;> simp [ho]
theorem State.finishXfer_reg (o : Nat) : (s.finishXfer x).reg o = if o = x.statusReg then x.endStatus (s.reg x.statusReg) else s.reg o := by
  obtain ⟨w, h, -, hreg⟩ := s.finishXfer_eq x
  rw [h, State.dropXfer_reg, hreg]
theorem State.finishXfer_mem : (s.finishXfer x).mem = s.mem := by
  obtain ⟨w, h, hw, -⟩ := s.finishXfer_eq x
  rw [h, State.dropXfer_mem, hw]
theorem State.finishXfer_slots : (s.finishXfer x).slots = s.slots := by
  obtain ⟨w, h, hw, -⟩ := s.finishXfer_eq x
  rw [h, State.dropXfer_slots, hw]
theorem State.finishXfer_cc : (s.finishXfer x).cc = s.cc := by
  obtain ⟨w, h, hw, -⟩ := s.finishXfer_eq x
  rw [h, State.dropXfer_cc, hw]
theorem State.finishXfer_xfersOf : (s.finishXfer x).xfersOf x.ch = (s.xfersOf x.ch).filter fun e => e.cmd.seq != x.cmd.seq := by
  obtain ⟨w, h, hw, -⟩ := s.finishXfer_eq x
  rw [h, State.dropXfer_xfersOf, hw]
  rfl
theorem State.finishXfer_stream {i : Nat} (hi : x.stream = some i) : (s.finishXfer x).stream i = .free := by
  obtain ⟨w, h, -, -⟩ := s.finishXfer_eq x
  rw [h, State.dropXfer_stream hi]

/-- What a stale version word does before the transfer ends: it is counted, and marked in the channel's status (R284). -/
def State.noteStale : State := if x.stale then (s.count 0x50230 1).orReg x.statusReg 0x20000 else s
theorem State.noteStale_eq : ∃ k g, s.noteStale x = { s with ctrs := k, regs := g } := by
  rw [State.noteStale]
  split
  · obtain ⟨k, h⟩ := State.count_eq 0x50230 1 s
    rw [h]
    exact ⟨k, _, rfl⟩
  · exact ⟨s.ctrs, s.regs, rfl⟩
theorem State.noteStale_reg {o : Nat} (ho : o ≠ x.statusReg) : (s.noteStale x).reg o = s.reg o := by
  rw [State.noteStale]
  split
  · rw [State.orReg_reg, if_neg ho, State.count_reg]
  · rfl
theorem State.noteStale_marked (h : x.stale = true) : (s.noteStale x).regBit x.statusReg 17 = true := by
  rw [State.noteStale, if_pos h, State.regBit, State.orReg_reg, if_pos rfl, BitVec.getLsbD_or]
  simp
theorem State.noteStale_counted (h : x.stale = true) :
    (s.noteStale x).ctr 0x50230 = if s.frozen 0x50230 then s.ctr 0x50230 else s.ctr 0x50230 + 1 := by
  rw [State.noteStale, if_pos h, State.orReg_ctr, State.count_one]

theorem State.trackPrefetch_eq : ∃ p k, s.trackPrefetch x = { s with dma := { s.dma with pf := p }, ctrs := k } := by
  simp only [State.trackPrefetch]
  split
  · exact ⟨s.dma.pf, s.ctrs, rfl⟩
  · obtain ⟨k, hk⟩ := State.count_eq 0x50290 x.total s
    rw [hk]
    split
    · split
      · obtain ⟨k', hk'⟩ := State.count_eq _ _ _
        exact ⟨_, k', hk'⟩
      · exact ⟨_, _, rfl⟩
    · exact ⟨_, _, rfl⟩
end

section
variable {x : Xfer} {s : State} (htx : s.guardTx x.desc = false) (hrx : s.guardRx x.desc = false) (hg : x.guard < 3)
  (hver : dVer x.desc = true → x.remoteSrc = true)
include htx hrx hg hver

/-- With no guard record and no local version word, a transfer that completes notes a stale version word, and then ends in VERSION_STALE or
fires its signal. -/
theorem State.completeXfer_eq : s.completeXfer x = if (x.stale && dStaleHalt x.desc) = true then
      (s.noteStale x).endXfer x { code := 0x1003, cond := 1, unit := 9, d0 := w32 (x.stream.getD 0xFFFFF) }
    else (((s.noteStale x).putXfer { x with guard := 3 }).trackPrefetch { x with guard := 3 }).fireSignal { x with guard := 3 } := by
  have hver' : (dVer x.desc && !x.remoteSrc && x.ver1.isNone) = false := by
    cases h : dVer x.desc with
    | false => rfl
    | true => rw [hver h]; rfl
  have hclose : s.closeLocal x = (x, s) := by
    simp only [State.closeLocal, htx, hrx, hver', Bool.false_and, Bool.false_eq_true, if_false]
  have hcheck : s.guardCheck x = (none, s) := by
    simp only [State.guardCheck, hrx, Bool.not_false, Bool.true_or, if_true]
  have hne : ¬ x.guard = 3 := by omega
  simp only [State.completeXfer, hne, if_false, hclose, hcheck]
  rfl
end

section
variable (x : Xfer) (s : State)

/-- The state in which a transfer that has met every condition fires its signal. -/
def State.closeXfer : State := ((s.noteStale x).putXfer { x with guard := 3 }).trackPrefetch { x with guard := 3 }
theorem State.closeXfer_eq : ∃ l p k g, s.closeXfer x = { s with dma := { s.dma with xfers := l, pf := p }, ctrs := k, regs := g } := by
  obtain ⟨k, g, h⟩ := s.noteStale_eq x
  obtain ⟨p, k', h'⟩ := State.trackPrefetch_eq { x with guard := 3 } ((s.noteStale x).putXfer { x with guard := 3 })
  rw [State.closeXfer, h', h]
  exact ⟨_, p, k', g, rfl⟩
theorem State.closeXfer_reg (o : Nat) : (s.closeXfer x).reg o = (s.noteStale x).reg o := by
  obtain ⟨p, k, h⟩ := State.trackPrefetch_eq { x with guard := 3 } ((s.noteStale x).putXfer { x with guard := 3 })
  rw [State.closeXfer, h]
  rfl
theorem State.closeXfer_others : ((s.closeXfer x).xfersOf x.ch).filter (fun e => e.cmd.seq != x.cmd.seq) =
    (s.xfersOf x.ch).filter fun e => e.cmd.seq != x.cmd.seq := by
  obtain ⟨k, g, h⟩ := s.noteStale_eq x
  obtain ⟨p, k', h'⟩ := State.trackPrefetch_eq { x with guard := 3 } ((s.noteStale x).putXfer { x with guard := 3 })
  rw [State.closeXfer, h', h]
  exact State.putXfer_others { x with guard := 3 } _
end

section
variable {x : Xfer} {s : State}

theorem exec_dmaComplete_ready {ch : BitVec 4} (h : s.Clocked) (hfind : (s.xfersOf ch.toNat).find? (fun x => s.xferReady x) = some x) :
    exec (.dmaComplete ch) s = .next (s.completeXfer x) := by
  change execDmaComplete ch s = _
  rw [execDmaComplete, h.runFast]
  simp only [hfind]
theorem State.fireSignal_none (h : dSig x.desc = false) : s.fireSignal x = s.finishXfer x := by
  simp only [State.fireSignal, h, Bool.not_false, if_true]
theorem State.fireSignal_local (h : dSig x.desc = true) (hloc : dstLocal x.kind = true) : s.fireSignal x =
    State.finishXfer x (s.syncApply (dSigOp x.desc) (dSigAddr x.desc) (w32 (dSigValue x.desc)) 1 (x.reader 11)).2 := by
  simp only [State.fireSignal, h, hloc, Bool.not_true, Bool.false_eq_true, if_false, if_true]

section
variable (htx : s.guardTx x.desc = false) (hrx : s.guardRx x.desc = false) (hg : x.guard < 3) (hver : dVer x.desc = true → x.remoteSrc = true)
include htx hrx hg hver

/-- A stale transfer with STALE_HALT ends in VERSION_STALE (R284). -/
theorem State.completeXfer_stale (hst : x.stale = true) (hhalt : dStaleHalt x.desc = true) : ∃ t v : State, s.completeXfer x = t ∧
    t.mem = s.mem ∧ v.mem = s.mem ∧ t = v.rejectLate x.ch x.cmd { code := 0x1003, cond := 1, unit := 9, d0 := w32 (x.stream.getD 0xFFFFF) } ∧
      v.ctr 0x50230 = (if s.frozen 0x50230 then s.ctr 0x50230 else s.ctr 0x50230 + 1) ∧ v.regBit x.statusReg 17 = true ∧
      v.xfersOf x.ch = (s.xfersOf x.ch).filter (fun e => e.cmd.seq != x.cmd.seq) := by
  obtain ⟨k, g, hn⟩ := s.noteStale_eq x
  have hmem : ((s.noteStale x).dropXfer x).mem = s.mem := by rw [State.dropXfer_mem, hn]
  obtain ⟨_, _, _, _, _, _, _, _, hrej⟩ := State.rejectLate_eq x.ch x.cmd { code := 0x1003, cond := 1, unit := 9, d0 := w32 (x.stream.getD 0xFFFFF) }
    ((s.noteStale x).dropXfer x)
  have hend := State.completeXfer_eq htx hrx hg hver
  rw [hst, hhalt, Bool.and_self, if_pos rfl, State.endXfer] at hend
  refine ⟨_, (s.noteStale x).dropXfer x, rfl, ?_, hmem, hend, ?_, ?_, ?_⟩
  · rw [hend, hrej]
    exact hmem
  · rw [State.ctr, State.dropXfer_ctrs]
    exact s.noteStale_counted x hst
  · rw [State.regBit, State.dropXfer_reg]
    exact s.noteStale_marked x hst
  · rw [State.dropXfer_xfersOf, hn]
    rfl

section
variable (hgo : x.stale = false ∨ dStaleHalt x.desc = false)
include hgo

theorem State.completeXfer_fires : s.completeXfer x = (s.closeXfer x).fireSignal { x with guard := 3 } := by
  have hno : (x.stale && dStaleHalt x.desc) = false := by
    obtain h | h := hgo <;> simp [h]
  rw [State.completeXfer_eq htx hrx hg hver, hno]
  rfl
/-- A transfer without a signal writes its status, frees its entry and leaves (R269, R287). -/
theorem State.completeXfer_plain (hsig : dSig x.desc = false) : ∃ t, s.completeXfer x = t ∧ t.regFld x.statusReg 0 16 = x.cmd.tag.toNat ∧
    (x.poisoned = true → t.regBit x.statusReg 18 = true) ∧ (x.stale = true → t.regBit x.statusReg 17 = true) ∧
    t.xfersOf x.ch = (s.xfersOf x.ch).filter (fun e => e.cmd.seq != x.cmd.seq) ∧ (∀ i, x.stream = some i → t.stream i = .free) ∧
    SameRegsBut [x.statusReg] s t ∧ t.mem = s.mem ∧ t.slots = s.slots ∧ t.cc = s.cc := by
  obtain ⟨l, p, k, g, hc⟩ := s.closeXfer_eq x
  have ht : s.completeXfer x = State.finishXfer { x with guard := 3 } (s.closeXfer x) :=
    (State.completeXfer_fires htx hrx hg hver hgo).trans (State.fireSignal_none (x := { x with guard := 3 }) hsig)
  have hreg : ∀ o, (s.completeXfer x).reg o = if o = x.statusReg then x.endStatus ((s.closeXfer x).reg x.statusReg) else (s.closeXfer x).reg o := fun o => by
    rw [ht]
    exact State.finishXfer_reg { x with guard := 3 } _ o
  have hstatus := (hreg x.statusReg).trans (if_pos rfl)
  refine ⟨_, rfl, ?_, fun hp => ?_, fun hst => ?_, ?_, fun i hi => ?_, fun o ho => ?_, ?_, ?_, ?_⟩
  · rw [State.regFld, hstatus, Xfer.endStatus_tag]
  · rw [State.regBit, hstatus, Xfer.endStatus_poisoned x hp]
  · rw [State.regBit, hstatus, Xfer.endStatus_stale, State.closeXfer_reg]
    exact s.noteStale_marked x hst
  · rw [ht]
    exact (State.finishXfer_xfersOf { x with guard := 3 } _).trans (s.closeXfer_others x)
  · rw [ht]
    exact State.finishXfer_stream { x with guard := 3 } _ hi
  · rw [hreg, if_neg (by simpa using ho), State.closeXfer_reg, State.noteStale_reg x s (by simpa using ho)]
  · rw [ht, State.finishXfer_mem, hc]
  · rw [ht, State.finishXfer_slots, hc]
  · rw [ht, State.finishXfer_cc, hc]
/-- A local signal adds to its word before the transfer leaves (R305). -/
theorem State.completeXfer_signals (hsig : dSig x.desc = true) (hloc : dstLocal x.kind = true) (hop : dSigOp x.desc = 1)
    (hchk : s.wordChk (dSigAddr x.desc) = none) (hread : s.readWord (dSigAddr x.desc) 1 = .ok false (s.word (dSigAddr x.desc))) :
    ∃ t, s.completeXfer x = t ∧ t.word (dSigAddr x.desc) = s.word (dSigAddr x.desc) + w32 (dSigValue x.desc) ∧
      SameMemOutside (dSigAddr x.desc) 8 s t ∧ t.regFld x.statusReg 0 16 = x.cmd.tag.toNat ∧
      t.xfersOf x.ch = (s.xfersOf x.ch).filter (fun e => e.cmd.seq != x.cmd.seq) := by
  obtain ⟨l, p, k, g, hc⟩ := s.closeXfer_eq x
  have hbyte : ∀ a, (s.closeXfer x).byte a = s.byte a := fun a => by rw [hc]; rfl
  have hchk' : (s.closeXfer x).wordChk (dSigAddr x.desc) = none := State.wordChk_congr (by rw [hc]) hchk
  have hread' : (s.closeXfer x).readWord (dSigAddr x.desc) 1 = .ok false (s.word (dSigAddr x.desc)) :=
    (State.readWord_congr (fun a _ _ => hbyte a) (by rw [hc]; rfl)).trans hread
  have ht : s.completeXfer x = State.finishXfer { x with guard := 3 }
      ((s.closeXfer x).syncApply 1 (dSigAddr x.desc) (w32 (dSigValue x.desc)) 1 (x.reader 11)).2 := by
    rw [State.completeXfer_fires htx hrx hg hver hgo, State.fireSignal_local (x := { x with guard := 3 }) hsig hloc, ← hop]
    rfl
  obtain ⟨-, hword, hout⟩ := State.syncApply_ok 1 (dSigAddr x.desc) (w32 (dSigValue x.desc)) 1 (x.reader 11) (s.closeXfer x) false _ hchk' hread'
  have hlands := State.syncApply_lands (v := w32 (dSigValue x.desc)) (src := 1) (rd := x.reader 11) hchk' hread'
  generalize ((s.closeXfer x).syncApply 1 (dSigAddr x.desc) (w32 (dSigValue x.desc)) 1 (x.reader 11)).2 = w at *
  have hbyte' : ∀ a, (s.completeXfer x).byte a = w.byte a := fun a => by rw [State.byte, ht, State.finishXfer_mem, State.byte]
  refine ⟨_, rfl, ?_, fun a ha => ?_, ?_, ?_⟩
  · rw [State.word_of_byte w _ _ hbyte', hword]
    rfl
  · rw [hbyte', hout a ha, hbyte]
  · rw [State.regFld, ht]
    exact (congrArg (fun v => fld v 0 16) ((State.finishXfer_reg { x with guard := 3 } w _).trans (if_pos rfl))).trans (Xfer.endStatus_tag _ _)
  · rw [ht]
    refine (State.finishXfer_xfersOf { x with guard := 3 } w).trans ?_
    rw [hlands.xfersOf]
    exact s.closeXfer_others x
end
end
end

/-- Settles O49: what a DMA command, the placement of its transfer's runs and requests, and its completion do, each from a lemma above. -/
theorem transfersIssuePlaceAndComplete : Obligations.TransfersIssuePlaceAndComplete := by
  unfold Obligations.TransfersIssuePlaceAndComplete
  refine ⟨fun c n desc param bank ch s h hop hsvc hfree hn hdesc hpar hin hal hgood => ?issue, fun ch x s h hp hk htr hstr hver => ?run,
    fun ch x x' i ep route pa g s u h hp hi hstr hver hroom => ⟨fun hk => ?reads, fun hk => ?packets⟩, fun ch s h => exec_dmaRequestPlace_idle h,
    fun ch x s h hfind hch htx hrx hg hver => ?completes⟩
  case issue =>
    have hread := exec_dma_read h hop hsvc hfree hn hdesc hpar hin hal hgood
    have hq : ch.toNat ≠ 17 ∧ ch.toNat ≠ 18 := by omega
    refine ⟨fun k hk => ?_, fun hk => ⟨fun r hr => ?_, fun hr h0 hruns hfill hdrain => ⟨fun hcvu hheld => ?_, fun hcvu => ?_⟩⟩⟩
    · rw [hread, State.admitXfer_malformed hk]
    · rw [hread, State.admitXfer_refused (pv := paramVal param) hk hr]
    · rw [hread, State.admitXfer_waits (pv := paramVal param) hk hr h0 hruns hcvu hheld]
    · obtain ⟨t, ht, hl, hheld, hmem, hslots, hvec, hqs⟩ :=
        State.admitXfer_starts (c := c) (a := oVal desc) (pv := paramVal param) hk hr hq h0 hruns hfill hdrain hcvu
      exact ⟨t, _, by rw [hread, ht], hl, rfl, rfl, rfl, rfl, rfl, rfl, rfl, rfl, rfl, rfl, rfl, rfl, rfl, rfl, hheld, hmem, hslots, hvec, hqs⟩
  case run =>
    obtain ⟨u, y, hu, hlands, hcmd, hych, hdesc, hrun, hdone⟩ := State.moveLocal_lands htr s
    rw [exec_dmaRequestPlace_data h hp, State.placeData_moves (.inl hk) hver hstr, if_pos hk, hu]
    exact ⟨_, y, rfl, h.put (hlands.xfersOf _) hych hcmd, hcmd, hdesc, hrun, hdone, fun a ha hs => hlands.bytes a (not_runBytes ha hs), hlands.vec, hlands.cc⟩
  case reads =>
    intro a n hr hwin hrd
    have hsrc : x.remoteSrc = true := by obtain hk | hk := hk <;> simp [Xfer.remoteSrc, srcLocal, hk]
    obtain ⟨t, y, q, ht, hplaced⟩ := State.placeIn_places h hroom hr hwin hrd
    rw [exec_dmaRequestPlace_data h hp, State.placeData_moves (.inr (by rw [hi]; rfl)) hver hstr, if_neg (by omega), if_pos hsrc, ht]
    exact ⟨t, y, q, rfl, hplaced⟩
  case packets =>
    intro v whole n lines hr hwin htwo hone
    have hsrc : ¬ x.remoteSrc = true := by obtain hk | hk := hk <;> simp [Xfer.remoteSrc, srcLocal, hk]
    have hcan : ∀ k, k = 1 ∨ k = 2 → s.canPlace (if x.kind = 1 then 0 else 1) (if x.kind = 1 then 0 else 2) k = true := fun k hk => by
      obtain rfl | rfl := hk
      exacts [hone, htwo]
    obtain ⟨t, y, ht, hy, hcmd, hout, hplaced⟩ := State.placeOut_places hr hwin hcan h
    rw [exec_dmaRequestPlace_data h hp, State.placeData_moves (.inr (by rw [hi]; rfl)) hver hstr, if_neg (by omega), if_neg hsrc, ht]
    refine ⟨t, y, _, rfl, hy, hcmd, hout, List.length_map _, ?_, hplaced⟩
    rw [packReqs, List.map_map]
    exact packetLines_sum x _ _ _
  case completes =>
    rw [exec_dmaComplete_ready h hfind, ← hch]
    refine ⟨fun hst hhalt => ?_, fun hgo => ⟨fun hsig => ?_, fun hsig hloc hop hchk hread => ?_⟩⟩
    · obtain ⟨t, v, ht, hrest⟩ := State.completeXfer_stale htx hrx hg hver hst hhalt
      exact ⟨t, v, congrArg _ ht, hrest⟩
    · obtain ⟨t, ht, hrest⟩ := State.completeXfer_plain htx hrx hg hver hgo hsig
      exact ⟨t, congrArg _ ht, hrest⟩
    · obtain ⟨t, ht, hrest⟩ := State.completeXfer_signals htx hrx hg hver hgo hsig hloc hop hchk hread
      exact ⟨t, congrArg _ ht, hrest⟩

end Sys2Proof.Machine
end

section
/-! Rules of the sync words, the waits and the issue of a command, used by the proofs of chapter 09 and of the buckets (R293 to
R301). -/

namespace Sys2Proof.Machine

/-! The issue of a command (R210) -/

/-- The head of queue q leaves it when it is the command with this number, and the fill queues record it (R85). -/
def State.popIf (seq q : Nat) (s : State) : State :=
  match (s.queue q).items with
  | e :: _ =>
    if e.seq = seq then
      { s.popQueue q with still := if q = 17 then { (s.popQueue q).still with lastA := seq } else { (s.popQueue q).still with lastB := seq } }
    else s
  | [] => s
theorem State.popFill_eq (seq : Nat) (s : State) : s.popFill seq = (s.popIf seq 17).popIf seq 18 := rfl

section
variable {s t : State} (h : t.cc.queues = s.cc.queues)
include h

theorem State.queue_congr (q : Nat) : t.queue q = s.queue q := by rw [State.queue, State.queue, h]
theorem State.headCmd_congr (q : Nat) : t.headCmd q = s.headCmd q := by rw [State.headCmd, State.headCmd, State.queue_congr h]
theorem State.popQueue_congr (q : Nat) : (t.popQueue q).cc.queues = (s.popQueue q).cc.queues := by
  simp only [State.popQueue, State.setQueue, State.queue_congr h, h]
theorem State.popIf_congr (seq q : Nat) : (t.popIf seq q).cc.queues = (s.popIf seq q).cc.queues := by
  simp only [State.popIf, State.queue_congr h]
  split
  · split
    exacts [State.popQueue_congr h q, h]
  · exact h
theorem State.done_congr (q : Nat) (c : EngCmd) : (t.done q c).cc.queues = (s.done q c).cc.queues := by
  simp only [State.done, State.popFill_eq]
  split
  exacts [State.popIf_congr (State.popIf_congr h _ _) _ _, State.popQueue_congr h q]
end

/-- Beside the queues, and what the fill queues recorded last, an issue changes one of two counters. -/
theorem State.issued_done (q : Nat) (c : EngCmd) (s : State) : (s.issued q c).cc.queues = (s.done q c).cc.queues ∧
    SameCtrsBut [0x14010, 0x14018] s (s.issued q c) := by
  obtain ⟨u, a, b, h⟩ := State.done_eq q c s
  have hctr : ∀ o, (s.done q c).ctr o = s.ctr o := fun o => by rw [h]; rfl
  have hcount : ∀ off ∈ [0x14010, 0x14018], ((s.done q c).count off 1).cc.queues = (s.done q c).cc.queues ∧
      SameCtrsBut [0x14010, 0x14018] s ((s.done q c).count off 1) := fun off hoff =>
    ⟨by rw [State.count_cc], fun o ho => by rw [State.count_ctr, if_neg (c := o = off ∧ _) fun hc => ho (hc.1 ▸ hoff), hctr]⟩
  simp only [State.issued]
  split
  · exact ⟨rfl, fun o _ => hctr o⟩
  · exact hcount _ (by decide)
  · exact hcount _ (by decide)
/-- Which commands an issue leaves queued follows from the queues alone. -/
theorem State.issued_congr {s t : State} (h : t.cc.queues = s.cc.queues) (q : Nat) (c : EngCmd) :
    (t.issued q c).cc.queues = (s.issued q c).cc.queues := by
  rw [(State.issued_done q c t).1, (State.issued_done q c s).1, State.done_congr h]
theorem State.issued_mem (q : Nat) (c : EngCmd) (s : State) : (s.issued q c).mem = s.mem := by
  obtain ⟨u, a, b, k, h⟩ := State.issued_eq q c s
  rw [h]
theorem State.issued_regs (q : Nat) (c : EngCmd) (s : State) : (s.issued q c).regs = s.regs := by
  obtain ⟨u, a, b, k, h⟩ := State.issued_eq q c s
  rw [h]
theorem State.issued_slots (q : Nat) (c : EngCmd) (s : State) : (s.issued q c).slots = s.slots := by
  obtain ⟨u, a, b, k, h⟩ := State.issued_eq q c s
  rw [h]
theorem State.issued_sync (q : Nat) (c : EngCmd) (s : State) : (s.issued q c).sync = s.sync := by
  obtain ⟨u, a, b, k, h⟩ := State.issued_eq q c s
  rw [h]
theorem State.byte_congr {s t : State} (h : t.mem = s.mem) (a : Nat) : t.byte a = s.byte a := by rw [State.byte, State.byte, h]

/-! Good words -/

theorem State.partCheck_good (r a : Nat) {n : Nat} {s : State} (hn : 0 < n) (h : s.poisonedIn a n = false) :
    ∃ k, s.partCheck r a n = { s with ctrs := k } := by
  have hbad : s.eccBad.filter (fun e => eccOverlap e a n && !eccCovers e a n) = [] := by
    simp only [List.filter_eq_nil_iff, Bool.and_eq_true, not_and]
    exact fun e he ho => absurd (State.no_bad_overlap hn h e he) (by simp [ho])
  obtain ⟨k, hk⟩ := foldl_count_eq eccCorrCtr (s.eccCorr.filter fun e => eccOverlap e a n && !eccCovers e a n) s
  exact ⟨k, by simp only [State.partCheck, hk, hbad, List.foldl_nil]⟩
theorem State.eccCheck_good (r : Reader) {a n : Nat} {s : State} (hn : 0 < n) (h : s.poisonedIn a n = false) :
    ∃ e k, s.eccCheck r a n = { s with eccCorr := e, ctrs := k } := by
  have hbad : s.eccBad.filter (fun e => eccOverlap e a n) = [] := by
    simpa [List.filter_eq_nil_iff] using State.no_bad_overlap hn h
  obtain ⟨k, hk⟩ := foldl_count_eq eccCorrCtr (s.eccCorr.filter fun e => eccOverlap e a n)
    { s with eccCorr := s.eccCorr.filter fun e => !eccOverlap e a n }
  exact ⟨s.eccCorr.filter fun e => !eccOverlap e a n, k, by rw [State.eccCheck, hbad, List.foldl_nil, hk]⟩
theorem State.accCheck_below {a n : Nat} (s : State) (ha : a + n ≤ 0x08000000) : s.accCheck a n = s := by
  have : s.parBad.filter (fun e => isAcc e && decide (e < a + n) && decide (a < e + 4)) = [] := by
    simp only [List.filter_eq_nil_iff, isAcc, Bool.and_eq_true, decide_eq_true_eq]
    omega
  rw [State.accCheck, this]
  rfl

/-- From s to t the sync unit has read good words of the tiers, and written some: nothing is logged, no register changes, and every
counter but those of accesses and of updates stays. -/
structure GoodAccess (s t : State) : Prop where
  frame : t = { s with
    mem := t.mem, eccBad := t.eccBad, eccCorr := t.eccCorr, sync := { s.sync with watch := t.sync.watch }
    cc := { s.cc with valid0 := t.cc.valid0, valid1 := t.cc.valid1 }, mgmt := { s.mgmt with deferred := t.mgmt.deferred }
    dma := { s.dma with pf := t.dma.pf }, ctrs := t.ctrs }
  ctrs : ∀ o, accessCtr o = false → o ≠ 0x60300 → t.ctr o = s.ctr o

namespace GoodAccess
variable {s t u : State}

theorem refl (s : State) : GoodAccess s s := ⟨rfl, fun _ _ _ => rfl⟩
theorem trans (h : GoodAccess s t) (h' : GoodAccess t u) : GoodAccess s u where
  frame := by rw [h'.frame, h.frame]
  ctrs := fun o ho hne => (h'.ctrs o ho hne).trans (h.ctrs o ho hne)

theorem sys (h : GoodAccess s t) : t.sys = s.sys := by rw [h.frame]
theorem regs (h : GoodAccess s t) : t.regs = s.regs := by rw [h.frame]
theorem logs (h : GoodAccess s t) : t.logs = s.logs := by rw [h.frame]
theorem slots (h : GoodAccess s t) : t.slots = s.slots := by rw [h.frame]
theorem queues (h : GoodAccess s t) : t.cc.queues = s.cc.queues := by rw [h.frame]
theorem polls (h : GoodAccess s t) : t.sync.polls = s.sync.polls := by rw [h.frame]
theorem reg (h : GoodAccess s t) (o : Nat) : t.reg o = s.reg o := by rw [State.reg, State.reg, h.regs, h.sys]
theorem frozen (h : GoodAccess s t) (o : Nat) : t.frozen o = s.frozen o := by simp only [State.frozen, State.regBit, h.reg]

end GoodAccess

theorem State.touchBy_goodAccess (r : Reader) {a n : Nat} {s : State} (h : s.poisonedIn a n = false) (ha : a + n ≤ 0x08000000) :
    GoodAccess s (s.touchBy r a n) := by
  refine ⟨?_, fun o ho _ => (s.touchBy_accessed r a n).ctrs o ho⟩
  by_cases hn : n = 0
  · rw [State.touchBy, if_pos hn]
  · obtain ⟨e, k, he⟩ := State.eccCheck_good r (Nat.pos_of_ne_zero hn) h
    obtain ⟨d, k', hpf⟩ := State.pfRead_eq r.req a n { s with eccCorr := e, ctrs := k }
    rw [State.touchBy, if_neg hn, he, State.accCheck_below _ ha, hpf]
theorem State.write_goodAccess (r a : Nat) (bs : List Byte) {s : State} (h : s.poisonedIn a bs.length = false) : GoodAccess s (s.write r a bs) := by
  refine ⟨?_, fun o ho _ => (s.write_accessed r a bs).ctrs o ho⟩
  simp only [State.write]
  split
  · rfl
  · next hne =>
    obtain ⟨k, hk⟩ := State.partCheck_good r a (List.length_pos_iff.mpr hne) h
    obtain ⟨d, k', hpf⟩ := State.pfWrite_eq a bs.length _
    rw [hpf, hk]
    rfl
theorem State.putCount_goodAccess {a : Nat} (sem : Bool) (w : Word) {s : State} (h : s.poisonedIn a 8 = false) : GoodAccess s (s.putCount a sem w) := by
  have hw := State.write_goodAccess 11 a (leBytes 8 (w64 (bit sem * 2 ^ 60 + w.toNat)).toNat) (s := s) (by rwa [leBytes_length])
  obtain ⟨k, hk⟩ := State.count_eq 0x60300 1 (s.write 11 a (leBytes 8 (w64 (bit sem * 2 ^ 60 + w.toNat)).toNat))
  refine hw.trans ⟨?_, fun o _ hne => ?_⟩
  · rw [State.putCount, State.writeDword, hk]
  · rw [State.putCount, State.writeDword, State.count_ctr, if_neg fun hc => hne hc.1]
/-- A good word stays good when it is read. -/
theorem State.touchBy_good (r : Reader) {a n b m : Nat} {s : State} (h : s.poisonedIn b m = false) : (s.touchBy r a n).poisonedIn b m = false := by
  rwa [State.poisonedIn, State.touchBy_eccBad]

/-! Sync words (R292 to R296) -/

section
variable {a op : Nat} {sem : Bool} {n : Word} {s : State} (h1 : s.wordChk a = none) (h2 : s.readWord a op = .ok sem n)
include h1 h2

theorem State.touchWord_goodAccess (r : Reader) : GoodAccess s (s.touchBy r a 8) :=
  State.touchBy_goodAccess r (State.readWord_clean h2) (by have := State.wordChk_bound h1; omega)
/-- A sync word that an operation takes is read, and its COUNT written. -/
theorem State.takeWord_goodAccess (r : Reader) (w : Word) : GoodAccess s ((s.touchBy r a 8).putCount a sem w) :=
  (State.touchWord_goodAccess h1 h2 r).trans (State.putCount_goodAccess sem w (State.touchBy_good r (State.readWord_clean h2)))
end
theorem State.takeWord_outside (r : Reader) (a : Nat) (sem : Bool) (w : Word) (s : State) :
    SameMemOutside a 8 s ((s.touchBy r a 8).putCount a sem w) := fun x hx => by rw [State.putCount_outside a x sem w _ hx, State.touchBy_byte]

/-- An operation that brings no error writes its word and nothing else. -/
theorem State.syncApply_takes {op a : Nat} {v : Word} {src : Nat} {r : Reader} {sem : Bool} {n : Word} {s : State} (h1 : s.wordChk a = none)
    (h2 : s.readWord a op = .ok sem n) (h3 : (newCount op sem n v).2 = none) :
    s.syncApply op a v src r = (none, (s.touchBy r a 8).putCount a sem (newCount op sem n v).1) := by
  simp only [State.syncApply, h1, h2, h3]

/-! Evaluating a wait (R296) -/

/-- What a WAIT (operation 4) or TAKE (operation 5) on the word at a, that succeeds, has done: w is the COUNT that a TAKE leaves. -/
structure WaitDone (op a : Nat) (w : Word) (s t : State) : Prop where
  access : GoodAccess s t
  waits : op = 4 → t.mem = s.mem
  takes : op = 5 → t.word a = w ∧ SameMemOutside a 8 s t

section
variable {r : Reader} {op a : Nat} {v : Word} {s : State}

theorem State.evalWait_badAddress {e : Rej} (h : s.wordChk a = some e) : s.evalWait r op a v = .bad e s := by
  simp only [State.evalWait, h]
theorem State.evalWait_invalid {k : Nat} (h1 : s.wordChk a = none) (h2 : s.readWord a op = .invalid k) :
    s.evalWait r op a v = .bad { code := 0x2004, cond := k, unit := 10, d0 := w32 a, d1 := w32 op, d2 := 0 } (s.touchBy r a 8) := by
  simp only [State.evalWait, h1, h2]
  rfl
theorem State.evalWait_ready {sem : Bool} {n : Word} (h1 : s.wordChk a = none) (h2 : s.readWord a op = .ok sem n) (h3 : ready sem n v = true) :
    ∃ u, s.evalWait r op a v = .go u ∧ WaitDone op a (n - v) s u := by
  simp only [State.evalWait, h1, h2, h3, if_true]
  refine ⟨_, rfl, ?_⟩
  split
  · next hop =>
    exact ⟨State.takeWord_goodAccess h1 h2 r _, fun h => absurd (hop.symm.trans h) (by decide),
      fun _ => ⟨State.putCount_word _ _ _ _, State.takeWord_outside r a sem _ s⟩⟩
  · next hop => exact ⟨State.touchWord_goodAccess h1 h2 r, fun _ => State.touchBy_mem _ _ _ _, fun h => absurd h hop⟩
end

end Sys2Proof.Machine
end

section
/-! Proofs about waits and the watch table (R295 to R297, R301 to R303). -/

namespace Sys2Proof.Machine

/-! A wait that begins (R301, R302) -/

/-- A wait has begun, and is counted. -/
def State.waitBegun (s : State) : State := { s with sync := { s.sync with began := s.sync.began + 1 } }.count 0x60310 1
theorem State.waitBegun_sync (s : State) : s.waitBegun.sync = { s.sync with began := s.sync.began + 1 } := State.count_sync _ _ _
theorem State.waitBegun_freeWatch (s : State) : s.waitBegun.freeWatch = s.freeWatch := by
  simp only [State.freeWatch, State.waitBegun_sync]

theorem State.setWatch_watch (n k : Nat) (w : Watch) (s : State) : (s.setWatch n w).watch k = if k = n then w else s.watch k :=
  Tab.get_set Watch.free s.sync.watch n k w

section
variable (party a : Nat) (v : Word) (sem : Bool) {s : State}

theorem State.startWait_watched {i : Nat} (h : s.freeWatch = some i) : s.startWait party a v sem =
    (.watched i, s.waitBegun.setWatch i ⟨1, party, w32 a, v, sem, 0, s.sync.began, false⟩) := by
  have hfree := s.waitBegun_freeWatch.trans h
  rw [State.waitBegun] at hfree
  simp only [State.startWait, hfree]
  rfl
theorem State.startWait_polls (h : s.freeWatch = none) : s.startWait party a v sem = (.polling, State.count 0x60328 1 { s.waitBegun with
    sync := { s.waitBegun.sync with polls := s.sync.polls ++ [⟨party, w32 a, v, sem, s.sync.began⟩] } }) := by
  have hfree := s.waitBegun_freeWatch.trans h
  rw [State.waitBegun] at hfree
  rw [State.waitBegun_sync]
  simp only [State.startWait, hfree, State.count_sync]
  rfl
theorem State.startWait_watch {i : Nat} (h : s.freeWatch = some i) : (s.startWait party a v sem).1 = .watched i ∧
    (s.startWait party a v sem).2.watch i = ⟨1, party, w32 a, v, sem, 0, s.sync.began, false⟩ := by
  rw [State.startWait_watched party a v sem h]
  exact ⟨rfl, (State.setWatch_watch _ _ _ _).trans (if_pos rfl)⟩
theorem State.startWait_poll (h : s.freeWatch = none) : (s.startWait party a v sem).1 = .polling ∧
    (s.startWait party a v sem).2.sync.polls = s.sync.polls ++ [⟨party, w32 a, v, sem, s.sync.began⟩] ∧
    (s.startWait party a v sem).2.ctr 0x60328 = if s.frozen 0x60328 then s.ctr 0x60328 else s.ctr 0x60328 + 1 := by
  obtain ⟨k, hk⟩ := State.count_eq 0x60310 1 { s with sync := { s.sync with began := s.sync.began + 1 } }
  have hctr : s.waitBegun.ctr 0x60328 = s.ctr 0x60328 := by
    rw [State.waitBegun, State.count_ctr, if_neg fun hc => absurd hc.1 (by decide)]
    rfl
  have hfrozen : s.waitBegun.frozen 0x60328 = s.frozen 0x60328 := by
    rw [State.waitBegun, hk]
    rfl
  rw [State.startWait_polls party a v sem h]
  refine ⟨rfl, by rw [State.count_sync], ?_⟩
  rw [State.count_one, ← hctr, ← hfrozen]
  rfl
end

theorem State.setWait_headCmd (q : Nat) (w : WaitSt) (s : State) : (s.setQueue q { s.queue q with wait := w }).headCmd q = s.headCmd q := by
  rw [State.headCmd, State.setQueue_queue, if_pos rfl, State.headCmd]

/-! The head of a queue waits (R295, R296) -/

section
variable {q op : Nat} {c : EngCmd} {a v : Opd} {s : State}

/-- WAIT and TAKE evaluate the word that they name, on behalf of their command. -/
theorem exec_waitOrTake {cmd : Instr} {p : Bool} (h : s.AtHead q c)
    (hcmd : (op = 4 ∧ c.op = .wait a v p ∧ cmd = .wait q) ∨ (op = 5 ∧ c.op = .take a v p ∧ cmd = .take q)) :
    exec cmd s = .next (waitHead q op c a v s) := by
  obtain ⟨rfl, hop, rfl⟩ | ⟨rfl, hop, rfl⟩ := hcmd
  · change execWait q s = _
    rw [execWait, h.runHead, hop]
  · change execTake q s = _
    rw [execTake, h.runHead, hop]

section
variable (hw : (s.queue q).wait = .none) (hq : q ≤ 15 → s.queueQuiet q = true) (ha : opdBad a = false) (hv : opdBad v = false)
include hw hq ha hv

theorem waitHead_bad {r : Rej} {u : State} (h : s.evalWait (c.reader 11 q) op (oVal a) (oWord v) = .bad r u) :
    waitHead q op c a v s = u.reject q c r := by
  have hquiet : (decide (q ≤ 15) && !s.queueQuiet q) = false := by simpa using hq
  simp only [waitHead, hw, hquiet, ha, hv, h, ne_eq, not_true_eq_false, decide_false, Bool.or_self, Bool.false_eq_true, if_false]
theorem waitHead_go {u : State} (h : s.evalWait (c.reader 11 q) op (oVal a) (oWord v) = .go u) : waitHead q op c a v s = u.issued q c := by
  have hquiet : (decide (q ≤ 15) && !s.queueQuiet q) = false := by simpa using hq
  simp only [waitHead, hw, hquiet, ha, hv, h, ne_eq, not_true_eq_false, decide_false, Bool.or_self, Bool.false_eq_true, if_false]
theorem waitHead_hold {sem : Bool} {u : State} (h : s.evalWait (c.reader 11 q) op (oVal a) (oWord v) = .hold sem u) :
    waitHead q op c a v s = (u.startWait q (oVal a) (oWord v) sem).2.setQueue q
      { (u.startWait q (oVal a) (oWord v) sem).2.queue q with wait := (u.startWait q (oVal a) (oWord v) sem).1 } := by
  have hquiet : (decide (q ≤ 15) && !s.queueQuiet q) = false := by simpa using hq
  simp only [waitHead, hw, hquiet, ha, hv, h, ne_eq, not_true_eq_false, decide_false, Bool.or_self, Bool.false_eq_true, if_false]
end
end

/-! A wait is evaluated again (R301, R302) -/

theorem Tab.get_mem {α : Type} (d : α) (t : Tab α) (k : Nat) : Tab.get d t k = d ∨ ∃ e ∈ t, Tab.get d t k = e.2 := by
  induction t with
  | nil => exact .inl rfl
  | cons e t ih =>
    obtain ⟨j, w⟩ := e
    by_cases hj : j = k
    · exact .inr ⟨(j, w), List.mem_cons_self, by simp [Tab.get, hj]⟩
    · have hget : Tab.get d ((j, w) :: t) k = Tab.get d t k := by simp [Tab.get, hj]
      rw [hget]
      exact ih.imp_right fun ⟨e, he, h⟩ => ⟨e, List.mem_cons_of_mem _ he, h⟩
/-- A wait that ends holds no watch entry and no poll. -/
theorem State.endWait_watch (party m : Nat) (s : State) : ¬ (((s.endWait party).watch m).owner = 1 ∧ ((s.endWait party).watch m).party = party) := by
  obtain h | ⟨e, he, h⟩ := Tab.get_mem Watch.free (s.endWait party).sync.watch m
  · rw [State.watch, h]
    exact fun hf => absurd hf.1 (by decide)
  · have hp := (List.mem_filter.mp he).2
    rw [State.watch, h]
    simpa [imp_iff_not_or] using hp
theorem State.endWait_polls (party : Nat) (s : State) : ∀ e ∈ (s.endWait party).sync.polls, e.party ≠ party := fun e he => by
  simpa using (List.mem_filter.mp he).2

section
variable {q op : Nat} {c : EngCmd} {a v : Opd} {p : Bool} {s : State} (hq : q ≠ barParty) (hh : s.headCmd q = some c)
  (hop : waitOf c.op = some (a, v, op, p))
include hq hh hop

theorem State.recheck_go {u : State} (h : s.evalWait (c.reader 11 q) op (oVal a) (oWord v) = .go u) :
    s.recheck q = (u.endWait q).issued q c := by
  simp only [State.recheck, hq, hh, hop, h, if_false]
theorem State.recheck_hold {sem : Bool} {u : State} (h : s.evalWait (c.reader 11 q) op (oVal a) (oWord v) = .hold sem u) : s.recheck q = u := by
  simp only [State.recheck, hq, hh, hop, h, if_false]
end

/-- What a wait of queue q that succeeds has done: its command has issued, its watch entry or poll is gone. -/
structure WaitEnded (q op a : Nat) (w : Word) (c : EngCmd) (s t : State) : Prop where
  queues : t.cc.queues = (s.issued q c).cc.queues
  watch : ∀ m, ¬ ((t.watch m).owner = 1 ∧ (t.watch m).party = q)
  polls : ∀ e ∈ t.sync.polls, e.party ≠ q
  waits : op = 4 → t.mem = s.mem
  takes : op = 5 → t.word a = w ∧ SameMemOutside a 8 s t
  regs : t.regs = s.regs

theorem WaitDone.ended {op a : Nat} {w : Word} {s u : State} (h : WaitDone op a w s u) (q : Nat) (c : EngCmd) :
    WaitEnded q op a w c s ((u.endWait q).issued q c) where
  queues := State.issued_congr (t := u.endWait q) h.access.queues q c
  watch := fun m => by
    rw [State.watch, State.issued_sync]
    exact u.endWait_watch q m
  polls := by
    rw [State.issued_sync]
    exact u.endWait_polls q
  waits := fun hop => (State.issued_mem _ _ _).trans (h.waits hop)
  takes := fun hop => by
    have hbyte : ∀ x, ((u.endWait q).issued q c).byte x = u.byte x := fun x => State.byte_congr (State.issued_mem q c _) x
    obtain ⟨hword, hout⟩ := h.takes hop
    exact ⟨(State.word_of_byte _ _ _ hbyte).trans hword, fun x hx => (hbyte x).trans (hout x hx)⟩
  regs := (State.issued_regs _ _ _).trans h.access.regs

/-! WATCH_WAKE and WAIT_POLL -/

theorem exec_watchWake_untouched {n : Byte} {s : State} (h : s.Clocked) (hd : (s.watch n.toNat).dirty = false) :
    exec (.watchWake n) s = .next s := by
  change execWatchWake n s = _
  rw [execWatchWake, h.runFast]
  simp only [hd, Bool.not_false, if_true]

section
variable {n : Byte} {s : State} (h : s.Clocked) (hd : (s.watch n.toNat).dirty = true)
include h hd

/-- The oldest wait on its word is tried again when a write has touched the word. -/
theorem exec_watchWake_wait (ho : (s.watch n.toNat).owner = 1)
    (hold : ∀ e ∈ s.sync.watch, e.2.dirty = true → e.2.addr = (s.watch n.toNat).addr → (s.watch n.toNat).since ≤ e.2.since) :
    exec (.watchWake n) s = .next ((s.setWatch n.toNat { s.watch n.toNat with dirty := false }).recheck (s.watch n.toNat).party) := by
  change execWatchWake n s = _
  rw [execWatchWake, h.runFast]
  simp only [hd, Bool.not_true, Bool.false_eq_true, if_false]
  rw [if_neg, if_neg (by rw [ho]; decide)]
  simp only [Bool.and_eq_true, List.any_eq_true, beq_iff_eq, decide_eq_true_eq]
  rintro ⟨-, e, he, ⟨⟨hed, -⟩, hea⟩, hes⟩
  exact absurd (hold e he hed hea) (Nat.not_le.mpr hes)
/-- An armed watch reads its word when a write has touched it, and fires when the condition holds. -/
theorem exec_watchWake_armed (ho : (s.watch n.toNat).owner = 2) {u : State}
    (hu : u = (s.setWatch n.toNat { s.watch n.toNat with dirty := false }).armedRead (s.watch n.toNat)) : exec (.watchWake n) s =
      .next (if u.armedHolds (s.watch n.toNat) then (u.setWatch n.toNat Watch.free).hostsig (s.watch n.toNat).hostsig.toNat else u) := by
  change execWatchWake n s = _
  rw [execWatchWake, h.runFast, hu]
  simp only [hd, Bool.not_true, Bool.false_eq_true, if_false]
  rw [if_neg (by simp [ho]), if_pos ho]
end

section
variable {q : Nat} {o : Poll} {s : State} (h : s.Clocked) (ho : s.sync.polls.find? (fun e => e.party == q) = some o)
include h ho

theorem exec_waitPoll_ended {u : State} (hu : (s.count 0x60320 1).recheck q = u) (hp : ∀ e ∈ u.sync.polls, e.party ≠ q) :
    exec (.waitPoll q) s = .next u := by
  have hany : (u.sync.polls.any fun e => e.party == q) = false := by simpa using hp
  change execWaitPoll q s = _
  rw [execWaitPoll, h.runFast, ho]
  simp only [hu, hany, Bool.not_false, if_true]

section
variable {u : State} (hu : (s.count 0x60320 1).recheck q = u) (hp : u.sync.polls = s.sync.polls)
include hu hp

theorem exec_waitPoll_full (hfree : u.freeWatch = none) : exec (.waitPoll q) s = .next u := by
  have hany : (u.sync.polls.any fun e => e.party == q) = true := by
    rw [hp, List.any_eq_true]
    exact ⟨o, List.mem_of_find?_eq_some ho, List.find?_some (p := fun e : Poll => e.party == q) ho⟩
  change execWaitPoll q s = _
  rw [execWaitPoll, h.runFast, ho]
  simp only [hu, hany, hfree, Bool.not_true, Bool.false_eq_true, if_false]
/-- The oldest wait that polls takes a watch entry that is free. -/
theorem exec_waitPoll_watched {i : Nat} (hq : q ≠ barParty) (hfree : u.freeWatch = some i) (hold : ∀ e ∈ s.sync.polls, o.since ≤ e.since) :
    exec (.waitPoll q) s = .next (State.setQueue q { u.queue q with wait := .watched i }
      { u.setWatch i ⟨1, q, o.addr, o.target, o.sem, 0, o.since, false⟩ with
      sync := { (u.setWatch i ⟨1, q, o.addr, o.target, o.sem, 0, o.since, false⟩).sync with polls := s.sync.polls.filter fun e => e.party != q } }) := by
  have hany : (u.sync.polls.any fun e => e.party == q) = true := by
    rw [hp, List.any_eq_true]
    exact ⟨o, List.mem_of_find?_eq_some ho, List.find?_some (p := fun e : Poll => e.party == q) ho⟩
  have hall : (s.sync.polls.all fun e => decide (o.since ≤ e.since)) = true := by simpa using hold
  change execWaitPoll q s = _
  rw [execWaitPoll, h.runFast, ho]
  simp only [hu, hany, hall, hfree, hq, Bool.not_true, Bool.false_eq_true, if_false]
  rw [hp]
  rfl
end
end

/-! Armed watches (R303) -/

theorem State.hostsig_reg (h o : Nat) (s : State) : (s.hostsig h).reg o = if o = 0x60020 then s.reg 0x60020 ||| w32 (2 ^ h) else s.reg o :=
  State.orReg_reg _ _ _ _
theorem w32_two_pow_bit {h : Nat} (hh : h < 32) : (w32 (2 ^ h)).getLsbD h = true := by
  rw [w32, BitVec.getLsbD_ofNat, decide_eq_true hh, Nat.testBit_two_pow_self]
  rfl
/-- A HOSTSIG bit that is set reads 1, and no other register changes (R314). -/
theorem State.hostsig_sets {h : Nat} (hh : h < 32) (s : State) : (s.hostsig h).regBit 0x60020 h = true ∧ SameRegsBut [0x60020] s (s.hostsig h) := by
  refine ⟨?_, fun o ho => by rw [State.hostsig_reg, if_neg (by simpa using ho)]⟩
  rw [State.regBit, State.hostsig_reg, if_pos rfl, BitVec.getLsbD_or, w32_two_pow_bit hh, Bool.or_true]

section
variable {w : Watch} {s : State}

theorem State.armedHolds_word (h : s.armedHolds w = true) : s.wordChk w.addr.toNat = none ∧ ∃ sem n, s.readWord w.addr.toNat 4 = .ok sem n := by
  simp only [State.armedHolds, Bool.and_eq_true, Option.isNone_iff_eq_none] at h
  obtain ⟨h1, h2⟩ := h
  refine ⟨h1, ?_⟩
  split at h2
  · next sem n hr => exact ⟨sem, n, hr⟩
  · cases h2
/-- The read of a word whose condition holds is that of a good word. -/
theorem State.armedRead_holds (h : s.armedHolds w = true) : s.armedRead w = s.touchBy syncUnit w.addr.toNat 8 ∧ GoodAccess s (s.armedRead w) := by
  obtain ⟨h1, sem, n, h2⟩ := State.armedHolds_word h
  have hread : s.armedRead w = s.touchBy syncUnit w.addr.toNat 8 := by
    simp only [State.armedRead, h1, h2, State.wordFail, Option.isSome_none, Bool.false_eq_true, if_false]
  exact ⟨hread, hread ▸ State.touchWord_goodAccess h1 h2 syncUnit⟩
/-- Whatever it reads, an armed watch changes no memory, no queue and no watch. -/
theorem State.armedRead_eq (w : Watch) (s : State) :
    ∃ (e : List Nat) (q : List (Nat × Nat)) (d : List PfEnt) (l : Logs) (c : Tab DWord) (g : Tab Word),
      s.armedRead w = { s with eccCorr := e, poison := q, dma := { s.dma with pf := d }, logs := l, ctrs := c, regs := g } := by
  simp only [State.armedRead]
  split
  · exact ⟨s.eccCorr, s.poison, s.dma.pf, s.logs, s.ctrs, s.regs, rfl⟩
  · obtain ⟨e, q, d, l, c, g, h⟩ := s.touchBy_eq syncUnit w.addr.toNat 8
    simp only [State.wordFail, h]
    split
    · obtain ⟨l', c', g', h'⟩ := State.raise_eq _ _
      exact ⟨e, q, d, l', c', g', h'⟩
    · exact ⟨e, q, d, l, c, g, rfl⟩
theorem State.armedRead_regs (w : Watch) (s : State) : SameRegsBut [0x04000] s (s.armedRead w) := by
  simp only [State.armedRead]
  split
  · exact fun _ _ => rfl
  · simp only [State.wordFail]
    split
    · exact ((s.touchBy_accessed syncUnit _ _).trans (State.raise_accessed _ _)).regs
    · exact (s.touchBy_accessed syncUnit _ _).regs
theorem State.armedRead_armedHolds (w w' : Watch) (s : State) : (s.armedRead w).armedHolds w' = s.armedHolds w' := by
  obtain ⟨e, q, d, l, c, g, h⟩ := s.armedRead_eq w
  rw [h]
  rfl
end

/-- The watch that WATCH_ARM_ADDR, WATCH_ARM_TARGET and WATCH_ARM_CTL describe. -/
def State.armedWatch (s : State) : Watch :=
  ⟨2, 0, s.reg 0x60030, s.reg 0x60034, s.regBit 0x60038 20, (s.reg 0x60038).extractLsb' 24 5, s.sync.began, false⟩

theorem State.Clocked.served {s : State} (h : s.Clocked) : s.Served := ⟨h.1, h.2.2.2⟩
theorem exec_watchArm_full {s : State} (h : s.Clocked) (hf : s.freeWatch = none) : exec .watchArm s = .next (s.orReg 0x6003C 0x80000000) := by
  refine (runSlow_served _ h.served).trans ?_
  rw [State.watchArm, hf]
/-- WATCH_ARM on a free entry reads the word: the watch fires at once, or takes the entry. -/
theorem exec_watchArm_free {i : Nat} {s : State} (h : s.Clocked) (hf : s.freeWatch = some i) : exec .watchArm s =
    .next (if s.armedHolds s.armedWatch then ((s.setReg 0x6003C (w32 i)).armedRead s.armedWatch).hostsig s.armedWatch.hostsig.toNat
      else ((s.setReg 0x6003C (w32 i)).armedRead s.armedWatch).setWatch i s.armedWatch) := by
  have hholds : ((s.setReg 0x6003C (w32 i)).armedRead s.armedWatch).armedHolds s.armedWatch = s.armedHolds s.armedWatch :=
    State.armedRead_armedHolds _ _ _
  refine (runSlow_served _ h.served).trans ?_
  rw [← hholds, State.watchArm, hf]
  rfl
theorem exec_watchCancel {n : Byte} {s : State} (h : s.Clocked) :
    exec (.watchCancel n) s = .next (if (s.watch n.toNat).owner = 2 then s.setWatch n.toNat Watch.free else s) := runSlow_served _ h.served

/-! What each command leaves -/

section
variable {q op : Nat} {c : EngCmd} {cmd : Instr} {a v : Opd} {p : Bool} {s : State} (h : s.AtHead q c)
  (hcmd : (op = 4 ∧ c.op = .wait a v p ∧ cmd = .wait q) ∨ (op = 5 ∧ c.op = .take a v p ∧ cmd = .take q))
  (hw : (s.queue q).wait = .none) (hq : q ≤ 15 → s.queueQuiet q = true) (ha : opdBad a = false) (hv : opdBad v = false)
include h hcmd hw hq ha hv

theorem waitOrTake_issues {sem : Bool} {n : Word} (h1 : s.wordChk (oVal a) = none) (h2 : s.readWord (oVal a) op = .ok sem n)
    (h3 : ready sem n (oWord v) = true) : ∃ u, exec cmd s = .next (u.issued q c) ∧ WaitDone op (oVal a) (n - oWord v) s u := by
  obtain ⟨u, hu, hdone⟩ := State.evalWait_ready (r := c.reader 11 q) h1 h2 h3
  exact ⟨u, by rw [exec_waitOrTake h hcmd, waitHead_go hw hq ha hv hu], hdone⟩

/-- A wait whose condition is false keeps its head, and begins. -/
theorem waitOrTake_holds {sem : Bool} {n : Word} (h1 : s.wordChk (oVal a) = none) (h2 : s.readWord (oVal a) op = .ok sem n)
    (h3 : ready sem n (oWord v) = false) : ∃ u, GoodAccess s u ∧ u.sync = s.sync ∧ u.mem = s.mem ∧
      exec cmd s = .next ((u.startWait q (oVal a) (oWord v) sem).2.setQueue q
        { (u.startWait q (oVal a) (oWord v) sem).2.queue q with wait := (u.startWait q (oVal a) (oWord v) sem).1 }) := by
  obtain ⟨e, x, d, l, k, g, htouch⟩ := s.touchBy_eq (c.reader 11 q) (oVal a) 8
  refine ⟨_, State.touchWord_goodAccess h1 h2 (c.reader 11 q), by rw [htouch], State.touchBy_mem _ _ _ _, ?_⟩
  rw [exec_waitOrTake h hcmd, waitHead_hold hw hq ha hv (State.evalWait_holds h1 h2 h3)]
end

section
variable {q op : Nat} {c : EngCmd} {a v : Opd} {p sem : Bool} {k : Word} {s : State} (h : s.Clocked) (hq : q ≠ barParty)
  (hh : s.headCmd q = some c) (hop : waitOf c.op = some (a, v, op, p)) (h1 : s.wordChk (oVal a) = none)
  (h2 : s.readWord (oVal a) op = .ok sem k)
include hq hh hop h1 h2

/-- A wait tried again whose condition holds ends. -/
theorem State.recheck_ends (h3 : ready sem k (oWord v) = true) : WaitEnded q op (oVal a) (k - oWord v) c s (s.recheck q) := by
  obtain ⟨u, hu, hdone⟩ := State.evalWait_ready (r := c.reader 11 q) h1 h2 h3
  rw [State.recheck_go hq hh hop hu]
  exact hdone.ended q c
theorem State.recheck_reads (h3 : ready sem k (oWord v) = false) : s.recheck q = s.touchBy (c.reader 11 q) (oVal a) 8 :=
  State.recheck_hold hq hh hop (State.evalWait_holds h1 h2 h3)
/-- A poll whose condition is false has only counted itself and read its word. -/
theorem State.poll_reads (h3 : ready sem k (oWord v) = false) : ∃ u, (s.count 0x60320 1).recheck q = u ∧
    u = (s.count 0x60320 1).touchBy (c.reader 11 q) (oVal a) 8 ∧ GoodAccess (s.count 0x60320 1) u ∧ u.mem = s.mem ∧ u.sync = s.sync := by
  obtain ⟨x, hx⟩ := State.count_eq 0x60320 1 s
  rw [hx]
  obtain ⟨e, y, d, l, z, g, htouch⟩ := State.touchBy_eq (c.reader 11 q) (oVal a) 8 { s with ctrs := x }
  exact ⟨_, State.recheck_reads (s := { s with ctrs := x }) hq hh hop h1 h2 h3, rfl, State.touchWord_goodAccess (s := { s with ctrs := x }) h1 h2 _,
    State.touchBy_mem _ _ _ _, by rw [htouch]⟩
end

/-- From s to t a watch has been armed on entry i, or fired: memory, the control core, the transfers and the slots are as before. -/
structure Armed (i : Nat) (s t : State) : Prop where
  entry : t.reg 0x6003C = w32 i
  mem : t.mem = s.mem
  cc : t.cc = s.cc
  xfers : t.dma.xfers = s.dma.xfers
  slots : t.slots = s.slots

theorem State.armedRead_armed (i : Nat) (w : Watch) (s : State) : Armed i s ((s.setReg 0x6003C (w32 i)).armedRead w) := by
  have hreg := State.armedRead_regs w (s.setReg 0x6003C (w32 i)) 0x6003C (by decide)
  obtain ⟨e, x, d, l, k, g, h⟩ := State.armedRead_eq w (s.setReg 0x6003C (w32 i))
  refine ⟨?_, by rw [h]; rfl, by rw [h]; rfl, by rw [h]; rfl, by rw [h]; rfl⟩
  rw [hreg, State.setReg_reg, if_pos rfl]

section
variable {i : Nat} {s : State} (h : s.Clocked) (hfree : s.freeWatch = some i)
include h hfree

/-- A watch whose condition holds fires as it is armed. -/
theorem watchArm_fires (hholds : s.armedHolds s.armedWatch = true) : ∃ t, exec .watchArm s = .next t ∧ Armed i s t ∧ t.sync = s.sync ∧
    t.regBit 0x60020 s.armedWatch.hostsig.toNat = true ∧ SameRegsBut [0x6003C, 0x60020] s t := by
  obtain ⟨-, hacc⟩ := State.armedRead_holds (s := s.setReg 0x6003C (w32 i)) hholds
  obtain ⟨e, x, d, l, k, g, hframe⟩ := State.armedRead_eq s.armedWatch (s.setReg 0x6003C (w32 i))
  have harm := State.armedRead_armed i s.armedWatch s
  refine ⟨_, (exec_watchArm_free h hfree).trans (congrArg _ (if_pos hholds)), ?_⟩
  generalize (s.setReg 0x6003C (w32 i)).armedRead s.armedWatch = u at *
  obtain ⟨hbit, hregs⟩ := State.hostsig_sets s.armedWatch.hostsig.isLt u
  refine ⟨⟨(hregs _ (by decide)).trans harm.entry, harm.mem, harm.cc, harm.xfers, harm.slots⟩, ?_, hbit, fun o ho => ?_⟩
  · change u.sync = s.sync
    rw [hframe]
    rfl
  · simp only [List.mem_cons, List.not_mem_nil, or_false, not_or] at ho
    rw [hregs o (by simpa using ho.2), hacc.reg, State.setReg_reg, if_neg ho.1]
theorem watchArm_takes (hholds : s.armedHolds s.armedWatch = false) : ∃ t, exec .watchArm s = .next t ∧ Armed i s t ∧
    t.watch i = s.armedWatch ∧ SameRegsBut [0x6003C, 0x04000] s t := by
  have hregs := State.armedRead_regs s.armedWatch (s.setReg 0x6003C (w32 i))
  have harm := State.armedRead_armed i s.armedWatch s
  refine ⟨_, (exec_watchArm_free h hfree).trans (congrArg _ (if_neg (Bool.eq_false_iff.mp hholds))), ?_⟩
  generalize (s.setReg 0x6003C (w32 i)).armedRead s.armedWatch = u at *
  refine ⟨⟨harm.entry, harm.mem, harm.cc, harm.xfers, harm.slots⟩, (State.setWatch_watch _ _ _ u).trans (if_pos rfl), fun o ho => ?_⟩
  simp only [List.mem_cons, List.not_mem_nil, or_false, not_or] at ho
  exact (hregs o (by simpa using ho.2)).trans ((State.setReg_reg _ _ _ _).trans (if_neg ho.1))
end

/-- Settles O54: a wait at its head by what its word reads, the wakes and polls that try it again, and the watches armed by software. -/
theorem waitsHoldUntilTheirWordIsReady : Obligations.WaitsHoldUntilTheirWordIsReady := by
  unfold Obligations.WaitsHoldUntilTheirWordIsReady
  refine ⟨fun q op c cmd a v p s h hcmd hw hq ha hv => ⟨fun r hr => ?address, fun h1 => ⟨fun k hk => ?invalid, fun sem n h2 h3 => ?issues,
      fun sem n h2 h3 => ?holds⟩⟩,
    fun n s h hd => exec_watchWake_untouched h hd,
    fun q op c a v p sem k s h hq hh hop h1 h2 => ⟨fun n hd ho hp hold => ⟨fun h3 => ?wakeHolds, fun h3 => ?wakeEnds⟩,
      fun o ho => ⟨fun h3 => ?pollEnds, fun h3 => ⟨fun hfree => ?pollFull, fun i hfree hold => ?pollWatched⟩⟩⟩,
    fun n s h hd ho => ⟨fun hf => ?silent, fun ht => ?fires⟩, fun s h => ⟨fun hfree => ?armFull, fun i hfree => ?arm⟩,
    fun n s h => ⟨fun ho => ?cancels, fun ho => ?keeps⟩⟩
  case address => rw [exec_waitOrTake h hcmd, waitHead_bad hw hq ha hv (State.evalWait_badAddress hr)]
  case invalid => rw [exec_waitOrTake h hcmd, waitHead_bad hw hq ha hv (State.evalWait_invalid h1 hk)]
  case issues =>
    obtain ⟨u, hu, hdone⟩ := waitOrTake_issues h hcmd hw hq ha hv h1 h2 h3
    have hbyte : ∀ x, (u.issued q c).byte x = u.byte x := State.byte_congr (State.issued_mem q c u)
    refine ⟨_, hu, State.issued_congr hdone.access.queues q c, fun h4 => (State.issued_mem _ _ _).trans (hdone.waits h4), fun h5 => ?_,
      (State.issued_regs _ _ _).trans hdone.access.regs, (State.issued_logs _ _ _).trans hdone.access.logs,
      (State.issued_slots _ _ _).trans hdone.access.slots⟩
    obtain ⟨hword, hout⟩ := hdone.takes h5
    exact ⟨(State.word_of_byte _ _ _ hbyte).trans hword, fun x hx => (hbyte x).trans (hout x hx)⟩
  case holds =>
    obtain ⟨u, hacc, hsync, hmem, ht⟩ := waitOrTake_holds h hcmd hw hq ha hv h1 h2 h3
    obtain ⟨-, hhead, -, -⟩ := h
    have hfree : u.freeWatch = s.freeWatch := by rw [State.freeWatch, State.freeWatch, hsync]
    obtain ⟨n, ws, ps, x, hstart⟩ := State.startWait_eq q (oVal a) (oWord v) sem u
    have hqueues : (u.startWait q (oVal a) (oWord v) sem).2.cc.queues = s.cc.queues := by rw [hstart]; exact hacc.queues
    refine ⟨_, ht, by rw [State.setWait_headCmd, State.headCmd_congr hqueues, hhead], fun i hi => ?_, fun hn => ?_,
      by rw [State.setQueue_mem, hstart]; exact hmem, by rw [State.setQueue_regs, hstart]; exact hacc.regs,
      by rw [State.setQueue_logs, hstart]; exact hacc.logs⟩
    · obtain ⟨hst, hwatch⟩ := State.startWait_watch q (oVal a) (oWord v) sem (hfree.trans hi)
      rw [hsync] at hwatch
      exact ⟨by rw [State.setQueue_queue, if_pos rfl, hst], hwatch⟩
    · obtain ⟨hst, hpolls, hctr⟩ := State.startWait_poll q (oVal a) (oWord v) sem (hfree.trans hn)
      rw [hsync] at hpolls
      rw [hacc.ctrs _ (by decide) (by decide), hacc.frozen] at hctr
      exact ⟨by rw [State.setQueue_queue, if_pos rfl, hst], hpolls, hctr⟩
  case wakeHolds =>
    subst hp
    rw [exec_watchWake_wait h hd ho hold]
    exact congrArg _ (State.recheck_reads (s := s.setWatch _ _) hq hh hop h1 h2 h3)
  case wakeEnds =>
    subst hp
    have hend := State.recheck_ends (s := s.setWatch n.toNat { s.watch n.toNat with dirty := false }) hq hh hop h1 h2 h3
    exact ⟨_, exec_watchWake_wait h hd ho hold, hend.queues.trans
      (State.issued_congr (s := s) (t := s.setWatch n.toNat { s.watch n.toNat with dirty := false }) rfl _ _), hend.watch, hend.waits, hend.takes, hend.regs⟩
  case pollEnds =>
    obtain ⟨x, hx⟩ := State.count_eq 0x60320 1 s
    have hend : WaitEnded q op (oVal a) (k - oWord v) c (s.count 0x60320 1) ((s.count 0x60320 1).recheck q) := by
      rw [hx]
      exact State.recheck_ends (s := { s with ctrs := x }) hq hh hop h1 h2 h3
    exact ⟨_, exec_waitPoll_ended h ho rfl hend.polls, hend.queues.trans (State.issued_congr (by rw [State.count_cc]) _ _), hend.polls,
      fun h4 => (hend.waits h4).trans (State.count_mem _ _ _), hend.regs.trans (State.count_regs _ _ _)⟩
  case pollFull =>
    obtain ⟨u, hu, hform, -, -, hsync⟩ := State.poll_reads hq hh hop h1 h2 h3
    rw [← hform]
    exact exec_waitPoll_full h ho hu (by rw [hsync]) (by rw [State.freeWatch, hsync]; exact hfree)
  case pollWatched =>
    obtain ⟨u, hu, -, hacc, hmem, hsync⟩ := State.poll_reads hq hh hop h1 h2 h3
    have hqueues : u.cc.queues = s.cc.queues := by rw [hacc.queues, State.count_cc]
    refine ⟨_, exec_waitPoll_watched h ho hu (by rw [hsync]) hq (by rw [State.freeWatch, hsync]; exact hfree) hold, ?_, ?_, fun e he => ?_, hmem,
      hacc.regs.trans (State.count_regs _ _ _), ?_⟩
    · rw [State.setQueue_queue, if_pos rfl]
    · change (u.setWatch i ⟨1, q, o.addr, o.target, o.sem, 0, o.since, false⟩).watch i = _
      rw [State.setWatch_watch, if_pos rfl]
    · simpa using (List.mem_filter.mp he).2
    · exact ((State.setWait_headCmd q _ _).trans (State.headCmd_congr (s := s) hqueues q)).trans hh
  case silent =>
    rw [exec_watchWake_armed h hd ho rfl, State.armedRead_armedHolds]
    exact congrArg _ (if_neg (Bool.eq_false_iff.mp hf))
  case fires =>
    obtain ⟨hread, hacc⟩ := State.armedRead_holds (s := s.setWatch n.toNat { s.watch n.toNat with dirty := false }) ht
    obtain ⟨e, x, d, l, k, g, hframe⟩ := State.armedRead_eq (s.watch n.toNat) (s.setWatch n.toNat { s.watch n.toNat with dirty := false })
    rw [exec_watchWake_armed h hd ho rfl, State.armedRead_armedHolds]
    generalize State.armedRead (s.watch n.toNat) (s.setWatch n.toNat { s.watch n.toNat with dirty := false }) = u at *
    obtain ⟨hbit, hregs⟩ := State.hostsig_sets (s.watch n.toNat).hostsig.isLt (u.setWatch n.toNat Watch.free)
    refine ⟨_, congrArg _ (if_pos ht), (State.setWatch_watch _ _ _ u).trans (if_pos rfl), hbit, fun o ho => (hregs o ho).trans (hacc.reg o), ?_, ?_⟩
    · change u.mem = s.mem
      rw [hframe]
      rfl
    · change u.cc = s.cc
      rw [hframe]
      rfl
  case armFull =>
    refine ⟨_, exec_watchArm_full h hfree, rfl, ?_, fun o ho => ?_⟩
    · simp
    · rw [State.orReg_reg, if_neg (by simpa using ho)]
  case arm =>
    cases hholds : s.armedHolds s.armedWatch with
    | true =>
      obtain ⟨t, ht, harm, hrest⟩ := watchArm_fires h hfree hholds
      exact ⟨t, ht, harm.entry, fun hf => absurd (hholds.symm.trans hf) (by decide), fun _ => hrest, harm.mem, harm.cc, harm.xfers, harm.slots⟩
    | false =>
      obtain ⟨t, ht, harm, hrest⟩ := watchArm_takes h hfree hholds
      exact ⟨t, ht, harm.entry, fun _ => hrest, fun hf => absurd (hholds.symm.trans hf) (by decide), harm.mem, harm.cc, harm.xfers, harm.slots⟩
  case cancels => rw [exec_watchCancel h, if_pos ho]
  case keeps => rw [exec_watchCancel h, if_neg ho]
end Sys2Proof.Machine
end

section
/-! Proofs about the gradient buckets and the EVAL mode (R333, R334, R337, R338). -/

namespace Sys2Proof.Machine

/-! A bit that is set (R338) -/

/-- A field of one bit holds the bit that is set, and the other bits stay. -/
theorem getLsbD_setFld_bit {w : Word} {lo : Nat} (hlo : lo < 32) (b : Bool) (j : Nat) :
    (setFld w lo 1 (bit b)).getLsbD j = if j = lo then b else w.getLsbD j := by
  have hval : w.toNat - w.toNat / 2 ^ lo % 2 * 2 ^ lo + bit b % 2 * 2 ^ lo = 2 ^ lo * (2 * (w.toNat / 2 ^ lo / 2) + bit b % 2) + w.toNat % 2 ^ lo := by
    have hw := Nat.div_add_mod w.toNat (2 ^ lo)
    have hq := congrArg (2 ^ lo * ·) (Nat.div_add_mod (w.toNat / 2 ^ lo) 2)
    simp only [Nat.mul_add] at hq ⊢
    rw [Nat.mul_comm (_ % 2) (2 ^ lo), Nat.mul_comm (bit b % 2) (2 ^ lo)]
    omega
  have hb : bit b % 2 = bit b := by cases b <;> rfl
  have hset : (setFld w lo 1 (bit b)).getLsbD j = (decide (j < 32) && (2 ^ lo * (2 * (w.toNat / 2 ^ lo / 2) + bit b) + w.toNat % 2 ^ lo).testBit j) := by
    rw [setFld, fld, BitVec.getLsbD_ofNat, pow_one, hval, hb]
  have hlt := Nat.mod_lt w.toNat (Nat.two_pow_pos lo)
  rw [hset, Nat.testBit_two_pow_mul_add _ hlt]
  rcases Nat.lt_trichotomy j lo with hj | rfl | hj
  · rw [if_pos hj, if_neg (by omega), Nat.testBit_mod_two_pow, decide_eq_true hj, decide_eq_true (by omega : j < 32)]
    rfl
  · rw [if_neg (Nat.lt_irrefl j), if_pos rfl, decide_eq_true hlo, Nat.sub_self]
    cases b <;> simp [bit, Nat.testBit_zero, Nat.add_mod]
  · obtain ⟨k, rfl⟩ := Nat.exists_eq_add_of_lt hj
    have hhalf : (2 * (w.toNat / 2 ^ lo / 2) + bit b) / 2 = w.toNat / 2 ^ lo / 2 := by
      have : bit b < 2 := hb ▸ Nat.mod_lt _ (by decide)
      omega
    rw [if_neg (by omega), if_neg (by omega), show lo + k + 1 - lo = k + 1 by omega, Nat.testBit_succ, hhalf, ← Nat.testBit_succ,
      Nat.testBit_div_two_pow, show k + 1 + lo = lo + k + 1 by omega, BitVec.testBit_toNat]
    cases hw : w.getLsbD (lo + k + 1) with
    | false => exact Bool.and_false _
    | true => rw [decide_eq_true (BitVec.lt_of_getLsbD hw)]; rfl

/-! MODE (R337, R338) -/

/-- CORE_STATE written as it was leaves a Blotter record only. -/
theorem State.setCore_same (s : State) : ∃ l k, s.setCore s.sys.core = { s with logs := l, ctrs := k } := State.blotter_eq _ _ _ _ _
/-- MODE issues, sets UPD_STATUS.EVAL, and records a change. -/
theorem exec_mode_issued {c : EngCmd} {e : Bool} {s u : State} (h : s.AtHead 21 c) (hop : c.op = .mode e)
    (hu : u = (s.issued 21 c).setRegFld 0x45010 8 1 (bit e)) : exec .mode s = .next (if s.evalMode = e then u else u.setCore u.sys.core) := by
  change execMode s = _
  rw [execMode, updQ, h.runHead, hop, hu]
/-- MODE leaves its own write, and beside it the logs and the counters. -/
theorem exec_mode_frame {c : EngCmd} {e : Bool} {s : State} (h : s.AtHead 21 c) (hop : c.op = .mode e) : ∃ l k,
    exec .mode s = .next { (s.issued 21 c).setRegFld 0x45010 8 1 (bit e) with logs := l, ctrs := k } := by
  rw [exec_mode_issued h hop rfl]
  split
  · exact ⟨_, _, rfl⟩
  · obtain ⟨l, k, hcore⟩ := State.setCore_same ((s.issued 21 c).setRegFld 0x45010 8 1 (bit e))
    exact ⟨l, k, congrArg _ hcore⟩

/-! The launch of a bucket (R293, R334) -/

section
variable {c : EngCmd} {b a : Nat} {s : State}

/-- From s to t a bucket's command has issued, and has launched the bucket when `go`: o is the bucket's first register, a its launch
word's address. -/
structure BucketRun (go : Bool) (o a : Nat) (c : EngCmd) (s t : State) : Prop where
  mem : if go then t.word a = s.word a + 1 ∧ SameMemOutside a 8 s t else t.mem = s.mem
  reg : ∀ k, t.reg k = if k = o + 12 ∧ go = true then s.reg (o + 12) ||| 1 else s.reg k
  logs : t.logs = s.logs
  queues : t.cc.queues = (s.issued 21 c).cc.queues
  counted : go = true → t.ctr 0x45050 = if s.frozen 0x45050 then s.ctr 0x45050 else s.ctr 0x45050 + 1

theorem bucketRun_issued (o a : Nat) (c : EngCmd) (s : State) : BucketRun false o a c s (s.issued 21 c) where
  mem := State.issued_mem _ _ _
  reg := fun k => by rw [if_neg (by simp), State.issued_reg]
  logs := State.issued_logs _ _ _
  queues := rfl
  counted := fun hg => nomatch hg

section
variable (ha : (s.reg (bktBase b + 4)).toNat = a) (h1 : s.wordChk a = none) (h2 : s.readWord a 1 = .ok false (s.word a))
include ha h1 h2

/-- A launch adds 1 to the launch word and sets LAUNCHED. -/
theorem State.launch_eq : s.launch b c = (((s.touchBy (c.reader 11 21) a 8).putCount a false (s.word a + 1)).orReg (bktBase b + 12) 1).count 0x45050 1 := by
  rw [State.launch, ha, updQ, State.syncApply_takes h1 h2 rfl]
  rfl
theorem State.launch_counted : (s.launch b c).ctr 0x45050 = if s.frozen 0x45050 then s.ctr 0x45050 else s.ctr 0x45050 + 1 := by
  have hacc := State.takeWord_goodAccess h1 h2 (c.reader 11 21) (s.word a + 1)
  have hfrozen : (((s.touchBy (c.reader 11 21) a 8).putCount a false (s.word a + 1)).orReg (bktBase b + 12) 1).frozen 0x45050 = s.frozen 0x45050 := by
    have hne : (0x45060 : Nat) ≠ bktBase b + 12 := by rw [bktBase]; omega
    simp only [State.frozen, show cntCtrlOf 0x45050 = some 0x45060 by decide, State.regBit, State.orReg_reg, if_neg hne, hacc.reg]
  rw [State.launch_eq ha h1 h2, State.count_one, hfrozen, State.orReg_ctr, hacc.ctrs _ (by decide) (by decide)]
end

/-- The issue of a bucket's command changes nothing that its launch reads. -/
theorem bucketRun_launch (ha : (s.reg (bktBase b + 4)).toNat = a) (h1 : s.wordChk a = none) (h2 : s.readWord a 1 = .ok false (s.word a)) :
    BucketRun true (bktBase b) a c s ((s.issued 21 c).launch b c) := by
  obtain ⟨u, x, y, k, hi⟩ := State.issued_eq 21 c s
  have hb : ∀ x, (s.issued 21 c).byte x = s.byte x := State.byte_congr (State.issued_mem 21 c s)
  have hword := State.word_of_byte s (s.issued 21 c) a hb
  have ha' : ((s.issued 21 c).reg (bktBase b + 4)).toNat = a := by rw [State.issued_reg, ha]
  have h1' : (s.issued 21 c).wordChk a = none := by rw [hi]; exact h1
  have h2' : (s.issued 21 c).readWord a 1 = .ok false ((s.issued 21 c).word a) := by rw [hword, hi]; exact h2
  have hacc := State.takeWord_goodAccess h1' h2' (c.reader 11 21) ((s.issued 21 c).word a + 1)
  have hout := State.takeWord_outside (c.reader 11 21) a false ((s.issued 21 c).word a + 1) (s.issued 21 c)
  have hcount := State.launch_counted (c := c) ha' h1' h2'
  have hnew := State.putCount_word a false ((s.issued 21 c).word a + 1) ((s.issued 21 c).touchBy (c.reader 11 21) a 8)
  rw [State.launch_eq ha' h1' h2'] at hcount ⊢
  generalize ((s.issued 21 c).touchBy (c.reader 11 21) a 8).putCount a false ((s.issued 21 c).word a + 1) = t at *
  have hbyte : ∀ x, ((t.orReg (bktBase b + 12) 1).count 0x45050 1).byte x = t.byte x := fun x => State.count_byte _ _ _ _
  refine ⟨⟨?_, fun x hx => ?_⟩, fun k => ?_, ?_, ?_, fun _ => ?_⟩
  · rw [State.word_of_byte _ _ _ hbyte, hnew, hword]
  · rw [hbyte, hout x hx, hb]
  · simp only [State.count_reg, State.orReg_reg, hacc.reg, State.issued_reg, and_true]
  · rw [State.count_logs, State.orReg_logs, hacc.logs, State.issued_logs]
  · rw [State.count_cc, State.orReg_cc, hacc.queues]
  · have hfrozen : (s.issued 21 c).frozen 0x45050 = s.frozen 0x45050 := by rw [hi]; rfl
    rw [hcount, hfrozen, (State.issued_done 21 c s).2 0x45050 (by decide)]

/-- A bucket's command has issued, with or without its launch. -/
theorem bucketRun (go : Bool) (ha : (s.reg (bktBase b + 4)).toNat = a) (h1 : s.wordChk a = none) (h2 : s.readWord a 1 = .ok false (s.word a)) :
    BucketRun go (bktBase b) a c s (if go then (s.issued 21 c).launch b c else s.issued 21 c) := by
  cases go
  exacts [bucketRun_issued _ a c s, bucketRun_launch ha h1 h2]
end

section
variable {b : Nat} {s : State} (he : s.evalMode = false) (hb : b ≤ 63)
include he hb

theorem bktChk_enabled (hen : s.regBit (bktBase b) 31 = true) (hw : s.wordChk (s.reg (bktBase b + 4)).toNat = none) : bktChk s b = none := by
  simp only [bktChk, evalChk, he, decide_eq_false (Nat.not_lt.mpr hb), hen, hw]
  rfl
theorem bktChk_disabled (hen : s.regBit (bktBase b) 31 = false) : bktChk s b = some { code := 0x3005, cond := 3, d0 := w32 b } := by
  simp only [bktChk, evalChk, he, decide_eq_false (Nat.not_lt.mpr hb), hen]
  rfl
end

/-! The commands of a bucket (R334) -/

theorem bktRun_taken {c : EngCmd} {b : Nat} {go : Bool} {rest : State → State} {s : State} (h : bktChk s b = none) :
    bktRun c b go rest s = rest (if go then (s.issued 21 c).launch b c else s.issued 21 c) := by
  rw [bktRun, h]
  rfl
theorem bktRun_rejected {c : EngCmd} {b : Nat} {go : Bool} {rest : State → State} {s : State} {r : Rej} (h : bktChk s b = some r) :
    bktRun c b go rest s = s.reject 21 c r := by
  rw [bktRun, h]
  rfl

/-- BUCKET_OVERFILL is flagged and logged when FILLED has passed SIZE. -/
def State.overfill (o : Nat) (past : Bool) (e : Err) (s : State) : State := if past then (s.orReg (o + 12) 2).raise e else s

section
variable (o : Nat) (past : Bool) (e : Err) (s : State)

theorem State.overfill_mem : (s.overfill o past e).mem = s.mem := by
  cases past
  exacts [rfl, (State.raise_mem _ _).trans (State.orReg_mem _ _ _)]
theorem State.overfill_cc : (s.overfill o past e).cc = s.cc := by
  cases past
  exacts [rfl, (State.raise_cc _ _).trans (State.orReg_cc _ _ _)]
theorem State.overfill_regs : SameRegsBut [o + 12, 0x04000] s (s.overfill o past e) := fun k hk => by
  simp only [List.mem_cons, List.not_mem_nil, or_false, not_or] at hk
  cases past
  · rfl
  · exact (State.raise_reg _ _ _).trans ((if_neg hk.2).trans ((State.orReg_reg _ _ _ _).trans (if_neg hk.1)))
theorem State.overfill_flag (ho : o + 12 ≠ 0x04000) : (s.overfill o past e).reg (o + 12) = if past then s.reg (o + 12) ||| 2 else s.reg (o + 12) := by
  cases past
  · rfl
  · exact (State.raise_reg _ _ _).trans ((if_neg ho).trans ((State.orReg_reg _ _ _ _).trans (if_pos rfl)))
end

section
variable {c : EngCmd} {b : BitVec 8} {s : State} (h : s.AtHead 21 c)
include h

theorem exec_bucketAccount_run {n : Opd} (hop : c.op = .bktAccount b n) (hn : opdBad n = false) :
    exec .bucketAccount s = .next (bktRun c b.toNat
      (decide (s.regFld (bktBase b.toNat) 0 9 * 2 ^ 20 ≤ (s.reg (bktBase b.toNat + 8)).toNat + oVal n) && !s.launched b.toNat)
      (fun t => (t.setReg (bktBase b.toNat + 8) (w32 ((s.reg (bktBase b.toNat + 8)).toNat + oVal n))).overfill (bktBase b.toNat)
        (decide (s.regFld (bktBase b.toNat) 0 9 * 2 ^ 20 < (s.reg (bktBase b.toNat + 8)).toNat + oVal n))
        { code := 0x300B, unit := 8, tag := c.tag, index := b.toNat, thread := ctxNum c.ctx, d0 := w32 b.toNat }) s) := by
  change execBucketAccount s = _
  rw [execBucketAccount, updQ, h.runHead, hop]
  simp only [hn, Bool.false_eq_true, if_false, State.overfill, decide_eq_true_eq]
  rfl
theorem exec_bucketFlush_run (hop : c.op = .bktFlush b) : exec .bucketFlush s = .next (bktRun c b.toNat (!s.launched b.toNat) id s) := by
  change execBucketFlush s = _
  rw [execBucketFlush, updQ, h.runHead, hop]
theorem exec_bucketReset_run (hop : c.op = .bktReset b) : exec .bucketReset s =
    .next (bktRun c b.toNat false (fun t => (t.setReg (bktBase b.toNat + 8) 0).clrReg (bktBase b.toNat + 12) 1) s) := by
  change execBucketReset s = _
  rw [execBucketReset, updQ, h.runHead, hop]
end

/-- From s to t a bucket's bytes have been accounted: FILLED is f, launched when `go`, and BUCKET_OVERFILL flagged and logged when `past`. -/
structure Accounted (go past : Bool) (f o a : Nat) (c : EngCmd) (e : Err) (s t : State) : Prop where
  filled : t.reg (o + 8) = w32 f
  flags : t.reg (o + 12) = s.reg (o + 12) ||| (if go then 1 else 0) ||| (if past then 2 else 0)
  mem : if go then t.word a = s.word a + 1 ∧ SameMemOutside a 8 s t else t.mem = s.mem
  regs : SameRegsBut [o + 8, o + 12, 0x04000] s t
  queues : t.cc.queues = (s.issued 21 c).cc.queues
  silent : past = false → t.logs = s.logs
  logged : past = true → s.logs.errs.length < 512 → ∃ x, t.logs.errs = s.logs.errs ++ [x] ∧ x.code = e.code

theorem BucketRun.accounted {go : Bool} {o a : Nat} {c : EngCmd} {s u : State} (h : BucketRun go o a c s u) (ho : 0x46000 ≤ o) (past : Bool) (f : Nat)
    (e : Err) : Accounted go past f o a c e s ((u.setReg (o + 8) (w32 f)).overfill o past e) := by
  have hregs := State.overfill_regs o past e (u.setReg (o + 8) (w32 f))
  have hflag := State.overfill_flag o past e (u.setReg (o + 8) (w32 f)) (by omega)
  have hbyte : ∀ x, ((u.setReg (o + 8) (w32 f)).overfill o past e).byte x = u.byte x := State.byte_congr (State.overfill_mem _ _ _ _)
  refine ⟨?_, ?_, ?_, fun k hk => ?_, by rw [State.overfill_cc]; exact h.queues, fun hp => ?_, fun hp hroom => ?_⟩
  · rw [hregs _ (by simp; omega), State.setReg_reg, if_pos rfl]
  · rw [hflag, State.setReg_reg, if_neg (c := o + 12 = o + 8) (by omega), h.reg]
    cases go <;> cases past <;> simp
  · cases go with
    | false => exact (State.overfill_mem _ _ _ _).trans h.mem
    | true =>
      obtain ⟨hword, hout⟩ := h.mem
      exact ⟨(State.word_of_byte _ _ _ hbyte).trans hword, fun x hx => (hbyte x).trans (hout x hx)⟩
  · simp only [List.mem_cons, List.not_mem_nil, or_false, not_or] at hk
    rw [hregs k (by simp [hk]), State.setReg_reg, if_neg hk.1, h.reg, if_neg fun hc => hk.2.1 hc.1]
  · rw [hp]
    exact h.logs
  · have hlogs : ((u.setReg (o + 8) (w32 f)).orReg (o + 12) 2).logs = s.logs := h.logs
    rw [hp, State.overfill, if_pos rfl, State.raise_errs _ _ (by rwa [hlogs]), hlogs]
    exact ⟨_, rfl, rfl⟩

/-- Settles O48: each command of a bucket by what its registers hold, and MODE by its own write. -/
theorem bucketsLaunchOnceAndModeSwitches : Obligations.BucketsLaunchOnceAndModeSwitches := by
  unfold Obligations.BucketsLaunchOnceAndModeSwitches
  refine ⟨fun c b s h he hb hen => ?bucket, fun c b s h he hb hen hop => ?disabled, fun c e s h hop => ?mode⟩
  case bucket =>
    intro o a size h1 h2
    have hchk : bktChk s b.toNat = none := bktChk_enabled he hb hen h1
    refine ⟨fun n hop hn hlt => ?account, fun hop => ?flush, fun hop => ?reset⟩
    case account =>
      intro f
      have hrun := (bucketRun (c := c) (decide (size ≤ f) && !s.launched b.toNat) rfl h1 h2).accounted (Nat.le_add_right _ _)
        (decide (size < f)) f { code := 0x300B, unit := 8, tag := c.tag, index := b.toNat, thread := ctxNum c.ctx, d0 := w32 b.toNat }
      obtain ⟨t, ht, hdone⟩ : ∃ t, exec .bucketAccount s = .next t ∧ Accounted (decide (size ≤ f) && !s.launched b.toNat) (decide (size < f)) f o a c
          { code := 0x300B, unit := 8, tag := c.tag, index := b.toNat, thread := ctxNum c.ctx, d0 := w32 b.toNat } s t :=
        ⟨_, (exec_bucketAccount_run h hop hn).trans (congrArg _ (bktRun_taken hchk)), hrun⟩
      obtain ⟨hfilled, hflags, hmem, hregs, hqueues, hsilent, hlogged⟩ := hdone
      have hbit : ∀ j, t.regBit (o + 12) j = _ := fun j => congrArg (BitVec.getLsbD · j) hflags
      refine ⟨t, ht, ?_, ?_, fun hf => ⟨?_, hlogged (decide_eq_true hf)⟩, fun hf => ?_, hregs, hqueues⟩
      · rw [hfilled]
        exact (BitVec.toNat_ofNat _ _).trans (Nat.mod_eq_of_lt hlt)
      · have hgo : (decide (size ≤ f) && !s.launched b.toNat) = true ↔ size ≤ f ∧ s.regBit (o + 12) 0 = false := by
          rw [Bool.and_eq_true, decide_eq_true_eq, Bool.not_eq_true']
          rfl
        split
        · next hc =>
          rw [hgo.mpr hc] at hmem
          obtain ⟨hword, hout⟩ := hmem
          refine ⟨hword, ?_, hout⟩
          rw [hbit, hgo.mpr hc]
          simp
        · next hc =>
          have hno := Bool.eq_false_iff.mpr fun hg => hc (hgo.mp hg)
          rw [hno] at hmem
          refine ⟨hmem, ?_⟩
          rw [hbit, hno]
          cases decide (size < f) <;> simp
      · rw [hbit, decide_eq_true hf]
        simp
      · have hp := decide_eq_false (Nat.not_lt.mpr hf)
        refine ⟨congrArg Logs.errs (hsilent hp), ?_⟩
        rw [hbit, hp]
        cases decide (size ≤ f) && !s.launched b.toNat <;> simp
    case flush =>
      have hexec := (exec_bucketFlush_run h hop).trans (congrArg _ (bktRun_taken hchk))
      obtain ⟨hmem, hreg, -, -, hcounted⟩ := bucketRun (c := c) (!s.launched b.toNat) rfl h1 h2
      refine ⟨_, hexec, ?_, (hreg _).trans (if_neg fun hc => absurd hc.1 (by rw [bktBase]; omega)), ?_, fun k hk => ?_⟩
      · refine (congrArg (BitVec.getLsbD · 0) (hreg (o + 12))).trans ?_
        cases hl : s.launched b.toNat with
        | false => simp [o, bktBase]
        | true => exact (congrArg (BitVec.getLsbD · 0) (if_neg fun hc => nomatch hc.2)).trans hl
      · cases hl : s.launched b.toNat with
        | false =>
          rw [hl] at hmem hcounted
          obtain ⟨hword, hout⟩ := hmem
          have hl' : s.regBit (o + 12) 0 = false := hl
          rw [if_pos hl']
          exact ⟨hword, hout, hcounted rfl⟩
        | true =>
          have hl' : ¬ s.regBit (o + 12) 0 = false := fun hf => nomatch hf.symm.trans hl
          rw [if_neg hl']
          rfl
      · simp only [List.mem_cons, List.not_mem_nil, or_false, not_or] at hk
        exact (hreg k).trans (if_neg fun hc => hk.1 hc.1)
    case reset =>
      have hreg : ∀ k, (((s.issued 21 c).setReg (o + 8) 0).clrReg (o + 12) 1).reg k =
          if k = o + 12 then s.reg (o + 12) &&& ~~~1 else if k = o + 8 then 0 else s.reg k := fun k => by
        rw [State.clrReg_reg, State.setReg_reg, State.setReg_reg, State.issued_reg, State.issued_reg, if_neg (c := o + 12 = o + 8) (by omega)]
      have hbit : ∀ j, (((s.issued 21 c).setReg (o + 8) 0).clrReg (o + 12) 1).regBit (o + 12) j = (s.reg (o + 12) &&& ~~~1).getLsbD j := fun j =>
        congrArg (BitVec.getLsbD · j) ((hreg _).trans (if_pos rfl))
      refine ⟨_, (exec_bucketReset_run h hop).trans (congrArg _ (bktRun_taken hchk)), ?_, (hbit 0).trans ?_, (hbit 1).trans ?_, fun k hk => ?_, rfl⟩
      · exact (hreg _).trans ((if_neg (by omega)).trans (if_pos rfl))
      · simp
      · simp [State.regBit]
      · simp only [List.mem_cons, List.not_mem_nil, or_false, not_or] at hk
        exact (hreg k).trans ((if_neg hk.2).trans (if_neg hk.1))
  case disabled => rw [exec_bucketFlush_run h hop, bktRun_rejected (bktChk_disabled he hb hen)]
  case mode =>
    obtain ⟨l, k, ht⟩ := exec_mode_frame h hop
    obtain ⟨u, x, y, z, hi⟩ := State.issued_eq 21 c s
    have hreg : ∀ o, ((s.issued 21 c).setRegFld 0x45010 8 1 (bit e)).reg o = if o = 0x45010 then setFld (s.reg 0x45010) 8 1 (bit e) else s.reg o :=
      fun o => by rw [State.setRegFld_reg, State.issued_reg, State.issued_reg]
    have hbit : ∀ j, ((s.issued 21 c).setRegFld 0x45010 8 1 (bit e)).regBit 0x45010 j = if j = 8 then e else s.regBit 0x45010 j := fun j => by
      rw [State.regBit, hreg, if_pos rfl, getLsbD_setFld_bit (by decide), State.regBit]
    exact ⟨_, ht, (hbit 8).trans (if_pos rfl), fun j hj => (hbit j).trans (if_neg hj), fun o ho => (hreg o).trans (if_neg (by simpa using ho)), rfl,
      by rw [hi]; rfl⟩

end Sys2Proof.Machine
end

section
/-! Proofs about signals, arrivals at barriers, deadlock and partner timeouts (R292, R298, R308 to R318, R401). -/

namespace Sys2Proof.Machine

/-! SIGNAL and DEC on a local word (R296, R298) -/

theorem State.blotter_raised (ty src : Nat) (tag : Half) (d : Word) (s : State) : (s.blotter ty src tag d).logs.raised = s.logs.raised := by
  simp only [State.blotter, State.count]
  repeat' split
  all_goals rfl
theorem State.raise_raised (e : Err) (s : State) : (s.raise e).logs.raised = s.logs.raised + 1 := by
  simp only [State.raise, State.blotter_raised, State.interrupt_logs]
  split
  · rfl
  · exact congrArg Logs.raised (State.count_logs _ _ _)

section
variable {op a : Nat} {v : Word} {src : Nat} {r : Reader} {sem : Bool} {n : Word} {s : State} (h1 : s.wordChk a = none)
include h1

/-- An operation on a good word logs the error of its new COUNT and nothing else. -/
theorem State.syncApply_raised (h2 : s.readWord a op = .ok sem n) :
    (s.syncApply op a v src r).2.logs.raised = s.logs.raised + (if (newCount op sem n v).2 = none then 0 else 1) := by
  have hgood := State.touchBy_good r (a := a) (n := 8) (State.readWord_clean h2)
  have hlogs := (State.touchWord_goodAccess h1 h2 r).logs
  simp only [State.syncApply, h1, h2]
  split
  · next e he =>
    have hraise : ((s.touchBy r a 8).raise { code := e, unit := 10, tag := r.tag, d0 := w32 a }).poisonedIn a 8 = false := by
      rwa [State.poisonedIn, State.raise_eccBad]
    rw [(State.putCount_goodAccess sem _ hraise).logs, State.raise_raised, hlogs, he]
    rfl
  · next he => rw [(State.putCount_goodAccess sem _ hgood).logs, hlogs, if_pos he]; rfl
theorem State.syncApply_invalid {k : Nat} (h2 : s.readWord a op = .invalid k) : s.syncApply op a v 0 r =
    (some { code := 0x2004, cond := k, unit := 10, d0 := w32 a, d1 := w32 op, d2 := 0 }, s.touchBy r a 8) := by
  simp only [State.syncApply, h1, h2, if_true]
  rfl
end

/-- HOSTSIG bit h is set where a command names one: the value 32 stands for none. -/
def State.signalHost (h : Nat) (s : State) : State := if h < 32 then s.hostsig h else s

section
variable {q op sig : Nat} {c : EngCmd} {f : Form} {a v : Opd} {s : State}

theorem exec_signalOrDec {cmd : Instr} (h : s.AtHead q c)
    (hcmd : (op = 1 ∧ cmd = .signal q ∧ ((∃ k : BitVec 5, c.op = .signal f a v (some k) ∧ sig = k.toNat) ∨
        (c.op = .signal f a v none ∧ sig = 32))) ∨
      (op = 2 ∧ cmd = .dec q ∧ c.op = .dec f a v ∧ sig = 32)) : exec cmd s = .next (signalHead q op c f a v sig s) := by
  obtain ⟨rfl, rfl, ⟨k, hop, rfl⟩ | ⟨hop, rfl⟩⟩ | ⟨rfl, rfl, hop, rfl⟩ := hcmd
  · change execSignal q s = _
    rw [execSignal, h.runHead, hop]
    rfl
  · change execSignal q s = _
    rw [execSignal, h.runHead, hop]
    rfl
  · change execDec q s = _
    rw [execDec, h.runHead, hop]

section
variable (hq : s.queueQuiet q = true) (ha : opdBad a = false) (hv : opdBad v = false)
include hq ha hv

theorem signalHead_local {u : State} (h : s.syncApply op (oVal a) (oWord v) 0 (c.reader 11 q) = (none, u)) :
    signalHead q op c .loc a v sig s = (u.issued q c).signalHost sig := by
  simp only [signalHead, hq, ha, hv, h, Bool.not_true, Bool.or_self, Bool.false_eq_true, if_true, if_false]
  rfl
theorem signalHead_local_bad {r : Rej} {u : State} (h : s.syncApply op (oVal a) (oWord v) 0 (c.reader 11 q) = (some r, u)) :
    signalHead q op c .loc a v sig s = u.reject q c r := by
  simp only [signalHead, hq, ha, hv, h, Bool.not_true, Bool.or_self, Bool.false_eq_true, if_true, if_false]

section
variable (hf : f ≠ .loc) (hw : (s.queue q).wait = .none)
include hf hw

theorem signalHead_remote_bad {r : Rej} {u : State} (h : s.trySync (f == .fabric) a.imm op (oWord v) ⟨0, q, sig, some c, 0, false, 0⟩ = (.bad r, u)) :
    signalHead q op c f a v sig s = u.reject q c r := by
  simp only [signalHead, hq, ha, hv, hf, hw, h, Bool.not_true, Bool.or_self, Bool.false_eq_true, if_false]
theorem signalHead_remote_sent {i : Nat} {u : State} (h : s.trySync (f == .fabric) a.imm op (oWord v) ⟨0, q, sig, some c, 0, false, 0⟩ = (.ok i, u)) :
    signalHead q op c f a v sig s = u.setQueue q { u.queue q with wait := .sent i } := by
  simp only [signalHead, hq, ha, hv, hf, hw, h, Bool.not_true, Bool.or_self, Bool.false_eq_true, if_false]
end
end
end

theorem State.signalHost_frame (h : Nat) (s : State) : ∃ g, s.signalHost h = { s with regs := g } := by
  simp only [State.signalHost]
  split
  exacts [⟨_, rfl⟩, ⟨s.regs, rfl⟩]
theorem State.signalHost_regs (h : Nat) (s : State) : (h < 32 → (s.signalHost h).regBit 0x60020 h = true) ∧
    SameRegsBut (if h < 32 then [0x60020] else []) s (s.signalHost h) := by
  by_cases hh : h < 32
  · rw [State.signalHost, if_pos hh, if_pos hh]
    exact ⟨fun _ => (State.hostsig_sets hh s).1, (State.hostsig_sets hh s).2⟩
  · rw [State.signalHost, if_neg hh]
    exact ⟨fun hlt => absurd hlt hh, fun _ _ => rfl⟩

/-! SIGNAL and DEC over the port (R292, R391) -/

section
variable {fabric : Bool} {a : DWord} {sop : Nat} {v : Word} {o : SyncOp} {s : State}

theorem State.trySync_bad {r : Rej} (h : s.syncTo fabric a = .bad r) : s.trySync fabric a sop v o = (.bad r, s) := by
  simp only [State.trySync, h]
theorem State.trySync_sends {ep route addr g i : Nat} (h : s.syncTo fabric a = .to ep route addr g) (hi : s.freeStream = some i)
    (hg : s.windowTakes g 1 = true) : s.trySync fabric a sop v o = (.ok i, s.sendSync i { o with group := g } sop v ep route addr) := by
  simp only [State.trySync, h, hi, hg, if_true]
end
/-- A SYNC that is sent takes a stream and one place of the window. -/
theorem State.sendSync_frame (i : Nat) (o : SyncOp) (sop : Nat) (v : Word) (ep route addr : Nat) (s : State) : ∃ p k n,
    s.sendSync i o sop v ep route addr = { (s.setStream i (.sync o)).windowAdd o.group 1 with port := p, ctrs := k, freeCtr := n } := by
  obtain ⟨k, hk⟩ := State.count_eq 0x50200 1 ((s.setStream i (.sync o)).windowAdd o.group 1)
  obtain ⟨p, k', n, hsend⟩ := (State.send_portOnly 2 [(linkOf 6 ep route false false false 0,
    hdrOf [(124, sop), (92, v.toNat), (28, addr), (8, i)], [])] (((s.setStream i (.sync o)).windowAdd o.group 1).count 0x50200 1)).1
  exact ⟨p, k', n, by rw [State.sendSync, hsend, hk]⟩

/-! Arrivals (R308 to R310) -/

section
variable {q : Nat} {c : EngCmd} {b : BitVec 4} {s u : State} (h : s.AtHead q c) (hop : c.op = .arrive b) (hq : s.queueQuiet q = true)
  (hw : (s.queue q).wait = .none)
include h hop hq hw

theorem exec_arrive_bad {r : Rej} (ha : s.arriveAt b.toNat q (some c) (c.reader 11 q) = .bad r u) : exec (.arrive q) s = .next (u.reject q c r) := by
  change execArrive q s = _
  rw [execArrive, h.runHead, hop]
  simp only [hq, hw, ha, Bool.not_true, Bool.or_self, Bool.false_eq_true, if_false]
theorem exec_arrive_made (ha : s.arriveAt b.toNat q (some c) (c.reader 11 q) = .made u) : exec (.arrive q) s = .next (u.issued q c) := by
  change execArrive q s = _
  rw [execArrive, h.runHead, hop]
  simp only [hq, hw, ha, Bool.not_true, Bool.or_self, Bool.false_eq_true, if_false]
end

/-- The arrival at context b advances BAR_GEN and changes no other register (R308, R309). -/
theorem State.noteArrival_eq (b : Nat) (g : Word) (tag : Half) (s : State) : ∃ l k, s.noteArrival b g tag = { s with
    regs := (s.setReg (0x60114 + 0x20 * b) (g + 1)).regs, sync := { s.sync with arrived := Tab.set none s.sync.arrived b (some g) }, logs := l,
    ctrs := k } := by
  obtain ⟨k, hk⟩ := State.count_eq 0x60330 1 ({ s with
    regs := (s.setReg (0x60114 + 0x20 * b) (g + 1)).regs, sync := { s.sync with arrived := Tab.set none s.sync.arrived b (some g) } })
  obtain ⟨l, k', hl⟩ := State.blotter_eq 6 4 tag g ({ s with
    regs := (s.setReg (0x60114 + 0x20 * b) (g + 1)).regs, sync := { s.sync with arrived := Tab.set none s.sync.arrived b (some g) }, ctrs := k })
  refine ⟨l, k', ?_⟩
  rw [← hl, ← hk]
  rfl
theorem State.noteArrival_reg (b : Nat) (g : Word) (tag : Half) (o : Nat) (s : State) :
    (s.noteArrival b g tag).reg o = if o = 0x60114 + 0x20 * b then g + 1 else s.reg o := by
  obtain ⟨l, k, h⟩ := s.noteArrival_eq b g tag
  rw [h]
  exact State.setReg_reg _ _ _ s
theorem State.noteArrival_ctr (b : Nat) (g : Word) (tag : Half) (s : State) :
    (s.noteArrival b g tag).ctr 0x60330 = if s.frozen 0x60330 then s.ctr 0x60330 else s.ctr 0x60330 + 1 := by
  have hregs : SameRegsBut [0x60114 + 0x20 * b] s (s.setReg (0x60114 + 0x20 * b) (g + 1)) := fun o ho => by
    rw [State.setReg_reg, if_neg (by simpa using ho)]
  have hfrozen := hregs.frozen (o := 0x60330) (c := 0x60060) (by decide) (by simp only [List.mem_singleton]; omega)
  simp only [State.noteArrival]
  rw [State.blotter_ctr _ _ _ _ _ _ (by decide), State.count_one, ← hfrozen]
  rfl
theorem State.noteArrival_ctr_other (b : Nat) (g : Word) (tag : Half) (s : State) :
    (s.noteArrival b g tag).ctr 0x60338 = s.ctr 0x60338 := by
  simp only [State.noteArrival]
  rw [State.blotter_ctr _ _ _ _ _ _ (by decide), State.count_ctr, if_neg (by simp)]
  rfl

/-- From s to t context b has arrived with generation g at its central word, at m, which read n. -/
structure CentralArrived (b m : Nat) (g n : Word) (s t : State) : Prop where
  word : t.word m = n + 1
  outside : SameMemOutside m 8 s t
  gen : t.reg (0x60114 + 0x20 * b) = g + 1
  regs : SameRegsBut [0x60114 + 0x20 * b] s t
  queues : t.cc.queues = s.cc.queues
  sys : t.sys = s.sys
  good : ∀ a k, s.poisonedIn a k = false → t.poisonedIn a k = false
  arrivals : t.ctr 0x60330 = if s.frozen 0x60330 then s.ctr 0x60330 else s.ctr 0x60330 + 1
  releases : t.ctr 0x60338 = s.ctr 0x60338

theorem centralArrived {b m : Nat} {g n : Word} {r : Reader} {tag : Half} {s : State} (h1 : s.wordChk m = none) (h2 : s.readWord m 3 = .ok false n) :
    CentralArrived b m g n s (((s.touchBy r m 8).putCount m false (n + 1)).noteArrival b g tag) := by
  have hacc := State.takeWord_goodAccess h1 h2 r (n + 1)
  have hgood : ∀ a k, s.poisonedIn a k = false → ((s.touchBy r m 8).putCount m false (n + 1)).poisonedIn a k = false := fun a k hp => by
    rw [State.putCount, State.poisonedIn, State.count_eccBad]
    exact State.write_good (State.touchBy_good r hp)
  have hword := State.putCount_word m false (n + 1) (s.touchBy r m 8)
  have hout := State.takeWord_outside r m false (n + 1) s
  generalize (s.touchBy r m 8).putCount m false (n + 1) = u at *
  have harr := u.noteArrival_ctr b g tag
  have hrel := u.noteArrival_ctr_other b g tag
  have hreg := fun o => u.noteArrival_reg b g tag o
  obtain ⟨l, k, h⟩ := u.noteArrival_eq b g tag
  rw [hacc.ctrs _ (by decide) (by decide), hacc.frozen] at harr
  rw [hacc.ctrs _ (by decide) (by decide)] at hrel
  rw [h] at harr hrel hreg ⊢
  exact ⟨hword, hout, (hreg _).trans (if_pos rfl), fun o ho => ((hreg o).trans (if_neg (by simpa using ho))).trans (hacc.reg o), hacc.queues,
    hacc.sys, hgood, harr, hrel⟩

section
variable {b q : Nat} {cmd : Option EngCmd} {r : Reader} {s : State}

theorem State.arriveAt_bad {e : Rej} (h : s.barChk b = some e) : s.arriveAt b q cmd r = .bad e s := by
  simp only [State.arriveAt, h]

section
variable (h : s.barChk b = none)
include h

theorem State.arriveAt_central {u : State} (hf : fld (s.reg (0x60100 + 0x20 * b)) 28 3 = 0)
    (hu : s.syncApply 3 (mk64 (s.reg (0x60108 + 0x20 * b)) (s.reg (0x60104 + 0x20 * b))).toNat 1 0 r = (none, u)) :
    s.arriveAt b q cmd r = .made ((u.noteArrival b (s.reg (0x60114 + 0x20 * b)) r.tag).lastTest b (s.reg (0x60114 + 0x20 * b))
      (s.word (mk64 (s.reg (0x60108 + 0x20 * b)) (s.reg (0x60104 + 0x20 * b))).toNat)) := by
  simp only [State.arriveAt, h, hf, hu, if_true]
theorem State.arriveAt_line (hf : fld (s.reg (0x60100 + 0x20 * b)) 28 3 = 3) : s.arriveAt b q cmd r =
    .made ((s.noteArrival b (s.reg (0x60114 + 0x20 * b)) r.tag).lineArrive (s.reg (0x60114 + 0x20 * b))) := by
  simp only [State.arriveAt, h, hf, if_true, show (3 : Nat) ≠ 0 by decide, if_false]
end
end

/-! The last arrival (R309, R310) -/

theorem State.lastTest_waits {b : Nat} {g old : Word} {s : State} (h : old + 1 ≠ (g + 1) * w32 (fld (s.reg (0x60100 + 0x20 * b)) 0 16 + 1)) :
    s.lastTest b g old = s := if_neg h
theorem State.lastTest_releases {b : Nat} {g old : Word} {s : State} (h : old + 1 = (g + 1) * w32 (fld (s.reg (0x60100 + 0x20 * b)) 0 16 + 1)) :
    s.lastTest b g old = ((s.count 0x60338 1).sendReleases b g).release b g := if_pos h

/-- The release of context b sent to entry i of its release range, where that entry has a route (R310). -/
def State.sendRelease (b : Nat) (g : Word) (s : State) (i : Nat) : State :=
  match s.route i with
  | some r => s.send 2 [(linkOf 7 r.1 r.2 false false false 0, hdrOf [(124, b), (92, g.toNat)], [])]
  | none => s
theorem State.sendRelease_portOnly (b : Nat) (g : Word) (s : State) (i : Nat) : PortOnly s (s.sendRelease b g i) := by
  simp only [State.sendRelease]
  split
  exacts [State.send_portOnly _ _ _, PortOnly.refl _]
/-- The releases sent to the range of a context change the port, and log the first entry that has no route. -/
theorem State.sendReleases_sent (b : Nat) (g : Word) (s : State) :
    ∃ u, PortOnly s u ∧ (s.sendReleases b g = u ∨ ∃ e, s.sendReleases b g = u.raise e) := by
  refine ⟨_, PortOnly.foldl (fun s i => s.sendRelease_portOnly b g i) ((List.range (fld (s.reg (0x60110 + 0x20 * b)) 16 14)).map
    fun i => fld (s.reg (0x60110 + 0x20 * b)) 0 13 + i) s, ?_⟩
  simp only [State.sendReleases]
  split
  exacts [.inr ⟨_, rfl⟩, .inl rfl]
theorem State.sendReleases_accessed (b : Nat) (g : Word) (s : State) : Accessed s (s.sendReleases b g) := by
  obtain ⟨u, hu, h | ⟨e, h⟩⟩ := s.sendReleases_sent b g
  · exact h ▸ hu.accessed
  · exact h ▸ hu.accessed.trans (u.raise_accessed e)
theorem State.sendReleases_mem (b : Nat) (g : Word) (s : State) : (s.sendReleases b g).mem = s.mem ∧ (s.sendReleases b g).eccBad = s.eccBad := by
  obtain ⟨u, hu, h | ⟨e, h⟩⟩ := s.sendReleases_sent b g
  · exact h ▸ ⟨hu.mem, hu.eccBad⟩
  · rw [h, State.raise_mem, State.raise_eccBad]
    exact ⟨hu.mem, hu.eccBad⟩

theorem State.releaseWord_goodAccess {a : Nat} {c : Word} {s : State} (h1 : s.wordChk a = none) (h2 : s.readWord a 6 = .ok false c) (g : Word) :
    GoodAccess s (s.releaseWord a g c) := by
  simp only [State.releaseWord]
  split
  exacts [State.takeWord_goodAccess h1 h2 syncUnit _, State.touchWord_goodAccess h1 h2 syncUnit]
/-- A release at a good word changes no register, and counts nothing but the accesses and the update. -/
theorem State.release_keeps {b : Nat} {c : Word} {s : State} (h1 : s.wordChk (s.releaseAddr b) = none)
    (h2 : s.readWord (s.releaseAddr b) 6 = .ok false c) (g : Word) : (∀ o, (s.release b g).reg o = s.reg o) ∧
      ∀ o, accessCtr o = false → o ≠ 0x60300 → (s.release b g).ctr o = s.ctr o := by
  obtain ⟨y, hy⟩ := State.settleArrival_eq b (if decide (0 < signed32 (g + 1 - c)) then g + 1 else c)
    ((s.releaseWord (s.releaseAddr b) g c).blotter 7 4 0 g)
  have hword := State.releaseWord_goodAccess h1 h2 g
  rw [State.release_taken h1 h2, hy]
  refine ⟨fun o => (State.blotter_reg _ _ _ _ _ _).trans (hword.reg o), fun o ho hne =>
    (State.blotter_ctr _ _ _ _ _ _ fun h => ?_).trans (hword.ctrs o ho hne)⟩
  rw [h] at ho
  exact absurd ho (by decide)

/-- From s to t the last arrival of generation g at context b has released it: the central word at m reads n + 1, and the release word at
rel, which read k, has moved forward to g + 1. -/
structure LastArrived (b m rel : Nat) (g n k : Word) (s t : State) : Prop where
  word : t.word m = n + 1
  release : t.word rel = if 0 < signed32 (g + 1 - k) then g + 1 else k
  outside : ∀ x, (x < m ∨ m + 8 ≤ x) → (x < rel ∨ rel + 8 ≤ x) → t.byte x = s.byte x
  gen : t.reg (0x60114 + 0x20 * b) = g + 1
  queues : t.cc.queues = s.cc.queues
  releases : t.ctr 0x60338 = if s.frozen 0x60338 then s.ctr 0x60338 else s.ctr 0x60338 + 1

/-- The last arrival counts, sends its releases, and releases its own context (R309, R310). -/
theorem CentralArrived.released {b m : Nat} {g n k : Word} {s u : State} (h : CentralArrived b m g n s u) (h1 : s.wordChk (s.releaseAddr b) = none)
    (h2 : s.readWord (s.releaseAddr b) 6 = .ok false k) (hd : s.releaseAddr b + 8 ≤ m ∨ m + 8 ≤ s.releaseAddr b) :
    LastArrived b m (s.releaseAddr b) g n k s (((u.count 0x60338 1).sendReleases b g).release b g) := by
  have hacc := (u.count 0x60338 1).sendReleases_accessed b g
  obtain ⟨hmem, hecc⟩ := (u.count 0x60338 1).sendReleases_mem b g
  have hctr := hacc.ctrs 0x60338 (by decide)
  have hfrozen := h.regs.frozen (o := 0x60338) (c := 0x60060) (by decide) (by simp only [List.mem_singleton]; omega)
  rw [State.count_one, hfrozen, h.releases] at hctr
  generalize (u.count 0x60338 1).sendReleases b g = v at *
  have hbyte : ∀ x, v.byte x = u.byte x := State.byte_congr (hmem.trans (State.count_mem _ _ _))
  have hreg : ∀ o, o ≠ 0x04000 → v.reg o = u.reg o := fun o ho => (hacc.regs o (by simpa using ho)).trans (State.count_reg _ _ _ _)
  have hrel : v.releaseAddr b = s.releaseAddr b := by
    rw [State.releaseAddr, State.releaseAddr, hreg _ (by omega), h.regs _ (by simp only [List.mem_singleton]; omega)]
  have hgood : v.poisonedIn (s.releaseAddr b) 8 = false := by
    rw [State.poisonedIn, hecc, State.count_eccBad]
    exact h.good _ _ (State.readWord_clean h2)
  have h1' : v.wordChk (v.releaseAddr b) = none := by
    rw [hrel]
    exact State.wordChk_congr (hacc.sys.trans ((State.count_sys _ _ _).trans h.sys)) h1
  have h2' : v.readWord (v.releaseAddr b) 6 = .ok false k := by
    rw [hrel, ← h2]
    exact State.readWord_congr (fun x hlo hhi => (hbyte x).trans (h.outside x (by omega))) (hgood.trans (State.readWord_clean h2).symm)
  obtain ⟨hword, hout, -, hqueues⟩ := State.release_spec (g := g) h1' h2'
  obtain ⟨hreg', hctr'⟩ := State.release_keeps h1' h2' g
  rw [hrel] at hword hout
  refine ⟨?_, hword, fun x hm hx => ((hout x hx).trans (hbyte x)).trans (h.outside x hm), ?_, ?_, (hctr' _ (by decide) (by decide)).trans hctr⟩
  · rw [State.word_congr fun x hlo hhi => hout x (by omega), State.word_of_byte _ _ _ hbyte, h.word]
  · rw [hreg', hreg _ (by omega), h.gen]
  · rw [hqueues, hacc.queues, State.count_cc, h.queues]

/-! The barrier lines (R401) -/

section
variable (g : Word) (s : State)

theorem State.lineArrive_eq : ∃ y, s.lineArrive g = { s with sync := y } := by
  simp only [State.lineArrive]
  split <;> exact ⟨_, rfl⟩
theorem State.lineArrive_raises (hreq : s.sync.lineReq = false) (hack : s.sync.lineAck = false) :
    (s.lineArrive g).sync = { s.sync with lineReq := true, lineGen := g } := by
  simp only [State.lineArrive, hreq, hack, Bool.or_self, Bool.false_eq_true, if_false]
theorem State.lineArrive_waits (h : s.sync.lineReq = true ∨ s.sync.lineAck = true) :
    (s.lineArrive g).sync = { s.sync with lineNext := s.sync.lineNext ++ [g] } := by
  simp only [State.lineArrive, Bool.or_eq_true, h, if_true]
end

section
variable {l : Bool} {s : State} (h : s.Clocked)
include h

/-- ACK withdraws the request; while it is high, or when no arrival waits, none goes out. -/
theorem exec_barArriveAck_withdraws (hl : l = true ∨ s.sync.lineNext = []) :
    exec (.barArriveAck l) s = .next { s with sync := { s.sync with lineAck := l, lineReq := s.sync.lineReq && !l } } := by
  change execBarArriveAck l s = _
  rw [execBarArriveAck, h.runFast]
  cases hn : s.sync.lineNext with
  | nil => simp only [hn]
  | cons g rest =>
    obtain rfl := hl.resolve_right fun h0 => absurd (hn.symm.trans h0) (by simp)
    simp only [hn, if_true]
theorem exec_barArriveAck_next {g : Word} {rest : List Word} (hn : s.sync.lineNext = g :: rest) : exec (.barArriveAck false) s =
    .next { s with sync := { s.sync with lineAck := false, lineNext := rest, lineReq := true, lineGen := g } } := by
  change execBarArriveAck false s = _
  rw [execBarArriveAck, h.runFast]
  simp only [hn, Bool.false_eq_true, if_false]
theorem exec_barRelTgl (g : Word) : exec (.barRelTgl g) s = .next (if s.fenced then s else s.release 0 g) := by
  change execBarRelTgl g s = _
  rw [execBarRelTgl, h.runFast]
  rfl
end

/-! The snapshot of a deadlock (R317, R320) -/

/-- Word i of the snapshot is cleared. -/
def State.snapClear (s : State) (i : Nat) : State := s.setReg (0x61400 + 4 * i) 0
/-- A blocked party is written to its place in the snapshot. -/
def State.snapPut (s : State) (p : Blocked × Nat) : State :=
  (((s.setReg (0x61400 + 16 * p.2) p.1.head).setReg (0x61404 + 16 * p.2) p.1.addr).setReg (0x61408 + 16 * p.2) p.1.target).setReg
    (0x6140C + 16 * p.2) p.1.count
/-- The snapshot of the blocked parties bs. -/
def State.snapDeadlock (bs : List Blocked) (s : State) : State := bs.zipIdx.foldl State.snapPut ((List.range 128).foldl State.snapClear s)

/-- Place k of the snapshot describes the blocked party b. -/
structure SnapEntry (k : Nat) (b : Blocked) (s : State) : Prop where
  head : s.reg (0x61400 + 16 * k) = b.head
  addr : s.reg (0x61404 + 16 * k) = b.addr
  target : s.reg (0x61408 + 16 * k) = b.target
  count : s.reg (0x6140C + 16 * k) = b.count

theorem SnapEntry.congr {k : Nat} {b : Blocked} {s t : State} (h : SnapEntry k b s)
    (hreg : ∀ o, 0x61400 + 16 * k ≤ o → o < 0x61400 + 16 * (k + 1) → t.reg o = s.reg o) : SnapEntry k b t where
  head := (hreg _ (by omega) (by omega)).trans h.head
  addr := (hreg _ (by omega) (by omega)).trans h.addr
  target := (hreg _ (by omega) (by omega)).trans h.target
  count := (hreg _ (by omega) (by omega)).trans h.count

theorem State.snapPut_entry (s : State) (b : Blocked) (k : Nat) : SnapEntry k b (s.snapPut (b, k)) := by
  constructor <;> simp [State.snapPut]
theorem State.snapPut_outside (s : State) (b : Blocked) (k : Nat) {o : Nat} (ho : o < 0x61400 + 16 * k ∨ 0x61400 + 16 * (k + 1) ≤ o) :
    (s.snapPut (b, k)).reg o = s.reg o := by
  simp only [State.snapPut, State.setReg_reg]
  rw [if_neg (by omega), if_neg (by omega), if_neg (by omega), if_neg (by omega)]

theorem foldl_snapPut_outside (bs : List Blocked) (k : Nat) (s : State) {o : Nat} (ho : o < 0x61400 + 16 * k ∨ 0x61400 + 16 * (k + bs.length) ≤ o) :
    ((bs.zipIdx k).foldl State.snapPut s).reg o = s.reg o := by
  induction bs generalizing k s with
  | nil => rfl
  | cons b bs ih =>
    rw [List.length_cons] at ho
    rw [List.zipIdx_cons, List.foldl_cons, ih (k + 1) _ (by omega), State.snapPut_outside _ _ _ (by omega)]
theorem foldl_snapPut_entry {bs : List Blocked} {i : Nat} {b : Blocked} (h : bs[i]? = some b) (k : Nat) (s : State) :
    SnapEntry (k + i) b ((bs.zipIdx k).foldl State.snapPut s) := by
  induction bs generalizing i k s with
  | nil => cases h
  | cons b' bs ih =>
    rw [List.zipIdx_cons, List.foldl_cons]
    cases i with
    | zero =>
      obtain rfl : b' = b := by simpa using h
      exact (s.snapPut_entry b' k).congr fun o _ hhi => foldl_snapPut_outside bs (k + 1) _ (by omega)
    | succ i =>
      rw [show k + (i + 1) = k + 1 + i by omega]
      exact ih (by simpa using h) (k + 1) _
theorem foldl_snapClear_outside {l : List Nat} (h : ∀ i ∈ l, i < 128) (s : State) {o : Nat} (ho : o < 0x61400 ∨ 0x61600 ≤ o) :
    (l.foldl State.snapClear s).reg o = s.reg o := by
  induction l generalizing s with
  | nil => rfl
  | cons i l ih =>
    have := h i List.mem_cons_self
    rw [List.foldl_cons, ih (fun j hj => h j (List.mem_cons_of_mem _ hj)), State.snapClear, State.setReg_reg, if_neg (by omega)]

/-- A fold of operations that change only registers changes only registers. -/
theorem foldl_regs {α : Type} {f : State → α → State} (hf : ∀ s x, ∃ g, f s x = { s with regs := g }) (l : List α) (s : State) :
    ∃ g, l.foldl f s = { s with regs := g } := by
  induction l generalizing s with
  | nil => exact ⟨s.regs, rfl⟩
  | cons x l ih =>
    obtain ⟨g, h⟩ := hf s x
    obtain ⟨g', h'⟩ := ih (f s x)
    exact ⟨g', by rw [List.foldl_cons, h', h]⟩
theorem State.setReg_frame (off : Nat) (v : Word) (s : State) : ∃ g, s.setReg off v = { s with regs := g } := ⟨_, rfl⟩
theorem State.snapPut_frame (s : State) (p : Blocked × Nat) : ∃ g, s.snapPut p = { s with regs := g } := by
  obtain ⟨g, h⟩ := s.setReg_frame (0x61400 + 16 * p.2) p.1.head
  rw [State.snapPut, h]
  exact ⟨_, rfl⟩
theorem State.snapDeadlock_frame (bs : List Blocked) (s : State) : ∃ g, s.snapDeadlock bs = { s with regs := g } := by
  obtain ⟨g, h⟩ := foldl_regs (f := State.snapClear) (fun s i => s.setReg_frame _ _) (List.range 128) s
  rw [State.snapDeadlock, h]
  exact foldl_regs State.snapPut_frame bs.zipIdx { s with regs := g }
theorem State.snapDeadlock_outside {bs : List Blocked} (hlen : bs.length ≤ 32) (s : State) {o : Nat} (ho : o < 0x61400 ∨ 0x61600 ≤ o) :
    (s.snapDeadlock bs).reg o = s.reg o := by
  rw [State.snapDeadlock, foldl_snapPut_outside bs 0 _ (by omega), foldl_snapClear_outside (fun i hi => List.mem_range.mp hi) s ho]
theorem State.snapDeadlock_entry {bs : List Blocked} {k : Nat} {b : Blocked} (h : bs[k]? = some b) (s : State) : SnapEntry k b (s.snapDeadlock bs) := by
  have hentry := foldl_snapPut_entry h 0 ((List.range 128).foldl State.snapClear s)
  rwa [Nat.zero_add] at hentry

/-! DEADLOCK, DL_REARM and PARTNER_TIMEOUT (R315 to R318) -/

theorem State.raise_event {e : Err} (h : isEventCode e.code = true) (s : State) : (s.raise e).regBit 0x04000 1 = true := by
  rw [State.regBit, State.raise_reg, if_pos rfl, if_pos h, BitVec.getLsbD_or]
  exact (Bool.or_eq_true _ _).mpr (.inr (by decide))

section
variable {s : State} (h : s.Clocked)
include h

theorem exec_deadlock_none (hn : s.deadlocked = false ∨ s.reg 0x60008 = 0 ∨ s.regBit 0x60010 8 = true) : exec .deadlock s = .next s := by
  change execDeadlock s = _
  rw [execDeadlock, h.runFast]
  refine congrArg _ (if_pos ?_)
  obtain hn | hn | hn := hn <;> simp only [hn, Bool.not_false, decide_true, Bool.or_true, Bool.true_or]
theorem exec_deadlock_taken (hd : s.deadlocked = true) (hw : s.reg 0x60008 ≠ 0) (harmed : s.regBit 0x60010 8 = false) : exec .deadlock s =
    .next (((((s.snapDeadlock (s.blocked.take 32)).setCtr 0x61600 (s.snapDeadlock (s.blocked.take 32)).aclk).setReg 0x60010
      (w32 (0x100 + (s.blocked.take 32).length))).raise { code := 0x2002, unit := 10, d0 := w32 (s.blocked.take 32).length }).count 0x60340 1) := by
  change execDeadlock s = _
  rw [execDeadlock, h.runFast]
  refine congrArg _ (if_neg ?_)
  simp only [hd, hw, harmed, decide_false, Bool.not_true, Bool.or_self, Bool.false_eq_true, not_false_eq_true]
theorem exec_dlRearm : exec .dlRearm s = .next (s.clrReg 0x60010 0x100) := runSlow_served _ h.served

section
variable {party : Nat}

theorem exec_partnerTimeout_none (hn : s.partnerWait party = none ∨ s.regFld 0x60000 0 6 = 0 ∨ party ∈ s.sync.timedOut) :
    exec (.partnerTimeout party) s = .next s := by
  change execPartnerTimeout party s = _
  rw [execPartnerTimeout, h.runFast]
  refine congrArg _ ?_
  split
  · rfl
  next hc =>
    simp only [Bool.or_eq_true, decide_eq_true_eq, List.contains_iff_mem] at hc
    rw [hn.resolve_right hc]
theorem exec_partnerTimeout_logs {a v : Word} {tag : Half} (hp : s.partnerWait party = some (a, v, tag)) (hn : s.regFld 0x60000 0 6 ≠ 0)
    (ht : party ∉ s.sync.timedOut) : exec (.partnerTimeout party) s =
      .next ((State.raise { code := 0x2003, unit := 10, tag := tag, index := party, d0 := a, d1 := v, d2 := s.word a.toNat }
        { s with sync := { s.sync with timedOut := party :: s.sync.timedOut } }).count 0x60348 1) := by
  change execPartnerTimeout party s = _
  rw [execPartnerTimeout, h.runFast]
  refine congrArg _ ((if_neg ?_).trans ?_)
  · simpa only [Bool.or_eq_true, decide_eq_true_eq, List.contains_iff_mem, not_or] using ⟨hn, ht⟩
  · rw [hp]
    rfl
end
end

/-! What each command leaves -/

section
variable {q op sig : Nat} {c : EngCmd} {a v : Opd} {s : State} (hq : s.queueQuiet q = true) (ha : opdBad a = false) (hv : opdBad v = false)
include hq ha hv

/-- A signal of a good local word writes its COUNT, logs its error, sets the HOSTSIG bit it names, and issues. -/
theorem signalHead_local_ok {sem : Bool} {n : Word} (h1 : s.wordChk (oVal a) = none) (h2 : s.readWord (oVal a) op = .ok sem n) :
    ∃ t, signalHead q op c .loc a v sig s = t ∧ t.word (oVal a) = (newCount op sem n (oWord v)).1 ∧ SameMemOutside (oVal a) 8 s t ∧
      t.cc.queues = (s.issued q c).cc.queues ∧ (sig < 32 → t.regBit 0x60020 sig = true) ∧
      SameRegsBut (if sig < 32 then [0x60020, 0x04000] else [0x04000]) s t ∧
      t.logs.raised = s.logs.raised + (if (newCount op sem n (oWord v)).2 = none then 0 else 1) := by
  obtain ⟨hnone, hword, hout⟩ := State.syncApply_ok op (oVal a) (oWord v) 0 (c.reader 11 q) s sem n h1 h2
  obtain ⟨w, hacc, hw⟩ := State.syncApply_accessed op (oVal a) (oWord v) 0 (c.reader 11 q) s h1 h2
  have hraised := State.syncApply_raised (v := oWord v) (src := 0) (r := c.reader 11 q) h1 h2
  refine ⟨_, signalHead_local hq ha hv (u := (s.syncApply op (oVal a) (oWord v) 0 (c.reader 11 q)).2) (Prod.ext hnone rfl), ?_⟩
  generalize (s.syncApply op (oVal a) (oWord v) 0 (c.reader 11 q)).2 = u at *
  have hregs : SameRegsBut [0x04000] s u := fun o ho => by rw [hw, State.count_reg, hacc.regs o ho]
  have hqueues : u.cc.queues = s.cc.queues := by rw [hw, State.count_cc, hacc.queues]
  obtain ⟨hbit, hsig⟩ := (u.issued q c).signalHost_regs sig
  obtain ⟨g, hframe⟩ := (u.issued q c).signalHost_frame sig
  generalize (u.issued q c).signalHost sig = t at *
  have hbyte : ∀ x, t.byte x = u.byte x := State.byte_congr (by rw [hframe]; exact State.issued_mem q c u)
  refine ⟨(State.word_of_byte _ _ _ hbyte).trans hword, fun x hx => (hbyte x).trans (hout x hx), ?_, hbit, fun o ho => ?_, ?_⟩
  · rw [hframe]
    exact State.issued_congr hqueues q c
  · have hmem : o ∉ (if sig < 32 then [0x60020] else []) ∧ o ∉ [0x04000] := by
      split at ho <;> simp_all
    rw [hsig o hmem.1, State.issued_reg, hregs o hmem.2]
  · rw [hframe]
    exact (congrArg Logs.raised (State.issued_logs q c u)).trans hraised
/-- A signal of a peer or fabric word sends its SYNC, and its head waits for the answer. -/
theorem signalHead_sends {f : Form} (hf : f ≠ .loc) (hw : (s.queue q).wait = .none) {ep route addr g i : Nat}
    (hto : s.syncTo (f == .fabric) a.imm = .to ep route addr g) (hi : s.freeStream = some i) (hg : s.windowTakes g 1 = true) :
    ∃ t, signalHead q op c f a v sig s = t ∧ (t.queue q).wait = .sent i ∧ t.headCmd q = s.headCmd q ∧
      t.stream i = .sync ⟨0, q, sig, some c, g, false, 0⟩ ∧ t.dma.outstanding = s.dma.outstanding + 1 ∧ t.mem = s.mem ∧
      t.regs = s.regs ∧ t.logs = s.logs := by
  obtain ⟨p, k, n, hframe⟩ := s.sendSync_frame i ⟨0, q, sig, some c, g, false, 0⟩ op (oWord v) ep route addr
  refine ⟨_, signalHead_remote_sent hq ha hv hf hw (State.trySync_sends hto hi hg), ?_⟩
  rw [hframe]
  exact ⟨by rw [State.setQueue_queue, if_pos rfl], State.setWait_headCmd q _ _,
    (State.setStream_stream i i (.sync ⟨0, q, sig, some c, g, false, 0⟩) s).trans (if_pos rfl), rfl, rfl, rfl, rfl⟩
end

/-- An error that is counted after it is raised, with room in the log, is its last entry. -/
theorem State.raise_count_errs (e : Err) (off : Nat) {s : State} (h : s.logs.errs.length < 512) :
    ∃ x, ((s.raise e).count off 1).logs.errs = s.logs.errs ++ [x] ∧
    x.code = e.code ∧ x.tag = e.tag ∧ x.index = e.index ∧ x.d0 = e.d0 ∧ x.d1 = e.d1 ∧ x.d2 = e.d2 := by
  rw [State.count_logs]
  exact ⟨_, State.raise_errs e s h, rfl, rfl, rfl, rfl, rfl, rfl⟩

/-- The snapshot of a deadlock stands, the error is logged, and no queue, word or wait has changed. -/
structure DeadlockTaken (s t : State) : Prop where
  status : t.reg 0x60010 = w32 (0x100 + (s.blocked.take 32).length)
  time : t.ctr 0x61600 = s.aclk
  entries : ∀ k b, (s.blocked.take 32)[k]? = some b → SnapEntry k b t
  logged : s.logs.errs.length < 512 → ∃ e, t.logs.errs = s.logs.errs ++ [e] ∧ e.code = 0x2002
  event : t.regBit 0x04000 1 = true
  regs : ∀ o, o ≠ 0x60010 → o ≠ 0x04000 → (o < 0x61400 ∨ 0x61600 ≤ o) → t.reg o = s.reg o
  mem : t.mem = s.mem
  cc : t.cc = s.cc
  sync : t.sync = s.sync

theorem deadlock_taken {s : State} (h : s.Clocked) (hd : s.deadlocked = true) (hw : s.reg 0x60008 ≠ 0) (harmed : s.regBit 0x60010 8 = false) :
    ∃ t, exec .deadlock s = .next t ∧ DeadlockTaken s t := by
  refine ⟨_, exec_deadlock_taken h hd hw harmed, ?_⟩
  have hlen : (s.blocked.take 32).length ≤ 32 := by
    rw [List.length_take]
    exact Nat.min_le_left _ _
  have hentry := fun k b (hk : (s.blocked.take 32)[k]? = some b) => State.snapDeadlock_entry hk s
  have hout := fun o (ho : o < 0x61400 ∨ 0x61600 ≤ o) => State.snapDeadlock_outside hlen s ho
  obtain ⟨g, hframe⟩ := s.snapDeadlock_frame (s.blocked.take 32)
  generalize s.snapDeadlock (s.blocked.take 32) = u at *
  generalize hm : (u.setCtr 0x61600 u.aclk).setReg 0x60010 (w32 (0x100 + (s.blocked.take 32).length)) = m
  generalize he : ({ code := 0x2002, unit := 10, d0 := w32 (s.blocked.take 32).length } : Err) = e
  have hmreg : ∀ o, m.reg o = if o = 0x60010 then w32 (0x100 + (s.blocked.take 32).length) else u.reg o := fun o => by
    rw [← hm, State.setReg_reg, State.setCtr_reg]
  have hmframe : ∃ g' k, m = { s with regs := g', ctrs := k } := ⟨_, _, by rw [← hm, hframe]; rfl⟩
  have hmtime : m.ctr 0x61600 = s.aclk := by
    rw [← hm, State.setReg_ctr, State.setCtr_ctr, if_pos rfl, hframe]
    rfl
  have hregs : ∀ o, o ≠ 0x04000 → ((m.raise e).count 0x60340 1).reg o = m.reg o := fun o ho => by rw [State.count_reg, State.raise_reg, if_neg ho]
  obtain ⟨g', k, hms⟩ := hmframe
  refine ⟨?_, ?_, fun k b hk => (hentry k b hk).congr fun o hlo hhi => ?_, fun hroom => ?_, ?_, fun o h1 h2 h3 => ?_, ?_, ?_, ?_⟩
  · rw [hregs _ (by decide), hmreg, if_pos rfl]
  · rw [State.count_ctr, if_neg (by simp), State.raise_ctr _ _ _ (by decide) (by decide), hmtime]
  · rw [hregs o (by omega), hmreg, if_neg (by omega)]
  · obtain ⟨x, hx, hcode, -⟩ := m.raise_count_errs e 0x60340 (by rw [hms]; exact hroom)
    exact ⟨x, by rw [hx, hms], by rw [hcode, ← he]⟩
  · rw [State.regBit, State.count_reg]
    exact State.raise_event (by rw [← he]; exact (by decide : isEventCode 0x2002 = true)) m
  · rw [hregs o h2, hmreg, if_neg h1, hout o h3]
  · rw [State.count_mem, State.raise_mem, hms]
  · rw [State.count_cc, State.raise_cc, hms]
  · rw [State.count_sync, State.raise_sync, hms]

/-- The timeout of a partner wait is logged and counted, and is recorded so that it is logged once (R318). -/
theorem partnerTimeout_logs {party : Nat} {a v : Word} {tag : Half} {s : State} (h : s.Clocked) (hp : s.partnerWait party = some (a, v, tag))
    (hn : s.regFld 0x60000 0 6 ≠ 0) (ht : party ∉ s.sync.timedOut) : ∃ t, exec (.partnerTimeout party) s = .next t ∧
      t.sync = { s.sync with timedOut := party :: s.sync.timedOut } ∧ t.ctr 0x60348 = (if s.frozen 0x60348 then s.ctr 0x60348 else s.ctr 0x60348 + 1) ∧
      (s.logs.errs.length < 512 → ∃ e, t.logs.errs = s.logs.errs ++ [e] ∧ e.code = 0x2003 ∧ e.tag = tag ∧ e.index = party ∧
        e.d0 = a ∧ e.d1 = v ∧ e.d2 = s.word a.toNat) ∧
      t.regBit 0x04000 1 = true ∧ SameRegsBut [0x04000] s t ∧ t.mem = s.mem ∧ t.cc = s.cc := by
  refine ⟨_, exec_partnerTimeout_logs h hp hn ht, ?_, ?_, fun hroom => State.raise_count_errs _ _ hroom, ?_, fun o ho => ?_, ?_, ?_⟩
  · rw [State.count_sync, State.raise_sync]
  · rw [State.count_one, (State.raise_accessed _ _).frozen (c := 0x60060) (by decide) (by decide), State.raise_ctr _ _ _ (by decide) (by decide)]
    rfl
  · rw [State.regBit, State.count_reg]
    exact State.raise_event (by decide : isEventCode 0x2003 = true) _
  · rw [State.count_reg, State.raise_reg, if_neg (by simpa using ho)]
    rfl
  · rw [State.count_mem, State.raise_mem]
  · rw [State.count_cc, State.raise_cc]

/-! The arrivals of a queue (R311) -/

section
variable {q : Nat} {c : EngCmd} {b : BitVec 4} {s : State} (h : s.AtHead q c) (hop : c.op = .arrive b) (hq : s.queueQuiet q = true)
  (hw : (s.queue q).wait = .none)
include h hop hq hw

section
variable {g cfg n : Word} {m : Nat} (hg : s.reg (0x60114 + 0x20 * b.toNat) = g) (hcfg : s.reg (0x60100 + 0x20 * b.toNat) = cfg)
  (hm : (mk64 (s.reg (0x60108 + 0x20 * b.toNat)) (s.reg (0x60104 + 0x20 * b.toNat))).toNat = m) (hb : s.barChk b.toNat = none) (hf : fld cfg 28 3 = 0)
  (h1 : s.wordChk m = none) (h2 : s.readWord m 3 = .ok false n)
include hg hcfg hm hb hf h1 h2

/-- An arrival at a good central word adds 1 to it, tests for the last arrival, and issues. -/
theorem exec_arrive_central : ∃ u, CentralArrived b.toNat m g n s u ∧ u.reg (0x60100 + 0x20 * b.toNat) = cfg ∧
    exec (.arrive q) s = .next ((u.lastTest b.toNat g n).issued q c) := by
  have harr := centralArrived (b := b.toNat) (g := g) (r := c.reader 11 q) (tag := (c.reader 11 q).tag) h1 h2
  refine ⟨_, harr, (harr.regs _ (by simp only [List.mem_singleton]; omega)).trans hcfg, ?_⟩
  have ha := State.arriveAt_central (q := q) (cmd := some c) hb (by rw [hcfg]; exact hf)
    (by rw [hm]; exact State.syncApply_takes (src := 0) (r := c.reader 11 q) h1 h2 rfl)
  rw [hm, hg, State.readWord_count h2] at ha
  exact exec_arrive_made h hop hq hw ha
theorem arrive_waits (hne : n + 1 ≠ (g + 1) * w32 (fld cfg 0 16 + 1)) :
    ∃ t, exec (.arrive q) s = .next t ∧ t.word m = n + 1 ∧ SameMemOutside m 8 s t ∧
    t.reg (0x60114 + 0x20 * b.toNat) = g + 1 ∧ SameRegsBut [0x60114 + 0x20 * b.toNat] s t ∧ t.cc.queues = (s.issued q c).cc.queues ∧
    t.ctr 0x60330 = (if s.frozen 0x60330 then s.ctr 0x60330 else s.ctr 0x60330 + 1) := by
  obtain ⟨u, harr, hu, ht⟩ := exec_arrive_central h hop hq hw hg hcfg hm hb hf h1 h2
  rw [State.lastTest_waits (by rw [hu]; exact hne)] at ht
  have hbyte : ∀ x, (u.issued q c).byte x = u.byte x := State.byte_congr (State.issued_mem q c u)
  exact ⟨_, ht, (State.word_of_byte _ _ _ hbyte).trans harr.word, fun x hx => (hbyte x).trans (harr.outside x hx), (State.issued_reg _ _ _ _).trans harr.gen,
    fun o ho => (State.issued_reg _ _ _ _).trans (harr.regs o ho), State.issued_congr harr.queues q c,
    ((State.issued_done q c u).2 _ (by decide)).trans harr.arrivals⟩
theorem arrive_releases {rel : Nat} {k : Word} (hrel : s.releaseAddr b.toNat = rel) (heq : n + 1 = (g + 1) * w32 (fld cfg 0 16 + 1))
    (h3 : s.wordChk rel = none) (h4 : s.readWord rel 6 = .ok false k) (hd : rel + 8 ≤ m ∨ m + 8 ≤ rel) :
    ∃ t, exec (.arrive q) s = .next t ∧ t.word m = n + 1 ∧ t.word rel = (if 0 < signed32 (g + 1 - k) then g + 1 else k) ∧
      (∀ x, (x < m ∨ m + 8 ≤ x) → (x < rel ∨ rel + 8 ≤ x) → t.byte x = s.byte x) ∧ t.reg (0x60114 + 0x20 * b.toNat) = g + 1 ∧
      t.cc.queues = (s.issued q c).cc.queues ∧ t.ctr 0x60338 = (if s.frozen 0x60338 then s.ctr 0x60338 else s.ctr 0x60338 + 1) := by
  obtain ⟨u, harr, hu, ht⟩ := exec_arrive_central h hop hq hw hg hcfg hm hb hf h1 h2
  rw [State.lastTest_releases (by rw [hu]; exact heq)] at ht
  subst hrel
  have hlast := harr.released h3 h4 hd
  generalize ((u.count 0x60338 1).sendReleases b.toNat g).release b.toNat g = v at *
  have hbyte : ∀ x, (v.issued q c).byte x = v.byte x := State.byte_congr (State.issued_mem q c v)
  exact ⟨_, ht, (State.word_of_byte _ _ _ hbyte).trans hlast.word, (State.word_of_byte _ _ _ hbyte).trans hlast.release,
    fun x hm hx => (hbyte x).trans (hlast.outside x hm hx), (State.issued_reg _ _ _ _).trans hlast.gen, State.issued_congr hlast.queues q c,
    ((State.issued_done q c v).2 _ (by decide)).trans hlast.releases⟩
end

/-- An arrival on the barrier lines raises the request, or waits its turn behind one raised or acknowledged, and issues. -/
theorem arrive_line {g : Word} (hg : s.reg (0x60114 + 0x20 * b.toNat) = g) (hb : s.barChk b.toNat = none)
    (hf : fld (s.reg (0x60100 + 0x20 * b.toNat)) 28 3 = 3) : ∃ t, exec (.arrive q) s = .next t ∧
      (s.sync.lineReq = false → s.sync.lineAck = false → t.sync.lineReq = true ∧ t.sync.lineGen = g ∧ t.sync.lineNext = s.sync.lineNext) ∧
      (s.sync.lineReq = true ∨ s.sync.lineAck = true → t.sync.lineReq = s.sync.lineReq ∧ t.sync.lineGen = s.sync.lineGen ∧
        t.sync.lineNext = s.sync.lineNext ++ [g]) ∧ t.mem = s.mem ∧
      t.reg (0x60114 + 0x20 * b.toNat) = g + 1 ∧ SameRegsBut [0x60114 + 0x20 * b.toNat] s t ∧ t.cc.queues = (s.issued q c).cc.queues := by
  have ha := State.arriveAt_line (q := q) (cmd := some c) (r := c.reader 11 q) hb hf
  rw [hg] at ha
  refine ⟨_, exec_arrive_made h hop hq hw ha, ?_⟩
  have hreg := fun o => s.noteArrival_reg b.toNat g (c.reader 11 q).tag o
  obtain ⟨l, k, hnote⟩ := s.noteArrival_eq b.toNat g (c.reader 11 q).tag
  have hsync : (s.noteArrival b.toNat g (c.reader 11 q).tag).sync = { s.sync with arrived := Tab.set none s.sync.arrived b.toNat (some g) } := by rw [hnote]
  have hmem : (s.noteArrival b.toNat g (c.reader 11 q).tag).mem = s.mem := by rw [hnote]
  have hcc : (s.noteArrival b.toNat g (c.reader 11 q).tag).cc = s.cc := by rw [hnote]
  generalize s.noteArrival b.toNat g (c.reader 11 q).tag = u at *
  obtain ⟨y, hline⟩ := u.lineArrive_eq g
  rw [State.issued_sync, State.issued_mem]
  refine ⟨fun hreq hack => ?_, fun hbusy => ?_, by rw [hline]; exact hmem, ?_, fun o ho => ?_, State.issued_congr (by rw [hline, hcc]) q c⟩
  · rw [State.lineArrive_raises g u (by rw [hsync]; exact hreq) (by rw [hsync]; exact hack), hsync]
    exact ⟨rfl, rfl, rfl⟩
  · rw [State.lineArrive_waits g u (by rw [hsync]; exact hbusy), hsync]
    exact ⟨rfl, rfl, rfl⟩
  · rw [State.issued_reg, hline]
    exact (hreg _).trans (if_pos rfl)
  · rw [State.issued_reg, hline]
    exact (hreg o).trans (if_neg (by simpa using ho))
end

theorem word_clear8_bit (v : Word) {j : Nat} (hj : j ≠ 8) : (v &&& ~~~0x100).getLsbD j = v.getLsbD j := by
  have hbit : (0x100 : Word) = BitVec.twoPow 32 8 := by decide
  have hlow : v.getLsbD j = true → j < 32 := BitVec.lt_of_getLsbD
  rw [BitVec.getLsbD_and, BitVec.getLsbD_not, hbit, BitVec.getLsbD_twoPow]
  simpa [Ne.symm hj] using hlow

/-- Settles O55: signals and arrivals at their heads, the barrier lines, and the deadlock and partner timeouts of the sync unit. -/
theorem signalsBarriersAndTimeoutsAct : Obligations.SignalsBarriersAndTimeoutsAct := by
  unfold Obligations.SignalsBarriersAndTimeoutsAct
  refine ⟨fun q op sig c cmd f a v s h hcmd hq ha hv => ⟨?localWord,
      fun hf hw => ⟨fun r hr => ?unsendable, fun ep route addr g i hto hi hg => ?sends⟩⟩,
    fun q c b s h hop hq hw => ⟨fun r hr => ?unset, fun n hb hf h1 h2 => ⟨arrive_waits h hop hq hw rfl rfl rfl hb hf h1 h2, fun k heq h3 h4 hd => ?last⟩,
      fun hb hf => arrive_line h hop hq hw rfl hb hf⟩,
    fun l s h => ⟨exec_barArriveAck_withdraws h, fun g rest hl hn => ?acknowledged⟩, fun g s h => ⟨fun hf => ?fenced, fun k hf h1 h2 => ?released⟩,
    fun s h => ⟨exec_deadlock_none h, fun hd hw harmed => ?deadlock⟩, fun s h => ?rearm,
    fun party s h => ⟨exec_partnerTimeout_none h, fun a v tag hp hn ht => partnerTimeout_logs h hp hn ht⟩⟩
  case localWord =>
    rintro rfl h1
    rw [exec_signalOrDec h hcmd]
    refine ⟨fun sem n h2 => ?_, fun k hk => ?_⟩
    · obtain ⟨t, ht, hrest⟩ := signalHead_local_ok (sig := sig) hq ha hv h1 h2
      exact ⟨t, congrArg _ ht, hrest⟩
    · rw [signalHead_local_bad hq ha hv (State.syncApply_invalid h1 hk)]
  case unsendable => rw [exec_signalOrDec h hcmd, signalHead_remote_bad hq ha hv hf hw (State.trySync_bad hr)]
  case sends =>
    obtain ⟨t, ht, hwait, hsame, hrest⟩ := signalHead_sends (op := op) (sig := sig) (c := c) (v := v) hq ha hv hf hw hto hi hg
    rw [exec_signalOrDec h hcmd]
    obtain ⟨-, hhead, -, -⟩ := h
    exact ⟨t, congrArg _ ht, hwait, hsame.trans hhead, hrest⟩
  case unset => exact exec_arrive_bad h hop hq hw (State.arriveAt_bad hr)
  case last => exact arrive_releases h hop hq hw rfl rfl rfl hb hf h1 h2 rfl heq h3 h4 hd
  case acknowledged =>
    subst hl
    exact exec_barArriveAck_next h hn
  case fenced => rw [exec_barRelTgl h, if_pos hf]
  case released => exact ⟨_, (exec_barRelTgl h g).trans (by rw [hf]; rfl), State.release_spec h1 h2⟩
  case deadlock =>
    obtain ⟨t, ht, hdl⟩ := deadlock_taken h hd hw harmed
    exact ⟨t, ht, hdl.status, hdl.time, fun k b hk => ⟨(hdl.entries k b hk).head, (hdl.entries k b hk).addr, (hdl.entries k b hk).target,
      (hdl.entries k b hk).count⟩, hdl.logged, hdl.event, hdl.regs, hdl.mem, hdl.cc, hdl.sync⟩
  case rearm =>
    refine ⟨_, exec_dlRearm h, rfl, ?_, fun j hj => ?_, fun o ho => by rw [State.clrReg_reg, if_neg (by simpa using ho)]⟩
    · rw [State.regBit, State.clrReg_reg, if_pos rfl, BitVec.getLsbD_and]
      exact (Bool.and_eq_false_iff).mpr (.inr (by decide))
    · rw [State.regBit, State.clrReg_reg, if_pos rfl, word_clear8_bit _ hj]
      rfl

end Sys2Proof.Machine
end
